-- ==== Sys2Proof/Word.lean ====
section
/-!
DEFINITION. The word types of the KLD-7100: what the manual treats as bits.
-/

namespace Sys2Proof

/-- A scalar register's contents, 64 bits (R85). -/
abbrev Word := BitVec 64

/-- One byte of memory, the smallest addressable unit (R2). -/
abbrev Byte := BitVec 8

/-- A register field of an instruction, naming s0 to s63 (R29). -/
abbrev Reg := BitVec 6

/-- A token's payload: 128 bytes, byte 0 in bits [7:0] (R60). -/
abbrev Payload := BitVec 1024

/-- A target field of a fabric word, 11 bits (R36). -/
abbrev Target := BitVec 11

end Sys2Proof
end

