-- ==== Sys2Proof/Config.lean ====
section
/-!
DEFINITION. What one module fixes and what the manual leaves without a value.
The constants without a body are free values: no proof can see what they are.
-/

namespace Sys2Proof.Config

/-- The bytes of a skein's sections, which the manual does not lay out and only SKIN reads (R334): free. -/
opaque skeinBody : Nat → List Byte

/-- Where in its partition's save area a set is streamed to (R314, R318), in units of 64 bytes from the area's base: free. -/
opaque savePlace : Nat → Nat

/-- The check value that SKOUT writes at offset 0x20 (R334): free. -/
opaque skeinCheck : Nat → BitVec 64

/-- A signed report's digests and signature (R354, R355): free bytes. -/
opaque signedBytes : Nat → List Byte

/-- The SHAKE256 digest of the steward firmware (R354), which the manual does not give: free. -/
opaque firmwareDigest : List Byte

/-- The SHAKE256 digest of a configuration record (R354), by the record's fields; the manual does not give the record's
bytes: free. -/
opaque recordDigest : List Nat → List Byte

/-- The partitions and owners that a SNAPSHOT asks for, which the manual does not lay out (R355), by the command's operand,
length, operands and payload: free. -/
opaque snapshotAsks : BitVec 64 → BitVec 32 → BitVec 96 → List Byte → List (Nat × BitVec 16)

/-- The Ethernet port by which the commands of an endpoint's flow come (R345), which the manual leaves open: free. -/
opaque hostPort : Nat → Nat → BitVec 4

/-- A result word whose value the manual does not state: free. -/
opaque freeWord : Nat → BitVec 64

/-- A payload whose value the manual does not state: free. -/
opaque freePayload : Nat → Payload

/-- The predicate bit of a token to which the manual gives none, by the place that makes it and the data it is made of,
each tag without its stitch (R82, R123): free. -/
opaque openPred : Nat → List (Nat × Payload) → Bool

/-- The last bit of an end of reduction that MX makes itself (R197), by the row it follows: free. -/
opaque openLast : Payload → Bool

/-- The bytes of a destination ring's row (R197), by the format code of the ring, the lanes of the sum and its mark:
free. -/
opaque rowBytes : Nat → BitVec 4096 → Option (BitVec 6) → Payload

/-- Which cause the error of a layout outside format 9 has (R224, R226): FMTBAD, or IDXBOUND; by the store flag and the
format: free. -/
opaque layoutFmtbad : Bool → BitVec 4 → Bool

/-- What a pool's metadata says after another than its controller has written there (R222), by the pool and the bytes: its
free stack, its watermark, the counts of its blocks and its tables. The manual does not lay metadata out: free. -/
opaque metaPool : Nat → List Byte → List Nat × Nat × List (Nat × Nat) × List (Nat × List Nat)

/-- What a controller writes into a pool's metadata as it performs a request, by the offsets in the metadata (R352): free. -/
opaque metaWrites : Nat → List (Nat × List Byte)

/-- What a WINMAP command says of a window beside its virtual address: which of the 16 windows, its size in GiB, its
base address in the peer module, and the endpoint entry of the peer (R350). -/
structure WinmapFields where
  number : BitVec 4
  gib    : Nat
  base   : Nat
  peer   : Nat
  deriving DecidableEq, Repr, Inhabited

/-- How a WINMAP command's length, operands and payload give a window, which the manual does not lay out (R347, R350):
free. -/
opaque winmapFields : BitVec 32 → BitVec 96 → List Byte → WinmapFields

/-- The tokens that one node input holds before it pushes back. The manual gives four for slot positions and
sequencer ports (R119, R129) and no number for node inputs; DESIGN CHOICE: the same four. -/
def nodeInputPlaces : Nat := 4

/-- The completion tokens that one memory node may owe before it takes no further token. The manual gives no number;
DESIGN CHOICE. -/
def nodeOwes : Nat := 64

/-- The places in a switch input port's buffer pool for one data channel, over all partitions (R311: "the port's pool"):
the manual gives no number, so it is free. -/
opaque portPool : Nat

end Sys2Proof.Config
end

