-- ==== Sys2Proof/Syntax.lean ====
section
/-!
DEFINITION. The instructions: one constructor per row of the table of operations and events.
Three kinds of row stand there: the 32-bit words a sequencer fetches (R28 to R34), the 32-bit
fabric operation words a slot record carries (R35 to R38), and the steps that have no encoding:
events of the hardware's own blocks, and the commands of a host.
-/

namespace Sys2Proof

/-- One host command: the header of R347 with its payload, and the transport address and the flow it came from (R346,
R348). `operands` holds the twelve bytes at offset 0x14, least significant byte first. -/
structure HostCmd where
  source   : Nat
  flow     : Nat
  part     : BitVec 8
  reserved : BitVec 16
  seq      : BitVec 32
  operand  : BitVec 64
  length   : BitVec 32
  operands : BitVec 96
  payload  : List Byte
  deriving DecidableEq, Repr

/-- The instructions and steps of the KLD-7100. The register fields d, a, b and t name s0 to s63; i is an
immediate, n a 6-bit count, o a branch offset in words, q the bits of the q field that the row leaves free.
In a fabric word m is the mod field, x target A and y target B. -/
inductive Instr where
  /-- Writes the 64-bit wrapping sum of registers a and b to d. (R95) -/
  | add (d : Reg) (a : Reg) (b : Reg)
  /-- Writes the 64-bit wrapping difference a minus b to d. (R95) -/
  | sub (d : Reg) (a : Reg) (b : Reg)
  /-- Writes the low 64 bits of the product of a and b to d. (R95) -/
  | mul (d : Reg) (a : Reg) (b : Reg)
  /-- Writes the high 64 bits of the signed 128-bit product to d. (R95) -/
  | mulh (d : Reg) (a : Reg) (b : Reg)
  /-- Writes the high 64 bits of the unsigned 128-bit product to d. (R95) -/
  | mulhu (d : Reg) (a : Reg) (b : Reg)
  /-- Writes the signed quotient truncated towards zero to d; division by zero gives all ones and sets DZ. (R96) -/
  | divs (d : Reg) (a : Reg) (b : Reg)
  /-- Writes the unsigned quotient to d; division by zero gives all ones and sets DZ. (R96) -/
  | divu (d : Reg) (a : Reg) (b : Reg)
  /-- Writes the signed remainder, with the sign of the dividend, to d; division by zero gives all ones and sets DZ. (R96) -/
  | rems (d : Reg) (a : Reg) (b : Reg)
  /-- Writes the unsigned remainder to d; division by zero gives all ones and sets DZ. (R96) -/
  | remu (d : Reg) (a : Reg) (b : Reg)
  /-- Writes the bitwise AND of a and b to d. (R95) -/
  | and (d : Reg) (a : Reg) (b : Reg)
  /-- Writes the bitwise OR of a and b to d. (R95) -/
  | or (d : Reg) (a : Reg) (b : Reg)
  /-- Writes the bitwise XOR of a and b to d. (R95) -/
  | xor (d : Reg) (a : Reg) (b : Reg)
  /-- Writes a AND NOT b to d. (R95) -/
  | andn (d : Reg) (a : Reg) (b : Reg)
  /-- Writes a shifted left by b mod 64 to d. (R95) -/
  | shl (d : Reg) (a : Reg) (b : Reg)
  /-- Writes a shifted right logically by b mod 64 to d. (R95) -/
  | shr (d : Reg) (a : Reg) (b : Reg)
  /-- Writes a shifted right arithmetically by b mod 64 to d. (R95) -/
  | sra (d : Reg) (a : Reg) (b : Reg)
  /-- Writes the signed minimum of a and b to d. (R95) -/
  | min (d : Reg) (a : Reg) (b : Reg)
  /-- Writes the signed maximum of a and b to d. (R95) -/
  | max (d : Reg) (a : Reg) (b : Reg)
  /-- Writes the unsigned minimum of a and b to d. (R95) -/
  | minu (d : Reg) (a : Reg) (b : Reg)
  /-- Writes the unsigned maximum of a and b to d. (R95) -/
  | maxu (d : Reg) (a : Reg) (b : Reg)
  /-- Writes 1 to d when a equals b, else 0. (R95) -/
  | cmpeq (d : Reg) (a : Reg) (b : Reg)
  /-- Writes 1 to d when a differs from b, else 0. (R95) -/
  | cmpne (d : Reg) (a : Reg) (b : Reg)
  /-- Writes 1 to d when a is signed-less than b. (R95) -/
  | cmplt (d : Reg) (a : Reg) (b : Reg)
  /-- Writes 1 to d when a is unsigned-less than b. (R95) -/
  | cmpltu (d : Reg) (a : Reg) (b : Reg)
  /-- Writes 1 to d when a is signed less than or equal to b. (R95) -/
  | cmple (d : Reg) (a : Reg) (b : Reg)
  /-- Writes 1 to d when a is unsigned less than or equal to b. (R95) -/
  | cmpleu (d : Reg) (a : Reg) (b : Reg)
  /-- Writes to d the number of leading zero bits of a, 64 for zero. (R95) -/
  | clz (d : Reg) (a : Reg)
  /-- Writes to d the number of set bits of a. (R95) -/
  | popc (d : Reg) (a : Reg)
  /-- Writes a plus the sign-extended immediate to d. (R97) -/
  | addi (d : Reg) (a : Reg) (i : BitVec 14)
  /-- Writes a AND the sign-extended immediate to d. (R97) -/
  | andi (d : Reg) (a : Reg) (i : BitVec 14)
  /-- Writes a OR the sign-extended immediate to d. (R97) -/
  | ori (d : Reg) (a : Reg) (i : BitVec 14)
  /-- Writes a XOR the sign-extended immediate to d. (R97) -/
  | xori (d : Reg) (a : Reg) (i : BitVec 14)
  /-- Writes a shifted left by the immediate count to d. (R97) -/
  | shli (d : Reg) (a : Reg) (n : BitVec 6)
  /-- Writes a shifted right logically by the immediate count to d. (R97) -/
  | shri (d : Reg) (a : Reg) (n : BitVec 6)
  /-- Writes a shifted right arithmetically by the immediate count to d. (R97) -/
  | srai (d : Reg) (a : Reg) (n : BitVec 6)
  /-- Writes 1 to d when a is signed-less than the immediate. (R97) -/
  | cmplti (d : Reg) (a : Reg) (i : BitVec 14)
  /-- Writes 1 to d when a equals the sign-extended immediate. (R97) -/
  | cmpeqi (d : Reg) (a : Reg) (i : BitVec 14)
  /-- Writes bits [n:0] of a, sign-extended from bit n, to d. (R98) -/
  | sext (d : Reg) (a : Reg) (n : BitVec 6)
  /-- Writes bits [n:0] of a, zero-extended, to d. (R98) -/
  | zext (d : Reg) (a : Reg) (n : BitVec 6)
  /-- Writes the sign-extended imm20 shifted left by 12 to d. (R99) -/
  | lui (d : Reg) (i : BitVec 20)
  /-- Writes pc plus the sign-extended imm20 shifted left by 12 to d. (R99) -/
  | addpc (d : Reg) (i : BitVec 20)
  /-- Replaces bits [63:44] of d with imm20. (R99) -/
  | lih (d : Reg) (i : BitVec 20)
  /-- Branches when a equals b. (R100) -/
  | beq (a : Reg) (b : Reg) (o : BitVec 11)
  /-- Branches when a differs from b. (R100) -/
  | bne (a : Reg) (b : Reg) (o : BitVec 11)
  /-- Branches when a is signed-less than b. (R100) -/
  | blt (a : Reg) (b : Reg) (o : BitVec 11)
  /-- Branches when a is signed greater than or equal to b. (R100) -/
  | bge (a : Reg) (b : Reg) (o : BitVec 11)
  /-- Branches when a is unsigned-less than b. (R100) -/
  | bltu (a : Reg) (b : Reg) (o : BitVec 11)
  /-- Branches when a is unsigned greater than or equal to b. (R100) -/
  | bgeu (a : Reg) (b : Reg) (o : BitVec 11)
  /-- Branches when the pending bit of register a is clear, without waiting. (R100) -/
  | btr (a : Reg) (o : BitVec 11)
  /-- Links pc+4 into d and jumps to pc plus four times imm20. (R101) -/
  | jal (d : Reg) (i : BitVec 20)
  /-- Jumps to a plus imm14 and links pc+4 into d, trapping ALIGN on a misaligned target. (R101) -/
  | jalr (d : Reg) (a : Reg) (i : BitVec 14)
  /-- Loads a sign-extended 32-bit word into d after the address checks of R103. (R102) -/
  | ldw (d : Reg) (a : Reg) (i : BitVec 14)
  /-- Loads a 64-bit word into d after the address checks of R103. (R102) -/
  | ldd (d : Reg) (a : Reg) (i : BitVec 14)
  /-- Stores bits [31:0] of d after the address checks of R103. (R102) -/
  | stw (d : Reg) (a : Reg) (i : BitVec 14)
  /-- Stores the 64 bits of d after the address checks of R103. (R102) -/
  | std (d : Reg) (a : Reg) (i : BitVec 14)
  /-- Does nothing for one cycle. (R109) -/
  | nop
  /-- Waits for pending bits, engine queues and the detector's report, releases the configuration, stops the unit and decrements the launch counter. (R110) -/
  | halt
  /-- Takes a pending shadow swap before the next issue, otherwise does nothing. (R109) -/
  | yield
  /-- Raises cause 0x11 with the trap code in TRAPVAL. (R109) -/
  | trap (a : Reg)
  /-- Returns from the current level's trap, restoring trap enable and privilege level. (R326) -/
  | eret
  /-- Stalls until the pending bit of register a is clear, without reading its value. (R109) -/
  | tokwait (a : Reg)
  /-- Reads special register imm14 into d. (R94) -/
  | mfs (d : Reg) (i : BitVec 14)
  /-- Writes register a to special register imm14, subject to the write levels of R92 and the STATUS fields of R93. (R94) -/
  | mts (a : Reg) (i : BitVec 14)
  /-- Reads and checks a configuration image into the staged store, or rejects it with CFGBAD and sets the rejection mark. (R116) -/
  | cfgld (t : Reg) (a : Reg)
  /-- Moves the staged image into the running store after the detector's report, or fails with a status. (R116) -/
  | cfgsw (t : Reg)
  /-- Checks one node parameter block and replaces it in the staged store or applies it to the running store at the node's token boundary. (R118) -/
  | cfgparm (t : Reg) (a : Reg) (q : BitVec 1)
  /-- Releases the running configuration after the detector's report. (R116) -/
  | cfgrel (t : Reg)
  /-- Closes every input port and completes with the detector's report word. (R116) -/
  | drain (t : Reg)
  /-- Completes with the detector's report word of the running configuration. (R116) -/
  | qwait (t : Reg)
  /-- Enqueues a 128-byte payload with a tag and target in a sequencer input port. (R130) -/
  | sfeed (t : Reg) (a : Reg) (b : Reg) (q : BitVec 4)
  /-- Waits for a FULL tile tag, feeds the tile row by row into an input port and sets the tag EMPTY. (R130) -/
  | sfeedt (t : Reg) (a : Reg) (b : Reg) (q : BitVec 4)
  /-- Waits for a token at an output port and writes its payload to memory. (R130) -/
  | sdraw (t : Reg) (a : Reg) (q : BitVec 4)
  /-- Closes an input port after the tokens it holds. (R130) -/
  | sclose (t : Reg) (q : BitVec 4)
  /-- Returns the status word of a port or sink node. (R133) -/
  | sstat (t : Reg) (a : Reg)
  /-- Returns 64 tile-tag states and sets up to 64 tags FULL. (R130) -/
  | tagset (t : Reg) (a : Reg) (b : Reg)
  /-- Returns 64 tile-tag states and sets up to 64 tags EMPTY. (R130) -/
  | tagclr (t : Reg) (a : Reg) (b : Reg)
  /-- Puts one stream on a FREE stitch, loads its holders and makes it LIVE at the next round boundary. (R152) -/
  | caston (t : Reg) (a : Reg) (b : Reg)
  /-- Takes a stitch OFF at the next boundary, drains and discards its tokens, optionally saves its image and frees it. (R153) -/
  | bindoff (t : Reg) (a : Reg) (q : BitVec 1)
  /-- Stalls a LIVE stitch at the next round boundary. (R153) -/
  | slip (t : Reg) (a : Reg)
  /-- Returns a SLIP stitch to LIVE at the next round boundary. (R153) -/
  | unslip (t : Reg) (a : Reg)
  /-- Returns a DROP stitch to LIVE at the boundary of R158, from held state or from reset. (R158) -/
  | lift (t : Reg) (a : Reg) (q : BitVec 1)
  /-- Drains the round, writes a state image for every LIVE, SLIP or DROP stitch and frees them. (R156) -/
  | rsave (t : Reg)
  /-- Loads a configuration, possibly of another P, and casts saved streams onto it through a resume map. (R157) -/
  | rload (t : Reg) (a : Reg) (b : Reg)
  /-- Reads a stream-table word or a stitch status mask. (R154) -/
  | strd (t : Reg) (a : Reg) (q : BitVec 2)
  /-- Writes a stream-table word of a FREE, SLIP or DROP stitch. (R154) -/
  | stwr (t : Reg) (a : Reg) (b : Reg) (q : BitVec 2)
  /-- Queues a copy of len bytes from source to destination in an engine queue. (R185) -/
  | acopy (t : Reg) (a : Reg) (b : Reg) (q : BitVec 4)
  /-- Queues a tag-gated copy between a tile of a ring and strided memory. (R185) -/
  | acopy2 (t : Reg) (a : Reg) (b : Reg) (q : BitVec 4)
  /-- Queues a fill of a range with a 64-bit pattern. (R185) -/
  | afill (t : Reg) (a : Reg) (b : Reg) (q : BitVec 4)
  /-- Enters a fence into every engine queue named in the mask. (R186) -/
  | qfence (t : Reg) (a : Reg)
  /-- Queues a copy of memory into the same tile on every core of a subtree. (R185) -/
  | acopyb (t : Reg) (a : Reg) (b : Reg) (q : BitVec 4)
  /-- Discards cached translations of a page range on this core or the partition and repatches generators. (R189) -/
  | tinval (t : Reg) (a : Reg) (b : Reg) (q : BitVec 1)
  /-- Returns the translation of an address or the window tail of streaming nodes. (R189) -/
  | tlook (t : Reg) (a : Reg) (q : BitVec 1)
  /-- Resumes a stopped memory-node generator at its faulting access. (R189) -/
  | genres (t : Reg) (a : Reg) (q : BitVec 4)
  /-- Waits for a FULL weight tile and latches it with its scales into a weight plane. (R207) -/
  | mxw (t : Reg) (a : Reg) (b : Reg) (q : BitVec 3)
  /-- Clears the accumulator lanes and counts of the masked stitches at the right block boundary. (R208) -/
  | mxclr (t : Reg) (a : Reg) (q : BitVec 3)
  /-- Writes a stitch's accumulator lanes and counts to memory at the node's token boundary. (R208) -/
  | accrd (t : Reg) (a : Reg) (b : Reg) (q : BitVec 3)
  /-- Replaces the gate-pipeline program at its next token boundary. (R208) -/
  | gpld (t : Reg) (a : Reg)
  /-- Takes a loose block from a pool. (R219) -/
  | balloc (t : Reg) (a : Reg)
  /-- Decrements a block's reference count and releases it at zero. (R219) -/
  | bfree (t : Reg) (a : Reg) (b : Reg)
  /-- Appends a newly taken block to a table, or to a new table. (R219) -/
  | btapp (t : Reg) (a : Reg) (q : BitVec 1)
  /-- Shortens a block table and releases the dropped entries. (R219) -/
  | bttrim (t : Reg) (a : Reg) (b : Reg)
  /-- Translates a byte offset through a block table to a virtual address. (R219) -/
  | btlook (t : Reg) (a : Reg) (b : Reg)
  /-- Makes a new table sharing a prefix of an existing one. (R219) -/
  | btfork (t : Reg) (a : Reg) (b : Reg)
  /-- Releases every entry of a table and frees its number and chunks. (R219) -/
  | btdrop (t : Reg) (a : Reg)
  /-- Reads one status word of a pool or table. (R220) -/
  | bpstat (t : Reg) (a : Reg) (q : BitVec 3)
  /-- Makes a pool on a controller from a parameter block. (R221) -/
  | bpmake (t : Reg) (a : Reg)
  /-- Ends the unit's phase, announces its write counts and completes at the group boundary. (R236) -/
  | phb (t : Reg)
  /-- Acts as PHB and holds later instructions until the boundary completes. (R236) -/
  | bar (t : Reg)
  /-- Waits until every earlier sequencer and engine write is applied at its home. (R236) -/
  | fence (t : Reg) (q : BitVec 3)
  /-- Fences and then writes a flag at its home bank as a release. (R237) -/
  | sigset (t : Reg) (a : Reg) (b : Reg) (q : BitVec 3)
  /-- Waits at the flag's home bank until a condition holds or a limit passes, as an acquire. (R238) -/
  | sigwait (t : Reg) (a : Reg) (b : Reg) (q : BitVec 3)
  /-- Atomically adds to a location at its home bank and returns the old value. (R242) -/
  | aadd (t : Reg) (a : Reg) (b : Reg) (q : BitVec 4)
  /-- Atomically ANDs a location and returns the old value. (R242) -/
  | aand (t : Reg) (a : Reg) (b : Reg) (q : BitVec 4)
  /-- Atomically ORs a location and returns the old value. (R242) -/
  | aor (t : Reg) (a : Reg) (b : Reg) (q : BitVec 4)
  /-- Atomically XORs a location and returns the old value. (R242) -/
  | axor (t : Reg) (a : Reg) (b : Reg) (q : BitVec 4)
  /-- Atomically takes the signed minimum and returns the old value. (R242) -/
  | amin (t : Reg) (a : Reg) (b : Reg) (q : BitVec 4)
  /-- Atomically takes the signed maximum and returns the old value. (R242) -/
  | amax (t : Reg) (a : Reg) (b : Reg) (q : BitVec 4)
  /-- Atomically takes the unsigned minimum and returns the old value. (R242) -/
  | aminu (t : Reg) (a : Reg) (b : Reg) (q : BitVec 4)
  /-- Atomically takes the unsigned maximum and returns the old value. (R242) -/
  | amaxu (t : Reg) (a : Reg) (b : Reg) (q : BitVec 4)
  /-- Atomically exchanges a location with a value. (R242) -/
  | axchg (t : Reg) (a : Reg) (b : Reg) (q : BitVec 4)
  /-- Atomically compares and swaps a location. (R242) -/
  | acas (t : Reg) (a : Reg) (b : Reg) (q : BitVec 4)
  /-- Atomically adds an FP32 value with RNE and returns the old value. (R242) -/
  | aaddf (t : Reg) (a : Reg) (b : Reg) (q : BitVec 3)
  /-- Reads a location at its home bank in bank order. (R242) -/
  | ald (t : Reg) (a : Reg) (q : BitVec 4)
  /-- Applies a wrapping add at the home bank without returning the old value. (R242) -/
  | radd (t : Reg) (a : Reg) (b : Reg) (q : BitVec 4)
  /-- Applies a signed minimum at the home bank. (R242) -/
  | rmin (t : Reg) (a : Reg) (b : Reg) (q : BitVec 4)
  /-- Applies a signed maximum at the home bank. (R242) -/
  | rmax (t : Reg) (a : Reg) (b : Reg) (q : BitVec 4)
  /-- Applies an FP32 add with RNE at the home bank. (R242) -/
  | raddf (t : Reg) (a : Reg) (b : Reg) (q : BitVec 3)
  /-- Sends one route-class packet and completes when the destination acknowledges it. (R278) -/
  | sendrc (t : Reg) (a : Reg) (b : Reg) (q : BitVec 4)
  /-- Sets bits of the unit's class mask and returns the old mask. (R279) -/
  | rcmask (t : Reg) (a : Reg)
  /-- Clears bits of the unit's class mask and returns the old mask. (R279) -/
  | rcumask (t : Reg) (a : Reg)
  /-- Takes the oldest packet of a class from the receive queue into memory. (R280) -/
  | rcrecv (t : Reg) (a : Reg) (q : BitVec 4)
  /-- Binds the outgoing yarn of a network port to a remote port. (R281) -/
  | ybind (t : Reg) (a : Reg) (q : BitVec 1)
  /-- Binds the composer to a descriptor and resets every state and last symbol. (R291) -/
  | smcfgBind (t : Reg) (a : Reg)
  /-- Writes a state into ST of every masked stitch. (R291) -/
  | smcfgWriteStates (t : Reg) (a : Reg) (b : Reg)
  /-- Returns ST and the LS valid bit of one stitch. (R291) -/
  | smcfgReadState (t : Reg) (a : Reg)
  /-- Composes the maps of a symbol list in a tree and optionally writes the map buffer and applies it to stitches. (R291) -/
  | smcomp (t : Reg) (a : Reg) (b : Reg) (q : BitVec 2)
  /-- Steps the states of stitches by their last symbols or by one given symbol. (R292) -/
  | smstep (t : Reg) (a : Reg) (b : Reg) (q : BitVec 1)
  /-- Streams the legal-symbol mask of a stitch's state as one token per 32-symbol chunk. (R293) -/
  | smmask (t : Reg) (a : Reg) (b : Reg) (q : BitVec 1)
  /-- Copies a launch record into a child queue or returns QUOTA. (R303) -/
  | launch (t : Reg) (a : Reg) (b : Reg)
  /-- Waits until a completion counter reaches zero and returns the halt summary. (R304) -/
  | lwait (t : Reg) (a : Reg) (q : BitVec 2)
  /-- Marks unbound records of a launch, graph or job refused and freezes or ends its running units. (R304) -/
  | cancel (t : Reg) (a : Reg) (q : BitVec 4)
  /-- Reads a completion counter or a usage counter. (R304) -/
  | cntrd (t : Reg) (a : Reg) (q : BitVec 3)
  /-- Creates a partition from a record, moving its resources from partition 0. (R312) -/
  | pcreate (t : Reg) (a : Reg)
  /-- Changes a partition's record fields, cores, route classes, flags, usage counters or trap bases, or releases it. (R312) -/
  | pgrant (t : Reg) (a : Reg) (b : Reg) (q : BitVec 3)
  /-- Offers a reservation to the admission test or withdraws one. (R315) -/
  | presv (t : Reg) (a : Reg) (q : BitVec 1)
  /-- Writes or clears an entry of the bind table. (R306) -/
  | qbind (t : Reg) (a : Reg) (b : Reg) (q : BitVec 1)
  /-- Lends free fixed cores of one partition to another in sliced mode. (R317) -/
  | plend (t : Reg) (a : Reg)
  /-- Ends a lend, suspending the borrower's units and returning the cores. (R318) -/
  | precall (t : Reg) (a : Reg)
  /-- Puts free cores of partition 0 into or out of sliced mode. (R313) -/
  | pslice (t : Reg) (a : Reg) (q : BitVec 1)
  /-- Freezes every core of a region or launch at its next round boundary. (R338) -/
  | freeze (t : Reg) (a : Reg) (q : BitVec 1)
  /-- Resumes frozen cores of a region or launch at their next round boundary. (R338) -/
  | thawResume (t : Reg) (a : Reg) (q : BitVec 1)
  /-- Releases the own fabric's breakpoint hold at its next round boundary. (R338) -/
  | thawReleaseHold (t : Reg)
  /-- Removes the skeined units of frozen cores without halting them and clears the cores. (R338) -/
  | thawVacate (t : Reg) (a : Reg) (q : BitVec 1)
  /-- Writes the skein of a frozen core to memory. (R339) -/
  | skout (t : Reg) (a : Reg) (b : Reg)
  /-- Checks a skein and loads it, through its core map, onto a free core, which is left frozen. (R339) -/
  | skin (t : Reg) (a : Reg) (b : Reg)
  /-- Sets or clears a breakpoint keyed by graph node. (R340) -/
  | brkn (t : Reg) (a : Reg) (b : Reg) (q : BitVec 2)
  /-- Starts tracing from a control block. (R341) -/
  | trcon (t : Reg) (a : Reg)
  /-- Stops tracing, writes staged records and returns the counts. (R341) -/
  | trcoff (t : Reg)
  /-- Follows wait chains on the running configuration and reports where they stop. (R342) -/
  | walk (t : Reg) (a : Reg)
  /-- Reads TIME, active time, the fabric error counter or a channel counter. (R343) -/
  | tsrd (t : Reg) (a : Reg) (q : BitVec 2)
  /-- Fabric word. Fires with lane-wise wrapping addition. (R136) -/
  | vadd (m : BitVec 2) (x : Target) (y : Target)
  /-- Fabric word. Fires with lane-wise wrapping subtraction. (R136) -/
  | vsub (m : BitVec 2) (x : Target) (y : Target)
  /-- Fabric word. Fires with the low bits of lane-wise products. (R136) -/
  | vmul (m : BitVec 2) (x : Target) (y : Target)
  /-- Fabric word. Fires with lane-wise l·r + p. (R136) -/
  | vmad (m : BitVec 2) (x : Target) (y : Target)
  /-- Fabric word. Fires with the lane-wise signed minimum. (R136) -/
  | vmin (m : BitVec 2) (x : Target) (y : Target)
  /-- Fabric word. Fires with the lane-wise signed maximum. (R136) -/
  | vmax (m : BitVec 2) (x : Target) (y : Target)
  /-- Fabric word. Fires with the lane-wise unsigned minimum. (R136) -/
  | vminu (m : BitVec 2) (x : Target) (y : Target)
  /-- Fabric word. Fires with the lane-wise unsigned maximum. (R136) -/
  | vmaxu (m : BitVec 2) (x : Target) (y : Target)
  /-- Fabric word. Fires with lane-wise AND. (R136) -/
  | vand (m : BitVec 2) (x : Target) (y : Target)
  /-- Fabric word. Fires with lane-wise OR. (R136) -/
  | vor (m : BitVec 2) (x : Target) (y : Target)
  /-- Fabric word. Fires with lane-wise XOR. (R136) -/
  | vxor (m : BitVec 2) (x : Target) (y : Target)
  /-- Fabric word. Fires with lane-wise left shifts. (R136) -/
  | vshl (m : BitVec 2) (x : Target) (y : Target)
  /-- Fabric word. Fires with lane-wise logical right shifts. (R136) -/
  | vshr (m : BitVec 2) (x : Target) (y : Target)
  /-- Fabric word. Fires with lane-wise arithmetic right shifts. (R136) -/
  | vsra (m : BitVec 2) (x : Target) (y : Target)
  /-- Fabric word. Fires with lane-wise absolute values. (R136) -/
  | vabs (m : BitVec 2) (x : Target) (y : Target)
  /-- Fabric word. Fires with lane-wise negation. (R136) -/
  | vneg (m : BitVec 2) (x : Target) (y : Target)
  /-- Fabric word. Fires adding the constant to every lane. (R136) -/
  | vaddk (m : BitVec 2) (x : Target) (y : Target)
  /-- Fabric word. Fires multiplying every lane by the constant. (R136) -/
  | vmulk (m : BitVec 2) (x : Target) (y : Target)
  /-- Fabric word. Fires adding or subtracting r by the sign in p. (R136) -/
  | vsgadd (m : BitVec 2) (x : Target) (y : Target)
  /-- Fabric word. Fires with lane-wise saturating addition. (R136) -/
  | vadds (m : BitVec 2) (x : Target) (y : Target)
  /-- Fabric word. Fires with lane-wise saturating subtraction. (R136) -/
  | vsubs (m : BitVec 2) (x : Target) (y : Target)
  /-- Fabric word. Fires with exact four-byte dot products per 32-bit lane. (R136) -/
  | vdot4 (x : Target) (y : Target)
  /-- Fabric word. Fires with floating-point addition. (R137) -/
  | fadd (m : BitVec 2) (x : Target) (y : Target)
  /-- Fabric word. Fires with floating-point subtraction. (R137) -/
  | fsub (m : BitVec 2) (x : Target) (y : Target)
  /-- Fabric word. Fires with floating-point multiplication. (R137) -/
  | fmul (m : BitVec 2) (x : Target) (y : Target)
  /-- Fabric word. Fires with fused l·r + p, rounded once. (R137) -/
  | fma (m : BitVec 2) (x : Target) (y : Target)
  /-- Fabric word. Fires with the floating maximum by R64. (R137) -/
  | fmax (m : BitVec 2) (x : Target) (y : Target)
  /-- Fabric word. Fires with the floating minimum by R64. (R137) -/
  | fmin (m : BitVec 2) (x : Target) (y : Target)
  /-- Fabric word. Fires with the correctly rounded reciprocal. (R78) -/
  | frcp (m : BitVec 2) (x : Target) (y : Target)
  /-- Fabric word. Fires with the correctly rounded reciprocal square root. (R78) -/
  | frsq (m : BitVec 2) (x : Target) (y : Target)
  /-- Fabric word. Fires with the correctly rounded power of two. (R78) -/
  | fexp2 (m : BitVec 2) (x : Target) (y : Target)
  /-- Fabric word. Fires with the correctly rounded base-2 logarithm. (R78) -/
  | flog2 (m : BitVec 2) (x : Target) (y : Target)
  /-- Fabric word. Fires adding the constant K. (R137) -/
  | faddk (m : BitVec 2) (x : Target) (y : Target)
  /-- Fabric word. Fires multiplying by the constant K. (R137) -/
  | fmulk (m : BitVec 2) (x : Target) (y : Target)
  /-- Fabric word. Fires with p + l·r, or pair dot products into FP32, rounded once. (R137) -/
  | fmac (m : BitVec 2) (x : Target) (y : Target)
  /-- Fabric word. Fires clearing the sign bit. (R137) -/
  | fabs (m : BitVec 2) (x : Target) (y : Target)
  /-- Fabric word. Fires flipping the sign bit. (R137) -/
  | fneg (m : BitVec 2) (x : Target) (y : Target)
  /-- Fabric word. Fires converting elements between formats by the constant. (R138) -/
  | cvt (x : Target) (y : Target)
  /-- Fabric word. Fires with a byte permutation of l by indices in r. (R138) -/
  | bperm (x : Target) (y : Target)
  /-- Fabric word. Fires decoding TERN5 bytes into lanes, marking TERNCODE on an illegal code. (R139) -/
  | b3dec (x : Target) (y : Target)
  /-- Fabric word. Fires sign-extending the low or high nibble of each byte. (R138) -/
  | nibx (m : BitVec 1) (x : Target) (y : Target)
  /-- Fabric word. Fires narrowing the lanes of l and r. (R138) -/
  | pack (x : Target) (y : Target)
  /-- Fabric word. Fires widening one part of the lanes of l. (R138) -/
  | unpk (x : Target) (y : Target)
  /-- Fabric word. Fires with a lane-wise compare and a predicate bit. (R140) -/
  | vcmp (x : Target) (y : Target)
  /-- Fabric word. Fires selecting l or r by token or by lane. (R140) -/
  | sel (x : Target) (y : Target)
  /-- Fabric word. Fires sending l to target A or B by the predicate. (R140) -/
  | steer (x : Target) (y : Target)
  /-- Fabric word. Fires passing l only when the predicate is 1. (R140) -/
  | gate (x : Target) (y : Target)
  /-- Fabric word. Fires passing the first-arrived token of either position. (R140) -/
  | merge (x : Target) (y : Target)
  /-- Fabric word. Fires setting FP32 lanes to minus infinity where the mask bit is 0. (R140) -/
  | masksel (x : Target) (y : Target)
  /-- Fabric word. Fires inverting the predicate bit. (R140) -/
  | pnot (x : Target) (y : Target)
  /-- Fabric word. Fires summing all lanes into lane 0. (R141) -/
  | lsum (x : Target) (y : Target)
  /-- Fabric word. Fires with the maximum lane in lane 0. (R141) -/
  | lmax (x : Target) (y : Target)
  /-- Fabric word. Fires with the index and value of the maximum lane. (R141) -/
  | largmax (x : Target) (y : Target)
  /-- Fabric word. Fires broadcasting one lane to all lanes. (R141) -/
  | lbcast (x : Target) (y : Target)
  /-- Fabric word. Fires rotating lanes within groups. (R141) -/
  | lrot (x : Target) (y : Target)
  /-- Fabric word. Fires with the inclusive prefix sum of the lanes. (R141) -/
  | lscan (x : Target) (y : Target)
  /-- Fabric word. Fires placing K in the lane named by lane 0. (R141) -/
  | onehot (x : Target) (y : Target)
  /-- Fabric word. Fires extracting one lane into lane 0. (R141) -/
  | lextr (x : Target) (y : Target)
  /-- Fabric word. Stores an arriving token as the stitch's held value, or passes non-data kinds. (R148) -/
  | sreg (x : Target) (y : Target)
  /-- Fabric word. Fires replacing lane 0 with the stitch's count and advancing it. (R142) -/
  | cnt (x : Target) (y : Target)
  /-- Fabric word. Fires passing l and counting data tokens towards an end-of-reduction token. (R142) -/
  | eor (x : Target) (y : Target)
  /-- Fabric word. Fires passing l once r of the same stitch is present. (R142) -/
  | ordj (x : Target) (y : Target)
  /-- Fabric word. Fires sending l to both targets. (R142) -/
  | dup (x : Target) (y : Target)
  /-- Fabric word. Fires emitting the constant in every lane with the tag of l. (R142) -/
  | const (x : Target) (y : Target)
  /-- Fabric word. Consumes a token, counting and logging errors and forwarding error and last tokens. (R366) -/
  | sink (x : Target) (y : Target)
  /-- Fabric word. Fires re-tagging l with another stitch. (R142) -/
  | stitch (x : Target) (y : Target)
  /-- Fabric word. Fires passing l after n cycles. (R142) -/
  | delay (x : Target) (y : Target)
  /-- Fabric word. Fires passing l, marking IDXBOUND when a lane is out of bounds. (R142) -/
  | idx (x : Target) (y : Target)
  /-- Step. At a slot cycle of a LIVE stitch, the SREG sends its due held value or token. (R148) -/
  | sregEmission (slot k : Nat)
  /-- Step. At a round boundary, pending stitch status changes such as CAST to LIVE, SLIP, UNSLIP and OFF take effect. (R147) -/
  | roundBoundary
  /-- Step. After the drain, the stitch's tokens are discarded, its image optionally written and it becomes FREE. (R153) -/
  | bindoffDrainEnd (k : Nat)
  /-- Step. After the drain, remaining tokens are discarded, images written and stitches freed. (R156) -/
  | rsaveDrainEnd
  /-- Step. An A token with its scale enters the array and forms exact block sums for its stitch. (R195) -/
  | mxBlockEntry (k : Nat)
  /-- Step. At the next block boundary after a latch, the planes change roles. (R196) -/
  | planeSwap
  /-- Step. In tile source mode, rows of a FULL tile enter the array as A tokens and the tag is set EMPTY. (R197) -/
  | tileSourceRow
  /-- Step. A block or addend is added into a stitch's accumulator lanes. (R199) -/
  | accumulatorAddition (n : Nat)
  /-- Step. A releasing token makes the node send G tokens of the stitch's sum or its error, then clears it. (R200) -/
  | accumulatorRelease (n : Nat)
  /-- Step. The even core combines its release with the partner's and releases the sum. (R202) -/
  | pairRelease (n k : Nat)
  /-- Step. The gate pipeline applies its stages to a stitch's token and emits the result, packing if set. (R204) -/
  | gpFiring (k : Nat)
  /-- Step. A memory node issues a request in sequence order and emits its data tokens. (R171) -/
  | memoryNodeRequest (n : Nat)
  /-- Step. A memory node emits a kind 11 completion token when a request has been performed. (R174) -/
  | memoryNodeCompletion (n : Nat)
  /-- Step. A PAGED node translates stitch and position through a block table and loads or stores rows. (R223) -/
  | pagedRequest (n : Nat)
  /-- Step. A generator's walk faults, the generator stops and a tenant-level trap is raised. (R179) -/
  | generatorFault (n : Nat)
  /-- Step. A network port in mode 1 sends a token as a route-class packet. (R272) -/
  | networkPortSend (p : Nat)
  /-- Step. A yarn token arrives in order at the remote port and goes to its arrival target. (R274) -/
  | yarnTokenArrival (i : Nat)
  /-- Step. A token at sm.0 records a last symbol or steps the stitch's state, optionally followed by its mask. (R287) -/
  | composerArrival
  /-- Step. The detector reports completion once no token is held and no request is outstanding. (R143) -/
  | completionReport
  /-- Step. After 256 cycles without token movement and no excusing wait, the detector reports deadlock and logs blocked slots. (R143) -/
  | deadlockReport
  /-- Step. An asynchronous instruction completes its token register with a status or error completion. (R88) -/
  | tokenCompletion (i : Nat)
  /-- Step. A queued engine operation starts once its predecessor and any fence or tag wait are satisfied. (R182) -/
  | engineOperationStart (q : Nat)
  /-- Step. A trap writes the target level's trap registers, raises the privilege and jumps to TRAPBASE. (R323) -/
  | trapEntry
  /-- Step. A core reaches its freeze point at a round boundary and is frozen once its requests return. (R332) -/
  | coreFreeze
  /-- Step. A write arrives at its home slice, is applied and counted against the announced phase counts. (R230) -/
  | writeArrival (i : Nat)
  /-- Step. When every unit has released phase k, the combiner signals every unit to complete its PHB or BAR. (R231) -/
  | phaseBoundary (lid : BitVec 32)
  /-- Step. An atomic or reduction is applied at its home bank in bank order. (R243) -/
  | homeBankAccess (i : Nat)
  /-- Step. A write applied to a waited flag retests the SIGWAIT condition. (R238) -/
  | sigwaitTest (i : Nat)
  /-- Step. The SIGWAIT limit passes and the wait completes with TIMEOUT. (R238) -/
  | sigwaitTimeout (i : Nat)
  /-- Step. A packet at a switch input is forwarded or trimmed to a bare header on VC7. (R263) -/
  | packetAtSwitch (i sw port : Nat)
  /-- Step. A packet arrives at its destination and is delivered or held in the reorder buffer. (R267) -/
  | packetDelivery (i : Nat)
  /-- Step. A trimmed header reaches the destination, which records the hole and schedules a re-ask. (R265) -/
  | trimNotice (i : Nat)
  /-- Step. When its wait passes, the destination re-asks the source for a trimmed packet. (R265) -/
  | reask (i : Nat)
  /-- Step. The source answers a re-ask by sending the packet again. (R265) -/
  | retransmission (i : Nat)
  /-- Step. After 16 packets or 128 cycles the destination acknowledges cumulatively on VC6. (R264) -/
  | acknowledgement (src dst : Nat)
  /-- Step. The source frees acknowledged retention entries and completes their sends. (R264) -/
  | ackReceived (i : Nat)
  /-- Step. The source frees a lost packet's entry and reports the loss by its kind. (R266) -/
  | lossNotice (i : Nat)
  /-- Step. A handler-0 packet enters the receive queue or is trimmed. (R270) -/
  | routeClassArrival (i : Nat)
  /-- Step. A handler-1 packet becomes a token at the destination's network port. (R271) -/
  | handler1Arrival (i : Nat)
  /-- Step. Each cycle dispatch orders ready candidates and admits one record onto a region. (R307) -/
  | dispatchAdmit
  /-- Step. When a launch's counter reaches zero, its writes are applied and done is incremented. (R299) -/
  | launchCompletion (lid : BitVec 32)
  /-- Step. A pending swap makes the other set active at a round boundary, streaming sets when needed. (R314) -/
  | shadowSwap
  /-- Step. At each period start a reservation's budget is refilled and the earliest deadline chosen. (R316) -/
  | reservationPeriodStart (r : Nat)
  /-- Step. A recalled unit resumes on the next free core of its partition ahead of bind records. (R318) -/
  | suspendedUnitResume (i : Nat)
  /-- Step. The power controller lowers a partition's tension rate and logs the change. (R320) -/
  | tensionRateChange (part rate : Nat)
  /-- Step. A read meets an uncorrectable error, reports ECCUE and poisons the line. (R329) -/
  | memoryError (pa : Nat)
  /-- Step. Log records are sent to the error sink within 10 µs of the first, or kept in the ring. (R349) -/
  | logMessage (part : Nat)
  /-- Step. Host command writing its payload at a virtual address of the partition. (R347) -/
  | write (c : HostCmd)
  /-- Step. Host command replying with up to 1 MiB read from the partition's space. (R347) -/
  | read (c : HostCmd)
  /-- Step. Host command making an endpoint entry the partition's error sink. (R347) -/
  | logep (c : HostCmd)
  /-- Step. Host command setting toff and tscale of the partition's time base. (R343) -/
  | timebase (c : HostCmd)
  /-- Step. Host command writing a remote window to a peer module. (R350) -/
  | winmap (c : HostCmd)
  /-- Step. Host command starting the partition's dirty-page log. (R352) -/
  | dirtyStart (c : HostCmd)
  /-- Step. Host command returning and clearing the dirty bitmap in one action. (R352) -/
  | dirtyRead (c : HostCmd)
  /-- Step. Host command stopping the dirty-page log. (R352) -/
  | dirtyStop (c : HostCmd)
  /-- Step. Host command returning a signed usage report. (R355) -/
  | snapshot (c : HostCmd)
  /-- Step. Host command returning a signed attestation report with the host's nonce. (R354) -/
  | attest (c : HostCmd)
  /-- Step. Host command making copied pools live on the target module. (R353) -/
  | adopt (c : HostCmd)
  /-- Step. At reset the root-of-trust core checks firmware and configuration signatures before leaving reset. (R354) -/
  | reset
  /-- Step. Coolant above 65 °C makes the power controller lower tension rates. (R356) -/
  | coolantOver65 (part rate : Nat)
  /-- Step. Coolant above 75 °C freezes every core and reports type 0x0C. (R356) -/
  | coolantOver75
  /-- Step. The background stream of a recalled borrower's set to its save area ends, and the core leaves sliced mode and is cleared. (R318) -/
  | setStreamEnd
  /-- Step. A running reservation's budget on a sliced core is used up within its period, so another reservation is chosen and a swap becomes pending. (R316) -/
  | reservationBudgetSpent (r : Nat)
  deriving DecidableEq, Repr

end Sys2Proof
end

