-- ==== Sys2Proof/WellFormed.lean ====
section
/-!
DEFINITION. Well-formed instructions: the field values that an encoding of the table's rows admits.
A field value refused here is a reserved encoding (R30, R33, R34) or a fabric word the loader rejects (R37).
-/

namespace Sys2Proof

/-- An even register number: what R30 asks of a field naming a pair or a third operand. -/
def Reg.isEven (r : Reg) : Bool := r.toNat % 2 == 0

/-- The special numbers of R92. -/
def specialListed (i : BitVec 14) : Bool :=
  let n := i.toNat
  n ≤ 0x007 || (0x010 ≤ n && n ≤ 0x014) || n == 0x020 || n == 0x021

/-- The special registers that some level may write by MTS: TRAPCAUSE to STATUS (R92). -/
def specialWritable (i : BitVec 14) : Bool :=
  let n := i.toNat
  0x010 ≤ n && n ≤ 0x014

/-- A scope code that R239 defines. -/
def scopeListed (q : BitVec 3) : Bool := q.toNat ≤ 5

/-- A legal mod field of a fabric opcode with three widths (R37). -/
def modListed (m : BitVec 2) : Bool := m.toNat ≤ 2

/-- The instructions whose fields hold only values the spec assigns (R30, R33, R34, R37). Steps without an
encoding have no field to refuse. Of the operand fields that a table lists for some q only, TSRD's a is taken as reserved at the other
q; SMSTEP's b at q = 0, QBIND's a at q = 1 and PGRANT's b at q = 4 are not, and hold any number (assumption 128). -/
def Instr.wellFormed : Instr → Bool
  | .add _ _ _ => true
  | .sub _ _ _ => true
  | .mul _ _ _ => true
  | .mulh _ _ _ => true
  | .mulhu _ _ _ => true
  | .divs _ _ _ => true
  | .divu _ _ _ => true
  | .rems _ _ _ => true
  | .remu _ _ _ => true
  | .and _ _ _ => true
  | .or _ _ _ => true
  | .xor _ _ _ => true
  | .andn _ _ _ => true
  | .shl _ _ _ => true
  | .shr _ _ _ => true
  | .sra _ _ _ => true
  | .min _ _ _ => true
  | .max _ _ _ => true
  | .minu _ _ _ => true
  | .maxu _ _ _ => true
  | .cmpeq _ _ _ => true
  | .cmpne _ _ _ => true
  | .cmplt _ _ _ => true
  | .cmpltu _ _ _ => true
  | .cmple _ _ _ => true
  | .cmpleu _ _ _ => true
  | .clz _ _ => true
  | .popc _ _ => true
  | .addi _ _ _ => true
  | .andi _ _ _ => true
  | .ori _ _ _ => true
  | .xori _ _ _ => true
  | .shli _ _ _ => true
  | .shri _ _ _ => true
  | .srai _ _ _ => true
  | .cmplti _ _ _ => true
  | .cmpeqi _ _ _ => true
  | .sext _ _ _ => true
  | .zext _ _ _ => true
  | .lui _ _ => true
  | .addpc _ _ => true
  | .lih _ _ => true
  | .beq _ _ _ => true
  | .bne _ _ _ => true
  | .blt _ _ _ => true
  | .bge _ _ _ => true
  | .bltu _ _ _ => true
  | .bgeu _ _ _ => true
  | .btr _ _ => true
  | .jal _ _ => true
  | .jalr _ _ _ => true
  | .ldw _ _ _ => true
  | .ldd _ _ _ => true
  | .stw _ _ _ => true
  | .std _ _ _ => true
  | .nop => true
  | .halt => true
  | .yield => true
  | .trap _ => true
  | .eret => true
  | .tokwait _ => true
  | .mfs _ i => specialListed i
  | .mts _ i => specialWritable i
  | .cfgld _ _ => true
  | .cfgsw _ => true
  | .cfgparm _ _ _ => true
  | .cfgrel _ => true
  | .drain _ => true
  | .qwait _ => true
  | .sfeed _ _ _ _ => true
  | .sfeedt _ a _ _ => a.isEven
  | .sdraw _ _ _ => true
  | .sclose _ _ => true
  | .sstat _ _ => true
  | .tagset _ _ _ => true
  | .tagclr _ _ _ => true
  | .caston _ _ _ => true
  | .bindoff _ _ _ => true
  | .slip _ _ => true
  | .unslip _ _ => true
  | .lift _ _ _ => true
  | .rsave _ => true
  | .rload _ _ _ => true
  | .strd _ _ _ => true
  | .stwr _ _ _ _ => true
  | .acopy _ _ b _ => b.isEven
  | .acopy2 _ a b _ => a.isEven && b.isEven
  | .afill _ _ b _ => b.isEven
  | .qfence _ _ => true
  | .acopyb _ a b _ => a.isEven && b.isEven
  | .tinval _ _ _ _ => true
  | .tlook _ _ _ => true
  | .genres _ _ _ => true
  | .mxw _ a _ _ => a.isEven
  | .mxclr _ _ _ => true
  | .accrd _ _ _ _ => true
  | .gpld _ _ => true
  | .balloc _ _ => true
  | .bfree _ _ _ => true
  | .btapp _ _ _ => true
  | .bttrim _ _ _ => true
  | .btlook _ _ _ => true
  | .btfork _ _ _ => true
  | .btdrop _ _ => true
  | .bpstat _ _ q => decide (q.toNat ≤ 6)
  | .bpmake _ _ => true
  | .phb _ => true
  | .bar _ => true
  | .fence _ q => scopeListed q
  | .sigset _ _ _ q => scopeListed q
  | .sigwait _ _ b q => b.isEven && scopeListed q
  | .aadd _ _ _ q => scopeListed (q.extractLsb' 0 3)
  | .aand _ _ _ q => scopeListed (q.extractLsb' 0 3)
  | .aor _ _ _ q => scopeListed (q.extractLsb' 0 3)
  | .axor _ _ _ q => scopeListed (q.extractLsb' 0 3)
  | .amin _ _ _ q => scopeListed (q.extractLsb' 0 3)
  | .amax _ _ _ q => scopeListed (q.extractLsb' 0 3)
  | .aminu _ _ _ q => scopeListed (q.extractLsb' 0 3)
  | .amaxu _ _ _ q => scopeListed (q.extractLsb' 0 3)
  | .axchg _ _ _ q => scopeListed (q.extractLsb' 0 3)
  | .acas _ _ b q => b.isEven && scopeListed (q.extractLsb' 0 3)
  | .aaddf _ _ _ q => scopeListed q
  | .ald _ _ q => scopeListed (q.extractLsb' 0 3)
  | .radd _ _ _ q => scopeListed (q.extractLsb' 0 3)
  | .rmin _ _ _ q => scopeListed (q.extractLsb' 0 3)
  | .rmax _ _ _ q => scopeListed (q.extractLsb' 0 3)
  | .raddf _ _ _ q => scopeListed q
  | .sendrc _ _ b _ => b.isEven
  | .rcmask _ _ => true
  | .rcumask _ _ => true
  | .rcrecv _ _ _ => true
  | .ybind _ _ _ => true
  | .smcfgBind _ _ => true
  | .smcfgWriteStates _ _ _ => true
  | .smcfgReadState _ _ => true
  | .smcomp _ _ b _ => b.isEven
  | .smstep _ _ _ _ => true
  | .smmask _ _ _ _ => true
  | .launch _ _ _ => true
  | .lwait _ _ _ => true
  | .cancel _ _ q => decide (1 ≤ (q.extractLsb' 0 3).toNat) && decide ((q.extractLsb' 0 3).toNat ≤ 3)
  | .cntrd _ _ _ => true
  | .pcreate _ _ => true
  | .pgrant _ _ _ _ => true
  | .presv _ _ _ => true
  | .qbind _ _ _ _ => true
  | .plend _ _ => true
  | .precall _ _ => true
  | .pslice _ _ _ => true
  | .freeze _ _ _ => true
  | .thawResume _ _ _ => true
  | .thawReleaseHold _ => true
  | .thawVacate _ _ _ => true
  | .skout _ _ _ => true
  | .skin _ _ _ => true
  | .brkn _ _ _ _ => true
  | .trcon _ _ => true
  | .trcoff _ => true
  | .walk _ _ => true
  | .tsrd _ a q => a == 0 || q == 3
  | .vadd m _ _ => modListed m
  | .vsub m _ _ => modListed m
  | .vmul m _ _ => modListed m
  | .vmad m _ _ => modListed m
  | .vmin m _ _ => modListed m
  | .vmax m _ _ => modListed m
  | .vminu m _ _ => modListed m
  | .vmaxu m _ _ => modListed m
  | .vand m _ _ => modListed m
  | .vor m _ _ => modListed m
  | .vxor m _ _ => modListed m
  | .vshl m _ _ => modListed m
  | .vshr m _ _ => modListed m
  | .vsra m _ _ => modListed m
  | .vabs m _ _ => modListed m
  | .vneg m _ _ => modListed m
  | .vaddk m _ _ => modListed m
  | .vmulk m _ _ => modListed m
  | .vsgadd m _ _ => modListed m
  | .vadds m _ _ => modListed m
  | .vsubs m _ _ => modListed m
  | .vdot4 _ _ => true
  | .fadd m _ _ => modListed m
  | .fsub m _ _ => modListed m
  | .fmul m _ _ => modListed m
  | .fma m _ _ => modListed m
  | .fmax m _ _ => modListed m
  | .fmin m _ _ => modListed m
  | .frcp m _ _ => modListed m
  | .frsq m _ _ => modListed m
  | .fexp2 m _ _ => modListed m
  | .flog2 m _ _ => modListed m
  | .faddk m _ _ => modListed m
  | .fmulk m _ _ => modListed m
  | .fmac m _ _ => modListed m
  | .fabs m _ _ => modListed m
  | .fneg m _ _ => modListed m
  | .cvt _ _ => true
  | .bperm _ _ => true
  | .b3dec _ _ => true
  | .nibx _ _ _ => true
  | .pack _ _ => true
  | .unpk _ _ => true
  | .vcmp _ _ => true
  | .sel _ _ => true
  | .steer _ _ => true
  | .gate _ _ => true
  | .merge _ _ => true
  | .masksel _ _ => true
  | .pnot _ _ => true
  | .lsum _ _ => true
  | .lmax _ _ => true
  | .largmax _ _ => true
  | .lbcast _ _ => true
  | .lrot _ _ => true
  | .lscan _ _ => true
  | .onehot _ _ => true
  | .lextr _ _ => true
  | .sreg _ _ => true
  | .cnt _ _ => true
  | .eor _ _ => true
  | .ordj _ _ => true
  | .dup _ _ => true
  | .const _ _ => true
  | .sink _ _ => true
  | .stitch _ _ => true
  | .delay _ _ => true
  | .idx _ _ => true
  | .sregEmission _ _ => true
  | .roundBoundary => true
  | .bindoffDrainEnd _ => true
  | .rsaveDrainEnd => true
  | .mxBlockEntry _ => true
  | .planeSwap => true
  | .tileSourceRow => true
  | .accumulatorAddition _ => true
  | .accumulatorRelease _ => true
  | .pairRelease _ _ => true
  | .gpFiring _ => true
  | .memoryNodeRequest _ => true
  | .memoryNodeCompletion _ => true
  | .pagedRequest _ => true
  | .generatorFault _ => true
  | .networkPortSend _ => true
  | .yarnTokenArrival _ => true
  | .composerArrival => true
  | .completionReport => true
  | .deadlockReport => true
  | .tokenCompletion _ => true
  | .engineOperationStart _ => true
  | .trapEntry => true
  | .coreFreeze => true
  | .writeArrival _ => true
  | .phaseBoundary _ => true
  | .homeBankAccess _ => true
  | .sigwaitTest _ => true
  | .sigwaitTimeout _ => true
  | .packetAtSwitch _ _ _ => true
  | .packetDelivery _ => true
  | .trimNotice _ => true
  | .reask _ => true
  | .retransmission _ => true
  | .acknowledgement _ _ => true
  | .ackReceived _ => true
  | .lossNotice _ => true
  | .routeClassArrival _ => true
  | .handler1Arrival _ => true
  | .dispatchAdmit => true
  | .launchCompletion _ => true
  | .shadowSwap => true
  | .reservationPeriodStart _ => true
  | .suspendedUnitResume _ => true
  | .tensionRateChange _ _ => true
  | .memoryError _ => true
  | .logMessage _ => true
  | .write _ => true
  | .read _ => true
  | .logep _ => true
  | .timebase _ => true
  | .winmap _ => true
  | .dirtyStart _ => true
  | .dirtyRead _ => true
  | .dirtyStop _ => true
  | .snapshot _ => true
  | .attest _ => true
  | .adopt _ => true
  | .reset => true
  | .coolantOver65 _ _ => true
  | .coolantOver75 => true
  | .setStreamEnd => true
  | .reservationBudgetSpent _ => true

/-- The operations a fabric word encodes (R38); every other encoded instruction is a word of the sequencer (R28). -/
def Instr.inFabricMap : Instr → Bool
  | .vadd _ _ _ | .vsub _ _ _ | .vmul _ _ _ | .vmad _ _ _ | .vmin _ _ _ | .vmax _ _ _ | .vminu _ _ _ | .vmaxu _ _ _
  | .vand _ _ _ | .vor _ _ _ | .vxor _ _ _ | .vshl _ _ _ | .vshr _ _ _ | .vsra _ _ _ | .vabs _ _ _ | .vneg _ _ _
  | .vaddk _ _ _ | .vmulk _ _ _ | .vsgadd _ _ _ | .vadds _ _ _ | .vsubs _ _ _ | .vdot4 _ _ | .fadd _ _ _
  | .fsub _ _ _ | .fmul _ _ _ | .fma _ _ _ | .fmax _ _ _ | .fmin _ _ _ | .frcp _ _ _ | .frsq _ _ _ | .fexp2 _ _ _
  | .flog2 _ _ _ | .faddk _ _ _ | .fmulk _ _ _ | .fmac _ _ _ | .fabs _ _ _ | .fneg _ _ _ | .cvt _ _ | .bperm _ _
  | .b3dec _ _ | .nibx _ _ _ | .pack _ _ | .unpk _ _ | .vcmp _ _ | .sel _ _ | .steer _ _ | .gate _ _ | .merge _ _
  | .masksel _ _ | .pnot _ _ | .lsum _ _ | .lmax _ _ | .largmax _ _ | .lbcast _ _ | .lrot _ _ | .lscan _ _
  | .onehot _ _ | .lextr _ _ | .sreg _ _ | .cnt _ _ | .eor _ _ | .ordj _ _ | .dup _ _ | .const _ _ | .sink _ _
  | .stitch _ _ | .delay _ _ | .idx _ _ => true
  | _ => false

end Sys2Proof
end

