-- ==== Sys2Proof/Decode.lean ====
section
/-!
DEFINITION. Decoding and encoding: the 32-bit sequencer instruction (R28 to R34) and the 32-bit fabric
operation word (R35 to R38). The decoder is total and refuses by name; after it stands the encoder, and
one decoded word per constructor, each word taken from the spec's encoding of it.
-/

namespace Sys2Proof

/-- Why a word is no instruction. -/
inductive Reject where
  /-- a major opcode that R31 does not assign -/
  | unassignedMajor
  /-- a function code, sub code or condition code that R31 and R32 do not assign -/
  | unassignedFunction
  /-- a reserved field that is not zero (R33) -/
  | reservedField
  /-- a field value outside the set the instruction's chapter lists, or an odd register where R30 asks an even one -/
  | illFormed
  /-- fewer than four bytes -/
  | short
  /-- a fabric opcode that R38 does not define -/
  | unassignedOpcode
  /-- a mod value that R37 rejects -/
  | rejectedMod
  deriving DecidableEq, Repr

/-! ### The fields of a sequencer word (R28) -/

def wMajor (w : BitVec 32) : BitVec 6 := w.extractLsb' 26 6
def wD (w : BitVec 32) : Reg := w.extractLsb' 20 6
def wA (w : BitVec 32) : Reg := w.extractLsb' 14 6
def wB (w : BitVec 32) : Reg := w.extractLsb' 8 6
def wFn (w : BitVec 32) : BitVec 8 := w.extractLsb' 0 8
def wImm14 (w : BitVec 32) : BitVec 14 := w.extractLsb' 0 14
def wImm20 (w : BitVec 32) : BitVec 20 := w.extractLsb' 0 20
def wCc (w : BitVec 32) : BitVec 3 := w.extractLsb' 23 3
def wBrA (w : BitVec 32) : Reg := w.extractLsb' 17 6
def wBrB (w : BitVec 32) : Reg := w.extractLsb' 11 6
def wOff (w : BitVec 32) : BitVec 11 := w.extractLsb' 0 11
def wQ (w : BitVec 32) : BitVec 4 := w.extractLsb' 4 4
def wSub (w : BitVec 32) : BitVec 4 := w.extractLsb' 0 4

/-- `i`, when the reserved fields of its word are zero (R33). -/
def whenZero (ok : Bool) (i : Instr) : Except Reject Instr :=
  if ok then .ok i else .error .reservedField

/-- Major 0x00, ALU, by the function codes of R32. -/
def decodeAlu (w : BitVec 32) : Except Reject Instr :=
  match wFn w with
  | 0x00#8 => .ok (.add (wD w) (wA w) (wB w))
  | 0x01#8 => .ok (.sub (wD w) (wA w) (wB w))
  | 0x02#8 => .ok (.mul (wD w) (wA w) (wB w))
  | 0x03#8 => .ok (.mulh (wD w) (wA w) (wB w))
  | 0x04#8 => .ok (.mulhu (wD w) (wA w) (wB w))
  | 0x05#8 => .ok (.divs (wD w) (wA w) (wB w))
  | 0x06#8 => .ok (.divu (wD w) (wA w) (wB w))
  | 0x07#8 => .ok (.rems (wD w) (wA w) (wB w))
  | 0x08#8 => .ok (.remu (wD w) (wA w) (wB w))
  | 0x10#8 => .ok (.and (wD w) (wA w) (wB w))
  | 0x11#8 => .ok (.or (wD w) (wA w) (wB w))
  | 0x12#8 => .ok (.xor (wD w) (wA w) (wB w))
  | 0x13#8 => .ok (.andn (wD w) (wA w) (wB w))
  | 0x18#8 => .ok (.shl (wD w) (wA w) (wB w))
  | 0x19#8 => .ok (.shr (wD w) (wA w) (wB w))
  | 0x1a#8 => .ok (.sra (wD w) (wA w) (wB w))
  | 0x20#8 => .ok (.min (wD w) (wA w) (wB w))
  | 0x21#8 => .ok (.max (wD w) (wA w) (wB w))
  | 0x22#8 => .ok (.minu (wD w) (wA w) (wB w))
  | 0x23#8 => .ok (.maxu (wD w) (wA w) (wB w))
  | 0x28#8 => .ok (.cmpeq (wD w) (wA w) (wB w))
  | 0x29#8 => .ok (.cmpne (wD w) (wA w) (wB w))
  | 0x2a#8 => .ok (.cmplt (wD w) (wA w) (wB w))
  | 0x2b#8 => .ok (.cmpltu (wD w) (wA w) (wB w))
  | 0x2c#8 => .ok (.cmple (wD w) (wA w) (wB w))
  | 0x2d#8 => .ok (.cmpleu (wD w) (wA w) (wB w))
  | 0x30#8 => whenZero (wB w == 0) (.clz (wD w) (wA w))
  | 0x31#8 => whenZero (wB w == 0) (.popc (wD w) (wA w))
  | _ => .error .unassignedFunction

/-- Major 0x10, BR, by condition code (R31). -/
def decodeBr (w : BitVec 32) : Except Reject Instr :=
  match wCc w with
  | 0x00#3 => .ok (.beq (wBrA w) (wBrB w) (wOff w))
  | 0x01#3 => .ok (.bne (wBrA w) (wBrB w) (wOff w))
  | 0x02#3 => .ok (.blt (wBrA w) (wBrB w) (wOff w))
  | 0x03#3 => .ok (.bge (wBrA w) (wBrB w) (wOff w))
  | 0x04#3 => .ok (.bltu (wBrA w) (wBrB w) (wOff w))
  | 0x05#3 => .ok (.bgeu (wBrA w) (wBrB w) (wOff w))
  | 0x06#3 => whenZero (wBrB w == 0) (.btr (wBrA w) (wOff w))
  | _ => .error .unassignedFunction

/-- Major 0x18, SYS (R31). -/
def decodeSys (w : BitVec 32) : Except Reject Instr :=
  match wFn w with
  | 0x00#8 => whenZero (wD w == 0 && wA w == 0 && wB w == 0) .nop
  | 0x01#8 => whenZero (wD w == 0 && wA w == 0 && wB w == 0) .halt
  | 0x02#8 => whenZero (wD w == 0 && wA w == 0 && wB w == 0) .yield
  | 0x08#8 => whenZero (wD w == 0 && wB w == 0) (.trap (wA w))
  | 0x09#8 => whenZero (wD w == 0 && wA w == 0 && wB w == 0) .eret
  | 0x0d#8 => whenZero (wD w == 0 && wB w == 0) (.tokwait (wA w))
  | _ => .error .unassignedFunction

/-- Major 0x1C, CFG, by sub code (R31). -/
def decodeCfg (w : BitVec 32) : Except Reject Instr :=
  match wSub w with
  | 0x00#4 => whenZero (wB w == 0 && wQ w == 0) (.cfgld (wD w) (wA w))
  | 0x01#4 => whenZero (wA w == 0 && wB w == 0 && wQ w == 0) (.cfgsw (wD w))
  | 0x02#4 => whenZero (wB w == 0 && w.extractLsb' 5 3 == 0) (.cfgparm (wD w) (wA w) (w.extractLsb' 4 1))
  | 0x03#4 => whenZero (wA w == 0 && wB w == 0 && wQ w == 0) (.cfgrel (wD w))
  | 0x04#4 => whenZero (wA w == 0 && wB w == 0 && wQ w == 0) (.drain (wD w))
  | 0x05#4 => whenZero (wA w == 0 && wB w == 0 && wQ w == 0) (.qwait (wD w))
  | _ => .error .unassignedFunction

/-- Major 0x1D, STRM, by sub code (R31). -/
def decodeStrm (w : BitVec 32) : Except Reject Instr :=
  match wSub w with
  | 0x00#4 => .ok (.sfeed (wD w) (wA w) (wB w) (wQ w))
  | 0x01#4 => .ok (.sfeedt (wD w) (wA w) (wB w) (wQ w))
  | 0x02#4 => whenZero (wB w == 0) (.sdraw (wD w) (wA w) (wQ w))
  | 0x03#4 => whenZero (wA w == 0 && wB w == 0) (.sclose (wD w) (wQ w))
  | 0x04#4 => whenZero (wB w == 0 && wQ w == 0) (.sstat (wD w) (wA w))
  | 0x05#4 => whenZero (wQ w == 0) (.tagset (wD w) (wA w) (wB w))
  | 0x06#4 => whenZero (wQ w == 0) (.tagclr (wD w) (wA w) (wB w))
  | _ => .error .unassignedFunction

/-- Major 0x24, RND, by sub code (R31). -/
def decodeRnd (w : BitVec 32) : Except Reject Instr :=
  match wSub w with
  | 0x00#4 => whenZero (wQ w == 0) (.caston (wD w) (wA w) (wB w))
  | 0x01#4 => whenZero (wB w == 0 && w.extractLsb' 5 3 == 0) (.bindoff (wD w) (wA w) (w.extractLsb' 4 1))
  | 0x02#4 => whenZero (wB w == 0 && wQ w == 0) (.slip (wD w) (wA w))
  | 0x03#4 => whenZero (wB w == 0 && wQ w == 0) (.unslip (wD w) (wA w))
  | 0x04#4 => whenZero (wB w == 0 && w.extractLsb' 5 3 == 0) (.lift (wD w) (wA w) (w.extractLsb' 4 1))
  | 0x05#4 => whenZero (wA w == 0 && wB w == 0 && wQ w == 0) (.rsave (wD w))
  | 0x06#4 => whenZero (wQ w == 0) (.rload (wD w) (wA w) (wB w))
  | 0x07#4 => whenZero (wB w == 0 && w.extractLsb' 6 2 == 0) (.strd (wD w) (wA w) (w.extractLsb' 4 2))
  | 0x08#4 => whenZero (w.extractLsb' 6 2 == 0) (.stwr (wD w) (wA w) (wB w) (w.extractLsb' 4 2))
  | _ => .error .unassignedFunction

/-- Major 0x28, ENG, by sub code (R31). -/
def decodeEng (w : BitVec 32) : Except Reject Instr :=
  match wSub w with
  | 0x00#4 => .ok (.acopy (wD w) (wA w) (wB w) (wQ w))
  | 0x01#4 => .ok (.acopy2 (wD w) (wA w) (wB w) (wQ w))
  | 0x02#4 => .ok (.afill (wD w) (wA w) (wB w) (wQ w))
  | 0x03#4 => whenZero (wB w == 0 && wQ w == 0) (.qfence (wD w) (wA w))
  | 0x04#4 => .ok (.acopyb (wD w) (wA w) (wB w) (wQ w))
  | _ => .error .unassignedFunction

/-- Major 0x29, XLAT, by sub code (R31). -/
def decodeXlat (w : BitVec 32) : Except Reject Instr :=
  match wSub w with
  | 0x00#4 => whenZero (w.extractLsb' 5 3 == 0) (.tinval (wD w) (wA w) (wB w) (w.extractLsb' 4 1))
  | 0x01#4 => whenZero (wB w == 0 && w.extractLsb' 5 3 == 0) (.tlook (wD w) (wA w) (w.extractLsb' 4 1))
  | 0x02#4 => whenZero (wB w == 0) (.genres (wD w) (wA w) (wQ w))
  | _ => .error .unassignedFunction

/-- Major 0x2C, MAT, by sub code (R31). -/
def decodeMat (w : BitVec 32) : Except Reject Instr :=
  match wSub w with
  | 0x00#4 => whenZero (w.extractLsb' 7 1 == 0) (.mxw (wD w) (wA w) (wB w) (w.extractLsb' 4 3))
  | 0x01#4 => whenZero (wB w == 0 && w.extractLsb' 7 1 == 0) (.mxclr (wD w) (wA w) (w.extractLsb' 4 3))
  | 0x02#4 => whenZero (w.extractLsb' 7 1 == 0) (.accrd (wD w) (wA w) (wB w) (w.extractLsb' 4 3))
  | 0x03#4 => whenZero (wB w == 0 && wQ w == 0) (.gpld (wD w) (wA w))
  | _ => .error .unassignedFunction

/-- Major 0x30, BLK, by sub code (R31). -/
def decodeBlk (w : BitVec 32) : Except Reject Instr :=
  match wSub w with
  | 0x00#4 => whenZero (wB w == 0 && wQ w == 0) (.balloc (wD w) (wA w))
  | 0x01#4 => whenZero (wQ w == 0) (.bfree (wD w) (wA w) (wB w))
  | 0x02#4 => whenZero (wB w == 0 && w.extractLsb' 5 3 == 0) (.btapp (wD w) (wA w) (w.extractLsb' 4 1))
  | 0x03#4 => whenZero (wQ w == 0) (.bttrim (wD w) (wA w) (wB w))
  | 0x04#4 => whenZero (wQ w == 0) (.btlook (wD w) (wA w) (wB w))
  | 0x05#4 => whenZero (wQ w == 0) (.btfork (wD w) (wA w) (wB w))
  | 0x06#4 => whenZero (wB w == 0 && wQ w == 0) (.btdrop (wD w) (wA w))
  | 0x07#4 => whenZero (wB w == 0 && w.extractLsb' 7 1 == 0) (.bpstat (wD w) (wA w) (w.extractLsb' 4 3))
  | 0x08#4 => whenZero (wB w == 0 && wQ w == 0) (.bpmake (wD w) (wA w))
  | _ => .error .unassignedFunction

/-- Major 0x34, SYNC, by sub code (R31). -/
def decodeSync (w : BitVec 32) : Except Reject Instr :=
  match wSub w with
  | 0x00#4 => whenZero (wA w == 0 && wB w == 0 && wQ w == 0) (.phb (wD w))
  | 0x01#4 => whenZero (wA w == 0 && wB w == 0 && wQ w == 0) (.bar (wD w))
  | 0x02#4 => whenZero (wA w == 0 && wB w == 0 && w.extractLsb' 7 1 == 0) (.fence (wD w) (w.extractLsb' 4 3))
  | 0x03#4 => whenZero (w.extractLsb' 7 1 == 0) (.sigset (wD w) (wA w) (wB w) (w.extractLsb' 4 3))
  | 0x04#4 => whenZero (w.extractLsb' 7 1 == 0) (.sigwait (wD w) (wA w) (wB w) (w.extractLsb' 4 3))
  | _ => .error .unassignedFunction

/-- Major 0x35, ATOM, by sub code (R31). -/
def decodeAtom (w : BitVec 32) : Except Reject Instr :=
  match wSub w with
  | 0x00#4 => .ok (.aadd (wD w) (wA w) (wB w) (wQ w))
  | 0x01#4 => .ok (.aand (wD w) (wA w) (wB w) (wQ w))
  | 0x02#4 => .ok (.aor (wD w) (wA w) (wB w) (wQ w))
  | 0x03#4 => .ok (.axor (wD w) (wA w) (wB w) (wQ w))
  | 0x04#4 => .ok (.amin (wD w) (wA w) (wB w) (wQ w))
  | 0x05#4 => .ok (.amax (wD w) (wA w) (wB w) (wQ w))
  | 0x06#4 => .ok (.aminu (wD w) (wA w) (wB w) (wQ w))
  | 0x07#4 => .ok (.amaxu (wD w) (wA w) (wB w) (wQ w))
  | 0x08#4 => .ok (.axchg (wD w) (wA w) (wB w) (wQ w))
  | 0x09#4 => .ok (.acas (wD w) (wA w) (wB w) (wQ w))
  | 0x0a#4 => whenZero (w.extractLsb' 7 1 == 1) (.aaddf (wD w) (wA w) (wB w) (w.extractLsb' 4 3))
  | 0x0b#4 => whenZero (wB w == 0) (.ald (wD w) (wA w) (wQ w))
  | _ => .error .unassignedFunction

/-- Major 0x36, RED, by sub code (R31). -/
def decodeRed (w : BitVec 32) : Except Reject Instr :=
  match wSub w with
  | 0x00#4 => .ok (.radd (wD w) (wA w) (wB w) (wQ w))
  | 0x01#4 => .ok (.rmin (wD w) (wA w) (wB w) (wQ w))
  | 0x02#4 => .ok (.rmax (wD w) (wA w) (wB w) (wQ w))
  | 0x03#4 => whenZero (w.extractLsb' 7 1 == 1) (.raddf (wD w) (wA w) (wB w) (w.extractLsb' 4 3))
  | _ => .error .unassignedFunction

/-- Major 0x3A, NET, by sub code (R31). -/
def decodeNet (w : BitVec 32) : Except Reject Instr :=
  match wSub w with
  | 0x00#4 => .ok (.sendrc (wD w) (wA w) (wB w) (wQ w))
  | 0x01#4 => whenZero (wB w == 0 && wQ w == 0) (.rcmask (wD w) (wA w))
  | 0x02#4 => whenZero (wB w == 0 && wQ w == 0) (.rcumask (wD w) (wA w))
  | 0x03#4 => whenZero (wB w == 0) (.rcrecv (wD w) (wA w) (wQ w))
  | 0x04#4 => whenZero (wB w == 0 && w.extractLsb' 5 3 == 0) (.ybind (wD w) (wA w) (w.extractLsb' 4 1))
  | _ => .error .unassignedFunction

/-- Major 0x3C, SMAP, by sub code (R31). -/
def decodeSmap (w : BitVec 32) : Except Reject Instr :=
  match wSub w with
  | 0x00#4 =>
    match wQ w with
    | 0x0#4 => whenZero (wB w == 0) (.smcfgBind (wD w) (wA w))
    | 0x1#4 => .ok (.smcfgWriteStates (wD w) (wA w) (wB w))
    | 0x2#4 => whenZero (wB w == 0) (.smcfgReadState (wD w) (wA w))
    | _ => .error .illFormed
  | 0x01#4 => whenZero (w.extractLsb' 6 2 == 0) (.smcomp (wD w) (wA w) (wB w) (w.extractLsb' 4 2))
  | 0x02#4 => whenZero (w.extractLsb' 5 3 == 0) (.smstep (wD w) (wA w) (wB w) (w.extractLsb' 4 1))
  | 0x03#4 => whenZero (w.extractLsb' 5 3 == 0) (.smmask (wD w) (wA w) (wB w) (w.extractLsb' 4 1))
  | _ => .error .unassignedFunction

/-- Major 0x3D, LNCH, by sub code (R31). -/
def decodeLnch (w : BitVec 32) : Except Reject Instr :=
  match wSub w with
  | 0x00#4 => whenZero (wQ w == 0) (.launch (wD w) (wA w) (wB w))
  | 0x01#4 => whenZero (wB w == 0 && w.extractLsb' 6 2 == 0) (.lwait (wD w) (wA w) (w.extractLsb' 4 2))
  | 0x02#4 => whenZero (wB w == 0) (.cancel (wD w) (wA w) (wQ w))
  | 0x03#4 => whenZero (wB w == 0 && w.extractLsb' 7 1 == 0) (.cntrd (wD w) (wA w) (w.extractLsb' 4 3))
  | 0x08#4 => whenZero (wB w == 0 && wQ w == 0) (.pcreate (wD w) (wA w))
  | 0x09#4 => whenZero (w.extractLsb' 7 1 == 0) (.pgrant (wD w) (wA w) (wB w) (w.extractLsb' 4 3))
  | 0x0a#4 => whenZero (wB w == 0 && w.extractLsb' 5 3 == 0) (.presv (wD w) (wA w) (w.extractLsb' 4 1))
  | 0x0b#4 => whenZero (w.extractLsb' 5 3 == 0) (.qbind (wD w) (wA w) (wB w) (w.extractLsb' 4 1))
  | 0x0c#4 => whenZero (wB w == 0 && wQ w == 0) (.plend (wD w) (wA w))
  | 0x0d#4 => whenZero (wB w == 0 && wQ w == 0) (.precall (wD w) (wA w))
  | 0x0e#4 => whenZero (wB w == 0 && w.extractLsb' 5 3 == 0) (.pslice (wD w) (wA w) (w.extractLsb' 4 1))
  | _ => .error .unassignedFunction

/-- Major 0x3E, DBG, by sub code (R31). -/
def decodeDbg (w : BitVec 32) : Except Reject Instr :=
  match wSub w with
  | 0x00#4 => whenZero (wB w == 0 && w.extractLsb' 5 3 == 0) (.freeze (wD w) (wA w) (w.extractLsb' 4 1))
  | 0x01#4 =>
    match wQ w with
    | 0x0#4 => whenZero (wB w == 0) (.thawResume (wD w) (wA w) (w.extractLsb' 4 1))
    | 0x1#4 => whenZero (wB w == 0) (.thawResume (wD w) (wA w) (w.extractLsb' 4 1))
    | 0x2#4 => whenZero (wA w == 0 && wB w == 0) (.thawReleaseHold (wD w))
    | 0x4#4 => whenZero (wB w == 0) (.thawVacate (wD w) (wA w) (w.extractLsb' 4 1))
    | 0x5#4 => whenZero (wB w == 0) (.thawVacate (wD w) (wA w) (w.extractLsb' 4 1))
    | _ => .error .illFormed
  | 0x02#4 => whenZero (wQ w == 0) (.skout (wD w) (wA w) (wB w))
  | 0x03#4 => whenZero (wQ w == 0) (.skin (wD w) (wA w) (wB w))
  | 0x04#4 => whenZero (w.extractLsb' 6 2 == 0) (.brkn (wD w) (wA w) (wB w) (w.extractLsb' 4 2))
  | 0x05#4 => whenZero (wB w == 0 && wQ w == 0) (.trcon (wD w) (wA w))
  | 0x06#4 => whenZero (wA w == 0 && wB w == 0 && wQ w == 0) (.trcoff (wD w))
  | 0x07#4 => whenZero (wB w == 0 && wQ w == 0) (.walk (wD w) (wA w))
  | 0x08#4 =>
    whenZero (wB w == 0 && w.extractLsb' 6 2 == 0 && (wA w == 0 || w.extractLsb' 4 2 == 3)) (.tsrd (wD w) (wA w) (w.extractLsb' 4 2))
  | _ => .error .unassignedFunction

/-- The instruction a word's fields spell, before the checks of the field values (R31 to R33). -/
def decodeFields (w : BitVec 32) : Except Reject Instr :=
  match wMajor w with
  | 0x00#6 => decodeAlu w
  | 0x01#6 => .ok (.addi (wD w) (wA w) (wImm14 w))
  | 0x02#6 => .ok (.andi (wD w) (wA w) (wImm14 w))
  | 0x03#6 => .ok (.ori (wD w) (wA w) (wImm14 w))
  | 0x04#6 => .ok (.xori (wD w) (wA w) (wImm14 w))
  | 0x05#6 => whenZero (w.extractLsb' 6 8 == 0) (.shli (wD w) (wA w) (w.extractLsb' 0 6))
  | 0x06#6 => whenZero (w.extractLsb' 6 8 == 0) (.shri (wD w) (wA w) (w.extractLsb' 0 6))
  | 0x07#6 => whenZero (w.extractLsb' 6 8 == 0) (.srai (wD w) (wA w) (w.extractLsb' 0 6))
  | 0x08#6 => .ok (.cmplti (wD w) (wA w) (wImm14 w))
  | 0x09#6 => .ok (.cmpeqi (wD w) (wA w) (wImm14 w))
  | 0x0a#6 => whenZero (w.extractLsb' 6 8 == 0) (.sext (wD w) (wA w) (w.extractLsb' 0 6))
  | 0x0b#6 => whenZero (w.extractLsb' 6 8 == 0) (.zext (wD w) (wA w) (w.extractLsb' 0 6))
  | 0x0c#6 => .ok (.lui (wD w) (wImm20 w))
  | 0x0d#6 => .ok (.addpc (wD w) (wImm20 w))
  | 0x0e#6 => .ok (.lih (wD w) (wImm20 w))
  | 0x10#6 => decodeBr w
  | 0x11#6 => .ok (.jal (wD w) (wImm20 w))
  | 0x12#6 => .ok (.jalr (wD w) (wA w) (wImm14 w))
  | 0x14#6 => .ok (.ldw (wD w) (wA w) (wImm14 w))
  | 0x15#6 => .ok (.ldd (wD w) (wA w) (wImm14 w))
  | 0x16#6 => .ok (.stw (wD w) (wA w) (wImm14 w))
  | 0x17#6 => .ok (.std (wD w) (wA w) (wImm14 w))
  | 0x18#6 => decodeSys w
  | 0x19#6 => whenZero (wA w == 0) (.mfs (wD w) (wImm14 w))
  | 0x1a#6 => whenZero (wD w == 0) (.mts (wA w) (wImm14 w))
  | 0x1c#6 => decodeCfg w
  | 0x1d#6 => decodeStrm w
  | 0x24#6 => decodeRnd w
  | 0x28#6 => decodeEng w
  | 0x29#6 => decodeXlat w
  | 0x2c#6 => decodeMat w
  | 0x30#6 => decodeBlk w
  | 0x34#6 => decodeSync w
  | 0x35#6 => decodeAtom w
  | 0x36#6 => decodeRed w
  | 0x3a#6 => decodeNet w
  | 0x3c#6 => decodeSmap w
  | 0x3d#6 => decodeLnch w
  | 0x3e#6 => decodeDbg w
  | _ => .error .unassignedMajor

/-- `i` when its field values are assigned, else a refusal (R30, R34). -/
def whenWellFormed (i : Instr) : Except Reject Instr :=
  if i.wellFormed then .ok i else .error .illFormed

/-- The instruction of a sequencer word; a refused word raises ILLEGAL (R34). -/
def decodeWord (w : BitVec 32) : Except Reject Instr :=
  match decodeFields w with
  | .ok i => whenWellFormed i
  | .error e => .error e

/-- Four bytes, the lowest address first, as one word (R2, R28). -/
def wordOfBytes (b0 b1 b2 b3 : Byte) : BitVec 32 := b3 ++ b2 ++ b1 ++ b0

/-- The four bytes of a word, the lowest address first. -/
def bytesOfWord (w : BitVec 32) : List Byte :=
  [w.extractLsb' 0 8, w.extractLsb' 8 8, w.extractLsb' 16 8, w.extractLsb' 24 8]

/-- Decoding a byte sequence: one instruction and the bytes after it. -/
def decodeBytes : List Byte → Except Reject (Instr × List Byte)
  | b0 :: b1 :: b2 :: b3 :: rest =>
    match decodeWord (wordOfBytes b0 b1 b2 b3) with
    | .ok i => .ok (i, rest)
    | .error e => .error e
  | _ => .error .short

/-! ### The fabric operation word (R35) -/

def fOpcode (w : BitVec 32) : BitVec 8 := w.extractLsb' 24 8
def fMod (w : BitVec 32) : BitVec 2 := w.extractLsb' 22 2
def fX (w : BitVec 32) : Target := w.extractLsb' 11 11
def fY (w : BitVec 32) : Target := w.extractLsb' 0 11

/-- `i`, when the mod field is one R37 allows. -/
def whenMod (ok : Bool) (i : Instr) : Except Reject Instr :=
  if ok then .ok i else .error .rejectedMod

/-- The operation of a fabric word (R35 to R38). The empty word 0xFF00_0000 is no operation. -/
def decodeFabric (w : BitVec 32) : Except Reject Instr :=
  match fOpcode w with
  | 0x00#8 => whenMod (modListed (fMod w)) (.vadd (fMod w) (fX w) (fY w))
  | 0x01#8 => whenMod (modListed (fMod w)) (.vsub (fMod w) (fX w) (fY w))
  | 0x02#8 => whenMod (modListed (fMod w)) (.vmul (fMod w) (fX w) (fY w))
  | 0x03#8 => whenMod (modListed (fMod w)) (.vmad (fMod w) (fX w) (fY w))
  | 0x04#8 => whenMod (modListed (fMod w)) (.vmin (fMod w) (fX w) (fY w))
  | 0x05#8 => whenMod (modListed (fMod w)) (.vmax (fMod w) (fX w) (fY w))
  | 0x06#8 => whenMod (modListed (fMod w)) (.vminu (fMod w) (fX w) (fY w))
  | 0x07#8 => whenMod (modListed (fMod w)) (.vmaxu (fMod w) (fX w) (fY w))
  | 0x08#8 => whenMod (modListed (fMod w)) (.vand (fMod w) (fX w) (fY w))
  | 0x09#8 => whenMod (modListed (fMod w)) (.vor (fMod w) (fX w) (fY w))
  | 0x0a#8 => whenMod (modListed (fMod w)) (.vxor (fMod w) (fX w) (fY w))
  | 0x0b#8 => whenMod (modListed (fMod w)) (.vshl (fMod w) (fX w) (fY w))
  | 0x0c#8 => whenMod (modListed (fMod w)) (.vshr (fMod w) (fX w) (fY w))
  | 0x0d#8 => whenMod (modListed (fMod w)) (.vsra (fMod w) (fX w) (fY w))
  | 0x0e#8 => whenMod (modListed (fMod w)) (.vabs (fMod w) (fX w) (fY w))
  | 0x0f#8 => whenMod (modListed (fMod w)) (.vneg (fMod w) (fX w) (fY w))
  | 0x10#8 => whenMod (modListed (fMod w)) (.vaddk (fMod w) (fX w) (fY w))
  | 0x11#8 => whenMod (modListed (fMod w)) (.vmulk (fMod w) (fX w) (fY w))
  | 0x12#8 => whenMod (modListed (fMod w)) (.vsgadd (fMod w) (fX w) (fY w))
  | 0x13#8 => whenMod (modListed (fMod w)) (.vadds (fMod w) (fX w) (fY w))
  | 0x14#8 => whenMod (modListed (fMod w)) (.vsubs (fMod w) (fX w) (fY w))
  | 0x15#8 => whenMod (fMod w == 0) (.vdot4 (fX w) (fY w))
  | 0x20#8 => whenMod (modListed (fMod w)) (.fadd (fMod w) (fX w) (fY w))
  | 0x21#8 => whenMod (modListed (fMod w)) (.fsub (fMod w) (fX w) (fY w))
  | 0x22#8 => whenMod (modListed (fMod w)) (.fmul (fMod w) (fX w) (fY w))
  | 0x23#8 => whenMod (modListed (fMod w)) (.fma (fMod w) (fX w) (fY w))
  | 0x24#8 => whenMod (modListed (fMod w)) (.fmax (fMod w) (fX w) (fY w))
  | 0x25#8 => whenMod (modListed (fMod w)) (.fmin (fMod w) (fX w) (fY w))
  | 0x26#8 => whenMod (modListed (fMod w)) (.frcp (fMod w) (fX w) (fY w))
  | 0x27#8 => whenMod (modListed (fMod w)) (.frsq (fMod w) (fX w) (fY w))
  | 0x28#8 => whenMod (modListed (fMod w)) (.fexp2 (fMod w) (fX w) (fY w))
  | 0x29#8 => whenMod (modListed (fMod w)) (.flog2 (fMod w) (fX w) (fY w))
  | 0x2a#8 => whenMod (modListed (fMod w)) (.faddk (fMod w) (fX w) (fY w))
  | 0x2b#8 => whenMod (modListed (fMod w)) (.fmulk (fMod w) (fX w) (fY w))
  | 0x2c#8 => whenMod (modListed (fMod w)) (.fmac (fMod w) (fX w) (fY w))
  | 0x2d#8 => whenMod (modListed (fMod w)) (.fabs (fMod w) (fX w) (fY w))
  | 0x2e#8 => whenMod (modListed (fMod w)) (.fneg (fMod w) (fX w) (fY w))
  | 0x40#8 => whenMod (fMod w == 0) (.cvt (fX w) (fY w))
  | 0x41#8 => whenMod (fMod w == 0) (.bperm (fX w) (fY w))
  | 0x42#8 => whenMod (fMod w == 0) (.b3dec (fX w) (fY w))
  | 0x43#8 => whenMod (w.extractLsb' 23 1 == 0) (.nibx (w.extractLsb' 22 1) (fX w) (fY w))
  | 0x44#8 => whenMod (fMod w == 0) (.pack (fX w) (fY w))
  | 0x45#8 => whenMod (fMod w == 0) (.unpk (fX w) (fY w))
  | 0x50#8 => whenMod (fMod w == 0) (.vcmp (fX w) (fY w))
  | 0x51#8 => whenMod (fMod w == 0) (.sel (fX w) (fY w))
  | 0x52#8 => whenMod (fMod w == 0) (.steer (fX w) (fY w))
  | 0x53#8 => whenMod (fMod w == 0) (.gate (fX w) (fY w))
  | 0x54#8 => whenMod (fMod w == 0) (.merge (fX w) (fY w))
  | 0x55#8 => whenMod (fMod w == 0) (.masksel (fX w) (fY w))
  | 0x56#8 => whenMod (fMod w == 0) (.pnot (fX w) (fY w))
  | 0x60#8 => whenMod (fMod w == 0) (.lsum (fX w) (fY w))
  | 0x61#8 => whenMod (fMod w == 0) (.lmax (fX w) (fY w))
  | 0x62#8 => whenMod (fMod w == 0) (.largmax (fX w) (fY w))
  | 0x63#8 => whenMod (fMod w == 0) (.lbcast (fX w) (fY w))
  | 0x64#8 => whenMod (fMod w == 0) (.lrot (fX w) (fY w))
  | 0x65#8 => whenMod (fMod w == 0) (.lscan (fX w) (fY w))
  | 0x66#8 => whenMod (fMod w == 0) (.onehot (fX w) (fY w))
  | 0x67#8 => whenMod (fMod w == 0) (.lextr (fX w) (fY w))
  | 0x70#8 => whenMod (fMod w == 0) (.sreg (fX w) (fY w))
  | 0x71#8 => whenMod (fMod w == 0) (.cnt (fX w) (fY w))
  | 0x72#8 => whenMod (fMod w == 0) (.eor (fX w) (fY w))
  | 0x73#8 => whenMod (fMod w == 0) (.ordj (fX w) (fY w))
  | 0x74#8 => whenMod (fMod w == 0) (.dup (fX w) (fY w))
  | 0x75#8 => whenMod (fMod w == 0) (.const (fX w) (fY w))
  | 0x76#8 => whenMod (fMod w == 0) (.sink (fX w) (fY w))
  | 0x77#8 => whenMod (fMod w == 0) (.stitch (fX w) (fY w))
  | 0x78#8 => whenMod (fMod w == 0) (.delay (fX w) (fY w))
  | 0x80#8 => whenMod (fMod w == 0) (.idx (fX w) (fY w))
  | _ => .error .unassignedOpcode

/-! ### The encoder -/

def encR (op : BitVec 6) (d a b : Reg) (fn : BitVec 8) : BitVec 32 := op ++ d ++ a ++ b ++ fn
def encI (op : BitVec 6) (d a : Reg) (i : BitVec 14) : BitVec 32 := op ++ d ++ a ++ i
def encU (op : BitVec 6) (d : Reg) (i : BitVec 20) : BitVec 32 := op ++ d ++ i
def encX (op : BitVec 6) (t a b : Reg) (q sub : BitVec 4) : BitVec 32 := op ++ t ++ a ++ b ++ q ++ sub
def encB (cc : BitVec 3) (a b : Reg) (o : BitVec 11) : BitVec 32 := (0x10 : BitVec 6) ++ cc ++ a ++ b ++ o
def encF (op : BitVec 8) (m : BitVec 2) (x y : Target) : BitVec 32 := op ++ m ++ x ++ y

/-- The word of an instruction that has one: formats R, I, U, X and B (R28), and the fabric word (R35). -/
def encode : Instr → Option (BitVec 32)
  | .add d a b => some (encR 0x0 d a b 0x0)
  | .sub d a b => some (encR 0x0 d a b 0x1)
  | .mul d a b => some (encR 0x0 d a b 0x2)
  | .mulh d a b => some (encR 0x0 d a b 0x3)
  | .mulhu d a b => some (encR 0x0 d a b 0x4)
  | .divs d a b => some (encR 0x0 d a b 0x5)
  | .divu d a b => some (encR 0x0 d a b 0x6)
  | .rems d a b => some (encR 0x0 d a b 0x7)
  | .remu d a b => some (encR 0x0 d a b 0x8)
  | .and d a b => some (encR 0x0 d a b 0x10)
  | .or d a b => some (encR 0x0 d a b 0x11)
  | .xor d a b => some (encR 0x0 d a b 0x12)
  | .andn d a b => some (encR 0x0 d a b 0x13)
  | .shl d a b => some (encR 0x0 d a b 0x18)
  | .shr d a b => some (encR 0x0 d a b 0x19)
  | .sra d a b => some (encR 0x0 d a b 0x1a)
  | .min d a b => some (encR 0x0 d a b 0x20)
  | .max d a b => some (encR 0x0 d a b 0x21)
  | .minu d a b => some (encR 0x0 d a b 0x22)
  | .maxu d a b => some (encR 0x0 d a b 0x23)
  | .cmpeq d a b => some (encR 0x0 d a b 0x28)
  | .cmpne d a b => some (encR 0x0 d a b 0x29)
  | .cmplt d a b => some (encR 0x0 d a b 0x2a)
  | .cmpltu d a b => some (encR 0x0 d a b 0x2b)
  | .cmple d a b => some (encR 0x0 d a b 0x2c)
  | .cmpleu d a b => some (encR 0x0 d a b 0x2d)
  | .clz d a => some (encR 0x0 d a 0 0x30)
  | .popc d a => some (encR 0x0 d a 0 0x31)
  | .addi d a i => some (encI 0x1 d a i)
  | .andi d a i => some (encI 0x2 d a i)
  | .ori d a i => some (encI 0x3 d a i)
  | .xori d a i => some (encI 0x4 d a i)
  | .shli d a n => some (encI 0x5 d a ((0 : BitVec 8) ++ n))
  | .shri d a n => some (encI 0x6 d a ((0 : BitVec 8) ++ n))
  | .srai d a n => some (encI 0x7 d a ((0 : BitVec 8) ++ n))
  | .cmplti d a i => some (encI 0x8 d a i)
  | .cmpeqi d a i => some (encI 0x9 d a i)
  | .sext d a n => some (encI 0xa d a ((0 : BitVec 8) ++ n))
  | .zext d a n => some (encI 0xb d a ((0 : BitVec 8) ++ n))
  | .lui d i => some (encU 0xc d i)
  | .addpc d i => some (encU 0xd d i)
  | .lih d i => some (encU 0xe d i)
  | .beq a b o => some (encB 0 a b o)
  | .bne a b o => some (encB 1 a b o)
  | .blt a b o => some (encB 2 a b o)
  | .bge a b o => some (encB 3 a b o)
  | .bltu a b o => some (encB 4 a b o)
  | .bgeu a b o => some (encB 5 a b o)
  | .btr a o => some (encB 6 a 0 o)
  | .jal d i => some (encU 0x11 d i)
  | .jalr d a i => some (encI 0x12 d a i)
  | .ldw d a i => some (encI 0x14 d a i)
  | .ldd d a i => some (encI 0x15 d a i)
  | .stw d a i => some (encI 0x16 d a i)
  | .std d a i => some (encI 0x17 d a i)
  | .nop => some (encR 0x18 0 0 0 0x0)
  | .halt => some (encR 0x18 0 0 0 0x1)
  | .yield => some (encR 0x18 0 0 0 0x2)
  | .trap a => some (encR 0x18 0 a 0 0x8)
  | .eret => some (encR 0x18 0 0 0 0x9)
  | .tokwait a => some (encR 0x18 0 a 0 0xd)
  | .mfs d i => some (encI 0x19 d 0 i)
  | .mts a i => some (encI 0x1a 0 a i)
  | .cfgld t a => some (encX 0x1c t a 0 0 0x0)
  | .cfgsw t => some (encX 0x1c t 0 0 0 0x1)
  | .cfgparm t a q => some (encX 0x1c t a 0 ((0 : BitVec 3) ++ q) 0x2)
  | .cfgrel t => some (encX 0x1c t 0 0 0 0x3)
  | .drain t => some (encX 0x1c t 0 0 0 0x4)
  | .qwait t => some (encX 0x1c t 0 0 0 0x5)
  | .sfeed t a b q => some (encX 0x1d t a b q 0x0)
  | .sfeedt t a b q => some (encX 0x1d t a b q 0x1)
  | .sdraw t a q => some (encX 0x1d t a 0 q 0x2)
  | .sclose t q => some (encX 0x1d t 0 0 q 0x3)
  | .sstat t a => some (encX 0x1d t a 0 0 0x4)
  | .tagset t a b => some (encX 0x1d t a b 0 0x5)
  | .tagclr t a b => some (encX 0x1d t a b 0 0x6)
  | .caston t a b => some (encX 0x24 t a b 0 0x0)
  | .bindoff t a q => some (encX 0x24 t a 0 ((0 : BitVec 3) ++ q) 0x1)
  | .slip t a => some (encX 0x24 t a 0 0 0x2)
  | .unslip t a => some (encX 0x24 t a 0 0 0x3)
  | .lift t a q => some (encX 0x24 t a 0 ((0 : BitVec 3) ++ q) 0x4)
  | .rsave t => some (encX 0x24 t 0 0 0 0x5)
  | .rload t a b => some (encX 0x24 t a b 0 0x6)
  | .strd t a q => some (encX 0x24 t a 0 ((0 : BitVec 2) ++ q) 0x7)
  | .stwr t a b q => some (encX 0x24 t a b ((0 : BitVec 2) ++ q) 0x8)
  | .acopy t a b q => some (encX 0x28 t a b q 0x0)
  | .acopy2 t a b q => some (encX 0x28 t a b q 0x1)
  | .afill t a b q => some (encX 0x28 t a b q 0x2)
  | .qfence t a => some (encX 0x28 t a 0 0 0x3)
  | .acopyb t a b q => some (encX 0x28 t a b q 0x4)
  | .tinval t a b q => some (encX 0x29 t a b ((0 : BitVec 3) ++ q) 0x0)
  | .tlook t a q => some (encX 0x29 t a 0 ((0 : BitVec 3) ++ q) 0x1)
  | .genres t a q => some (encX 0x29 t a 0 q 0x2)
  | .mxw t a b q => some (encX 0x2c t a b ((0 : BitVec 1) ++ q) 0x0)
  | .mxclr t a q => some (encX 0x2c t a 0 ((0 : BitVec 1) ++ q) 0x1)
  | .accrd t a b q => some (encX 0x2c t a b ((0 : BitVec 1) ++ q) 0x2)
  | .gpld t a => some (encX 0x2c t a 0 0 0x3)
  | .balloc t a => some (encX 0x30 t a 0 0 0x0)
  | .bfree t a b => some (encX 0x30 t a b 0 0x1)
  | .btapp t a q => some (encX 0x30 t a 0 ((0 : BitVec 3) ++ q) 0x2)
  | .bttrim t a b => some (encX 0x30 t a b 0 0x3)
  | .btlook t a b => some (encX 0x30 t a b 0 0x4)
  | .btfork t a b => some (encX 0x30 t a b 0 0x5)
  | .btdrop t a => some (encX 0x30 t a 0 0 0x6)
  | .bpstat t a q => some (encX 0x30 t a 0 ((0 : BitVec 1) ++ q) 0x7)
  | .bpmake t a => some (encX 0x30 t a 0 0 0x8)
  | .phb t => some (encX 0x34 t 0 0 0 0x0)
  | .bar t => some (encX 0x34 t 0 0 0 0x1)
  | .fence t q => some (encX 0x34 t 0 0 ((0 : BitVec 1) ++ q) 0x2)
  | .sigset t a b q => some (encX 0x34 t a b ((0 : BitVec 1) ++ q) 0x3)
  | .sigwait t a b q => some (encX 0x34 t a b ((0 : BitVec 1) ++ q) 0x4)
  | .aadd t a b q => some (encX 0x35 t a b q 0x0)
  | .aand t a b q => some (encX 0x35 t a b q 0x1)
  | .aor t a b q => some (encX 0x35 t a b q 0x2)
  | .axor t a b q => some (encX 0x35 t a b q 0x3)
  | .amin t a b q => some (encX 0x35 t a b q 0x4)
  | .amax t a b q => some (encX 0x35 t a b q 0x5)
  | .aminu t a b q => some (encX 0x35 t a b q 0x6)
  | .amaxu t a b q => some (encX 0x35 t a b q 0x7)
  | .axchg t a b q => some (encX 0x35 t a b q 0x8)
  | .acas t a b q => some (encX 0x35 t a b q 0x9)
  | .aaddf t a b q => some (encX 0x35 t a b ((1 : BitVec 1) ++ q) 0xa)
  | .ald t a q => some (encX 0x35 t a 0 q 0xb)
  | .radd t a b q => some (encX 0x36 t a b q 0x0)
  | .rmin t a b q => some (encX 0x36 t a b q 0x1)
  | .rmax t a b q => some (encX 0x36 t a b q 0x2)
  | .raddf t a b q => some (encX 0x36 t a b ((1 : BitVec 1) ++ q) 0x3)
  | .sendrc t a b q => some (encX 0x3a t a b q 0x0)
  | .rcmask t a => some (encX 0x3a t a 0 0 0x1)
  | .rcumask t a => some (encX 0x3a t a 0 0 0x2)
  | .rcrecv t a q => some (encX 0x3a t a 0 q 0x3)
  | .ybind t a q => some (encX 0x3a t a 0 ((0 : BitVec 3) ++ q) 0x4)
  | .smcfgBind t a => some (encX 0x3c t a 0 0 0x0)
  | .smcfgWriteStates t a b => some (encX 0x3c t a b 1 0x0)
  | .smcfgReadState t a => some (encX 0x3c t a 0 2 0x0)
  | .smcomp t a b q => some (encX 0x3c t a b ((0 : BitVec 2) ++ q) 0x1)
  | .smstep t a b q => some (encX 0x3c t a b ((0 : BitVec 3) ++ q) 0x2)
  | .smmask t a b q => some (encX 0x3c t a b ((0 : BitVec 3) ++ q) 0x3)
  | .launch t a b => some (encX 0x3d t a b 0 0x0)
  | .lwait t a q => some (encX 0x3d t a 0 ((0 : BitVec 2) ++ q) 0x1)
  | .cancel t a q => some (encX 0x3d t a 0 q 0x2)
  | .cntrd t a q => some (encX 0x3d t a 0 ((0 : BitVec 1) ++ q) 0x3)
  | .pcreate t a => some (encX 0x3d t a 0 0 0x8)
  | .pgrant t a b q => some (encX 0x3d t a b ((0 : BitVec 1) ++ q) 0x9)
  | .presv t a q => some (encX 0x3d t a 0 ((0 : BitVec 3) ++ q) 0xa)
  | .qbind t a b q => some (encX 0x3d t a b ((0 : BitVec 3) ++ q) 0xb)
  | .plend t a => some (encX 0x3d t a 0 0 0xc)
  | .precall t a => some (encX 0x3d t a 0 0 0xd)
  | .pslice t a q => some (encX 0x3d t a 0 ((0 : BitVec 3) ++ q) 0xe)
  | .freeze t a q => some (encX 0x3e t a 0 ((0 : BitVec 3) ++ q) 0x0)
  | .thawResume t a q => some (encX 0x3e t a 0 ((0 : BitVec 3) ++ q) 0x1)
  | .thawReleaseHold t => some (encX 0x3e t 0 0 2 0x1)
  | .thawVacate t a q => some (encX 0x3e t a 0 ((2 : BitVec 3) ++ q) 0x1)
  | .skout t a b => some (encX 0x3e t a b 0 0x2)
  | .skin t a b => some (encX 0x3e t a b 0 0x3)
  | .brkn t a b q => some (encX 0x3e t a b ((0 : BitVec 2) ++ q) 0x4)
  | .trcon t a => some (encX 0x3e t a 0 0 0x5)
  | .trcoff t => some (encX 0x3e t 0 0 0 0x6)
  | .walk t a => some (encX 0x3e t a 0 0 0x7)
  | .tsrd t a q => some (encX 0x3e t a 0 ((0 : BitVec 2) ++ q) 0x8)
  | .vadd m x y => some (encF 0x00 m x y)
  | .vsub m x y => some (encF 0x01 m x y)
  | .vmul m x y => some (encF 0x02 m x y)
  | .vmad m x y => some (encF 0x03 m x y)
  | .vmin m x y => some (encF 0x04 m x y)
  | .vmax m x y => some (encF 0x05 m x y)
  | .vminu m x y => some (encF 0x06 m x y)
  | .vmaxu m x y => some (encF 0x07 m x y)
  | .vand m x y => some (encF 0x08 m x y)
  | .vor m x y => some (encF 0x09 m x y)
  | .vxor m x y => some (encF 0x0a m x y)
  | .vshl m x y => some (encF 0x0b m x y)
  | .vshr m x y => some (encF 0x0c m x y)
  | .vsra m x y => some (encF 0x0d m x y)
  | .vabs m x y => some (encF 0x0e m x y)
  | .vneg m x y => some (encF 0x0f m x y)
  | .vaddk m x y => some (encF 0x10 m x y)
  | .vmulk m x y => some (encF 0x11 m x y)
  | .vsgadd m x y => some (encF 0x12 m x y)
  | .vadds m x y => some (encF 0x13 m x y)
  | .vsubs m x y => some (encF 0x14 m x y)
  | .vdot4 x y => some (encF 0x15 0 x y)
  | .fadd m x y => some (encF 0x20 m x y)
  | .fsub m x y => some (encF 0x21 m x y)
  | .fmul m x y => some (encF 0x22 m x y)
  | .fma m x y => some (encF 0x23 m x y)
  | .fmax m x y => some (encF 0x24 m x y)
  | .fmin m x y => some (encF 0x25 m x y)
  | .frcp m x y => some (encF 0x26 m x y)
  | .frsq m x y => some (encF 0x27 m x y)
  | .fexp2 m x y => some (encF 0x28 m x y)
  | .flog2 m x y => some (encF 0x29 m x y)
  | .faddk m x y => some (encF 0x2a m x y)
  | .fmulk m x y => some (encF 0x2b m x y)
  | .fmac m x y => some (encF 0x2c m x y)
  | .fabs m x y => some (encF 0x2d m x y)
  | .fneg m x y => some (encF 0x2e m x y)
  | .cvt x y => some (encF 0x40 0 x y)
  | .bperm x y => some (encF 0x41 0 x y)
  | .b3dec x y => some (encF 0x42 0 x y)
  | .nibx m x y => some (encF 0x43 ((0 : BitVec 1) ++ m) x y)
  | .pack x y => some (encF 0x44 0 x y)
  | .unpk x y => some (encF 0x45 0 x y)
  | .vcmp x y => some (encF 0x50 0 x y)
  | .sel x y => some (encF 0x51 0 x y)
  | .steer x y => some (encF 0x52 0 x y)
  | .gate x y => some (encF 0x53 0 x y)
  | .merge x y => some (encF 0x54 0 x y)
  | .masksel x y => some (encF 0x55 0 x y)
  | .pnot x y => some (encF 0x56 0 x y)
  | .lsum x y => some (encF 0x60 0 x y)
  | .lmax x y => some (encF 0x61 0 x y)
  | .largmax x y => some (encF 0x62 0 x y)
  | .lbcast x y => some (encF 0x63 0 x y)
  | .lrot x y => some (encF 0x64 0 x y)
  | .lscan x y => some (encF 0x65 0 x y)
  | .onehot x y => some (encF 0x66 0 x y)
  | .lextr x y => some (encF 0x67 0 x y)
  | .sreg x y => some (encF 0x70 0 x y)
  | .cnt x y => some (encF 0x71 0 x y)
  | .eor x y => some (encF 0x72 0 x y)
  | .ordj x y => some (encF 0x73 0 x y)
  | .dup x y => some (encF 0x74 0 x y)
  | .const x y => some (encF 0x75 0 x y)
  | .sink x y => some (encF 0x76 0 x y)
  | .stitch x y => some (encF 0x77 0 x y)
  | .delay x y => some (encF 0x78 0 x y)
  | .idx x y => some (encF 0x80 0 x y)
  | .sregEmission _ _ => none
  | .roundBoundary => none
  | .bindoffDrainEnd _ => none
  | .rsaveDrainEnd => none
  | .mxBlockEntry _ => none
  | .planeSwap => none
  | .tileSourceRow => none
  | .accumulatorAddition _ => none
  | .accumulatorRelease _ => none
  | .pairRelease _ _ => none
  | .gpFiring _ => none
  | .memoryNodeRequest _ => none
  | .memoryNodeCompletion _ => none
  | .pagedRequest _ => none
  | .generatorFault _ => none
  | .networkPortSend _ => none
  | .yarnTokenArrival _ => none
  | .composerArrival => none
  | .completionReport => none
  | .deadlockReport => none
  | .tokenCompletion _ => none
  | .engineOperationStart _ => none
  | .trapEntry => none
  | .coreFreeze => none
  | .writeArrival _ => none
  | .phaseBoundary _ => none
  | .homeBankAccess _ => none
  | .sigwaitTest _ => none
  | .sigwaitTimeout _ => none
  | .packetAtSwitch _ _ _ => none
  | .packetDelivery _ => none
  | .trimNotice _ => none
  | .reask _ => none
  | .retransmission _ => none
  | .acknowledgement _ _ => none
  | .ackReceived _ => none
  | .lossNotice _ => none
  | .routeClassArrival _ => none
  | .handler1Arrival _ => none
  | .dispatchAdmit => none
  | .launchCompletion _ => none
  | .shadowSwap => none
  | .reservationPeriodStart _ => none
  | .suspendedUnitResume _ => none
  | .tensionRateChange _ _ => none
  | .memoryError _ => none
  | .logMessage _ => none
  | .write _ => none
  | .read _ => none
  | .logep _ => none
  | .timebase _ => none
  | .winmap _ => none
  | .dirtyStart _ => none
  | .dirtyRead _ => none
  | .dirtyStop _ => none
  | .snapshot _ => none
  | .attest _ => none
  | .adopt _ => none
  | .reset => none
  | .coolantOver65 _ _ => none
  | .coolantOver75 => none
  | .setStreamEnd => none
  | .reservationBudgetSpent _ => none

/-- What a 32-bit row of the table decodes to: the word laid out in memory as four bytes, lowest address first,
read as a sequencer word, and, where that is no sequencer instruction, as a fabric operation word. The two kinds
of word share the 32-bit space and are told apart by where they stand (R28, R35). -/
def decodeTableWord (nbits w : Nat) : Option Instr :=
  if nbits == 32 && decide (w < 2 ^ 32) then
    match decodeBytes (bytesOfWord (BitVec.ofNat 32 w)) with
    | .ok (i, _) => some i
    | .error _ =>
      match decodeFabric (BitVec.ofNat 32 w) with
      | .ok i => some i
      | .error _ => none
  else none

/-! ### One decoded word per constructor
Words of the spec's own panels and lists where it prints one; otherwise written out from the row's encoding,
with distinct values in every field. -/

theorem word_alu :
    decodeWord 0x00108300#32 = .ok (.add 1 2 3) ∧
    decodeWord 0x00988c01#32 = .ok (.sub 9 0x22 0xc) ∧
    decodeWord 0x00988c02#32 = .ok (.mul 9 0x22 0xc) ∧
    decodeWord 0x00988c03#32 = .ok (.mulh 9 0x22 0xc) ∧
    decodeWord 0x00988c04#32 = .ok (.mulhu 9 0x22 0xc) ∧
    decodeWord 0x00518705#32 = .ok (.divs 5 6 7) ∧
    decodeWord 0x00988c06#32 = .ok (.divu 9 0x22 0xc) ∧
    decodeWord 0x00988c07#32 = .ok (.rems 9 0x22 0xc) ∧
    decodeWord 0x00988c08#32 = .ok (.remu 9 0x22 0xc) ∧
    decodeWord 0x00988c10#32 = .ok (.and 9 0x22 0xc) ∧
    decodeWord 0x00988c11#32 = .ok (.or 9 0x22 0xc) ∧
    decodeWord 0x00988c12#32 = .ok (.xor 9 0x22 0xc) ∧
    decodeWord 0x00988c13#32 = .ok (.andn 9 0x22 0xc) ∧
    decodeWord 0x00988c18#32 = .ok (.shl 9 0x22 0xc) ∧
    decodeWord 0x00988c19#32 = .ok (.shr 9 0x22 0xc) ∧
    decodeWord 0x00988c1a#32 = .ok (.sra 9 0x22 0xc) ∧
    decodeWord 0x00988c20#32 = .ok (.min 9 0x22 0xc) ∧
    decodeWord 0x00988c21#32 = .ok (.max 9 0x22 0xc) ∧
    decodeWord 0x00988c22#32 = .ok (.minu 9 0x22 0xc) ∧
    decodeWord 0x00988c23#32 = .ok (.maxu 9 0x22 0xc) ∧
    decodeWord 0x00988c28#32 = .ok (.cmpeq 9 0x22 0xc) ∧
    decodeWord 0x00988c29#32 = .ok (.cmpne 9 0x22 0xc) ∧
    decodeWord 0x00988c2a#32 = .ok (.cmplt 9 0x22 0xc) ∧
    decodeWord 0x00988c2b#32 = .ok (.cmpltu 9 0x22 0xc) ∧
    decodeWord 0x00988c2c#32 = .ok (.cmple 9 0x22 0xc) ∧
    decodeWord 0x00988c2d#32 = .ok (.cmpleu 9 0x22 0xc) ∧
    decodeWord 0x00988030#32 = .ok (.clz 9 0x22) ∧
    decodeWord 0x00988031#32 = .ok (.popc 9 0x22) := by
  repeat' constructor

theorem word_immediate :
    decodeWord 0x04313ffb#32 = .ok (.addi 3 4 0x3ffb) ∧
    decodeWord 0x089881a5#32 = .ok (.andi 9 0x22 0x1a5) ∧
    decodeWord 0x0c9881a5#32 = .ok (.ori 9 0x22 0x1a5) ∧
    decodeWord 0x109881a5#32 = .ok (.xori 9 0x22 0x1a5) ∧
    decodeWord 0x14988025#32 = .ok (.shli 9 0x22 0x25) ∧
    decodeWord 0x18988025#32 = .ok (.shri 9 0x22 0x25) ∧
    decodeWord 0x1cc30001#32 = .ok (.srai 0xc 0xc 1) ∧
    decodeWord 0x209881a5#32 = .ok (.cmplti 9 0x22 0x1a5) ∧
    decodeWord 0x249881a5#32 = .ok (.cmpeqi 9 0x22 0x1a5) ∧
    decodeWord 0x28988025#32 = .ok (.sext 9 0x22 0x25) ∧
    decodeWord 0x2c988025#32 = .ok (.zext 9 0x22 0x25) ∧
    decodeWord 0x30d00010#32 = .ok (.lui 0xd 0x10) ∧
    decodeWord 0x34200000#32 = .ok (.addpc 2 0) ∧
    decodeWord 0x3810000f#32 = .ok (.lih 1 0xf) := by
  repeat' constructor

theorem word_control :
    decodeWord 0x404467fb#32 = .ok (.beq 0x22 0xc 0x7fb) ∧
    decodeWord 0x40882ffd#32 = .ok (.bne 4 5 0x7fd) ∧
    decodeWord 0x414467fb#32 = .ok (.blt 0x22 0xc 0x7fb) ∧
    decodeWord 0x41c467fb#32 = .ok (.bge 0x22 0xc 0x7fb) ∧
    decodeWord 0x424467fb#32 = .ok (.bltu 0x22 0xc 0x7fb) ∧
    decodeWord 0x42c467fb#32 = .ok (.bgeu 0x22 0xc 0x7fb) ∧
    decodeWord 0x43280002#32 = .ok (.btr 0x14 2) ∧
    decodeWord 0x47f00005#32 = .ok (.jal 0x3f 5) ∧
    decodeWord 0x489881a5#32 = .ok (.jalr 9 0x22 0x1a5) ∧
    decodeWord 0x509881a5#32 = .ok (.ldw 9 0x22 0x1a5) ∧
    decodeWord 0x54204008#32 = .ok (.ldd 2 1 8) ∧
    decodeWord 0x589881a5#32 = .ok (.stw 9 0x22 0x1a5) ∧
    decodeWord 0x5c9881a5#32 = .ok (.std 9 0x22 0x1a5) ∧
    decodeWord 0x60000000#32 = .ok (.nop) ∧
    decodeWord 0x60000001#32 = .ok (.halt) ∧
    decodeWord 0x60000002#32 = .ok (.yield) ∧
    decodeWord 0x60014008#32 = .ok (.trap 5) ∧
    decodeWord 0x60000009#32 = .ok (.eret) ∧
    decodeWord 0x6005000d#32 = .ok (.tokwait 0x14) ∧
    decodeWord 0x64100020#32 = .ok (.mfs 1 0x20) ∧
    decodeWord 0x68088013#32 = .ok (.mts 0x22 0x13) := by
  repeat' constructor

theorem word_fabric_control :
    decodeWord 0x71428000#32 = .ok (.cfgld 0x14 0xa) ∧
    decodeWord 0x71500001#32 = .ok (.cfgsw 0x15) ∧
    decodeWord 0x71618012#32 = .ok (.cfgparm 0x16 6 1) ∧
    decodeWord 0x71700003#32 = .ok (.cfgrel 0x17) ∧
    decodeWord 0x71800004#32 = .ok (.drain 0x18) ∧
    decodeWord 0x71900005#32 = .ok (.qwait 0x19) ∧
    decodeWord 0x7544cd00#32 = .ok (.sfeed 0x14 0x13 0xd 0) ∧
    decodeWord 0x75528c11#32 = .ok (.sfeedt 0x15 0xa 0xc 1) ∧
    decodeWord 0x7574c002#32 = .ok (.sdraw 0x17 0x13 0) ∧
    decodeWord 0x75900033#32 = .ok (.sclose 0x19 3) ∧
    decodeWord 0x75824004#32 = .ok (.sstat 0x18 9) ∧
    decodeWord 0x75924a05#32 = .ok (.tagset 0x19 9 0xa) ∧
    decodeWord 0x75924a06#32 = .ok (.tagclr 0x19 9 0xa) := by
  repeat' constructor

theorem word_rounds :
    decodeWord 0x9162cc00#32 = .ok (.caston 0x16 0xb 0xc) ∧
    decodeWord 0x91730011#32 = .ok (.bindoff 0x17 0xc 1) ∧
    decodeWord 0x91730002#32 = .ok (.slip 0x17 0xc) ∧
    decodeWord 0x91730003#32 = .ok (.unslip 0x17 0xc) ∧
    decodeWord 0x91730014#32 = .ok (.lift 0x17 0xc 1) ∧
    decodeWord 0x91400005#32 = .ok (.rsave 0x14) ∧
    decodeWord 0x91828e06#32 = .ok (.rload 0x18 0xa 0xe) ∧
    decodeWord 0x91930017#32 = .ok (.strd 0x19 0xc 1) ∧
    decodeWord 0x91930d18#32 = .ok (.stwr 0x19 0xc 0xd 1) := by
  repeat' constructor

theorem word_memory :
    decodeWord 0xa1420a20#32 = .ok (.acopy 0x14 8 0xa 2) ∧
    decodeWord 0xa1520a11#32 = .ok (.acopy2 0x15 8 0xa 1) ∧
    decodeWord 0xa1624c02#32 = .ok (.afill 0x16 9 0xc 0) ∧
    decodeWord 0xa1734003#32 = .ok (.qfence 0x17 0xd) ∧
    decodeWord 0xa1820a34#32 = .ok (.acopyb 0x18 8 0xa 3) ∧
    decodeWord 0xa5938f10#32 = .ok (.tinval 0x19 0xe 0xf 1) ∧
    decodeWord 0xa5a38001#32 = .ok (.tlook 0x1a 0xe 0) ∧
    decodeWord 0xa5b3c032#32 = .ok (.genres 0x1b 0xf 3) := by
  repeat' constructor

theorem word_matrix :
    decodeWord 0xb1420c10#32 = .ok (.mxw 0x14 8 0xc 1) ∧
    decodeWord 0xb1528021#32 = .ok (.mxclr 0x15 0xa 2) ∧
    decodeWord 0xb1630e02#32 = .ok (.accrd 0x16 0xc 0xe 0) ∧
    decodeWord 0xb1718003#32 = .ok (.gpld 0x17 6) := by
  repeat' constructor

theorem word_pool :
    decodeWord 0xc1410000#32 = .ok (.balloc 0x14 4) ∧
    decodeWord 0xc1510601#32 = .ok (.bfree 0x15 4 6) ∧
    decodeWord 0xc1410012#32 = .ok (.btapp 0x14 4 1) ∧
    decodeWord 0xc1654803#32 = .ok (.bttrim 0x16 0x15 8) ∧
    decodeWord 0xc1654904#32 = .ok (.btlook 0x16 0x15 9) ∧
    decodeWord 0xc1854005#32 = .ok (.btfork 0x18 0x15 0) ∧
    decodeWord 0xc1954006#32 = .ok (.btdrop 0x19 0x15) ∧
    decodeWord 0xc1710007#32 = .ok (.bpstat 0x17 4 0) ∧
    decodeWord 0xc1a30008#32 = .ok (.bpmake 0x1a 0xc) := by
  repeat' constructor

theorem word_sync :
    decodeWord 0xd1400000#32 = .ok (.phb 0x14) ∧
    decodeWord 0xd1400001#32 = .ok (.bar 0x14) ∧
    decodeWord 0xd1600052#32 = .ok (.fence 0x16 5) ∧
    decodeWord 0xd1528b43#32 = .ok (.sigset 0x15 0xa 0xb 4) ∧
    decodeWord 0xd1728c44#32 = .ok (.sigwait 0x17 0xa 0xc 4) ∧
    decodeWord 0xd5828b40#32 = .ok (.aadd 0x18 0xa 0xb 4) ∧
    decodeWord 0xd5588c11#32 = .ok (.aand 0x15 0x22 0xc 1) ∧
    decodeWord 0xd5588c12#32 = .ok (.aor 0x15 0x22 0xc 1) ∧
    decodeWord 0xd5588c13#32 = .ok (.axor 0x15 0x22 0xc 1) ∧
    decodeWord 0xd5588c14#32 = .ok (.amin 0x15 0x22 0xc 1) ∧
    decodeWord 0xd5588c15#32 = .ok (.amax 0x15 0x22 0xc 1) ∧
    decodeWord 0xd5588c16#32 = .ok (.aminu 0x15 0x22 0xc 1) ∧
    decodeWord 0xd5588c17#32 = .ok (.amaxu 0x15 0x22 0xc 1) ∧
    decodeWord 0xd5588c18#32 = .ok (.axchg 0x15 0x22 0xc 1) ∧
    decodeWord 0xd5828c49#32 = .ok (.acas 0x18 0xa 0xc 4) ∧
    decodeWord 0xd5928bca#32 = .ok (.aaddf 0x19 0xa 0xb 4) ∧
    decodeWord 0xd5a2804b#32 = .ok (.ald 0x1a 0xa 4) ∧
    decodeWord 0xd9b28b40#32 = .ok (.radd 0x1b 0xa 0xb 4) ∧
    decodeWord 0xd9588c11#32 = .ok (.rmin 0x15 0x22 0xc 1) ∧
    decodeWord 0xd9588c12#32 = .ok (.rmax 0x15 0x22 0xc 1) ∧
    decodeWord 0xd8028bc3#32 = .ok (.raddf 0 0xa 0xb 4) := by
  repeat' constructor

theorem word_net :
    decodeWord 0xe9428c30#32 = .ok (.sendrc 0x14 0xa 0xc 3) ∧
    decodeWord 0xe9534001#32 = .ok (.rcmask 0x15 0xd) ∧
    decodeWord 0xe9534002#32 = .ok (.rcumask 0x15 0xd) ∧
    decodeWord 0xe9638033#32 = .ok (.rcrecv 0x16 0xe 3) ∧
    decodeWord 0xe973c014#32 = .ok (.ybind 0x17 0xf 1) := by
  repeat' constructor

theorem word_statemap :
    decodeWord 0xf142c000#32 = .ok (.smcfgBind 0x14 0xb) ∧
    decodeWord 0xf142cc10#32 = .ok (.smcfgWriteStates 0x14 0xb 0xc) ∧
    decodeWord 0xf1e18020#32 = .ok (.smcfgReadState 0x1e 6) ∧
    decodeWord 0xf1930e21#32 = .ok (.smcomp 0x19 0xc 0xe 2) ∧
    decodeWord 0xf1e6cf12#32 = .ok (.smstep 0x1e 0x1b 0xf 1) ∧
    decodeWord 0xf1818003#32 = .ok (.smmask 0x18 6 0 0) := by
  repeat' constructor

theorem word_launch :
    decodeWord 0xf5428b00#32 = .ok (.launch 0x14 0xa 0xb) ∧
    decodeWord 0xf5530011#32 = .ok (.lwait 0x15 0xc 1) ∧
    decodeWord 0xf5630022#32 = .ok (.cancel 0x16 0xc 2) ∧
    decodeWord 0xf5730043#32 = .ok (.cntrd 0x17 0xc 4) ∧
    decodeWord 0xf5828008#32 = .ok (.pcreate 0x18 0xa) ∧
    decodeWord 0xf5928b09#32 = .ok (.pgrant 0x19 0xa 0xb 0) ∧
    decodeWord 0xf5a2800a#32 = .ok (.presv 0x1a 0xa 0) ∧
    decodeWord 0xf5b28b0b#32 = .ok (.qbind 0x1b 0xa 0xb 0) ∧
    decodeWord 0xf5c2800c#32 = .ok (.plend 0x1c 0xa) ∧
    decodeWord 0xf5d3000d#32 = .ok (.precall 0x1d 0xc) ∧
    decodeWord 0xf5e2800e#32 = .ok (.pslice 0x1e 0xa 0) := by
  repeat' constructor

theorem word_debug :
    decodeWord 0xf9428010#32 = .ok (.freeze 0x14 0xa 1) ∧
    decodeWord 0xf9528001#32 = .ok (.thawResume 0x15 0xa 0) ∧
    decodeWord 0xfab00021#32 = .ok (.thawReleaseHold 0x2b) ∧
    decodeWord 0xf9588051#32 = .ok (.thawVacate 0x15 0x22 1) ∧
    decodeWord 0xf962cc02#32 = .ok (.skout 0x16 0xb 0xc) ∧
    decodeWord 0xf972cc03#32 = .ok (.skin 0x17 0xb 0xc) ∧
    decodeWord 0xf9834e04#32 = .ok (.brkn 0x18 0xd 0xe 0) ∧
    decodeWord 0xf993c005#32 = .ok (.trcon 0x19 0xf) ∧
    decodeWord 0xf9a00006#32 = .ok (.trcoff 0x1a) ∧
    decodeWord 0xf9b40007#32 = .ok (.walk 0x1b 0x10) ∧
    decodeWord 0xf9c00028#32 = .ok (.tsrd 0x1c 0 2) := by
  repeat' constructor

theorem word_fabric_integer :
    decodeFabric 0x00000008#32 = .ok (.vadd 0 0 8) ∧
    decodeFabric 0x014e0097#32 = .ok (.vsub 1 0x1c0 0x97) ∧
    decodeFabric 0x024e0097#32 = .ok (.vmul 1 0x1c0 0x97) ∧
    decodeFabric 0x034e0097#32 = .ok (.vmad 1 0x1c0 0x97) ∧
    decodeFabric 0x044e0097#32 = .ok (.vmin 1 0x1c0 0x97) ∧
    decodeFabric 0x054e0097#32 = .ok (.vmax 1 0x1c0 0x97) ∧
    decodeFabric 0x064e0097#32 = .ok (.vminu 1 0x1c0 0x97) ∧
    decodeFabric 0x074e0097#32 = .ok (.vmaxu 1 0x1c0 0x97) ∧
    decodeFabric 0x084e0097#32 = .ok (.vand 1 0x1c0 0x97) ∧
    decodeFabric 0x094e0097#32 = .ok (.vor 1 0x1c0 0x97) ∧
    decodeFabric 0x0a4e0097#32 = .ok (.vxor 1 0x1c0 0x97) ∧
    decodeFabric 0x0b002fff#32 = .ok (.vshl 0 5 0x7ff) ∧
    decodeFabric 0x0c4e0097#32 = .ok (.vshr 1 0x1c0 0x97) ∧
    decodeFabric 0x0d4e0097#32 = .ok (.vsra 1 0x1c0 0x97) ∧
    decodeFabric 0x0e4e0097#32 = .ok (.vabs 1 0x1c0 0x97) ∧
    decodeFabric 0x0f4e0097#32 = .ok (.vneg 1 0x1c0 0x97) ∧
    decodeFabric 0x104e0097#32 = .ok (.vaddk 1 0x1c0 0x97) ∧
    decodeFabric 0x114e0097#32 = .ok (.vmulk 1 0x1c0 0x97) ∧
    decodeFabric 0x120267ff#32 = .ok (.vsgadd 0 0x4c 0x7ff) ∧
    decodeFabric 0x134e0097#32 = .ok (.vadds 1 0x1c0 0x97) ∧
    decodeFabric 0x144e0097#32 = .ok (.vsubs 1 0x1c0 0x97) ∧
    decodeFabric 0x150e0097#32 = .ok (.vdot4 0x1c0 0x97) := by
  repeat' constructor

theorem word_fabric_float :
    decodeFabric 0x200e07ff#32 = .ok (.fadd 0 0x1c0 0x7ff) ∧
    decodeFabric 0x214e0097#32 = .ok (.fsub 1 0x1c0 0x97) ∧
    decodeFabric 0x224e0097#32 = .ok (.fmul 1 0x1c0 0x97) ∧
    decodeFabric 0x234e0097#32 = .ok (.fma 1 0x1c0 0x97) ∧
    decodeFabric 0x244e0097#32 = .ok (.fmax 1 0x1c0 0x97) ∧
    decodeFabric 0x254e0097#32 = .ok (.fmin 1 0x1c0 0x97) ∧
    decodeFabric 0x264e0097#32 = .ok (.frcp 1 0x1c0 0x97) ∧
    decodeFabric 0x274e0097#32 = .ok (.frsq 1 0x1c0 0x97) ∧
    decodeFabric 0x284e0097#32 = .ok (.fexp2 1 0x1c0 0x97) ∧
    decodeFabric 0x294e0097#32 = .ok (.flog2 1 0x1c0 0x97) ∧
    decodeFabric 0x2a4e0097#32 = .ok (.faddk 1 0x1c0 0x97) ∧
    decodeFabric 0x2b0067ff#32 = .ok (.fmulk 0 0xc 0x7ff) ∧
    decodeFabric 0x2c4e0097#32 = .ok (.fmac 1 0x1c0 0x97) ∧
    decodeFabric 0x2d4e0097#32 = .ok (.fabs 1 0x1c0 0x97) ∧
    decodeFabric 0x2e4e0097#32 = .ok (.fneg 1 0x1c0 0x97) := by
  repeat' constructor

theorem word_fabric_other :
    decodeFabric 0x400067ff#32 = .ok (.cvt 0xc 0x7ff) ∧
    decodeFabric 0x410027ff#32 = .ok (.bperm 4 0x7ff) ∧
    decodeFabric 0x42002008#32 = .ok (.b3dec 4 8) ∧
    decodeFabric 0x430087ff#32 = .ok (.nibx 0 0x10 0x7ff) ∧
    decodeFabric 0x440e0097#32 = .ok (.pack 0x1c0 0x97) ∧
    decodeFabric 0x450217ff#32 = .ok (.unpk 0x42 0x7ff) ∧
    decodeFabric 0x500e0097#32 = .ok (.vcmp 0x1c0 0x97) ∧
    decodeFabric 0x51181fff#32 = .ok (.sel 0x303 0x7ff) ∧
    decodeFabric 0x520e0097#32 = .ok (.steer 0x1c0 0x97) ∧
    decodeFabric 0x530e0097#32 = .ok (.gate 0x1c0 0x97) ∧
    decodeFabric 0x540e0097#32 = .ok (.merge 0x1c0 0x97) ∧
    decodeFabric 0x5500a7ff#32 = .ok (.masksel 0x14 0x7ff) ∧
    decodeFabric 0x560e0097#32 = .ok (.pnot 0x1c0 0x97) ∧
    decodeFabric 0x60183850#32 = .ok (.lsum 0x307 0x50) ∧
    decodeFabric 0x610e0097#32 = .ok (.lmax 0x1c0 0x97) ∧
    decodeFabric 0x62183fff#32 = .ok (.largmax 0x307 0x7ff) ∧
    decodeFabric 0x63026fff#32 = .ok (.lbcast 0x4d 0x7ff) ∧
    decodeFabric 0x64006fff#32 = .ok (.lrot 0xd 0x7ff) ∧
    decodeFabric 0x650e0097#32 = .ok (.lscan 0x1c0 0x97) ∧
    decodeFabric 0x660047ff#32 = .ok (.onehot 8 0x7ff) ∧
    decodeFabric 0x670e0097#32 = .ok (.lextr 0x1c0 0x97) ∧
    decodeFabric 0x700027ff#32 = .ok (.sreg 4 0x7ff) ∧
    decodeFabric 0x710247ff#32 = .ok (.cnt 0x48 0x7ff) ∧
    decodeFabric 0x72001fff#32 = .ok (.eor 3 0x7ff) ∧
    decodeFabric 0x730e0097#32 = .ok (.ordj 0x1c0 0x97) ∧
    decodeFabric 0x7400400c#32 = .ok (.dup 8 0xc) ∧
    decodeFabric 0x750227ff#32 = .ok (.const 0x44 0x7ff) ∧
    decodeFabric 0x76185fff#32 = .ok (.sink 0x30b 0x7ff) ∧
    decodeFabric 0x770e0097#32 = .ok (.stitch 0x1c0 0x97) ∧
    decodeFabric 0x780e0097#32 = .ok (.delay 0x1c0 0x97) ∧
    decodeFabric 0x800e0097#32 = .ok (.idx 0x1c0 0x97) := by
  repeat' constructor

theorem word_refused :
    decodeWord 0xffffffff#32 = .error .unassignedMajor ∧
    decodeWord 0x3c000000#32 = .error .unassignedMajor ∧
    decodeWord 0x00000009#32 = .error .unassignedFunction ∧
    decodeWord 0x43800000#32 = .error .unassignedFunction ∧
    decodeWord 0x60100000#32 = .error .reservedField ∧
    decodeWord 0x14000040#32 = .error .reservedField ∧
    decodeWord 0x64000008#32 = .error .illFormed ∧
    decodeWord 0x68014000#32 = .error .illFormed ∧
    decodeWord 0xd5828d49#32 = .error .illFormed ∧
    decodeWord 0xf563000f#32 = .error .unassignedFunction := by
  repeat' constructor

end Sys2Proof
end

