-- ==== Sys2Proof/Machine/State.lean ====
section
/-!
DEFINITION. The state of the KLD-7100, all of it plain data, and the state after reset.

The module is one machine whose agents are the cores' sequencers and fabrics, the block-pool controllers, the
home banks, the network, dispatch and the hosts. A step is one row of the table of operations and events; which
step comes next is plain data too (`State.sched`).
-/

namespace Sys2Proof.Machine

/-! ### Tokens (05_fabric, before R120) -/

inductive TokKind where
  | data | endOfReduction | error | order
  deriving DecidableEq, Repr

/-- A token's tag: stitch [5:0], kind [7:6], predicate [8], last [9], cause [15:10]. -/
structure Tag where
  stitch : BitVec 6
  kind   : TokKind
  pred   : Bool
  last   : Bool
  cause  : BitVec 6
  deriving DecidableEq, Repr

structure Token where
  tag     : Tag
  payload : Payload
  deriving DecidableEq, Repr

/-! ### The sequencer (R85 to R93) -/

/-- What the first read of a register finds: R88's error bit, with the trap that read raises (R88, R117, R131). -/
inductive ErrKind where
  | clear
  | token
  | cfgbad
  | fabric (port : BitVec 4)
  deriving DecidableEq, Repr

structure TrapRegs where
  cause : Word
  pc    : Word
  val   : Word
  base  : Word
  deriving DecidableEq, Repr

/-- The sequencer. PC is a 48-bit virtual address; a jump may leave bits above it, which fetch refuses (R85, R101,
R104), so it is held whole. -/
structure Seq where
  regs   : Vector Word 64
  pend   : BitVec 64
  errs   : Vector ErrKind 64
  pc     : Word
  level  : BitVec 2
  te     : Bool
  dz     : Bool
  tenant : TrapRegs
  device : TrapRegs
  argLen : BitVec 7
  deriving DecidableEq, Repr

/-! ### Units (R19, R86, R229 to R232, R270, R305) -/

/-- A packet in a unit's receive queue (R270). -/
structure RxPacket where
  cls     : BitVec 4
  bytes   : List Byte
  mark    : Bool
  srcUnit : BitVec 16
  srcCore : BitVec 8
  tag     : BitVec 16
  deriving DecidableEq, Repr

/-- The unit that runs on a set: its identity, its phase, the boundaries that have completed for it, and the first
lost write of each phase (R230). `reserve` is the queue in which it holds a reserved place (R303), `under` the reservation
it runs under (R316). -/
structure UnitCtx where
  lid       : BitVec 32
  index     : Nat
  part      : Nat
  owner     : BitVec 16
  phase     : Nat
  bypass    : Bool
  classMask : BitVec 16
  rxq       : List RxPacket
  reserve   : Option Nat
  started   : Nat
  activeCyc : Nat
  lost      : List (Nat × BitVec 48)
  bound     : Nat
  under     : Option Nat
  deriving DecidableEq, Repr

/-! ### Configurations (R35 to R44, R112) -/

structure SlotRec where
  num      : Nat
  word     : BitVec 32
  konst    : BitVec 32
  deriving DecidableEq, Repr

structure MapEntry where
  gnode   : BitVec 32
  loopReg : BitVec 8
  deriving DecidableEq, Repr

/-- MX node parameters (R193). -/
structure MxParams where
  an     : Nat
  split  : Nat
  ftzIn  : Bool
  packed : Bool
  int    : Bool
  planes : Bool
  tile   : Bool
  afmt   : BitVec 4
  sfmt   : BitVec 256
  ta     : Word
  tao    : Word
  td     : Word
  tdo    : Word
  deriving DecidableEq, Repr

/-- Accumulator-node parameters (R198). -/
structure AnParams where
  out   : Target
  out2  : Target
  int   : Bool
  trap  : Bool
  cols  : Nat
  kblk  : BitVec 32
  gnode : BitVec 32
  deriving DecidableEq, Repr

/-- Gate-pipeline parameters (R203): each stage is a function code and a constant. -/
structure GpParams where
  out    : Target
  out2   : Target
  pack   : Bool
  stages : List (BitVec 4 × BitVec 32)
  deriving DecidableEq, Repr

/-- Memory-node parameters (R169, R223). -/
structure MnParams where
  mode     : Nat
  store    : Bool
  free     : Bool
  stream   : Bool
  dat      : Target
  done     : Target
  fmt      : BitVec 4
  base     : Word
  counts   : List (BitVec 32)
  strides  : List (BitVec 32)
  modeWord : Word
  deriving DecidableEq, Repr

/-- Network-port parameters (R272). -/
structure NpParams where
  out  : Target
  mode : Nat
  cls  : BitVec 4
  deriving DecidableEq, Repr

/-- Composer-node parameters (R286). -/
structure SmParams where
  out   : Target
  astep : Bool
  amask : Bool
  deriving DecidableEq, Repr

inductive NodeBlock where
  | mx (p : MxParams)
  | an (n : Nat) (p : AnParams)
  | gp (p : GpParams)
  | mn (n : Nat) (p : MnParams)
  | np (n : Nat) (p : NpParams)
  | sm (p : SmParams)
  deriving DecidableEq, Repr

/-- The path the loader gave an edge (R126 to R128): its latency, padding included, and the output lanes it crosses, each
with the cycle after the token's departure in which it is crossed. -/
structure Path where
  cost  : Nat
  lanes : List (Nat × Nat)
  deriving DecidableEq, Repr

/-- A checked configuration image: its sections, and the path the loader gave each edge, by target. -/
structure Image where
  P      : Nat
  gid    : Word
  slots  : List SlotRec
  words  : List (BitVec 16)
  nodes  : List NodeBlock
  map    : List MapEntry
  paths  : List (Target × Path)
  deriving DecidableEq, Repr

/-! ### Fabric and node state (R112, R120, R148, R199) -/

/-- A token on its way to a buffer, due in the cycle `due`, and the lanes it crosses, each with the cycles by which that
comes before `due` (R126). -/
structure Flight where
  due   : Nat
  tgt   : Target
  tok   : Token
  lanes : List (Nat × Nat)
  deriving DecidableEq, Repr

/-- A token standing in a sequencer input port, bound for a target (R129, R130). -/
structure PortTok where
  port : Nat
  tgt  : Target
  tok  : Token
  deriving DecidableEq, Repr

/-- What an SREG owes a stitch (R148): its held value, or a passing token. -/
inductive Due where
  | held
  | pass (t : Token)
  deriving DecidableEq, Repr

/-- An SREG's entry for one stitch (R148): its held value, what it owes, and what R147's freeing event needs. -/
structure SregEntry where
  held    : Payload
  due     : List Due
  gotLast : Bool
  touched : Bool
  deriving DecidableEq, Repr

/-- An accumulator node's entry for one stitch (R199), with what R147's freeing event needs. -/
structure AnEntry where
  lanes   : BitVec 4096
  blocks  : BitVec 32
  addend  : BitVec 8
  mark    : Option (BitVec 6)
  gotLast : Bool
  touched : Bool
  deriving DecidableEq, Repr

/-- What reaches an accumulator node (R199): a promoted block, an integer block, a 16-bit block, a block that only
marks the sum, a token at an input (0, 1, or 2 for one MX passes on), the place in the order of a token that stands at
input 0 or 1 and the cycle of its arrival, or MXCLR's (R208). -/
inductive AnWork where
  | block (lanes : BitVec 4096)
  | intBlock (lanes : BitVec 4096)
  | wideBlock (lanes : BitVec 4096)
  | badBlock (cause : BitVec 6)
  | token (input : Nat) (t : Token)
  | arrived (input since : Nat)
  | clear (op : Nat)
  deriving DecidableEq, Repr

/-- Work of an accumulator node; the list of it stands in the order in which it reached the node. -/
structure AnMsg where
  node   : Nat
  stitch : Nat
  work   : AnWork
  deriving DecidableEq, Repr

/-- A release that has begun: the tokens still to leave, under the parameters it began with (R119, R200). -/
structure Release where
  node : Nat
  par  : AnParams
  toks : List Token
  deriving DecidableEq, Repr

/-- A packed result of the gate pipeline being filled (R204), with the tag of its last result and the parameters under
which its results were accepted (R119). -/
structure GpFill where
  bytes : Payload
  count : Nat
  last  : Bool
  cause : Option (BitVec 6)
  tag   : Tag
  par   : GpParams
  deriving DecidableEq, Repr

/-- A pass of an AFF or WIN load, or a request whose tokens are leaving (R171); `block` and `size` are the virtual address
and the size of the block that a PAGED request translated to (R223), and `par` the parameters it was accepted under
(R119). -/
structure MnPass where
  stitch : Nat
  idx    : Nat
  total  : Nat
  last   : Bool
  req    : Token
  block  : Nat
  size   : Nat
  par    : MnParams
  deriving DecidableEq, Repr

/-- A completion token a memory node owes (R174, R225): it leaves for `tgt` once the writes it waits for are applied.
`va` is the address of its store. -/
structure MnDone where
  stitch : Nat
  tok    : Token
  tgt    : Target
  va     : Option Nat
  writes : List Nat
  deriving DecidableEq, Repr

/-- A request that waits in the reorder buffer (R173): its token, the data token it pairs with, the parameters it was
accepted under (R119), and how many tokens of its stitch that arrived before it are still there: of kind 01, 10 or 11 at
the request input, and of kind 01 or 11 at the data input (R372). -/
structure MnStash where
  stitch : Nat
  tok    : Token
  dat    : Option Token
  par    : MnParams
  behind : Nat
  behindData : Nat
  deriving DecidableEq, Repr

/-- A cached translation of one 64 KiB page (R164, R175). -/
structure TlbEntry where
  vpn  : Nat
  pa   : Nat
  r    : Bool
  w    : Bool
  x    : Bool
  d    : Bool
  deriving DecidableEq, Repr

/-- A stopped generator (R179). -/
structure MnStop where
  va    : BitVec 48
  store : Bool
  cause : BitVec 8
  told  : Bool
  deriving DecidableEq, Repr

/-- A memory node: among its state, `tlb` is its own cache of 16 translations, the last used first (R175). -/
structure MnState where
  expect  : List (Nat × BitVec 8)
  reorder : List MnStash
  steps   : List (Nat × Nat)
  passed  : List Nat
  pass    : Option MnPass
  dones   : List MnDone
  stop    : Option MnStop
  tail    : Option Nat
  paged   : List (Nat × BitVec 32 × Nat × Nat)
  tlb     : List TlbEntry
  deriving DecidableEq, Repr

structure NpState where
  yarn : Option (BitVec 8 × Nat × Nat)
  sent : Bool
  deriving DecidableEq, Repr

structure SinkRec where
  consumed : BitVec 24
  lastSeen : Bool
  errSeen  : Bool
  firstTag : BitVec 16
  errors   : BitVec 16
  deriving DecidableEq, Repr

structure PortRec where
  closed : Bool
  passed : BitVec 24
  last   : Bool
  deriving DecidableEq, Repr

/-- The quiescence detector (R143, R144, R116). -/
structure Detector where
  report   : Option Word
  standing : Bool
  moved    : Bool
  lastMove : Nat
  deriving DecidableEq, Repr

/-- Cycles in which a channel was full, held a token, or took one in, from the configuration becoming running; the
cycles of `Fabric.age` that are not busy are those it was empty in (R343). -/
structure Chan where
  full   : Nat
  busy   : Nat
  moving : Nat
  deriving DecidableEq, Repr

/-- The fabric of a set. `pages` are the translations that CFGLD made for the nodes of the staged image (R175);
`eorDue` the end-of-reduction tokens that EOR slots have still to send; `tileOut` the current tile of each destination
ring and the rows of it that are written (R197); `smq` the composer's tokens, each with its target and the SMMASK that
sends it. -/
structure Fabric where
  running  : Option Image
  started  : Nat
  staged   : Option Image
  pages    : List (Nat × TlbEntry)
  mark     : Option Word
  held     : List (Target × Token)
  flights  : List Flight
  inq      : List PortTok
  inPorts  : List (Nat × PortRec)
  outPorts : List (Nat × PortRec)
  sinks    : List (Nat × SinkRec)
  sregs    : List ((Nat × Nat) × SregEntry)
  counts   : List ((Nat × Nat) × BitVec 32)
  eorDue   : List (Nat × Token)
  consts   : List (Nat × Nat)
  an       : List ((Nat × Nat) × AnEntry)
  anq      : List AnMsg
  pair     : List (Nat × Nat × BitVec 4096 × Option (BitVec 6))
  scales   : List (Nat × Nat)
  rels     : List Release
  tileRow  : Nat × Nat
  tileOut  : List (Nat × Nat × List Nat)
  gpFill   : List (Nat × GpFill)
  mns      : List (Nat × MnState)
  nps      : List (Nat × NpState)
  smq      : List (Token × Target × Option Nat)
  fired    : List Nat
  detect   : Detector
  chan     : List (Target × Chan)
  age      : Nat
  deriving DecidableEq, Repr

/-- A run of bytes of a range, within one aligned 16-byte unit: its virtual address, the physical one it leads to, and
its length. -/
structure Span where
  va : Nat
  pa : Nat
  n  : Nat
  deriving DecidableEq, Repr

/-! ### Streams (R146, R147, R153, R156) -/

inductive Status where
  | free | cast | live | slip | drop | off
  deriving DecidableEq, Repr

structure Stream where
  state  : Word
  reset  : Bool
  status : Status
  cause  : BitVec 6
  steps  : BitVec 32
  user   : Word
  handle : Word
  deriving DecidableEq, Repr

/-- A change of a stitch's status that waits for a round boundary (R147, R153, R157). -/
inductive StitchOp where
  | live
  | restore (st : Status) (cause : BitVec 6)
  | slip
  | unslip
  | lift (reset : Bool)
  | bindoff (save : Option (Bool × List Span))
  deriving DecidableEq, Repr

structure PendStitch where
  k     : Nat
  op    : StitchOp
  id    : Nat
  since : Nat
  deriving DecidableEq, Repr

/-- A stitch draining under BINDOFF (R153): its state area where its image is to be saved, the boundary it went off at
and the status it had. -/
structure Drain where
  k      : Nat
  id     : Nat
  save   : Option (Bool × List Span)
  since  : Nat
  before : Status
  deriving DecidableEq, Repr

/-- RSAVE in progress (R156): the stitches with their state areas, whose pages stay pinned, and the boundary its drain
began at once that has come. -/
structure Save where
  set   : List (Nat × Bool × List Span)
  id    : Nat
  asked : Nat
  since : Option Nat
  deriving DecidableEq, Repr

/-- The stream table and what goes with it. `turned` holds the changes of the last boundary that was made, each with the
status that its stitch had before. -/
structure Rounds where
  table    : Vector Stream 64
  saved    : BitVec 64
  pending  : List PendStitch
  drains   : List Drain
  save     : Option Save
  dropped  : List (Nat × Nat)
  boundary : Option Nat
  turned   : List (PendStitch × Status)
  loading  : Option (Nat × Nat)
  deriving DecidableEq, Repr

/-! ### The matrix array (R191) -/

structure Plane where
  fmt    : BitVec 4
  group  : Bool
  scale  : BitVec 32
  scales : List (BitVec 16)
  rows   : List Payload
  deriving DecidableEq, Repr

structure Planes where
  plane0  : Plane
  plane1  : Plane
  active  : Bool
  swapDue : Bool
  deriving DecidableEq, Repr

/-! ### The composer (R285) -/

/-- The descriptor of R289. -/
structure Desc where
  maps    : Word
  masks   : Word
  buffer  : Word
  V       : BitVec 32
  S       : BitVec 16
  D       : BitVec 16
  wide    : Bool
  hasId   : Bool
  idMap   : Word
  deriving DecidableEq, Repr

/-- The composer: its binding, the states and last symbols (R283), and, the model's own, the stitches that took a step
on arrival in cycle `stepAt` (R294). -/
structure Composer where
  binding : Option Desc
  st      : Vector (BitVec 16) 64
  ls      : Vector (Option (BitVec 24)) 64
  stepAt  : Nat
  stepped : List Nat
  deriving DecidableEq, Repr

/-! ### Asynchronous work of a unit -/

/-- A request to a block-pool controller, with its operands (R217). -/
inductive BlkReq where
  | balloc (h : Word)
  | bfree (h b : Word)
  | btapp (h : Word) (fresh : Bool)
  | bttrim (h b : Word)
  | btlook (h b : Word)
  | btfork (h b : Word)
  | btdrop (h : Word)
  | bpstat (h : Word) (q : Nat)
  | bpmake (bs : List Byte)
  deriving DecidableEq, Repr

/-- The classes of instruction that an issue rule tells apart (R113, R151, R206, R290, R358). -/
inductive OpClass where
  | cfg | strm | rnd | cast | move | mat | mxw | smap | lnch | other
  deriving DecidableEq, Repr

/-- What an asynchronous instruction still waits for. -/
inductive Wait where
  /-- nothing but its latency: the value, its error bit and the first cycle it may complete in -/
  | ready (v : Word) (e : ErrKind) (due : Nat)
  /-- a load: its address, its size, the bytes its unit's own earlier stores gave it when it performed (R107), whether it
  reads past snapshot copies (R238), and the number of its read request, none while a phase boundary holds it (R232) -/
  | load (pa size : Nat) (fwd : List Host.Cell) (home : Bool) (sent : Option Nat)
  /-- the detector's report: CFGSW, CFGREL, DRAIN, QWAIT (R116) -/
  | cfgsw | cfgrel | drain | qwait
  /-- a free place in an input port: SFEED (R130); the phase it was issued in, and whether it reads past snapshot copies
  (R238, R249) -/
  | feed (port : Nat) (window : Bool) (spans : List Span) (tag : Tag) (tgt : Target) (phase : Nat) (home : Bool)
  /-- a FULL tag, then a free place for each row: SFEEDT (R130) -/
  | feedTile (port : Nat) (even odd : Word) (tag : Tag) (tgt : Target) (part : Nat)
  /-- a token at an output port: SDRAW (R130) -/
  | draw (port : Nat) (window : Bool) (spans : List Span)
  /-- a round boundary or the end of a drain: CASTON to RLOAD (R152 to R157) -/
  | round
  /-- a FULL weight tile: MXW (R207) -/
  | latch (even odd : Word) (scale : BitVec 32) (group : Option (List (BitVec 16))) (plane : Option Bool)
  /-- a token boundary of the node whose parameters it replaces: CFGPARM, GPLD (R118, R208); the value it completes
  with -/
  | parm (b : NodeBlock) (v : Word)
  /-- the blocks that entered before it, added: MXCLR (R208) -/
  | clear
  /-- a token boundary of an accumulator node: ACCRD (R208) -/
  | accrd (n k : Nat) (window : Bool) (spans : List Span)
  /-- the composed map to be applied to stitches: SMCOMP (R291) -/
  | compose (map : List (BitVec 16)) (mask : Word) (v : Word)
  /-- every earlier sequencer and engine write applied: FENCE (R236) -/
  | fence
  /-- the fence part of SIGSET, then its flag write at the home bank, or at a peer module (R237, R350) -/
  | sigset (pa : Nat) (va : BitVec 48) (v : Word) (scope : Nat) (peer : Option (Nat × Nat))
  /-- a flag at its home bank: SIGWAIT (R238) -/
  | sigwait
  /-- an operation of an engine queue (R185) -/
  | engine (id : Nat)
  /-- a phase boundary: PHB and BAR (R236); `bar` holds later instructions -/
  | boundary (phase : Nat) (bar : Bool)
  /-- the fences of engine queues: QFENCE (R186) -/
  | queues (ids : List Nat)
  /-- a packet of a class: RCRECV (R280) -/
  | receive (cls : BitVec 4) (window : Bool) (spans : List Span)
  /-- an acknowledgement: SENDRC (R278) -/
  | ack
  /-- a home bank (R243) -/
  | bank
  /-- a block-pool controller (R216) -/
  | blk (ctrl : Nat) (req : BlkReq)
  /-- a completion counter reaching zero: LWAIT (R304) -/
  | counter (level : Nat) (id : Word)
  /-- mask tokens still to send: SMMASK (R293) -/
  | masks (total : Nat)
  /-- the generators in scope that are within a pass: TINVAL (R176, R177) -/
  | inval (every : Bool) (first count : Nat)
  /-- cores still freezing, or still frozen when `thaw` says so: FREEZE, THAW (R338); the sets that run the launch, or
  those in use by the caller's partition -/
  | frost (cores : List Nat) (lid : Option (BitVec 32)) (thaw : Bool)
  /-- the end of the own fabric's hold: THAW q = 2 (R338) -/
  | unhold
  /-- units still freezing, to be ended or not, asked for at device level or not: CANCEL (R304) -/
  | cancel (units : List (BitVec 32 × Nat)) (ending device : Bool)
  /-- units of a reservation still running: PRESV that withdraws it (R315) -/
  | withdraw (resv : Nat)
  /-- lent cores still to be returned, and the units suspended so far: PRECALL (R318) -/
  | recall (num count : Nat)
  deriving DecidableEq, Repr

/-- An asynchronous instruction in progress; `id` is its place in the order of issue. -/
structure Op where
  id   : Nat
  t    : Reg
  cls  : OpClass
  wait : Wait
  deriving DecidableEq, Repr

/-- The work of a copy-engine operation (R185). -/
inductive EngWork where
  | copy (dst src len : Nat)
  | tile (even odd : Word) (mem : Word) (stride : BitVec 32) (j : Nat) (out : Bool)
  | fill (dst len : Nat) (pattern : Word)
  | spread (even odd : Word) (mem : Word) (stride : BitVec 32) (j : Nat) (cores : List Nat)
  deriving DecidableEq, Repr

/-- What a started operation has done: the writes it has sent, how it will complete, and how many of its units of 16 bytes
are copied (R183). -/
structure EngRun where
  writes : List Nat
  value  : Word
  tags   : List (Nat × Nat × Bool)
  done   : Nat
  deriving DecidableEq, Repr

/-- An operation standing in an engine queue: its number, the operations a fence puts before it (R182, R186), the phase it
was issued in, and whether it was issued past a completed SIGWAIT of that phase (R238, R249, R256). -/
structure EngOp where
  id    : Nat
  queue : Nat
  t     : Reg
  work  : EngWork
  after : List Nat
  phase : Nat
  home  : Bool
  run   : Option EngRun
  deriving DecidableEq, Repr

/-- A fence standing over engine queues (R186). -/
structure EngFence where
  mask : BitVec 16
  ids  : List Nat
  deriving DecidableEq, Repr

/-- An asynchronous cause that is pending (R322): BREAK, or a generator's fault. -/
structure Async where
  cause : BitVec 8
  val   : Word
  deriving DecidableEq, Repr

/-- The bytes of the physical space: addresses strictly rising, no entry equal to what an unlisted address reads. -/
abbrev Memory := List Host.Cell

/-- Where a core stands in a freeze wave (R332, R333). -/
inductive Frost where
  | thawed | freezing | draining | frozen | thawing
  deriving DecidableEq, Repr

/-- Where a core's fabric stands in a breakpoint's hold (R340). -/
inductive Hold where
  | none | coming | held | leaving
  deriving DecidableEq, Repr

structure Breakpoint where
  gnode : BitVec 32
  cond  : Word
  skips : BitVec 8
  deriving DecidableEq, Repr

/-- Tracing from a control block (R341): the staged records, each with its cycle and slot. -/
structure Trace where
  buffer  : Word
  cap     : BitVec 32
  filter  : BitVec 32
  mask    : Word
  stopFull : Bool
  noTime  : Bool
  errsToo : Bool
  written : Nat
  dropped : Nat
  staged  : List (Nat × Nat × List Byte)
  deriving DecidableEq, Repr

/-- What stands in a core while a set is active and goes with the set when it is not: how far it is frozen or held, the
unit's breakpoints and its trace, whose records are writes of the unit, and the bytes of its half of the scratchpad while
it is not resident (R313, R318, R332, R340, R341). -/
structure Parked where
  frost   : Frost
  locked  : Bool
  skouted : Bool
  hold    : Hold
  breaks  : Vector (Option Breakpoint) 4
  trace   : Option Trace
  spad    : Memory
  deriving DecidableEq, Repr

/-- One set of a core: everything R313 lists. A core that is not sliced has one. `tags` are the tile tags as the unit
reads them, `tagsSeen` as the matrix node and the copy engines see them, and `tagsDue` the unit's changes that they have
still to see, each with the cycles until then (R132). `busy` is the first cycle in which the sequencer may issue again
(R91), and `partner` the core that an edited core map makes the partner of its PAIR nodes (R335). -/
structure CSet where
  seq     : Seq
  unit    : Option UnitCtx
  fab     : Fabric
  rounds  : Rounds
  planes  : Planes
  comp    : Composer
  tags    : BitVec 1024
  tagsSeen : BitVec 1024
  tagsDue : List (Nat × BitVec 1024 × Bool)
  ops     : List Op
  eng     : List EngOp
  fences  : List EngFence
  tlb     : List TlbEntry
  snaps   : List (Nat × Word)
  icache  : List (Nat × Word)
  asyncs  : List Async
  halting : Bool
  errCount : Word
  parked  : Parked
  busy    : Nat
  partner : Option Nat
  deriving DecidableEq, Repr

/-! ### Cores (R12, R313, R327, R332, R340, R341) -/

structure Core where
  num     : Nat
  set     : CSet
  shadow  : Option CSet
  sliced  : Bool
  half    : Bool
  swapDue : Bool
  frost   : Frost
  locked  : Bool
  skouted : Bool
  hold    : Hold
  broke   : Nat
  breaks  : Vector (Option Breakpoint) 4
  trace   : Option Trace
  lent    : Option Nat
  deriving DecidableEq, Repr

/-! ### Pinned pages -/

/-- A page that its leaf pins in a slice (R166): level 1 to 4 and the core that names the path; and the partition and
the virtual page whose walk pinned it. -/
structure Pin where
  page  : Nat
  size  : Nat
  level : Nat
  core  : BitVec 8
  part  : Nat
  va    : Nat
  deriving DecidableEq, Repr

/-! ### The network and the home banks (R229 to R244, R259 to R274) -/

/-- The source of a write (R229). -/
inductive Source where
  | sequencer
  | engine (q : Nat)
  | node (n : Nat)
  | outside
  deriving DecidableEq, Repr

/-- The operation of a bank access (R237, R242). -/
inductive BankKind where
  | add | and | or | xor | min | max | minu | maxu | xchg | cas | addf | load | set
  deriving DecidableEq, Repr

/-- An access to a home bank (R243, R244). -/
structure BankAcc where
  kind  : BankKind
  wide  : Bool
  pa    : Nat
  va    : BitVec 48
  x     : Word
  y     : Word
  quiet : Bool
  deriving DecidableEq, Repr

/-- What a packet carries (R262): a route-class message, a yarn token, a write, a read request and its reply, or an
atomic or reduction; `bypass` says that the load has been issued behind a SIGWAIT that acquired (R256). -/
inductive Body where
  | route (cls : BitVec 4) (ordered : Bool) (dest : Word) (tag : BitVec 16) (handler1 : Bool) (port : Nat)
  | yarn (source port : Nat) (tok : Token)
  | write (source : Source) (pa : Nat) (va : BitVec 48)
  | read (pa : Nat) (bypass : Bool)
  | reply (pa : Nat) (value : Word) (err : Option (BitVec 6))
  | bank (acc : BankAcc)
  deriving DecidableEq, Repr

/-- Where a packet is: on its way, cut to a header on VC7, a hole at its destination that may be re-asked from a
cycle on, re-asked, held for order, delivered, lost, or lost and reported so to its source (R263 to R267). -/
inductive Way where
  | sent
  | header
  | hole (due : Nat)
  | reasked
  | holding
  | delivered
  | lost
  | gone
  deriving DecidableEq, Repr

/-- A packet (R262), or its bare header. Endpoints are numbered: cores 0 to 255, the slice of switch s 256 + s, Ethernet
port n 352 + n. `unit` is the source unit's index, 0xFFFF when no unit sends it, `owner` its owner (R319), `scope` the
scope of an access (R239), `place` the switch input port whose buffer holds it, `op` the instruction that waits for it,
and `peer` the endpoint entry of the peer module that a remote access is for, with the address there (R350). -/
structure Packet where
  id      : Nat
  src     : Nat
  dst     : Nat
  part    : Nat
  vc      : Nat
  seq     : BitVec 32
  lid     : BitVec 32
  unit    : Nat
  owner   : BitVec 16
  scope   : Nat
  phase   : Nat
  trims   : Nat
  resent  : Bool
  bytes   : List Byte
  body    : Body
  way     : Way
  place   : Option (Nat × Nat)
  op      : Option Nat
  peer    : Option (Nat × Nat)
  deriving DecidableEq, Repr

/-- What a control packet says (R260, R262): a cumulative acknowledgement, a re-ask, or a loss notice. -/
inductive Notice where
  | ack (upto : BitVec 32)
  | reask (id : Nat)
  | loss (id : Nat)
  deriving DecidableEq, Repr

/-- A control packet, on VC6, from the destination of a pair back to its source; `place` is the switch input port that
holds it. -/
structure Control where
  id     : Nat
  src    : Nat
  dst    : Nat
  part   : Nat
  notice : Notice
  place  : Option (Nat × Nat)
  deriving DecidableEq, Repr

/-- A SIGWAIT at a flag's home bank (R238): its limit in cycles, and the cycle of its arrival there. `fresh` says that it
has still to arrive, and `peer` names the endpoint entry and the address of a flag in a peer module (R350). -/
structure SigWait where
  core  : Nat
  lid   : BitVec 32
  unit  : Nat
  op    : Nat
  pa    : Nat
  x     : Word
  cond  : BitVec 2
  limit : Option Nat
  since : Option Nat
  fresh : Bool
  peer  : Option (Nat × Nat)
  deriving DecidableEq, Repr

/-- What a location holds for the units of a launch whose phase is before `phase`, while a write of that phase, made
after a split PHB, stands at the home (R232, R249); `own` are the bytes that units of the launch wrote there in that
phase or a later one, each seen by the unit that wrote it (R246). -/
structure Early where
  lid   : BitVec 32
  phase : Nat
  loc   : Nat
  value : Word
  own   : List (Nat × Host.Cell)
  deriving DecidableEq, Repr

/-- The network: every packet, the control packets, the sequence numbers and arrivals of pairs, the counters, the hole
marks of a pair, partition and class, the SIGWAITs, the tension limiter's buckets, the versions of early writes; and what
an output port, named by the input port it leads to, keeps of its arbitration (R260): the partition whose turn it is with
the flits left of it, the flits that partitions have sent beyond their turns, and the channel served last of a partition. `yarned` are the yarn tokens that wait to enter a port, in their order of arrival
(R274). -/
structure Net where
  nextId   : Nat
  packets  : List Packet
  control  : List Control
  seqs     : List ((Nat × Nat) × BitVec 32)
  unacked  : List ((Nat × Nat) × Nat × Nat)
  counters : List ((Nat × Nat × Nat × Nat) × Word)
  marks    : List (Nat × Nat × Nat × BitVec 4 × Nat)
  waits    : List SigWait
  buckets  : List ((Nat × Nat × Nat) × Nat × Nat)
  early    : List Early
  turns    : List ((Nat × Nat) × Nat × Nat)
  debts    : List (((Nat × Nat) × Nat) × Nat)
  lastVcs  : List (((Nat × Nat) × Nat) × Nat)
  yarned   : List Nat
  deriving DecidableEq, Repr

/-! ### Block pools (R210 to R215) -/

/-- A pool: `pages` are the 2 MiB pages of its metadata, and `spoilt` says that something other than its controller has
written there since the last request (R222). -/
structure Pool where
  num    : Nat
  part   : Nat
  ctrl   : Nat
  size   : Nat
  n      : Nat
  base   : Nat
  quota  : Nat
  limit  : Nat
  chunks : Nat
  area   : Nat
  stack  : List Nat
  mark   : Nat
  refs   : List (Nat × Nat)
  tables : List (Nat × List Nat)
  pages  : List Nat
  spoilt : Bool
  deriving DecidableEq, Repr

/-! ### Partitions (R311, R343, R346 to R352) -/

inductive EndpointKind where
  | command | errorSink | peer
  deriving DecidableEq, Repr

structure Endpoint where
  address : Nat
  level   : Nat
  kind    : EndpointKind
  deriving DecidableEq, Repr

/-- A remote window (R350). -/
structure Window where
  va    : Nat
  size  : Nat
  base  : Nat
  peer  : Nat
  deriving DecidableEq, Repr

/-- A Yelty record (R330). `corrected` is the count of corrected errors that a home's record carries (R329); its place
in a message is not stated, so it stands beside the 32 bytes (assumption 115). -/
structure LogRec where
  type    : BitVec 8
  part    : BitVec 8
  core    : BitVec 8
  stitch  : BitVec 8
  gnode   : BitVec 32
  slot    : BitVec 16
  loopReg : BitVec 8
  cause   : BitVec 8
  loopVal : BitVec 32
  time    : Word
  value   : Word
  corrected : BitVec 32
  deriving DecidableEq, Repr

/-- A partition (R311), with its time base, endpoints, windows, dirty log and kept records; `sinkUp` says that its error
sink acknowledges (R349). -/
structure Part where
  num      : Nat
  flags    : Byte
  firstQ   : Nat
  qCount   : Nat
  places   : Nat
  root     : Nat
  counters : Nat
  saveArea : Nat
  dram     : BitVec 64
  shares   : BitVec 64
  lpBase   : Nat
  lpSize   : Nat
  pages    : BitVec 32
  pool     : BitVec 32
  rate     : Nat
  burst    : Nat
  rateNow  : Nat
  cores    : BitVec 256
  classes  : Vector (BitVec 32) 16
  narrow   : Bool
  tenantBase : Word
  deviceBase : Word
  toff     : Word
  tscale   : Word
  ends     : List (Nat × Endpoint)
  sink     : Option Nat
  sinkUp   : Bool
  ring     : List LogRec
  lostRecs : Nat
  windows  : List (Nat × Window)
  dirty    : Option (List Nat)
  deriving DecidableEq, Repr

/-! ### Dispatch (R296 to R319) -/

/-- A bind-table entry with what dispatch keeps of its queue (R296, R303, R306, R307). -/
structure Bind where
  queue    : Nat
  rank     : Nat
  part     : Nat
  owner    : BitVec 16
  weight   : Nat
  child    : Bool
  ring     : BitVec 48
  depth    : Nat
  resv     : Option Nat
  job      : BitVec 16
  tail     : BitVec 32
  head     : BitVec 32
  done     : BitVec 32
  stopped  : Bool
  reserves : Nat
  bypass   : Nat
  deriving DecidableEq, Repr

/-- A launch record (R297). -/
structure LaunchRec where
  entry   : BitVec 48
  cores   : Nat
  arglen  : Nat
  flags   : Byte
  region  : BitVec 16
  graph   : BitVec 16
  childq  : BitVec 16
  args    : List Byte
  deriving DecidableEq, Repr

/-- A launch that is queued, bound or running (R299, R300, R231); `ring` is the header of its queue. -/
structure Launch where
  lid      : BitVec 32
  queue    : Nat
  part     : Nat
  owner    : BitVec 16
  job      : BitVec 16
  graph    : BitVec 12
  parent   : Option (BitVec 32)
  bound    : Bool
  left     : Nat
  units    : List Nat
  children : Nat
  phase    : Nat
  cycles   : Nat
  ring     : BitVec 48
  deriving DecidableEq, Repr

structure Reservation where
  num    : Nat
  part   : Nat
  budget : Nat
  period : Nat
  cores  : BitVec 256
  leaving : Bool
  left   : List (Nat × Nat)
  start  : Nat
  deriving DecidableEq, Repr

structure Lend where
  num      : Nat
  lender   : Nat
  borrower : Nat
  cores    : BitVec 256
  deriving DecidableEq, Repr

/-- What dispatch keeps. `newWork` are the graphs and jobs of which no launch has been bound since they were over, each
with what refused records add to its summary (R305); `orphans` are the ended units' operations that act on at other
agents, each in its set, by core (R89); `lastQueues` is the queue last admitted from a tie, named by its rank and the
partitions and owners in it (R307). -/
structure Disp where
  binds      : List (Nat × Bind)
  launches   : List Launch
  summaries  : List ((Nat × Word) × Word)
  cancelled  : List (Nat × Word)
  resvs      : List Reservation
  lends      : List Lend
  suspended  : List (Nat × CSet)
  stored     : List (Nat × Nat × CSet)
  streaming  : List (Nat × Nat × CSet)
  current    : List (Nat × Nat)
  usage      : List ((Nat × BitVec 16) × Vector Word 4)
  deficits   : List ((Nat × BitVec 16) × Int)
  halts      : List ((BitVec 32 × Nat) × Word)
  lastQueues : List ((Nat × List (Nat × Nat)) × Nat)
  newWork    : List ((Nat × Word) × Word)
  orphans    : List (Nat × CSet)
  deriving DecidableEq, Repr

/-! ### The host side (R346 to R355) -/

/-- A reply to a host command (R347). -/
structure Reply where
  seq    : BitVec 32
  status : Byte
  data   : List Byte
  deriving DecidableEq, Repr

/-- A message to an error sink (R349). -/
structure Message where
  part     : Nat
  sink     : Nat
  overwritten : Nat
  recs     : List LogRec
  deriving DecidableEq, Repr

/-- A skein as SKOUT wrote it (R334): its bytes, and what they stand for. -/
structure Skein where
  bytes : List Byte
  core  : Core
  deriving DecidableEq, Repr

/-- What the signed configuration record enables (R22): cores, stacked-DRAM channels, LPDDR-6 channels, Ethernet ports
and partitions, by number. -/
structure Enabled where
  cores    : BitVec 256
  channels : BitVec 64
  lpddr    : BitVec 48
  ports    : BitVec 16
  parts    : BitVec 32
  deriving DecidableEq, Repr

/-- The signed configuration record (R22): what it enables, the operator's endpoint (R346) and the fields of partition 0
that it sets (R369). -/
structure BootRecord where
  enabled  : Enabled
  operator : Nat
  root     : Nat
  counters : Nat
  saveArea : Nat
  rate     : Nat
  burst    : Nat
  tenantBase : Word
  deviceBase : Word
  deriving DecidableEq, Repr

/-- A host WRITE on its way: its packets, the endpoint and the flow it came on, and the reply that they hold up (R348). -/
structure HostWrite where
  ids    : List Nat
  source : Nat
  flow   : Nat
  reply  : Reply
  deriving DecidableEq, Repr

/-- A signed report (R354, R355). -/
inductive Report where
  /-- the digests of the firmware and of the configuration record, the enabled counts, the nonce, the index and the
  signature -/
  | attestation (firmware config : List Byte) (enabled : Enabled) (nonce : List Byte) (index : Nat) (signature : List Byte)
  /-- the four counters of each partition and owner asked for, TIME, the sequence number, the index and the signature -/
  | usage (counters : List ((Nat × BitVec 16) × Vector Word 4)) (time : Word) (number index : Nat) (signature : List Byte)
  deriving DecidableEq, Repr

/-- The host side: replies and messages sent, skeins written, the signing key's index and the one in flash, the reports
signed, the boot checks, memory errors, pinned pages; `copied` are the pools whose metadata the host has copied here
(R353), `enabled` the options in force, `running` the configuration record that set them and `record` that of the next
reset (R22), `corrected` the counts of
corrected errors by home (R329), `opRing` and `opLost` the records kept for the operator's endpoint (R349), `pending`
the host's writes on their way (R348), and `signed` the reports with the commands they answer. -/
structure HostSide where
  replies  : List Reply
  outbox   : List Message
  skeins   : List Skein
  index    : Nat
  storedIndex : Nat
  reports  : Nat
  firmwareGood : Bool
  configGood   : Bool
  inReset  : Bool
  errLines : List Nat
  poisoned : List Nat
  pins     : List Pin
  copied   : List Pool
  enabled  : Enabled
  running  : BootRecord
  record   : BootRecord
  corrected : List (Nat × BitVec 32)
  opRing   : List LogRec
  opLost   : Nat
  pending  : List HostWrite
  signed   : List (BitVec 32 × Report)
  deriving DecidableEq, Repr

/-! ### The machine -/

/-- What the steward core does at device level (R5, R9, R346, R357, R358): it writes an endpoint entry of a partition, or
clears it, binds and unbinds queues, and makes partitions, grants, slices, reservations and lends by the blocks that the
device-level LNCH instructions read. -/
inductive StewardAct where
  | endpoint (part entry : Nat) (e : Option Endpoint)
  | bind (index : Nat) (block : List Byte)
  | unbind (index : Nat)
  | create (block : List Byte)
  | grant (part : Nat) (owner : Word) (kind : Nat) (block : List Byte)
  | slice (on : Bool) (block : List Byte)
  | offer (block : List Byte)
  | withdraw (resv : Nat)
  | lend (block : List Byte)
  | recall (num : Nat)
  deriving DecidableEq, Repr

/-- Which agent moves next. The list in `State.sched` is the interleaving still to come; every interleaving the
manual allows is such a list. -/
inductive Turn where
  /-- the steps that follow concern core c -/
  | core (c : Nat)
  /-- n cycles pass -/
  | tick (n : Nat)
  /-- the slot fires on the current core (R120) -/
  | fire (slot : Nat)
  /-- the current core's sequencer issues -/
  | issue
  /-- the event occurs -/
  | event (e : Instr)
  /-- memory node n of the current core walks ahead of its pass: step m of stitch k (R175) -/
  | ahead (n k m : Nat)
  /-- a host command with a code arrives (R347) -/
  | command (code : Byte) (c : HostCmd)
  /-- the steward core acts -/
  | steward (a : StewardAct)
  /-- the vendor signs another configuration record, which the next reset reads (R22) -/
  | record (r : BootRecord)
  /-- a single-bit error is corrected at a physical address (R26, R329) -/
  | corrected (pa : Nat)
  /-- the host has copied memory of another module here: pools by their metadata, and skeins (R351, R353) -/
  | brought (pools : List Pool) (skeins : List Skein)
  /-- a partition's error sink stops acknowledging, or acknowledges again (R349) -/
  | sink (part : Nat) (up : Bool)
  /-- a packet of a host flow is trimmed, re-asked or lost at Ethernet port n, on a channel (R345, R268) -/
  | hostFlow (port vc part : Nat)
  deriving DecidableEq, Repr

/-- The machine. `core` is the core whose sequencer and fabric the next step concerns; `others` are the other cores
that have been used, and a core listed in neither is as reset leaves it. `sched`, `choice`, `free` and `firing` are
the model's own: the order still to come, the choices the manual leaves open, a counter that tells free values
apart, and the slot that fires. -/
structure State where
  core   : Core
  others : List Core
  mem    : Memory
  net    : Net
  pools  : List Pool
  parts  : List Part
  disp   : Disp
  host   : HostSide
  cycle  : Nat
  sched  : List Turn
  choice : List Nat
  free   : Nat
  firing : Nat
  deriving DecidableEq, Repr

/-! ### The outcomes that are no next state -/

/-- Where a step stops. -/
inductive Fault where
  /-- The module is held in reset: the signatures of its firmware and its configuration record have not both held
  (R354). Raised by `step`. Safe: no core runs there on the hardware either. -/
  | heldInReset
  deriving DecidableEq, Repr

/-- Why an instruction has no meaning here. -/
inductive Refusal where
  /-- The instruction is not modelled. Raised by no arm of this model. Safe: nothing is claimed of it. -/
  | notModelled (mnemonic : String)
  deriving DecidableEq, Repr

/-! ### Reset -/

def TrapRegs.zero : TrapRegs := ⟨0, 0, 0, 0⟩

/-- A sequencer before any unit: every register zero (assumption 1). -/
def Seq.zero : Seq where
  regs := Vector.replicate 64 0
  pend := 0
  errs := Vector.replicate 64 .clear
  pc := 0
  level := 0
  te := true
  dz := false
  tenant := .zero
  device := .zero
  argLen := 0

/-- A memory node at the start of its configuration. -/
def MnState.zero : MnState := ⟨[], [], [], [], none, [], none, none, [], []⟩

def Detector.zero : Detector := ⟨none, false, false, 0⟩

/-- Both stores empty (R112). -/
def Fabric.empty : Fabric where
  running := none
  started := 0
  staged := none
  pages := []
  mark := none
  held := []
  flights := []
  inq := []
  inPorts := []
  outPorts := []
  sinks := []
  sregs := []
  counts := []
  eorDue := []
  consts := []
  an := []
  anq := []
  pair := []
  scales := []
  rels := []
  tileRow := (0, 0)
  tileOut := []
  gpFill := []
  mns := []
  nps := []
  smq := []
  fired := []
  detect := .zero
  chan := []
  age := 0

/-- A stream-table entry at unit start: zero, so FREE (R146). -/
def Stream.zero : Stream := ⟨0, false, .free, 0, 0, 0, 0⟩

def Rounds.zero : Rounds where
  table := Vector.replicate 64 .zero
  saved := 0
  pending := []
  drains := []
  save := none
  dropped := []
  boundary := none
  turned := []
  loading := none

/-- A plane at unit start: +0 weights in E4M3, scale 1.0, group mode off (R191). -/
def Plane.start : Plane := ⟨3, false, 0x3F800000, [], []⟩

/-- Plane 0 active (R191). -/
def Planes.start : Planes := ⟨.start, .start, false, false⟩

/-- The composer unbound (R285). -/
def Composer.start : Composer := ⟨none, Vector.replicate 64 0, Vector.replicate 64 none, 0, []⟩

def Parked.none : Parked := ⟨.thawed, false, false, .none, Vector.replicate 4 Option.none, Option.none, []⟩

/-- A set with no unit and nothing in it. -/
def CSet.empty : CSet where
  seq := .zero
  unit := none
  fab := .empty
  rounds := .zero
  planes := .start
  comp := .start
  tags := 0
  tagsSeen := 0
  tagsDue := []
  ops := []
  eng := []
  fences := []
  tlb := []
  snaps := []
  icache := []
  asyncs := []
  halting := false
  errCount := 0
  parked := .none
  busy := 0
  partner := none

/-- A core as reset leaves it: no unit, not sliced, not frozen. -/
def Core.idle (n : Nat) : Core where
  num := n
  set := .empty
  shadow := none
  sliced := false
  half := false
  swapDue := false
  frost := .thawed
  locked := false
  skouted := false
  hold := .none
  broke := 0
  breaks := Vector.replicate 4 none
  trace := none
  lent := none

def Net.empty : Net where
  nextId := 0
  packets := []
  control := []
  seqs := []
  unacked := []
  counters := []
  marks := []
  waits := []
  buckets := []
  early := []
  turns := []
  debts := []
  lastVcs := []
  yarned := []

/-- Every option enabled. -/
def Enabled.full : Enabled := ⟨BitVec.allOnes 256, BitVec.allOnes 64, 0xFFFFFFFFFFFF, 0xFFFF, BitVec.allOnes 32⟩

/-- Partition 0 at reset: every core, queue, channel and grant (R310, R369). The fields that the signed
configuration record sets, and that the manual gives no value for, are those of assumption 2. -/
def Part.device : Part where
  num := 0
  flags := 0
  firstQ := 0
  qCount := 4096
  places := 64
  root := 0
  counters := 0x1BFFFC00000
  saveArea := 0x1BFFE000000
  dram := BitVec.allOnes 64
  shares := 0xFFFFFFFFFFFF
  lpBase := 0
  lpSize := 768
  pages := 0
  pool := BitVec.allOnes 32
  rate := 1
  burst := 9
  rateNow := 1
  cores := BitVec.allOnes 256
  classes := Vector.replicate 16 0
  narrow := false
  tenantBase := 0
  deviceBase := 0
  toff := 0
  tscale := 2260509103
  ends := [(0, ⟨0, 2, .command⟩)]
  sink := none
  sinkUp := true
  ring := []
  lostRecs := 0
  windows := []
  dirty := none

/-- Partition 0 as a configuration record sets it (R22, R346, R369). -/
def Part.ofRecord (r : BootRecord) : Part :=
  { Part.device with
    root := r.root
    counters := r.counters
    saveArea := r.saveArea
    dram := r.enabled.channels
    shares := BitVec.setWidth 64 r.enabled.lpddr
    rate := r.rate
    burst := r.burst
    rateNow := r.rate
    cores := r.enabled.cores
    tenantBase := r.tenantBase
    deviceBase := r.deviceBase
    ends := [(0, ⟨r.operator, 2, .command⟩)] }

/-- The configuration record of the module at reset, as `Part.device` has it (assumption 2). -/
def BootRecord.start : BootRecord where
  enabled := .full
  operator := 0
  root := 0
  counters := 0x1BFFFC00000
  saveArea := 0x1BFFE000000
  rate := 1
  burst := 9
  tenantBase := 0
  deviceBase := 0

def Disp.empty : Disp where
  binds := []
  launches := []
  summaries := []
  cancelled := []
  resvs := []
  lends := []
  suspended := []
  stored := []
  streaming := []
  current := []
  usage := []
  deficits := []
  halts := []
  lastQueues := []
  newWork := []
  orphans := []

def HostSide.start : HostSide where
  replies := []
  outbox := []
  skeins := []
  index := 0
  storedIndex := 0
  reports := 0
  firmwareGood := true
  configGood := true
  inReset := false
  errLines := []
  poisoned := []
  pins := []
  copied := []
  enabled := .full
  running := .start
  record := .start
  corrected := []
  opRing := []
  opLost := 0
  pending := []
  signed := []

/-- The module right after reset: both signatures have held (R354), no unit runs, partition 0 holds everything
(R310), every pair's sequence number is 0 (R262) and every round counter starts (R13). -/
def State.reset : State where
  core := Core.idle 0
  others := []
  mem := []
  net := .empty
  pools := []
  parts := [Part.device]
  disp := .empty
  host := .start
  cycle := 0
  sched := []
  choice := []
  free := 0
  firing := 0

end Sys2Proof.Machine
end

