-- ==== Sys2Proof/Machine/Memory.lean ====
section
/-!
DEFINITION. The bytes of the physical space and where an address leads (R2, R15, R16, R105, R106, R165).

Memory is one list of cells in canonical form: addresses strictly rising, and no cell equal to what an unlisted
address reads as.
-/

namespace Sys2Proof.Machine

/-! ### Cells -/

/-- What an address reads as before anything is written to it: 0 (assumption 3). -/
def unlisted : Byte := 0

/-- The canonical form of memory. -/
abbrev Memory.wf (m : Memory) : Prop := m.Pairwise (fun x y => x.1 < y.1) ∧ ∀ c ∈ m, c.2 ≠ unlisted

/-- The byte at a physical address. -/
def Memory.get : Memory → Nat → Byte
  | [], _ => unlisted
  | (a, b) :: rest, x => if x = a then b else Memory.get rest x

/-- One byte written. -/
def Memory.put : Memory → Nat → Byte → Memory
  | [], x, v => if v = unlisted then [] else [(x, v)]
  | (a, b) :: rest, x, v =>
    if x < a then (if v = unlisted then (a, b) :: rest else (x, v) :: (a, b) :: rest)
    else if x = a then (if v = unlisted then rest else (a, v) :: rest)
    else (a, b) :: Memory.put rest x v

/-- Bytes written from an address up. -/
def Memory.putBytes (m : Memory) : Nat → List Byte → Memory
  | _, [] => m
  | a, b :: bs => (m.put a b).putBytes (a + 1) bs

/-- The n bytes from an address up. -/
def Memory.getBytes (m : Memory) (a n : Nat) : List Byte := (List.range n).map (fun i => m.get (a + i))

/-- Every byte of [a, a + n) set to what an unlisted address reads as. -/
def Memory.clear (m : Memory) (a n : Nat) : Memory := m.filter (fun c => !(decide (a ≤ c.1) && decide (c.1 < a + n)))

/-! ### Little-endian values (R2) -/

/-- The value of bytes, the lowest address least significant. -/
def leNat : List Byte → Nat
  | [] => 0
  | b :: bs => b.toNat + 256 * leNat bs

/-- The n bytes of a value, least significant first. -/
def leBytes : Nat → Nat → List Byte
  | 0, _ => []
  | n + 1, v => BitVec.ofNat 8 v :: leBytes n (v / 256)

/-- The value of the n bytes at an address. -/
def Memory.nat (m : Memory) (a n : Nat) : Nat := leNat (m.getBytes a n)

def Memory.word (m : Memory) (a : Nat) : Word := BitVec.ofNat 64 (m.nat a 8)

/-- The field of n bytes at an offset of a byte list. -/
def field (bs : List Byte) (off n : Nat) : Nat := leNat ((bs.drop off).take n)

/-- A payload's bytes, byte 0 first (R60). -/
def payloadBytes (p : Payload) : List Byte := leBytes 128 p.toNat

def payloadOf (bs : List Byte) : Payload := BitVec.ofNat 1024 (leNat (bs.take 128))

/-! ### Bits -/

def bitSpan (n lo w : Nat) : Nat := n / 2 ^ lo % 2 ^ w
def bitAt (n i : Nat) : Bool := n / 2 ^ i % 2 == 1
def wspan (w : Word) (lo n : Nat) : Nat := bitSpan w.toNat lo n

/-! ### The physical space (R165) -/

inductive Region where
  | stacked (subtree channel : Nat)
  | lpddr (channel : Nat)
  | scratch (core offset : Nat)
  | none
  deriving DecidableEq, Repr

def lpddrBase : Nat := 0x10000000000
def scratchBase : Nat := 0x20000000000
def scratchSize : Nat := 0x180000

/-- R165's rows. The subtree of stacked DRAM is numbered die · 4 + subtree. -/
def regionOf (pa : Nat) : Region :=
  if pa < 0x1000000000 then .stacked (bitSpan pa 32 4) (bitSpan pa 8 2)
  else if pa < lpddrBase then .none
  else if pa < 0x1C000000000 then .lpddr ((pa - lpddrBase) / 256 % 48)
  else if pa < scratchBase then .none
  else if (pa - scratchBase) / 0x200000 < 256 && (pa - scratchBase) % 0x200000 < scratchSize then
    .scratch ((pa - scratchBase) / 0x200000) ((pa - scratchBase) % 0x200000)
  else .none

/-- The switch of a core's path at level 1 to 4 (R10, R268). -/
def switchOf (level core : Nat) : Nat :=
  match level with
  | 1 => core / 4
  | 2 => 64 + core / 16
  | 3 => 80 + core / 64
  | _ => 84

/-- The endpoint of the slice at a switch. -/
def sliceEnd (sw : Nat) : Nat := 256 + sw

/-- The capacity in bytes of a slice (R9). -/
def sliceBytes (level : Nat) : Nat :=
  match level with
  | 1 => 0x400000
  | 2 => 0x1000000
  | 3 => 0x2000000
  | _ => 0x4000000

/-- The home endpoint of a physical address (R16, R166). A scratchpad is served by its own core. -/
def homeOf (pins : List Pin) (pa : Nat) : Nat :=
  match pins.find? (fun p => decide (p.page ≤ pa) && decide (pa < p.page + p.size)) with
  | some p => sliceEnd (switchOf p.level p.core.toNat)
  | none =>
    match regionOf pa with
    | .stacked subtree _ => sliceEnd (64 + subtree)
    | .lpddr _ => sliceEnd 84
    | .scratch c _ => c
    | .none => sliceEnd 84

/-! ### The scratchpad window (R105, R106) -/

def windowBase : Nat := 0xFFFF00000000

/-- The bytes of the window: all of the scratchpad, or half of it while the core is sliced. -/
def windowSize (sliced : Bool) : Nat := if sliced then 0xC0000 else 0x180000

/-- The physical address of window offset o: banks 0 to 383, or those of one half. -/
def windowPa (core : Nat) (sliced half : Bool) (o : Nat) : Nat :=
  scratchBase + core * 0x200000 +
    if sliced then 16 * (o / 16 / 192 * 384 + (if half then 192 else 0) + o / 16 % 192) + o % 16 else o

/-- Where the argument block is copied: the last 48 bytes of the window. -/
def argOffset (sliced : Bool) : Nat := windowSize sliced - 48

/-! ### Lines (R329) -/

/-- The 64-byte lines that [a, a + n) touches. -/
def linesOf (a n : Nat) : List Nat := (List.range ((a + n + 63) / 64 - a / 64)).map (a / 64 + ·)

/-- The lines that [a, a + n) covers whole. -/
def wholeLines (a n : Nat) : List Nat :=
  (linesOf a n).filter (fun l => decide (a ≤ 64 * l) && decide (64 * l + 64 ≤ a + n))

end Sys2Proof.Machine
end

