-- ==== Sys2Proof/Machine/Ops.lean ====
section
/-!
DEFINITION. The shared operations over registers, cores, logs and traps. Every meaning is written over these.
-/

namespace Sys2Proof.Machine

/-- What a step answers. -/
abbrev Out := Host.Outcome State Fault Refusal

/-! ### Association lists -/

/-- The entry of a key. -/
def lookup {α β : Type} [DecidableEq α] (k : α) : List (α × β) → Option β
  | [] => none
  | (a, b) :: rest => if a = k then some b else lookup k rest

/-- The entry of a key replaced, or added at the end. -/
def insert {α β : Type} [DecidableEq α] (k : α) (v : β) : List (α × β) → List (α × β)
  | [] => [(k, v)]
  | (a, b) :: rest => if a = k then (k, v) :: rest else (a, b) :: insert k v rest

/-- The entry of a key removed. -/
def erase {α β : Type} [DecidableEq α] (k : α) (l : List (α × β)) : List (α × β) := l.filter (fun p => p.1 ≠ k)

/-! ### Registers (R85, R87, R88, R90) -/

def Seq.read (q : Seq) (r : Reg) : Word := if r = 0 then 0 else q.regs[r.toNat]'(by have := r.isLt; omega)

/-- A write clears the error bit (R88); a write to s0 has no effect (R85). -/
def Seq.write (q : Seq) (r : Reg) (v : Word) : Seq :=
  if r = 0 then q
  else { q with
    regs := q.regs.set r.toNat v (by have := r.isLt; omega)
    errs := q.errs.set r.toNat .clear (by have := r.isLt; omega) }

def Seq.err (q : Seq) (r : Reg) : ErrKind := if r = 0 then .clear else q.errs[r.toNat]'(by have := r.isLt; omega)

def Seq.setErr (q : Seq) (r : Reg) (e : ErrKind) : Seq :=
  if r = 0 then q else { q with errs := q.errs.set r.toNat e (by have := r.isLt; omega) }

/-- The pending bit; that of s0 is always clear (R85). -/
def Seq.pending (q : Seq) (r : Reg) : Bool := r ≠ 0 && q.pend.getLsbD r.toNat

def regBit (r : Reg) : BitVec 64 := (1 : BitVec 64) <<< r.toNat

/-- s0 takes no pending bit (R85). -/
def Seq.setPending (q : Seq) (r : Reg) : Seq := if r = 0 then q else { q with pend := q.pend ||| regBit r }

def Seq.clearPending (q : Seq) (r : Reg) : Seq := { q with pend := q.pend &&& ~~~(regBit r) }

/-- A completion: the value, the error bit, and the pending bit cleared (R87, R88). -/
def Seq.complete (q : Seq) (r : Reg) (v : Word) (e : ErrKind) : Seq := ((q.write r v).setErr r e).clearPending r

/-! ### The current core and its active set -/

def State.seq (s : State) : Seq := s.core.set.seq
def State.reg (s : State) (r : Reg) : Word := s.core.set.seq.read r

def State.mapCore (s : State) (f : Core → Core) : State := { s with core := f s.core }
def State.mapSet (s : State) (f : CSet → CSet) : State := { s with core := { s.core with set := f s.core.set } }
def CSet.mapSeq (c : CSet) (f : Seq → Seq) : CSet := { c with seq := f c.seq }
def State.mapSeq (s : State) (f : Seq → Seq) : State := s.mapSet (fun c => c.mapSeq f)
def State.mapFab (s : State) (f : Fabric → Fabric) : State := s.mapSet (fun c => { c with fab := f c.fab })
def State.mapRounds (s : State) (f : Rounds → Rounds) : State := s.mapSet (fun c => { c with rounds := f c.rounds })

def State.setReg (s : State) (r : Reg) (v : Word) : State := s.mapSeq (fun q => q.write r v)
def State.setPc (s : State) (pc : Word) : State := s.mapSeq (fun q => { q with pc := pc })
/-- The next instruction in program order (R28). -/
def State.advance (s : State) : State := s.mapSeq (fun q => { q with pc := q.pc + 4 })

/-- A unit's identity where none runs. -/
def UnitCtx.none : UnitCtx := ⟨0, 0, 0, 0, 0, false, 0, [], .none, 0, 0, [], 0, .none⟩

def State.unit (s : State) : UnitCtx := s.core.set.unit.getD .none
def State.mapUnit (s : State) (f : UnitCtx → UnitCtx) : State := s.mapSet (fun c => { c with unit := c.unit.map f })

/-! ### Cores and sets -/

/-- The state of core n: the current core, one of the others, or as reset leaves it. -/
def State.coreAt (s : State) (n : Nat) : Core :=
  if s.core.num = n then s.core else (s.others.find? (fun c => c.num == n)).getD (Core.idle n)

def putCore (k : Core) : List Core → List Core
  | [] => [k]
  | c :: rest => if c.num = k.num then k :: rest else c :: putCore k rest

/-- Core k stored under its number. -/
def State.setCore (s : State) (k : Core) : State :=
  if s.core.num = k.num then { s with core := k } else { s with others := putCore k s.others }

def State.mapCoreAt (s : State) (n : Nat) (f : Core → Core) : State := s.setCore (f (s.coreAt n))

/-- The steps that follow concern core n. -/
def State.select (s : State) (n : Nat) : State :=
  if s.core.num = n then s
  else { s with core := s.coreAt n, others := putCore s.core (s.others.filter (fun c => c.num ≠ n)) }

/-- Every core that has been used. -/
def State.cores (s : State) : List Core := s.core :: s.others

def Core.mapSets (k : Core) (f : CSet → CSet) : Core := { k with set := f k.set, shadow := k.shadow.map f }

/-- A change of every set there is, resident, suspended or streamed out, and of the ended units' orphans. -/
def State.mapSets (s : State) (f : CSet → CSet) : State :=
  { s with
    core := s.core.mapSets f
    others := s.others.map (fun k => k.mapSets f)
    disp := { s.disp with
      suspended := s.disp.suspended.map (fun p => (p.1, f p.2))
      stored := s.disp.stored.map (fun p => (p.1, p.2.1, f p.2.2))
      streaming := s.disp.streaming.map (fun p => (p.1, p.2.1, f p.2.2))
      orphans := s.disp.orphans.map (fun p => (p.1, f p.2)) } }

def Core.sets (k : Core) : List CSet := k.set :: k.shadow.toList

def State.sets (s : State) : List CSet :=
  s.cores.flatMap Core.sets ++ s.disp.suspended.map (·.2) ++ s.disp.stored.map (·.2.2)
    ++ s.disp.streaming.map (·.2.2) ++ s.disp.orphans.map (·.2)

/-- A set runs a unit under a reservation. -/
def CSet.under (c : CSet) (resv : Nat) : Bool := match c.unit with | some u => u.under == some resv | none => false

/-- Whether a set runs a unit of a launch. -/
def CSet.runs (c : CSet) (lid : BitVec 32) : Bool :=
  match c.unit with
  | some u => u.lid == lid
  | none => false

def CSet.runsUnit (c : CSet) (lid : BitVec 32) (index : Nat) : Bool :=
  match c.unit with
  | some u => u.lid == lid && u.index == index
  | none => false

/-! ### Asynchronous work (R87 to R90) -/

def CSet.addOp (c : CSet) (op : Op) : CSet := { c with ops := c.ops ++ [op], seq := c.seq.setPending op.t }

/-- Operation `id` completes: its value and error bit are written and it is gone. -/
def CSet.finish (c : CSet) (id : Nat) (v : Word) (e : ErrKind) : CSet :=
  match c.ops.find? (fun o => o.id == id) with
  | some o => { c with ops := c.ops.filter (fun o => o.id ≠ id), seq := c.seq.complete o.t v e }
  | none => c

def CSet.rewait (c : CSet) (id : Nat) (w : Wait) : CSet :=
  { c with ops := c.ops.map (fun o => if o.id = id then { o with wait := w } else o) }

/-- A fresh number in the order of issue. -/
def State.bump (s : State) : State := { s with net := { s.net with nextId := s.net.nextId + 1 } }

/-- An asynchronous instruction begins: its token register becomes pending (R87). -/
def State.begin (s : State) (t : Reg) (cls : OpClass) (w : Wait) : State :=
  (s.mapSet (fun c => c.addOp ⟨s.net.nextId, t, cls, w⟩)).bump

/-- A completion that only its latency holds back. -/
def State.later (s : State) (t : Reg) (cls : OpClass) (v : Word) (e : ErrKind) (latency : Nat) : State :=
  s.begin t cls (.ready v e (s.cycle + latency))

/-- A status completion of a failure: bit 63 set (R88). -/
def statusWord (status : Nat) (detail : Nat) : Word := BitVec.ofNat 64 (2 ^ 63 + detail * 256 + status)

def State.finish (s : State) (id : Nat) (v : Word) (e : ErrKind) : State := s.mapSets (fun c => c.finish id v e)
def State.rewait (s : State) (id : Nat) (w : Wait) : State := s.mapSets (fun c => c.rewait id w)

/-- The operation that becomes ready with a value in the next cycle. -/
def State.settle (s : State) (id : Nat) (v : Word) (e : ErrKind) : State := s.rewait id (.ready v e (s.cycle + 1))

/-! ### Choices and free values -/

/-- The next choice of those the manual leaves open, 0 when none is listed (assumption 4). -/
def State.choose (s : State) : Nat := s.choice.headD 0
def State.chosen (s : State) : State := { s with choice := s.choice.tail }
/-- The free value just taken is told apart from the next. -/
def State.spent (s : State) : State := { s with free := s.free + 1 }

/-- The value of a completion that is no failure and to which the manual gives no value: free, with bit 63 clear (R88). -/
def State.openValue (s : State) : Word := Config.freeWord s.free &&& 0x7FFFFFFFFFFFFFFF

/-! ### Partitions, time and logs (R330, R331, R343, R349) -/

def State.partAt (s : State) (p : Nat) : Option Part := s.parts.find? (fun r => r.num == p)
/-- The current unit's partition. -/
def State.part (s : State) : Part := (s.partAt s.unit.part).getD Part.device
def State.partOf (s : State) (p : Nat) : Part := (s.partAt p).getD Part.device
def State.mapPart (s : State) (p : Nat) (f : Part → Part) : State :=
  { s with parts := s.parts.map (fun r => if r.num = p then f r else r) }

/-- TIME for a partition: toff + floor(C · tscale / 2^32) (R343). -/
def State.time (s : State) (p : Part) : Word := p.toff + BitVec.ofNat 64 (s.cycle * p.tscale.toNat / 2 ^ 32)

/-- A record kept in a partition's ring of 4096, the oldest overwritten when it is full (R349). -/
def Part.keep (p : Part) (r : LogRec) : Part :=
  if p.ring.length < 4096 then { p with ring := p.ring ++ [r] }
  else { p with ring := p.ring.tail ++ [r], lostRecs := p.lostRecs + 1 }

/-- A record with no stitch, node, slot or loop register. -/
def LogRec.plain (type : BitVec 8) (part core : Nat) (cause : BitVec 8) (value : Word) : LogRec :=
  ⟨type, BitVec.ofNat 8 part, BitVec.ofNat 8 core, 0xFF, 0xFFFFFFFF, 0xFFFF, 0, cause, 0, 0, value, 0⟩

/-- A record kept for the operator's endpoint, as a partition's are. -/
def HostSide.keep (h : HostSide) (r : LogRec) : HostSide :=
  if h.opRing.length < 4096 then { h with opRing := h.opRing ++ [r] }
  else { h with opRing := h.opRing.tail ++ [r], opLost := h.opLost + 1 }

/-- A record that also goes to the operator's endpoint: one of device scope, or of type 0x04, 0x07 or 0x0C (R349). -/
def LogRec.forOperator (r : LogRec) (p : Nat) : Bool := p == 0 || r.type == 0x04 || r.type == 0x07 || r.type == 0x0C

/-- A record written for partition p, and for the operator where it goes there too (R349). -/
def State.log (s : State) (p : Nat) (r : LogRec) : State :=
  let r := { r with time := s.time ((s.partAt p).getD Part.device) }
  let s := s.mapPart p (fun q => q.keep r)
  if r.forOperator p then { s with host := s.host.keep r } else s

/-- A record of an event to which R331 gives no type: the type is free (assumption 9). -/
def State.logOpen (s : State) (p : Nat) (r : LogRec) : State :=
  (s.log p { r with type := BitVec.setWidth 8 (Config.freeWord s.free) }).spent

/-! ### The cores of a partition (R297, R309, R315, R317) -/

/-- The cores whose reservation or lend serves a partition. -/
def Disp.extraCores (d : Disp) (p : Nat) : BitVec 256 :=
  ((d.resvs.filter (fun r => r.part == p)).map (fun r => r.cores) ++
    (d.lends.filter (fun l => l.borrower == p)).map (fun l => l.cores)).foldl (fun a b => a ||| b) 0

def State.coreMask (s : State) (p : Nat) : BitVec 256 := (s.partOf p).cores ||| s.disp.extraCores p

/-! ### Usage counters (R319) -/

/-- Saturating 64-bit addition (R319). -/
def satAdd (w : Word) (n : Nat) : Word := BitVec.ofNat 64 (min (w.toNat + n) (2 ^ 64 - 1))

/-- The four usage counters of a partition and owner (R319). -/
abbrev Usage := List ((Nat × BitVec 16) × Vector Word 4)

def addUsage (p : Nat) (o : BitVec 16) (q n : Nat) (l : Usage) : Usage :=
  let v := (lookup (p, o) l).getD (Vector.replicate 4 0)
  insert (p, o) (v.set (q % 4) (satAdd (v[q % 4]'(Nat.mod_lt _ (by decide))) n) (Nat.mod_lt _ (by decide))) l

def State.use (s : State) (p : Nat) (o : BitVec 16) (q n : Nat) : State :=
  { s with disp := { s.disp with usage := addUsage p o q n s.disp.usage } }

/-- The owner of a launch. -/
def State.ownerOf (s : State) (lid : BitVec 32) : BitVec 16 :=
  match s.disp.launches.find? (fun l => l.lid == lid) with
  | some l => l.owner
  | none => 0

/-! ### Traps (R322 to R327) -/

def causeIllegal : BitVec 8 := 0x01
def causePriv : BitVec 8 := 0x02
def causeAlign : BitVec 8 := 0x03
def causePage : BitVec 8 := 0x04
def causeAccess : BitVec 8 := 0x05
def causeToken : BitVec 8 := 0x07
def causeCfgbad : BitVec 8 := 0x08
def causeFabric : BitVec 8 := 0x09
def causeBreak : BitVec 8 := 0x10
def causeTrap : BitVec 8 := 0x11

/-- Where a trap goes: to the tenant or device level, or into trap lock (R322). -/
inductive TrapTarget where
  | tenant | device | lock
  deriving DecidableEq, Repr

/-- The device level as a target: trap lock when it has trap enable 0 or no base (R322). -/
def Seq.deviceTarget (q : Seq) : TrapTarget :=
  if (q.level.toNat = 2 ∧ q.te = false) ∨ q.device.base = 0 then .lock else .device

/-- The target level of a trap (R322). -/
def Seq.trapTarget (q : Seq) (async : Bool) : TrapTarget :=
  if q.level.toNat ≥ 2 then q.deviceTarget
  else if q.level.toNat = 1 ∧ q.te = false ∧ async = false then q.deviceTarget
  else if q.tenant.base = 0 then q.deviceTarget
  else .tenant

/-- The word written to TRAPCAUSE (R323). -/
def Seq.causeWord (q : Seq) (cause : BitVec 8) (async : Bool) : Word :=
  BitVec.ofNat 64 (cause.toNat + q.level.toNat * 256 + q.te.toNat * 1024 + async.toNat * 2048)

/-- The trap registers that entry writes, and the pc it jumps to (R323). -/
def TrapRegs.enter (r : TrapRegs) (cause pc val : Word) : TrapRegs := { r with cause := cause, pc := pc, val := val }

def TrapRegs.vector (r : TrapRegs) (async : Bool) : Word := r.base + (if async then 64 else 0)

/-- Trap entry at the sequencer (R323); nothing moves in trap lock. -/
def Seq.enterTrap (q : Seq) (cause : BitVec 8) (val : Word) (async : Bool) : Seq :=
  match q.trapTarget async with
  | .tenant =>
    { q with
      tenant := q.tenant.enter (q.causeWord cause async) q.pc val
      level := 1, te := false, pc := q.tenant.vector async }
  | .device =>
    { q with
      device := q.device.enter (q.causeWord cause async) q.pc val
      level := 2, te := false, pc := q.device.vector async }
  | .lock => q

/-- Trap lock: the core freezes, and a record of type 0x0C holds TRAPCAUSE of both levels (R327, R331): the
tenant's in [31:0], the device's in [63:32] (assumption 5). -/
def State.trapLock (s : State) (cause : BitVec 8) : State :=
  let v : Word := BitVec.ofNat 64 (s.seq.tenant.cause.toNat % 2 ^ 32 + s.seq.device.cause.toNat % 2 ^ 32 * 2 ^ 32)
  (s.log s.unit.part (LogRec.plain 0x0C s.unit.part s.core.num cause v)).mapCore
    (fun k => { k with locked := true, frost := if k.frost = .thawed then .freezing else k.frost })

/-- Taking an exception, the one operation every trap goes through (R322, R323, R327). -/
def State.takeTrap (s : State) (cause : BitVec 8) (val : Word) (async : Bool) : State :=
  match s.seq.trapTarget async with
  | .lock => s.trapLock cause
  | _ => s.mapSeq (fun q => q.enterTrap cause val async)

/-- A synchronous trap. -/
def State.trap (s : State) (cause : BitVec 8) (val : Word) : State := s.takeTrap cause val false

/-- The current level's trap registers; those of the tenant at unit level, which no rule reads there. -/
def Seq.levelRegs (q : Seq) : TrapRegs := if q.level.toNat ≥ 2 then q.device else q.tenant

/-- Return from a trap at the sequencer (R326). -/
def Seq.leaveTrap (q : Seq) : Seq :=
  let r := q.levelRegs
  { q with
    te := r.cause.getLsbD 10
    level := BitVec.ofNat 2 (min (if wspan r.cause 8 2 = 3 then q.level.toNat else wspan r.cause 8 2) q.level.toNat)
    pc := r.pc }

/-- ERET's effect: ALIGN when TRAPPC is misaligned, else the return (R326). -/
def State.returnFromTrap (s : State) : State :=
  if wspan s.seq.levelRegs.pc 0 2 ≠ 0 then s.trap causeAlign s.seq.levelRegs.pc
  else s.mapSeq Seq.leaveTrap

/-! ### Issue (R6, R87, R88, R325) -/

/-- What an instruction needs in order to issue: the registers it reads, the register it writes, and the level. -/
structure Needs where
  reads : List Reg
  dest  : Reg
  level : Nat
  deriving DecidableEq, Repr

/-- The instruction word that TRAPVAL holds. -/
def wordOf (i : Instr) : Word := BitVec.setWidth 64 ((encode i).getD 0)

/-- A BAR of the unit still holds later instructions (R236). -/
def CSet.barred (c : CSet) : Bool :=
  c.ops.any (fun o => match o.wait with | .boundary _ true => true | _ => false)

/-- Stalled in decode, without effect (R87, R236). -/
def State.stalled (s : State) (n : Needs) : Bool :=
  n.reads.any s.seq.pending || s.seq.pending n.dest || s.core.set.barred

/-- The lower-numbered of two registers with an error bit. -/
def lowerErr (q : Seq) (best : Option Reg) (r : Reg) : Option Reg :=
  if q.err r = .clear then best
  else match best with
    | none => some r
    | some b => if r.toNat < b.toNat then some r else best

/-- The lowest-numbered register read whose error bit is set (R325). -/
def Seq.firstErr (q : Seq) (rs : List Reg) : Option Reg := rs.foldl (lowerErr q) none

/-- The trap that the first read of a register with its error bit set raises; its entry clears that bit, so that trap
lock, which is no entry, leaves it set (R88, R117, R131, R322). -/
def State.errTrap (s : State) (r : Reg) : State :=
  let v := s.reg r
  let cleared := if s.seq.trapTarget false = .lock then s else s.mapSeq (fun q => q.setErr r .clear)
  match s.seq.err r with
  | .cfgbad => cleared.trap causeCfgbad v
  | .fabric p => cleared.trap causeFabric (BitVec.ofNat 64 (v.toNat % 65536 + p.toNat * 65536))
  | _ => cleared.trap causeToken (BitVec.setWidth 64 r)

/-- An instruction issues: it raises ILLEGAL where its word is unassigned (R34), stalls, traps in the order of R325, or
has its effect. -/
def issue (i : Instr) (n : Needs) (body : State → State) (s : State) : Out :=
  if !i.wellFormed then .next (s.trap causeIllegal (wordOf i))
  else if s.stalled n then .next s
  else if s.seq.level.toNat < n.level then .next (s.trap causePriv (wordOf i))
  else match s.seq.firstErr n.reads with
    | some r => .next (s.errTrap r)
    | none => .next (body s)

/-- An instruction that some earlier work of its unit holds back stalls (R113, R151, R206, R290). -/
def issueUnless (held : State → Bool) (i : Instr) (n : Needs) (body : State → State) (s : State) : Out :=
  if i.wellFormed && held s then .next s else issue i n body s

/-- An operation of one of some classes is in progress: its token register is still pending, which s0 never is
(R85, R113). -/
def State.inProgress (s : State) (l : List OpClass) : Bool :=
  s.core.set.ops.any (fun o => o.t ≠ 0 && l.contains o.cls)

/-- An operation of one of some classes has not completed, whatever its token register (R151, R206, R290, R358). -/
def State.unfinished (s : State) (l : List OpClass) : Bool := s.core.set.ops.any (fun o => l.contains o.cls)

/-- A status completion of the cycle after issue, of an instruction that others of its class may wait for. -/
def State.failsAs (s : State) (t : Reg) (cls : OpClass) (status : Nat) : State :=
  s.later t cls (statusWord status 0) .clear 1

/-- A status completion of the cycle after issue. -/
def State.fails (s : State) (t : Reg) (status : Nat) : State := s.failsAs t .other status

/-- A function of one core's state applied to core n. -/
def State.onCore (s : State) (n : Nat) (f : State → State) : State := (f (s.select n)).select s.core.num

/-- An event that is not due changes nothing (assumption 6). -/
def when (due : Bool) (s : State) (body : State → State) : Out := if due then .next (body s) else .next s

end Sys2Proof.Machine
end

