-- ==== Sys2Proof/Machine/Access.lean ====
section
/-!
DEFINITION. Translation, reads and writes (07_memory R161 to R166, 04_sequencer R103 to R107, R229, R329).
-/

namespace Sys2Proof.Machine

/-! ### Grants (R311, R369) -/

/-- The physical addresses a partition record grants. -/
def Part.holds (p : Part) (pa : Nat) : Bool :=
  match regionOf pa with
  | .stacked subtree channel => p.dram.getLsbD (subtree * 4 + channel)
  | .lpddr _ => decide (p.lpBase ≤ (pa - lpddrBase) / 2 ^ 30) && decide ((pa - lpddrBase) / 2 ^ 30 < p.lpBase + p.lpSize)
  | .scratch c _ => p.cores.getLsbD c
  | .none => false

/-- A physical address is backed: the configuration record enables its channel, or the core of its scratchpad (R22). -/
def Enabled.backs (e : Enabled) (pa : Nat) : Bool :=
  match regionOf pa with
  | .stacked subtree channel => e.channels.getLsbD (subtree * 4 + channel)
  | .lpddr channel => e.lpddr.getLsbD channel
  | .scratch c _ => e.cores.getLsbD c
  | .none => false

/-- The n-th of the enabled Ethernet ports, counted round (R22). -/
def Enabled.port (e : Enabled) (n : Nat) : Nat :=
  let l := (List.range 16).filter e.ports.getLsbD
  l.getD (n % l.length) 0

/-- Partition 0 is granted every backed address that no other partition is (R369). -/
def State.granted (s : State) (p : Part) (pa : Nat) : Bool :=
  s.host.enabled.backs pa && (if p.num = 0 then s.parts.all (fun q => q.num == 0 || !q.holds pa) else p.holds pa)

/-- The bytes of a counter area: 85 switches, 32 ports, 8 counters of 8 bytes (R268). -/
def counterBytes : Nat := 85 * 32 * 64

def Part.inCounters (p : Part) (pa : Nat) : Bool := decide (p.counters ≤ pa) && decide (pa < p.counters + counterBytes)

/-! ### The walk (R162 to R164) -/

inductive AccKind where
  | read | write | fetch | look
  deriving DecidableEq, Repr

inductive XFault where
  | page | access
  deriving DecidableEq, Repr

/-- A leaf: the entry's own address, the entry, the page and its size. -/
structure Leaf where
  slot : Nat
  pte  : Nat
  page : Nat
  size : Nat
  deriving DecidableEq, Repr

def pteAddr (e : Nat) : Nat := bitSpan e 8 44 * 256

/-- A pointer entry: valid, L and every reserved field zero, the next table aligned. -/
def pointerOk (e align : Nat) : Bool :=
  bitAt e 0 && bitSpan e 1 7 == 0 && bitSpan e 52 12 == 0 && pteAddr e % align == 0

/-- A leaf entry: valid, L set, bit 63 zero, the pin level listed, the page aligned. -/
def leafOk (e align : Nat) : Bool :=
  bitAt e 0 && bitAt e 4 && !bitAt e 63 && decide (bitSpan e 52 3 ≤ 4) && pteAddr e % align == 0

/-- The walk of up to three levels from a root; none where it ends without a translation. -/
def walkTables (m : Memory) (root va : Nat) : Option Leaf :=
  let a1 := root + 8 * bitSpan va 37 11
  let e1 := m.nat a1 8
  if pointerOk e1 0x80000 then
    let a2 := pteAddr e1 + 8 * bitSpan va 21 16
    let e2 := m.nat a2 8
    if bitAt e2 4 then
      (if leafOk e2 0x200000 then some ⟨a2, e2, pteAddr e2, 0x200000⟩ else none)
    else if pointerOk e2 0x100 then
      let a3 := pteAddr e2 + 8 * bitSpan va 16 5
      let e3 := m.nat a3 8
      if leafOk e3 0x10000 then some ⟨a3, e3, pteAddr e3, 0x10000⟩ else none
    else none
  else none

/-- Whether R, W or X of an entry permits the access; TLOOK tests none (R189). -/
def pteAllows (kind : AccKind) (e : Nat) : Bool :=
  match kind with
  | .read => bitAt e 1
  | .write => bitAt e 2
  | .fetch => bitAt e 3
  | .look => true

def TlbEntry.allows (e : TlbEntry) (kind : AccKind) : Bool :=
  match kind with
  | .read => e.r
  | .write => e.w && e.d
  | .fetch => e.x
  | .look => false

/-- The bits a walk sets: A, and D before a write; none for TLOOK (R163, R189). -/
def markPte (kind : AccKind) (e : Nat) : Nat :=
  let withA := if bitAt e 5 then e else e + 32
  match kind with
  | .look => e
  | .write => if bitAt e 6 then withA else withA + 64
  | _ => withA

/-- The bytes pinned in one slice (R166). -/
def pinnedBytes (pins : List Pin) (sw level : Nat) : Nat :=
  ((pins.filter (fun p => p.level == level && switchOf p.level p.core.toNat == sw)).map (fun p => p.size)).foldl (· + ·) 0

/-- Whether the leaf's page is pinned already, or asks for no pin, or finds room in its slice (R166). -/
def pinFits (pins : List Pin) (l : Leaf) : Bool :=
  let level := bitSpan l.pte 52 3
  let core := bitSpan l.pte 55 8
  level == 0 || pins.any (fun p => p.page == l.page) ||
    decide (pinnedBytes pins (switchOf level core) level + l.size ≤ sliceBytes level / 2)

def addPin (pins : List Pin) (l : Leaf) (part va : Nat) : List Pin :=
  if bitSpan l.pte 52 3 = 0 || pins.any (fun p => p.page == l.page) then pins
  else pins ++ [⟨l.page, l.size, bitSpan l.pte 52 3, BitVec.ofNat 8 (bitSpan l.pte 55 8), part, va - va % l.size⟩]

/-- The outcome of a walk for partition p, with the A and D bits it sets, the page it pins and what it logs. TLOOK walks as
a load but for R, W and X and the A bit (R189): it pins, and where the pin does not fit it ends as a page fault (R166). -/
def State.walk (s : State) (p : Part) (kind : AccKind) (va : Nat) : State × Except XFault Leaf :=
  match walkTables s.mem p.root va with
  | none => (s, .error .page)
  | some l =>
    let pa := l.page + va % l.size
    if !pteAllows kind l.pte then (s, .error .access)
    else if !s.granted p pa then (s, .error .access)
    else if kind = .write && p.inCounters pa then (s, .error .access)
    else if !pinFits s.host.pins l then
      (s.log p.num (LogRec.plain 0x0A p.num s.core.num 0 (BitVec.ofNat 64 va)), .error .page)
    else
      ({ s with mem := if kind = .look then s.mem else s.mem.putBytes l.slot (leBytes 8 (markPte kind l.pte)),
                host := { s.host with pins := addPin s.host.pins l p.num va } }, .ok l)

/-- The cached entry that a leaf leaves for one 64 KiB page. -/
def Leaf.cached (l : Leaf) (kind : AccKind) (va : Nat) : TlbEntry :=
  ⟨va / 65536, l.page + va % l.size / 65536 * 65536, bitAt l.pte 1, bitAt l.pte 2, bitAt l.pte 3,
    bitAt l.pte 6 || kind == .write⟩

/-- The translation that a cached entry gives: no store reaches a counter area (R268). -/
def State.cachedAt (s : State) (e : TlbEntry) (kind : AccKind) (va : Nat) : Except XFault Nat :=
  let pa := e.pa + va % 65536
  if kind = .write && s.part.inCounters pa then .error .access else .ok pa

/-- Translation through a cache. A cached entry may be used in place of a walk until a TINVAL removes it (R164): the next
choice says so with a 1, and it is used in any case where `kept` says so. A walk leaves an entry. -/
def State.throughCache (s : State) (cache : List TlbEntry) (kept : Bool) (kind : AccKind) (va : Nat) :
    State × List TlbEntry × Except XFault Nat :=
  match cache.find? (fun e => e.vpn == va / 65536 && e.allows kind) with
  | some e =>
    if kept then (s, cache, s.cachedAt e kind va)
    else if s.choose = 1 then (s.chosen, cache, s.cachedAt e kind va)
    else match s.chosen.walk s.part kind va with
      | (s', .ok l) => (s', cache, .ok (l.page + va % l.size))
      | (s', .error f) => (s', cache, .error f)
  | none =>
    match s.walk s.part kind va with
    | (s', .ok l) =>
      (s', l.cached kind va :: cache.filter (fun e => e.vpn ≠ va / 65536), .ok (l.page + va % l.size))
    | (s', .error f) => (s', cache, .error f)

/-- Translation for the current unit's instructions. -/
def State.translate (s : State) (kind : AccKind) (va : Nat) : State × Except XFault Nat :=
  match s.throughCache s.core.set.tlb false kind va with
  | (u, cache, r) => (u.mapSet (fun c => { c with tlb := cache }), r)

/-! ### Ranges -/

/-- A range cut at multiples of 16. -/
def piecesOf (va len : Nat) : List (Nat × Nat) :=
  (List.range ((va + len + 15) / 16 - va / 16)).map (fun i =>
    let lo := max va (16 * (va / 16 + i))
    (lo, min (va + len) (16 * (va / 16 + i + 1)) - lo))

/-- A translation that may change the state, as that of `State.translate`. -/
abbrev Translator := State → Nat → State × Except XFault Nat

/-- The remote window of a partition that holds an address (R350). -/
def Part.windowAt (p : Part) (va : Nat) : Option Window :=
  (p.windows.find? (fun w => decide (w.2.va ≤ va) && decide (va < w.2.va + w.2.size))).map (·.2)

/-- The pieces of a global range translated in ascending order, up to the first that faults or that lies in a remote
window, which takes the place of translation (R350). -/
def State.translateAll (tr : Translator) : List (Nat × Nat) → State → State × Except (XFault × Nat) (List Span)
  | [], s => (s, .ok [])
  | (va, n) :: rest, s =>
    if (s.part.windowAt va).isSome then (s, .error (.access, va))
    else match tr s va with
      | (s, .error f) => (s, .error (f, va))
      | (s, .ok pa) =>
        match State.translateAll tr rest s with
        | (s, .error f) => (s, .error f)
        | (s, .ok sp) => (s, .ok (⟨va, pa, n⟩ :: sp))

/-- The part of a range that lies in the window part (R161). -/
def inWindowPart (va : Nat) : Bool := decide (windowBase ≤ va)

/-- The spans of a window range on the current core. -/
def State.windowSpans (s : State) (off len : Nat) : List Span :=
  (piecesOf off len).map (fun p => ⟨windowBase + p.1, windowPa s.core.num s.core.sliced s.core.half p.1, p.2⟩)

/-- Where a range leads through a translation: whether it lies in the scratchpad window, and its spans (R103, R161). -/
def State.resolveBy (s : State) (tr : Translator) (va len : Nat) : State × Except (XFault × Nat) (Bool × List Span) :=
  if inWindowPart va then
    if va - windowBase + len ≤ windowSize s.core.sliced && va < 2 ^ 48 then
      (s, .ok (true, s.windowSpans (va - windowBase) len))
    else (s, .error (.access, va))
  else if va + len > windowBase then (s, .error (.access, va))
  else match State.translateAll tr (piecesOf va len) s with
    | (s, .ok sp) => (s, .ok (false, sp))
    | (s, .error f) => (s, .error f)

/-- Where a range leads for the current unit's instructions. -/
def State.resolve (s : State) (kind : AccKind) (va len : Nat) : State × Except (XFault × Nat) (Bool × List Span) :=
  s.resolveBy (fun s va => s.translate kind va) va len

def XFault.cause : XFault → BitVec 8
  | .page => causePage
  | .access => causeAccess

/-- The status of a fault (R183). -/
def XFault.status : XFault → Nat
  | .page => 0x42
  | .access => 0x43

/-- The address checks of R103, in their order, for a range of `len` bytes whose address must be a multiple of
`align`. The answer is the trap's cause, or where the range leads. -/
def State.checked (s : State) (kind : AccKind) (va : Word) (align len : Nat) :
    State × Except (BitVec 8) (Bool × List Span) :=
  if va.toNat % align ≠ 0 then (s, .error causeAlign)
  else if va.toNat ≥ 2 ^ 48 then (s, .error causeAccess)
  else match s.resolve kind va.toNat len with
    | (s, .ok r) => (s, .ok r)
    | (s, .error f) => (s, .error f.1.cause)

/-! ### Reads -/

/-- The counter of switch s, port n and channel v of partition p (R268). -/
def State.counter (s : State) (sw port vc p : Nat) : Word := (lookup (sw, port, vc, p) s.net.counters).getD 0

/-- The byte of a partition's counter area at an offset. -/
def State.counterByte (s : State) (p off : Nat) : Byte :=
  BitVec.ofNat 8 ((s.counter (off / 2048) (off / 64 % 32) (off / 8 % 8) p).toNat / 2 ^ (8 * (off % 8)))

/-- What a byte of the physical space reads as for partition p. -/
def State.byteAt (s : State) (p : Part) (pa : Nat) : Byte :=
  if p.inCounters pa then s.counterByte p.num (pa - p.counters) else s.mem.get pa

def State.bytesAt (s : State) (p : Part) (pa n : Nat) : List Byte := (List.range n).map (fun i => s.byteAt p (pa + i))

/-- The error that a read of [pa, pa + n) meets: ECCUE at a line with a new error, POISON at a marked one (R329). -/
def State.readError (s : State) (pa n : Nat) : Option (BitVec 6) :=
  if (linesOf pa n).any (fun l => s.host.errLines.contains l) then some 0x03
  else if (linesOf pa n).any (fun l => s.host.poisoned.contains l) then some 0x0B
  else none

/-- What counts the errors corrected at an address (R329): the slice that pins the page, else the memory channel, 400 and
its number, or the scratchpad's core. -/
def counterKey (pins : List Pin) (pa : Nat) : Nat :=
  if pins.any (fun p => decide (p.page ≤ pa) && decide (pa < p.page + p.size)) then homeOf pins pa
  else match regionOf pa with
    | .stacked subtree channel => 400 + subtree * 4 + channel
    | .lpddr channel => 464 + channel
    | _ => homeOf pins pa

/-- The errors corrected by what an address stands in: 32 bits. -/
def HostSide.correctedAt (h : HostSide) (pa : Nat) : BitVec 32 := (lookup (counterKey h.pins pa) h.corrected).getD 0

/-- A read's report of an uncorrectable error: a record of type 0x04, which carries the count of corrected errors, and the
line marked poisoned (R329). -/
def State.report (s : State) (p core : Nat) (pa n : Nat) (cause : BitVec 6) : State :=
  let bad := (linesOf pa n).filter (fun l => s.host.errLines.contains l)
  ({ s with host := { s.host with
      errLines := s.host.errLines.filter (fun l => !bad.contains l)
      poisoned := s.host.poisoned ++ bad } }).log p
    { LogRec.plain 0x04 p core (BitVec.setWidth 8 cause) (BitVec.ofNat 64 pa) with corrected := s.host.correctedAt pa }

/-- A packet of a unit that has not been handed over or reported lost. -/
def Packet.pends (k : Packet) (lid : BitVec 32) (unit : Nat) : Bool :=
  k.lid == lid && k.unit == unit && k.way ≠ .delivered && k.way ≠ .lost && k.way ≠ .gone

/-- Where a write or an access goes. -/
def Packet.writeAt (k : Packet) : Nat :=
  match k.body with
  | .write _ pa _ => pa
  | .bank acc => acc.pa
  | _ => 0

/-- The bytes it reaches. -/
def Packet.writeLen (k : Packet) : Nat :=
  match k.body with
  | .write _ _ _ => k.bytes.length
  | .bank acc => if acc.wide then 8 else 4
  | _ => 0

/-- The bytes that a write or an access is to leave: none for those of an atomic, which only the home bank knows. -/
def Packet.writeBytes (k : Packet) : List (Option Byte) :=
  match k.body with
  | .write _ _ _ => k.bytes.map some
  | .bank acc =>
    match acc.kind with
    | .set => (leBytes 8 acc.x.toNat).map some
    | .load => []
    | _ => List.replicate k.writeLen none
  | _ => []

/-- An atomic or reduction, whose result only the home bank knows. -/
def Packet.isAtomic (k : Packet) : Bool :=
  match k.body with
  | .bank acc => acc.kind ≠ .load && acc.kind ≠ .set
  | _ => false

/-- The place of a packet in its unit's program order: that of the instruction it belongs to, for an engine's write that
of its operation. -/
def CSet.poOf (c : CSet) (k : Packet) : Nat :=
  match k.op with
  | some id => id
  | none => ((c.eng.find? (fun e => e.run.any (fun r => r.writes.contains k.id))).map (fun e => e.id)).getD k.id

/-- A write of a memory node, which stands in no order with the sequencer's program (R245). -/
def Packet.byNode (k : Packet) : Bool :=
  match k.body with
  | .write (.node _) _ _ => true
  | _ => false

/-- The writes of the current unit's program that are still on their way, by place in program order: where each goes, and
its bytes. A SIGSET whose fence part lasts is one of them (R107, R229, R246). -/
def State.ownWrites (s : State) : List (Nat × Nat × List (Option Byte)) :=
  (s.net.packets.filter (fun k => k.pends s.unit.lid s.unit.index && !k.byNode)).map
      (fun k => (s.core.set.poOf k, k.writeAt, k.writeBytes)) ++
    s.core.set.ops.filterMap (fun o =>
      match o.wait with
      | .sigset pa _ v _ _ => some (o.id, pa, (leBytes 8 v.toNat).map some)
      | _ => none)

/-- The latest in program order of some writes that reaches an address, with the byte that it gives. -/
def lastByte (pa : Nat) : List (Nat × Nat × List (Option Byte)) → Option (Nat × Option Byte)
  | [] => none
  | w :: rest =>
    let here := if w.2.1 ≤ pa then (w.2.2[pa - w.2.1]?).map (fun b => (w.1, b)) else none
    match here, lastByte pa rest with
    | some x, some y => if x.1 ≤ y.1 then some y else some x
    | some x, none => some x
    | none, r => r

/-- The byte that the unit's latest write on its way, of those before a place in program order, gives an address. -/
def State.ownByte (s : State) (before pa : Nat) : Option Byte :=
  (lastByte pa (s.ownWrites.filter (fun w => decide (w.1 < before)))).bind (·.2)

/-- An atomic or reduction of the current unit has not been applied: what it leaves is not known yet (R246). -/
def State.atomicOpen (s : State) : Bool :=
  s.net.packets.any (fun k => k.isAtomic && k.pends s.unit.lid s.unit.index)

/-- An atomic or reduction of a unit, earlier than some place in program order, has not been applied to one of
[pa, pa + n): what it leaves is not known yet (R246). -/
def State.atomicBefore (s : State) (lid : BitVec 32) (unit id pa n : Nat) : Bool :=
  s.net.packets.any (fun k => k.isAtomic && k.pends lid unit && decide (k.id < id) &&
    decide (k.writeAt < pa + n) && decide (pa < k.writeAt + k.writeLen))

/-- The cells that the unit's own writes on their way, of those before a place in program order, give [pa, pa + n). -/
def State.ownCells (s : State) (before pa n : Nat) : List Host.Cell :=
  (List.range n).filterMap (fun i => (s.ownByte before (pa + i)).map (fun b => (pa + i, b)))

/-- Bytes with those of some cells laid over them. -/
def overlay (cells : List Host.Cell) (pa : Nat) (bs : List Byte) : List Byte :=
  (List.range bs.length).map (fun i => (lookup (pa + i) cells).getD (bs.getD i 0))

/-- The phase that a launch's units are in: the boundaries it has passed (R231). -/
def State.phaseOf (s : State) (lid : BitVec 32) : Option Nat :=
  (s.disp.launches.find? (fun l => l.lid == lid && l.bound)).map (fun l => l.phase)

/-- The version of a location that readers of a launch in a phase see: what stood before the first write of a later
phase. -/
def lowestEarly (lid : BitVec 32) (phase loc : Nat) : List Early → Option Early
  | [] => none
  | e :: rest =>
    let r := lowestEarly lid phase loc rest
    if e.lid = lid ∧ e.loc = loc ∧ phase < e.phase then
      match r with
      | some m => if m.phase ≤ e.phase then r else some e
      | none => some e
    else r

/-- The version as a unit sees it: its own writes of later phases lie over it (R246). -/
def Early.seenBy (e : Early) (unit : Nat) : Word :=
  BitVec.ofNat 64 (leNat (overlay ((e.own.filter (fun c => c.1 == unit)).map (·.2)) e.loc (leBytes 8 e.value.toNat)))

/-- What a read of a phase, by a unit of a launch, finds at a location of its home: no write of a later phase, nor of one
that has not begun for the launch, but its own, unless a SIGWAIT has acquired (R232, R246, R249, R256). -/
def State.homeWord (s : State) (lid : BitVec 32) (unit phase : Nat) (bypass : Bool) (loc : Nat) : Word :=
  match s.phaseOf lid with
  | some j =>
    if bypass then s.mem.word loc
    else match lowestEarly lid (min phase j) loc s.net.early with
      | some e => e.seenBy unit
      | none => s.mem.word loc
  | none => s.mem.word loc

/-- A read of a phase that has ended: the unit's snapshot copies, which are of a later one, do not serve it (R17). -/
def State.readsLate (s : State) (lid : BitVec 32) (phase : Nat) : Bool :=
  match s.phaseOf lid with
  | some j => decide (phase < j)
  | none => false

/-- One location read by the current unit: its snapshot copy, when it holds one, no SIGWAIT bypasses it and the next
choice is 1; else the home, which leaves a copy (R17, R238, R248, R249). -/
def State.readLoc (s : State) (loc : Nat) : State × Word :=
  let home (bypass : Bool) : Word := s.homeWord s.unit.lid s.unit.index s.unit.phase bypass loc
  if s.readsLate s.unit.lid s.unit.phase then (s, home s.unit.bypass)
  else match lookup loc s.core.set.snaps with
    | some v =>
      if s.unit.bypass then (s, s.mem.word loc)
      else if s.choose = 1 then (s.chosen, v)
      else (s.chosen, home false)
    | none =>
      let v := home s.unit.bypass
      (s.mapSet (fun c => { c with snaps := (loc, v) :: c.snaps }), v)

/-- A read made as one of an earlier phase, or past a SIGWAIT of it, as its instruction was issued (R249, R256). -/
def State.readAs {α : Type} (s : State) (phase : Nat) (home : Bool) (f : State → State × α) : State × α :=
  let u := s.unit
  match f (s.mapUnit (fun x => { x with phase := phase, bypass := home || (x.bypass && x.phase == phase) })) with
  | (t, a) => (t.mapUnit (fun x => { x with phase := u.phase, bypass := u.bypass }), a)

/-- The bytes of a global span, location by location, with the unit's own writes over them. -/
def State.readLocs : List Nat → State → State × List Host.Cell
  | [], s => (s, [])
  | loc :: rest, s =>
    match s.readLoc loc with
    | (s, v) =>
      match State.readLocs rest s with
      | (s, cells) => (s, (List.range 8).map (fun i => (loc + i, BitVec.ofNat 8 (v.toNat / 2 ^ (8 * i)))) ++ cells)

/-- The locations that [pa, pa + n) touches. -/
def locsOf (pa n : Nat) : List Nat := (List.range ((pa + n + 7) / 8 - pa / 8)).map (fun i => 8 * (pa / 8 + i))

/-- The bytes of one span as the current unit reads them; an uncorrectable error instead (R172, R183). -/
def State.readSpan (s : State) (window : Bool) (sp : Span) : State × Except (BitVec 6) (List Byte) :=
  match s.readError sp.pa sp.n with
  | some e => (s.report s.part.num s.core.num sp.pa sp.n e, .error e)
  | none =>
    if window || s.part.inCounters sp.pa then (s, .ok (s.bytesAt s.part sp.pa sp.n))
    else match State.readLocs (locsOf sp.pa sp.n) s with
      | (s', cells) =>
        (s', .ok (overlay (s.ownCells s.net.nextId sp.pa sp.n) sp.pa
          ((List.range sp.n).map (fun i => (lookup (sp.pa + i) cells).getD 0))))

/-- The bytes of spans in ascending order, up to the first error: those read, and the error with its span. -/
def State.readSpans (window : Bool) : List Span → State → State × List Byte × Option (BitVec 6 × Span)
  | [], s => (s, [], none)
  | sp :: rest, s =>
    match s.readSpan window sp with
    | (s, .error e) => (s, [], some (e, sp))
    | (s, .ok bs) =>
      match State.readSpans window rest s with
      | (s, more, err) => (s, bs ++ more, err)

/-! ### Writes (R229 to R232, R244, R251, R329, R352) -/

/-- Pages of a partition's grants marked in its dirty log (R352). -/
def Part.dirtied (p : Part) (pages : List Nat) : Part :=
  match p.dirty with
  | some l => { p with dirty := some (l ++ pages.filter (fun g => !l.contains g)) }
  | none => p

/-- Something other than its controller has written into a pool's metadata (R222). -/
def Pool.touched (p : Pool) (pa n : Nat) : Pool :=
  if p.pages.any (fun g => decide (pa < g + 0x200000) && decide (g < pa + n)) then { p with spoilt := true } else p

/-- The conditions of R238. -/
def flagMeets (cond : Nat) (v x : Word) : Bool :=
  match cond % 4 with
  | 0 => v == x
  | 1 => v != x
  | 2 => x.ule v
  | _ => (v &&& x) != 0

/-- The flag's value at its home; that of a peer module's flag is free (R350). -/
def State.flagValue (s : State) (pa : Nat) : Word := if pa = 2 ^ 52 then Config.freeWord s.free else s.mem.word pa

/-- A unit has acquired: its snapshot copies are dropped, and its loads bypass them until its next boundary (R17, R238). -/
def CSet.acquire (c : CSet) (lid : BitVec 32) (unit : Nat) : CSet :=
  if c.runsUnit lid unit then { c with snaps := [], unit := c.unit.map (fun u => { u with bypass := true }) } else c

/-- A flag tested, on arrival for the first time and then after each write applied to it: a condition that holds completes
the wait with the value, and the unit acquires (R238). -/
def State.testFlag (s : State) (w : SigWait) : State :=
  let v := s.flagValue w.pa
  let s := if w.pa = 2 ^ 52 then s.spent else s
  if flagMeets w.cond.toNat v w.x then
    let s : State := { s with net := { s.net with waits := s.net.waits.filter (fun y => y.op ≠ w.op) } }
    (s.settle w.op v .clear).mapSets (fun c => c.acquire w.lid w.unit)
  else
    { s with net := { s.net with waits := s.net.waits.map (fun y =>
      if y.op = w.op then { y with fresh := decide (w.pa = 2 ^ 52), since := some (w.since.getD s.cycle) } else y) } }

/-- The 64 KiB pages that [pa, pa + n) touches, each with the first byte of it there. -/
def pagesOf (pa n : Nat) : List (Nat × Nat) :=
  (List.range ((pa + n + 65535) / 65536 - pa / 65536)).map (fun i => (pa / 65536 + i, max pa (65536 * (pa / 65536 + i))))

/-- Bytes written at a home: the poison marks of whole lines, the dirty logs, and the SIGWAITs that have arrived at a
location they change, which are tested at once (R238, R244, R329, R352). -/
def State.land (s : State) (pa : Nat) (bs : List Byte) : State :=
  let s : State := { s with
    mem := s.mem.putBytes pa bs
    host := { s.host with
      errLines := s.host.errLines.filter (fun l => !(wholeLines pa bs.length).contains l)
      poisoned := s.host.poisoned.filter (fun l => !(wholeLines pa bs.length).contains l) }
    parts := s.parts.map (fun p => p.dirtied (((pagesOf pa bs.length).filter (fun g => s.granted p g.2)).map (·.1))) }
  (s.net.waits.filter (fun w => w.since.isSome && (locsOf pa bs.length).contains w.pa)).foldl State.testFlag s

/-- A write applied at its home, by another than a block-pool controller. -/
def State.apply (s : State) (pa : Nat) (bs : List Byte) : State :=
  { s.land pa bs with pools := s.pools.map (fun p => p.touched pa bs.length) }

/-- A value with bytes laid over its location's. -/
def patchWord (loc : Nat) (v : Word) (pa : Nat) (bs : List Byte) : Word :=
  BitVec.ofNat 64 (leNat (overlay ((List.zipIdx bs).map (fun b => (pa + b.2, b.1))) loc (leBytes 8 v.toNat)))

/-- The cells of a write that lie in a location. -/
def cellsIn (loc pa : Nat) (bs : List Byte) : List Host.Cell :=
  ((List.zipIdx bs).map (fun b => (pa + b.2, b.1))).filter (fun c => c.1 / 8 * 8 == loc)

/-- A read of a phase of the launch has still to be made: a request on its way, an engine operation that copies on, or an
SFEED that waits (R249). -/
def State.stillReads (s : State) (lid : BitVec 32) (phase : Nat) : Bool :=
  s.net.packets.any (fun k => k.lid == lid && k.phase == phase && k.way ≠ .delivered && k.way ≠ .lost && match k.body with
    | .read _ _ => true
    | _ => false) ||
  s.sets.any (fun c => c.runs lid && (c.eng.any (fun e => e.phase == phase) || c.ops.any (fun o => match o.wait with
    | .feed _ _ _ _ _ p _ => p == phase
    | _ => false)))

/-- A reader of a phase before one may still come: the launch has not begun it, or a read of an earlier one is still to be
made. -/
def State.readersBefore (s : State) (lid : BitVec 32) (phase : Nat) : Bool :=
  match s.phaseOf lid with
  | some j => decide (j < phase) || (List.range phase).any (s.stillReads lid)
  | none => false

/-- A write of a unit's phase reaches its home: the readers of a later phase see it too, and where readers of an earlier
one may still come the version without it is kept for all of them but the unit itself (R232, R246, R249). -/
def State.keepEarly (s : State) (lid : BitVec 32) (unit phase pa : Nat) (bs : List Byte) : State :=
  let locs := locsOf pa bs.length
  let missing := locs.filter (fun l =>
    !s.net.early.any (fun e => e.lid == lid && e.phase == phase && e.loc == l) && s.readersBefore lid phase)
  let fresh := missing.map (fun l =>
    match lowestEarly lid (phase - 1) l s.net.early with
    | some e => { e with phase := phase }
    | none => ⟨lid, phase, l, s.mem.word l, []⟩)
  { s with net := { s.net with
      early := (s.net.early ++ fresh).map (fun e =>
        if e.lid ≠ lid ∨ !locs.contains e.loc then e
        else if phase < e.phase then { e with value := patchWord e.loc e.value pa bs }
        else { e with own := (cellsIn e.loc pa bs).map (fun c => (unit, c)) ++
          e.own.filter (fun o => !(o.1 == unit && decide (pa ≤ o.2.1) && decide (o.2.1 < pa + bs.length))) }) } }

/-- The unit's snapshot copies of the locations that a write of its own changes are dropped (R246). -/
def CSet.forget (c : CSet) (lid : BitVec 32) (unit pa n : Nat) : CSet :=
  if c.runsUnit lid unit then { c with snaps := c.snaps.filter (fun p => !(locsOf pa n).contains p.1) } else c

/-- A write of a unit applied at its home. -/
def State.applyPhase (s : State) (k : Packet) (pa : Nat) (bs : List Byte) : State :=
  ((s.keepEarly k.lid k.unit k.phase pa bs).apply pa bs).mapSets (fun c => c.forget k.lid k.unit pa bs.length)

/-- Versions that no reader needs any more are dropped: those of phases up to one of which no earlier reader is left, or of
a launch that is over. -/
def State.dropEarly (s : State) (lid : BitVec 32) (upto : Option Nat) : State :=
  let done : Early → Bool := fun e => match upto with
    | some n => decide (e.phase ≤ n) && !(List.range e.phase).any (s.stillReads lid)
    | none => true
  { s with net := { s.net with early := s.net.early.filter (fun e => !(e.lid == lid && done e)) } }

/-- Neighbouring spans joined while they stay in one 256-byte block, the most a packet carries (R262). -/
def joinSpans : List Span → List Span
  | [] => []
  | sp :: rest =>
    match joinSpans rest with
    | next :: more =>
      if sp.pa + sp.n = next.pa ∧ sp.va + sp.n = next.va ∧ sp.pa / 256 = next.pa / 256 then
        ⟨sp.va, sp.pa, sp.n + next.n⟩ :: more
      else sp :: next :: more
    | [] => [sp]

/-- The next sequence number of a pair (R262). -/
def State.pairSeq (s : State) (src dst : Nat) : BitVec 32 := (lookup (src, dst) s.net.seqs).getD 0

/-- A packet injected: it takes the next number of its pair and its place in the retention buffer; what a unit, its
nodes or its engines send is counted for its owner (R262, R264, R319). -/
def State.inject (s : State) (k : Packet) : State :=
  let k := { k with id := s.net.nextId, seq := s.pairSeq k.src k.dst }
  let u := { s with net := { s.net with
      nextId := s.net.nextId + 1
      seqs := insert (k.src, k.dst) (k.seq + 1) s.net.seqs
      packets := s.net.packets ++ [k] } }
  if k.unit = 0xFFFF then u else u.use k.part k.owner 1 k.bytes.length

/-- A packet of the current unit, on its way, at the scope that reaches the package. Memory packets travel on VC0
(assumption 7). -/
def State.unitPacket (s : State) (dst vc : Nat) (bytes : List Byte) (body : Body) (op : Option Nat) : Packet :=
  ⟨0, s.core.num, dst, s.part.num, vc, 0, s.unit.lid, s.unit.index, s.unit.owner, 4, s.unit.phase, 0, false, bytes, body,
    .sent, none, op, none⟩

/-- The current unit's snapshot copies of the locations of a range dropped. -/
def State.dropSnaps (s : State) (pa n : Nat) : State :=
  s.mapSet (fun c => { c with snaps := c.snaps.filter (fun p => !(locsOf pa n).contains p.1) })

/-- One write of the current unit issued by a source: applied at once in the scratchpad window, else sent to its
home with its phase tag (R229). The answer holds the packet's number. -/
def State.writeSpan (s : State) (source : Source) (window : Bool) (sp : Span) (bs : List Byte) : State × List Nat :=
  if window then (s.apply sp.pa bs, [])
  else
    ((s.dropSnaps sp.pa sp.n).inject
      (s.unitPacket (homeOf s.host.pins sp.pa) 0 bs (.write source sp.pa (BitVec.ofNat 48 sp.va)) none),
      [s.net.nextId])

/-- The writes of a range, in ascending order. -/
def State.writeSpans (source : Source) (window : Bool) : List Span → List Byte → State → State × List Nat
  | [], _, s => (s, [])
  | sp :: rest, bs, s =>
    match s.writeSpan source window sp (bs.take sp.n) with
    | (s, ids) =>
      match State.writeSpans source window rest (bs.drop sp.n) s with
      | (s, more) => (s, ids ++ more)

/-- A write of a range by the current unit. -/
def State.write (s : State) (source : Source) (window : Bool) (spans : List Span) (bs : List Byte) : State × List Nat :=
  State.writeSpans source window (joinSpans spans) bs s

/-- The packets of core n's retention buffer, 64 at most before it injects nothing: a lost packet's entry is freed once the
loss notice has come (R264, R266). -/
def State.retained (s : State) (n : Nat) : Nat :=
  (s.net.packets.filter (fun k => k.src == n && k.way ≠ .gone)).length

def State.retentionFull (s : State) : Bool := decide (s.retained s.core.num ≥ 64)

/-- A FENCE or SIGWAIT of the unit that its later global accesses wait for (R236, R238). -/
def CSet.fenced (c : CSet) : Bool :=
  c.ops.any (fun o => match o.wait with
    | .fence => true
    | .sigwait => true
    | _ => false)

/-- A SIGWAIT of the unit that its later global accesses wait for, those of its memory nodes too (R238). -/
def CSet.sigwaits (c : CSet) : Bool :=
  c.ops.any (fun o => match o.wait with
    | .sigwait => true
    | _ => false)

/-- The phase boundaries the unit waits for (R232). -/
def CSet.openBoundaries (c : CSet) : Nat :=
  (c.ops.filter (fun o => match o.wait with | .boundary _ _ => true | _ => false)).length

end Sys2Proof.Machine
end

