-- ==== Sys2Proof/Machine/Num.lean ====
section
/-!
DEFINITION. Number formats, rounding and scales (03_numbers, R52 to R80).

A value is decoded to an exact dyadic number, the operation is made exactly, and the result is rounded once.
-/

namespace Sys2Proof.Machine

/-! ### Exact values -/

/-- An exact floating-point value: `fin neg m e` is (−1)^neg · m · 2^e with m > 0. -/
inductive FVal where
  | nan
  | inf (neg : Bool)
  | zero (neg : Bool)
  | fin (neg : Bool) (m : Nat) (e : Int)
  deriving DecidableEq, Repr

/-- A floating-point format (R53): exponent and mantissa widths, bias, and whether the top exponent holds the
infinity and NaNs (E4M3 has no infinity and one NaN code per sign). -/
structure FFmt where
  eb   : Nat
  mb   : Nat
  bias : Int
  ieee : Bool
  deriving DecidableEq, Repr

def fp32 : FFmt := ⟨8, 23, 127, true⟩
def bf16 : FFmt := ⟨8, 7, 127, true⟩
def fp16 : FFmt := ⟨5, 10, 15, true⟩
def e4m3 : FFmt := ⟨4, 3, 7, false⟩

/-- Rounding modes (R61). -/
inductive Mode where
  | rne | rz | ru | rd
  deriving DecidableEq, Repr

/-- The 2-bit rounding code of R61. -/
def Mode.ofCode (c : Nat) : Mode :=
  match c % 4 with
  | 0 => .rne
  | 1 => .rz
  | 2 => .ru
  | _ => .rd

def FFmt.width (f : FFmt) : Nat := 1 + f.eb + f.mb

/-- The first magnitude code that is no finite value: infinity, or E4M3's NaN. -/
def FFmt.limit (f : FFmt) : Nat :=
  if f.ieee then (2 ^ f.eb - 1) * 2 ^ f.mb else 2 ^ (f.eb + f.mb) - 1

/-- The canonical NaN (R53, R64). -/
def FFmt.nan (f : FFmt) : Nat :=
  if f.ieee then (2 ^ f.eb - 1) * 2 ^ f.mb + 2 ^ (f.mb - 1) else 2 ^ (f.eb + f.mb) - 1

def FFmt.signBit (f : FFmt) : Nat := 2 ^ (f.eb + f.mb)

/-- A magnitude with a sign. -/
def FFmt.signed (f : FFmt) (neg : Bool) (mag : Nat) : Nat := if neg then f.signBit + mag else mag

/-- The value of a code (R53, R54). -/
def FFmt.decode (f : FFmt) (n : Nat) : FVal :=
  let neg := n / f.signBit % 2 == 1
  let mag := n % f.signBit
  let e := mag / 2 ^ f.mb
  let m := mag % 2 ^ f.mb
  if f.ieee && e == 2 ^ f.eb - 1 then (if m == 0 then .inf neg else .nan)
  else if !f.ieee && mag == f.limit then .nan
  else if e == 0 then
    (if m == 0 then .zero neg else .fin neg m (1 - f.bias - f.mb))
  else .fin neg (2 ^ f.mb + m) (e - f.bias - f.mb)

/-- The integer nearest m·2^(−s) by a mode; `sticky` says that the exact value lies a little above m (R61). -/
def roundShift (mode : Mode) (neg : Bool) (m : Nat) (s : Nat) (sticky : Bool) : Nat :=
  let q := m / 2 ^ s
  let r := m % 2 ^ s
  let half := 2 ^ s / 2
  let exact := r == 0 && !sticky
  let up :=
    match mode with
    | .rne => decide (s ≠ 0) && (decide (r > half) || (r == half && (sticky || q % 2 == 1)))
    | .rz => false
    | .ru => !exact && !neg
    | .rd => !exact && neg
  if up then q + 1 else q

/-- The magnitude code of m·2^e rounded, as if the exponent had no upper end (R61, R63). -/
def FFmt.roundMag (f : FFmt) (mode : Mode) (neg : Bool) (m : Nat) (e : Int) (sticky : Bool) : Nat :=
  let top : Int := Nat.log2 m + e
  let q : Int := max (top - f.mb) (1 - f.bias - f.mb)
  let mant :=
    if q ≥ e then roundShift mode neg m (q - e).toNat sticky
    else m * 2 ^ (e - q).toNat
  ((q + f.mb + f.bias - 1).toNat) * 2 ^ f.mb + mant

/-- A finite value rounded into the format; `sat` is E4M3's saturating overflow mode (R63, R65). -/
def FFmt.roundFin (f : FFmt) (mode : Mode) (sat : Bool) (neg : Bool) (m : Nat) (e : Int) (sticky : Bool) : Nat :=
  let mag := f.roundMag mode neg m e sticky
  if mag < f.limit then f.signed neg mag
  else if f.ieee then
    match mode, neg with
    | .rne, _ => f.signed neg f.limit
    | .rz, _ => f.signed neg (f.limit - 1)
    | .ru, false => f.limit
    | .ru, true => f.signed true (f.limit - 1)
    | .rd, false => f.limit - 1
    | .rd, true => f.signed true f.limit
  else if sat then f.signed neg (f.limit - 1)
  else f.nan

/-- A value rounded into the format (R61 to R65). -/
def FFmt.encode (f : FFmt) (mode : Mode) (sat : Bool) : FVal → Nat
  | .nan => f.nan
  | .inf neg => if f.ieee then f.signed neg f.limit else if sat then f.signed neg (f.limit - 1) else f.nan
  | .zero neg => f.signed neg 0
  | .fin neg m e => f.roundFin mode sat neg m e false

/-- Nearest even, the rounding of everything but a conversion (R62). -/
def FFmt.rne (f : FFmt) (v : FVal) : Nat := f.encode .rne true v

/-! ### Exact operations -/

def FVal.neg : FVal → FVal
  | .nan => .nan
  | .inf s => .inf (!s)
  | .zero s => .zero (!s)
  | .fin s m e => .fin (!s) m e

def FVal.ofInt (i : Int) : FVal :=
  if i = 0 then .zero false else .fin (decide (i < 0)) i.natAbs 0

/-- An integer times a power of two; an exact zero is +0 (R61, round to nearest). -/
def FVal.ofDyadic (i : Int) (e : Int) : FVal :=
  if i = 0 then .zero false else .fin (decide (i < 0)) i.natAbs e

def FVal.mul : FVal → FVal → FVal
  | .nan, _ => .nan
  | _, .nan => .nan
  | .inf s, .inf t => .inf (s != t)
  | .inf _, .zero _ => .nan
  | .zero _, .inf _ => .nan
  | .inf s, .fin t _ _ => .inf (s != t)
  | .fin s _ _, .inf t => .inf (s != t)
  | .zero s, .zero t => .zero (s != t)
  | .zero s, .fin t _ _ => .zero (s != t)
  | .fin s _ _, .zero t => .zero (s != t)
  | .fin s m e, .fin t n g => .fin (s != t) (m * n) (e + g)

def FVal.isNan : FVal → Bool
  | .nan => true
  | _ => false

def FVal.isInf (neg : Bool) : FVal → Bool
  | .inf s => s == neg
  | _ => false

def FVal.isZero (neg : Bool) : FVal → Bool
  | .zero s => s == neg
  | _ => false

/-- The exponent of a finite value's unit. -/
def FVal.unitExp (d : Int) : FVal → Int
  | .fin _ _ e => min e d
  | _ => d

/-- A finite value in units of 2^e. -/
def FVal.units (e : Int) : FVal → Int
  | .fin s m g => (if s then -1 else 1) * ((m : Int) * 2 ^ (g - e).toNat)
  | _ => 0

/-- The exact sum, with the zero signs of R61 under round to nearest. -/
def FVal.sum (vs : List FVal) : FVal :=
  if vs.any FVal.isNan then .nan
  else if vs.any (FVal.isInf false) then (if vs.any (FVal.isInf true) then .nan else .inf false)
  else if vs.any (FVal.isInf true) then .inf true
  else if vs.all (FVal.isZero true) then .zero true
  else
    let e := vs.foldl FVal.unitExp 0
    .ofDyadic ((vs.map (FVal.units e)).foldl (· + ·) 0) e

def FVal.add (a b : FVal) : FVal := .sum [a, b]

/-- A magnitude comparison of values that are no NaN; −0 equals +0 (R64). -/
def FVal.lt (a b : FVal) : Bool :=
  match a, b with
  | .nan, _ => false
  | _, .nan => false
  | .inf s, .inf t => s && !t
  | .inf s, _ => s
  | _, .inf t => !t
  | a, b =>
    let e := b.unitExp (a.unitExp 0)
    decide (a.units e < b.units e)

def FVal.eq (a b : FVal) : Bool := !a.isNan && !b.isNan && !a.lt b && !b.lt a

/-- The order of FMAX, FMIN and LMAX, where −0 is less than +0 (R64). -/
def FVal.ltSigned (a b : FVal) : Bool := a.lt b || (a.isZero true && b.isZero false)

/-! ### Rounded operations on codes -/

def FFmt.add (f : FFmt) (a b : Nat) : Nat := f.rne ((f.decode a).add (f.decode b))
def FFmt.sub (f : FFmt) (a b : Nat) : Nat := f.rne ((f.decode a).add (f.decode b).neg)
def FFmt.mul (f : FFmt) (a b : Nat) : Nat := f.rne ((f.decode a).mul (f.decode b))
def FFmt.fma (f : FFmt) (a b c : Nat) : Nat := f.rne (((f.decode a).mul (f.decode b)).add (f.decode c))

/-- FMAX (R64): the other operand when exactly one is NaN. -/
def FFmt.max (f : FFmt) (a b : Nat) : Nat :=
  match f.decode a, f.decode b with
  | .nan, .nan => f.nan
  | .nan, _ => b
  | _, .nan => a
  | x, y => if x.ltSigned y then b else a

/-- FMIN (R64). -/
def FFmt.min (f : FFmt) (a b : Nat) : Nat :=
  match f.decode a, f.decode b with
  | .nan, .nan => f.nan
  | .nan, _ => b
  | _, .nan => a
  | x, y => if y.ltSigned x then b else a

/-- FABS and FNEG: the sign bit, or the canonical NaN (R137). -/
def FFmt.abs (f : FFmt) (a : Nat) : Nat :=
  if (f.decode a).isNan then f.nan else a % f.signBit
def FFmt.neg (f : FFmt) (a : Nat) : Nat :=
  if (f.decode a).isNan then f.nan
  else if a / f.signBit % 2 = 1 then a % f.signBit else f.signBit + a % f.signBit

/-- A subnormal code read or replaced as the zero of its sign (R69, R70). -/
def FFmt.flush (f : FFmt) (ftz : Bool) (a : Nat) : Nat :=
  let mag := a % f.signBit
  if ftz && decide (mag < 2 ^ f.mb) then a - mag else a

/-! ### Correctly rounded functions (R78) -/

/-- The floor of the square root of n, bit by bit from bit k − 1 down. -/
def isqrtFrom (n : Nat) : Nat → Nat → Nat
  | 0, acc => acc
  | k + 1, acc =>
    let c := acc + 2 ^ k
    if c * c ≤ n then isqrtFrom n k c else isqrtFrom n k acc

def isqrt (n : Nat) : Nat := isqrtFrom n (Nat.log2 n / 2 + 1) 0

/-- RCP, FRCP. -/
def FFmt.rcp (f : FFmt) (a : Nat) : Nat :=
  match f.decode a with
  | .nan => f.nan
  | .zero s => f.signed s f.limit
  | .inf s => f.signed s 0
  | .fin s m e =>
    let k := Nat.log2 m + 40
    f.roundFin .rne true s (2 ^ k / m) (-k - e) (2 ^ k % m != 0)

/-- FRSQ. -/
def FFmt.rsq (f : FFmt) (a : Nat) : Nat :=
  match f.decode a with
  | .nan => f.nan
  | .zero s => f.signed s f.limit
  | .inf true => f.nan
  | .inf false => 0
  | .fin true _ _ => f.nan
  | .fin false m e =>
    let odd := e % 2 != 0
    let m' := if odd then 2 * m else m
    let e' := if odd then e - 1 else e
    let k := Nat.log2 m' + 40
    let r := isqrt (2 ^ (2 * k) / m')
    f.roundFin .rne true false r (-k - e' / 2) (r * r * m' != 2 ^ (2 * k))

/-- ln 2 in units of 2^−200. -/
def ln2Fixed : Nat := 0xb17217f7d1cf79abc9e3b39803f2f6af40f343267298b62d8a

/-- The sum of y^j/j! from the term `t` of index j on, in units of 2^−200. -/
def expTerms (y : Nat) : Nat → Nat → Nat → Nat → Nat
  | 0, _, _, acc => acc
  | k + 1, j, t, acc => expTerms y k (j + 1) (t * y / 2 ^ 200 / j) (acc + t * y / 2 ^ 200 / j)

/-- 2^(g/2^64) for 0 ≤ g < 2^64, in units of 2^−200, rounded down by less than 2^−190. -/
def exp2Frac (g : Nat) : Nat :=
  expTerms (g * ln2Fixed / 2 ^ 64) 60 1 (2 ^ 200) (2 ^ 200)

/-- EXP2, FEXP2. An input below 2^−40 in magnitude rounds to 1; else its fraction has at most 64 bits. -/
def FFmt.exp2 (f : FFmt) (a : Nat) : Nat :=
  match f.decode a with
  | .nan => f.nan
  | .zero _ => f.encode .rne true (.fin false 1 0)
  | .inf true => 0
  | .inf false => f.limit
  | .fin s m e =>
    let top : Int := Nat.log2 m + e
    if top < -40 then f.encode .rne true (.fin false 1 0)
    else if top ≥ 9 then (if s then 0 else f.limit)
    else
      let x : Int := (if s then -1 else 1) * (if e ≥ -64 then (m : Int) * 2 ^ (e + 64).toNat else (m : Int) / 2 ^ (-64 - e).toNat)
      let i := x / 2 ^ 64
      let g := (x % 2 ^ 64).toNat
      if g = 0 then f.encode .rne true (.fin false 1 i)
      else f.roundFin .rne true false (exp2Frac g) (i - 200) true

/-- The binary digits of log2 z for 1 ≤ z < 2 by repeated squaring, z in units of 2^−260. -/
def log2Digits : Nat → Nat → Nat → Nat
  | 0, _, acc => acc
  | k + 1, z, acc =>
    let y := z * z / 2 ^ 260
    if y ≥ 2 ^ 261 then log2Digits k (y / 2) (2 * acc + 1) else log2Digits k y (2 * acc)

/-- FLOG2. -/
def FFmt.log2 (f : FFmt) (a : Nat) : Nat :=
  match f.decode a with
  | .nan => f.nan
  | .zero _ => f.signed true f.limit
  | .inf true => f.nan
  | .inf false => f.limit
  | .fin true _ _ => f.nan
  | .fin false m e =>
    let l := Nat.log2 m
    let i : Int := l + e
    if m = 2 ^ l then f.rne (.ofInt i)
    else
      let frac := log2Digits 110 (m * 2 ^ (260 - l)) 0
      if i ≥ 0 then f.roundFin .rne true false ((i.toNat) * 2 ^ 110 + frac) (-110) true
      else f.roundFin .rne true true ((-i).toNat * 2 ^ 110 - frac - 1) (-110) true

/-! ### Functions of the gate pipeline (R79, R80), on FP32 codes -/

def f32one : Nat := 0x3F800000
def f32two : Nat := 0x40000000
def f32half : Nat := 0x3F000000
def f32log2e : Nat := 0x3FB8AA3B
/-- The FP32 value nearest 0.79788456. -/
def f32c1 : Nat := 0x3F4C422A
/-- The FP32 value nearest 0.044715. -/
def f32c2 : Nat := 0x3D372713

def gpExp (x : Nat) : Nat := fp32.exp2 (fp32.mul x f32log2e)
def gpSig (x : Nat) : Nat := fp32.rcp (fp32.add f32one (gpExp (fp32.neg x)))
def gpTanh (x : Nat) : Nat := fp32.sub (fp32.mul f32two (gpSig (fp32.mul f32two x))) f32one
def gpSilu (x : Nat) : Nat := fp32.mul x (gpSig x)
def gpGelu (x : Nat) : Nat :=
  let t1 := fp32.mul x x
  let t2 := fp32.mul t1 x
  let t3 := fp32.mul f32c2 t2
  let t4 := fp32.add x t3
  let t5 := fp32.mul f32c1 t4
  let t6 := gpTanh t5
  let t7 := fp32.add f32one t6
  let t8 := fp32.mul x t7
  fp32.mul f32half t8

/-- EXPQ8 (R80): an E4M3 code, always saturating. -/
def gpExpQ8 (x : Nat) : Nat :=
  let m := fp32.rne ((fp32.decode (gpExp x)).mul (.fin false 1 8))
  e4m3.encode .rne true (fp32.decode m)

/-! ### Conversions between the formats of R52 (R62 to R66) -/

/-- A signed reading of the low w bits. -/
def sintOf (w n : Nat) : Int :=
  let m := n % 2 ^ w
  if m < 2 ^ (w - 1) then m else (m : Int) - 2 ^ w

/-- An integer's low w bits. -/
def bitsOf (w : Nat) (i : Int) : Nat := (i % (2 ^ w : Nat)).toNat

/-- The bits of one element of a format code, 0 to 7. -/
def fmtBits (c : Nat) : Nat :=
  match c with
  | 0 => 32 | 1 => 16 | 2 => 16 | 3 => 8 | 4 => 32 | 5 => 8 | 6 => 8 | _ => 4

/-- The exact value of an element (R52 to R56). -/
def fmtValue (c n : Nat) : FVal :=
  match c with
  | 0 => fp32.decode n
  | 1 => bf16.decode n
  | 2 => fp16.decode n
  | 3 => e4m3.decode n
  | 4 => .ofInt (sintOf 32 n)
  | 5 => .ofInt (sintOf 8 n)
  | 6 => .ofInt (n % 256 : Nat)
  | _ => .ofInt (sintOf 4 n)

/-- The integer a value rounds to, saturated to a range; NaN is 0 (R66). -/
def toIntSat (mode : Mode) (lo hi : Int) : FVal → Int
  | .nan => 0
  | .inf true => lo
  | .inf false => hi
  | .zero _ => max lo (min hi 0)
  | .fin s m e =>
    let q : Int := if e ≥ 0 then (m : Int) * 2 ^ e.toNat else roundShift mode s m (-e).toNat false
    max lo (min hi (if s then -q else q))

/-- A value converted to a format code 0 to 7. -/
def fmtEncode (c : Nat) (mode : Mode) (sat : Bool) (v : FVal) : Nat :=
  match c with
  | 0 => fp32.encode mode sat v
  | 1 => bf16.encode mode sat v
  | 2 => fp16.encode mode sat v
  | 3 => e4m3.encode mode sat v
  | 4 => bitsOf 32 (toIntSat mode (-2147483648) 2147483647 v)
  | 5 => bitsOf 8 (toIntSat mode (-128) 127 v)
  | 6 => bitsOf 8 (toIntSat mode 0 255 v)
  | _ => bitsOf 4 (toIntSat mode (-8) 7 v)

/-- One element converted. -/
def cvtElement (src dst : Nat) (mode : Mode) (sat : Bool) (n : Nat) : Nat :=
  fmtEncode dst mode sat (fmtValue src n)

/-! ### Ternary digits (R57) -/

/-- Digit i of a TERN5 byte: 0, +1, or 2 for −1; five zeros for a code of 243 or above. -/
def ternDigit (b i : Nat) : Int :=
  if b ≥ 243 then 0
  else match b / 3 ^ i % 3 with
    | 0 => 0
    | 1 => 1
    | _ => -1

def ternBad (b : Nat) : Bool := decide (b ≥ 243)

end Sys2Proof.Machine
end

