-- ==== Sys2Proof/Machine/Operands.lean ====
section
/-!
DEFINITION. The operand forms: immediates, register pairs, tile references, targets, tags and the words that name a
destination or a region (R29, R30, R36, R123, R167, R276, R297).
-/

namespace Sys2Proof.Machine

/-! ### Immediates and pairs (R29, R30) -/

def sx14 (i : BitVec 14) : Word := BitVec.signExtend 64 i
def sx20 (i : BitVec 20) : Word := BitVec.signExtend 64 i
def sx11 (o : BitVec 11) : Word := BitVec.signExtend 64 o

/-- The odd register of a pair, b + 1. -/
def pairOf (r : Reg) : Reg := r + 1

/-- A word's low 32 bits as a signed number. -/
def sint32 (n : Nat) : Int := sintOf 32 n

/-! ### Tile references (R167) -/

structure Tile where
  base      : Nat
  rowPitch  : Nat
  tilePitch : Nat
  step      : Nat
  rows      : Nat
  units     : Nat
  format    : Nat
  depth     : Nat
  tag       : Nat
  zero      : Bool
  deriving DecidableEq, Repr

/-- The fields of a pair of words; `zero` says that every reserved bit is zero. -/
def tileOf (even odd : Word) : Tile where
  base := wspan even 0 21
  rowPitch := wspan even 24 16
  tilePitch := wspan even 40 16
  step := wspan even 56 8
  rows := wspan odd 0 8 + 1
  units := wspan odd 8 8 + 1
  format := wspan odd 16 4
  depth := wspan odd 20 4 + 1
  tag := wspan odd 24 10
  zero := wspan even 21 3 == 0 && wspan odd 34 30 == 0

/-- The scratchpad offset of unit u of row r of tile j. -/
def Tile.offset (t : Tile) (j r u : Nat) : Nat :=
  t.base + 16 * (j * t.tilePitch + r * t.rowPitch + (u + r * t.step) % t.units)

/-- A valid tile reference in a window of `size` bytes. A row's units fill its first positions, so the last unit of
the last row of the last tile bounds every offset. -/
def Tile.valid (t : Tile) (size : Nat) : Bool :=
  t.zero && t.base % 16 == 0 && decide (t.units ≤ t.rowPitch) &&
    (t.depth == 1 || decide (t.rows * t.rowPitch ≤ t.tilePitch)) &&
    decide (t.base + 16 * ((t.depth - 1) * t.tilePitch + (t.rows - 1) * t.rowPitch + (t.units - 1)) < size) &&
    decide (t.tag + t.depth - 1 < 1024)

/-- A reserved format code (R59). -/
def Tile.badFormat (t : Tile) : Bool := decide (t.format ≥ 10)

/-- The bytes of row r of tile j in the current core's window, its units in order. -/
def State.tileRow (s : State) (t : Tile) (j r : Nat) : List Byte :=
  (List.range t.units).flatMap (fun u =>
    s.mem.getBytes (windowPa s.core.num s.core.sliced s.core.half (t.offset j r u)) 16)

/-! ### Tile tags (R132) -/

/-- Tags with those of a mask set. -/
def putTags (tags mask : BitVec 1024) (full : Bool) : BitVec 1024 := if full then tags ||| mask else tags &&& ~~~mask

def tagBit (i : Nat) : BitVec 1024 := (1 : BitVec 1024) <<< i

/-- A tag as the matrix node and the copy engines see it. -/
def CSet.tagFull (c : CSet) (i : Nat) : Bool := c.tagsSeen.getLsbD i

/-- The unit has changed the tag in this cycle. -/
def CSet.unitTags (c : CSet) (i : Nat) : Bool := c.tagsDue.any (fun d => d.1 == 2 && d.2.1.getLsbD i)

/-- An engine or node changes a tag: it stands over the unit's changes of earlier cycles, and under one of this cycle. -/
def CSet.setTag (c : CSet) (i : Nat) (full : Bool) : CSet :=
  { c with
    tags := if c.unitTags i then c.tags else putTags c.tags (tagBit i) full
    tagsSeen := putTags c.tagsSeen (tagBit i) full
    tagsDue := c.tagsDue.map (fun d => if d.1 = 2 then d else (d.1, d.2.1 &&& ~~~(tagBit i), d.2.2)) }

/-- The unit changes the tags of a mask: the matrix node and the copy engines see it 2 cycles later. -/
def CSet.putUnitTags (c : CSet) (mask : BitVec 1024) (full : Bool) : CSet :=
  { c with tags := putTags c.tags mask full, tagsDue := c.tagsDue ++ [(2, mask, full)] }

/-- A cycle brings the unit's changes nearer. -/
def CSet.passTags (c : CSet) : CSet :=
  { c with
    tagsSeen := (c.tagsDue.filter (fun d => decide (d.1 ≤ 1))).foldl (fun t d => putTags t d.2.1 d.2.2) c.tagsSeen
    tagsDue := (c.tagsDue.filter (fun d => decide (1 < d.1))).map (fun d => (d.1 - 1, d.2)) }

def State.setTag (s : State) (i : Nat) (full : Bool) : State := s.mapSet (fun c => c.setTag i full)

/-! ### Token tags (R123) -/

def TokKind.code : TokKind → Nat
  | .data => 0
  | .endOfReduction => 1
  | .error => 2
  | .order => 3

def TokKind.ofCode (c : Nat) : TokKind :=
  match c % 4 with
  | 0 => .data
  | 1 => .endOfReduction
  | 2 => .error
  | _ => .order

/-- The 16 bits of a tag. -/
def Tag.bits (t : Tag) : Nat :=
  t.stitch.toNat + t.kind.code * 64 + t.pred.toNat * 256 + t.last.toNat * 512 + t.cause.toNat * 1024

def Tag.ofBits (n : Nat) : Tag :=
  ⟨BitVec.ofNat 6 n, .ofCode (bitSpan n 6 2), bitAt n 8, bitAt n 9, BitVec.ofNat 6 (bitSpan n 10 6)⟩

/-- A data token. -/
def Token.plain (stitch : Nat) (payload : Payload) (last : Bool) : Token :=
  ⟨⟨BitVec.ofNat 6 stitch, .data, false, last, 0⟩, payload⟩

/-- An error token with a zero payload. -/
def Token.error (stitch : Nat) (cause : BitVec 6) (last : Bool) : Token :=
  ⟨⟨BitVec.ofNat 6 stitch, .error, false, last, cause⟩, 0⟩

/-- A completion token: kind 11, zero payload (R174). -/
def Token.order (stitch : Nat) (last : Bool) : Token :=
  ⟨⟨BitVec.ofNat 6 stitch, .order, false, last, 0⟩, 0⟩

/-- A predicate bit to which the manual gives no value, made at a place from some tokens: it depends on no stitch number
(R82, R123). -/
def openPred (place : Nat) (l : List Token) : Bool :=
  Config.openPred place (l.map (fun t => (Tag.bits { t.tag with stitch := 0 }, t.payload)))

def Token.k (t : Token) : Nat := t.tag.stitch.toNat
def Token.isError (t : Token) : Bool := t.tag.kind == .error
def Token.isData (t : Token) : Bool := t.tag.kind == .data

/-- 32-bit lane i of a payload (R60). -/
def lane32 (p : Payload) (i : Nat) : Nat := p.toNat / 2 ^ (32 * i) % 2 ^ 32

/-! ### Targets (R36) -/

def noTarget : Target := 0x7FF

/-- Where a target field leads. -/
inductive Place where
  | slot (n : Nat) (pos : Nat)
  | mx (input : Nat)
  | an (n input : Nat)
  | gp (input : Nat)
  | mn (n input : Nat)
  | np (n : Nat)
  | sm
  | seq (n : Nat)
  | sink (n : Nat)
  | none
  | reserved
  deriving DecidableEq, Repr

def placeOf (t : Target) : Place :=
  let n := t.toNat
  if n % 4 ≠ 3 then .slot (n / 4) (n % 4)
  else
    let cls := n / 128
    let idx := n / 4 % 32
    match cls with
    | 0 => if idx ≤ 1 then .mx idx else .reserved
    | 1 => if idx ≤ 15 then .an (idx / 2) (idx % 2) else .reserved
    | 2 => if idx ≤ 1 then .gp idx else .reserved
    | 3 => .mn (idx / 2) (idx % 2)
    | 4 => if idx ≤ 1 then .np idx else .reserved
    | 5 => if idx = 0 then .sm else .reserved
    | 6 => if idx ≤ 15 then .seq idx else .reserved
    | 7 => .sink idx
    | 15 => if idx = 31 then .none else .reserved
    | _ => .reserved

def slotTarget (slot pos : Nat) : Target := BitVec.ofNat 11 (4 * slot + pos)
def nodeTarget (cls idx : Nat) : Target := BitVec.ofNat 11 (128 * cls + 4 * idx + 3)

/-! ### Switch boxes (R126) -/

/-- The box a place is joined to. -/
def boxOf : Place → Nat
  | .slot n _ => n / 32
  | .mx _ => 0
  | .an n _ => 1 + n
  | .gp _ => 9
  | .mn n _ => n
  | .np n => 10 + n
  | .sm => 12
  | .seq n => n
  | .sink n => n / 2
  | .none => 0
  | .reserved => 0

/-- The fewest links between two boxes of the ring, whose neighbours are 1 and 4 places away. -/
def boxDistance (b c : Nat) : Nat :=
  match (c + 16 - b % 16) % 16 with
  | 0 => 0
  | 1 | 4 | 12 | 15 => 1
  | 2 | 3 | 5 | 8 | 11 | 13 | 14 => 2
  | _ => 3

/-- The boxes that a shortest path crosses: each adds one cycle. -/
def boxesCrossed (b c : Nat) : Nat := boxDistance b c + 1

/-! ### Regions (R11, R297) -/

/-- The cores of a region word's aligned subtree; none when it is not one. -/
def regionCores (w : Nat) : Option (List Nat) :=
  let first := w % 256
  let size := 4 ^ bitSpan w 8 2
  if bitSpan w 10 6 = 0 ∧ first % size = 0 then some ((List.range size).map (first + ·)) else none

/-- The cores a 256-bit mask names, in ascending order. -/
def maskCores (m : BitVec 256) : List Nat := (List.range 256).filter (fun c => m.getLsbD c)

def coresMask (l : List Nat) : BitVec 256 := l.foldl (fun m c => m ||| ((1 : BitVec 256) <<< c)) 0

/-! ### Destination words (R276) -/

inductive Dest where
  | unit (index : Nat)
  | core (n : Nat)
  | remote (entry : Nat)
  | bad
  deriving DecidableEq, Repr

/-- A destination word; its reserved bits must be zero. -/
def destOf (w : Nat) : Dest :=
  if bitSpan w 18 30 ≠ 0 then .bad
  else match bitSpan w 16 2 with
    | 0 => .unit (w % 65536)
    | 1 => if bitSpan w 8 8 = 0 then .core (w % 256) else .bad
    | 2 => .remote (w % 65536)
    | _ => .bad

end Sys2Proof.Machine
end

