-- ==== Sys2Proof/Machine/FabOps.lean ====
section
/-!
DEFINITION. What the fabric opcodes compute on payloads (R57, R60, R70, R136 to R142).
-/

namespace Sys2Proof.Machine

/-! ### Lanes (R60) -/

def lanes (w : Nat) (p : Payload) : List Nat := (List.range (1024 / w)).map (fun i => p.toNat / 2 ^ (w * i) % 2 ^ w)

/-- Lane values joined, lane 0 lowest; lanes that are not given are zero. -/
def joinLanes (w : Nat) : List Nat → Nat
  | [] => 0
  | x :: xs => x % 2 ^ w + 2 ^ w * joinLanes w xs

def ofLanes (w : Nat) (ls : List Nat) : Payload := BitVec.ofNat 1024 (joinLanes w ls)

def map1 (w : Nat) (f : Nat → Nat) (l : Payload) : Payload := ofLanes w ((lanes w l).map f)
def map2 (w : Nat) (f : Nat → Nat → Nat) (l r : Payload) : Payload := ofLanes w (List.zipWith f (lanes w l) (lanes w r))
def map3 (w : Nat) (f : Nat → Nat → Nat → Nat) (l r p : Payload) : Payload :=
  ofLanes w (List.zipWith (fun (x : Nat × Nat) z => f x.1 x.2 z) ((lanes w l).zip (lanes w r)) (lanes w p))

/-- The lane width of an integer opcode (R37). -/
def intWidth (m : BitVec 2) : Nat :=
  match m.toNat with
  | 0 => 32
  | 1 => 16
  | _ => 8

/-- The lane width of a lane opcode's constant, bits [1:0] (R141). -/
def constWidth (c : Nat) : Nat :=
  match c % 4 with
  | 0 => 32
  | 1 => 16
  | _ => 8

/-! ### Integer lanes (R136) -/

def laneAdd (w x y : Nat) : Nat := bitsOf w (x + y)
def laneSub (w x y : Nat) : Nat := bitsOf w ((x : Int) - y)
def laneMul (w x y : Nat) : Nat := bitsOf w (x * y)
def laneMin (w x y : Nat) : Nat := if sintOf w x < sintOf w y then x else y
def laneMax (w x y : Nat) : Nat := if sintOf w y < sintOf w x then x else y
def laneMinu (x y : Nat) : Nat := if x < y then x else y
def laneMaxu (x y : Nat) : Nat := if y < x then x else y
def laneShl (w x y : Nat) : Nat := bitsOf w (x * 2 ^ (y % w))
def laneShr (w x y : Nat) : Nat := x / 2 ^ (y % w)
def laneSra (w x y : Nat) : Nat := bitsOf w (sintOf w x / 2 ^ (y % w))
/-- |x|; the most negative value stays as it is. -/
def laneAbs (w x : Nat) : Nat := bitsOf w (sintOf w x).natAbs
def laneNeg (w x : Nat) : Nat := bitsOf w (-(sintOf w x))
/-- l + r where p is 1, l − r where p is −1, else l. -/
def laneSgadd (w x y p : Nat) : Nat :=
  if p = 1 then laneAdd w x y else if p = 2 ^ w - 1 then laneSub w x y else x
/-- A value saturated to the signed range. -/
def satSigned (w : Nat) (i : Int) : Nat := bitsOf w (max (-(2 ^ (w - 1) : Int)) (min (2 ^ (w - 1) - 1 : Int) i))
def satUnsigned (w : Nat) (i : Int) : Nat := bitsOf w (max 0 (min (2 ^ w - 1 : Int) i))
def laneAdds (w x y : Nat) : Nat := satSigned w (sintOf w x + sintOf w y)
def laneSubs (w x y : Nat) : Nat := satSigned w (sintOf w x - sintOf w y)

/-- Four byte products summed into a 32-bit lane; the left bytes are unsigned when K[0] is 1. -/
def dot4 (k : Nat) (x y : Nat) : Nat :=
  bitsOf 32 (((List.range 4).map (fun j =>
    let a : Nat := x / 2 ^ (8 * j) % 256
    let b : Nat := y / 2 ^ (8 * j) % 256
    (if k % 2 = 1 then (a : Int) else sintOf 8 a) * sintOf 8 b)).foldl (· + ·) (0 : Int))

/-! ### Floating-point lanes (R70, R137) -/

/-- The format of a floating-point opcode's mod field (R37). -/
def fpFormat (m : BitVec 2) : FFmt :=
  match m.toNat with
  | 0 => fp32
  | 1 => bf16
  | _ => fp16

def FFmt.on1 (f : FFmt) (ftz : Bool) (op : Nat → Nat) (x : Nat) : Nat := f.flush ftz (op (f.flush ftz x))
def FFmt.on2 (f : FFmt) (ftz : Bool) (op : Nat → Nat → Nat) (x y : Nat) : Nat :=
  f.flush ftz (op (f.flush ftz x) (f.flush ftz y))
def FFmt.on3 (f : FFmt) (ftz : Bool) (op : Nat → Nat → Nat → Nat) (x y z : Nat) : Nat :=
  f.flush ftz (op (f.flush ftz x) (f.flush ftz y) (f.flush ftz z))

/-- The constant operand and the flush of FADDK and FMULK: all of K, never flushed, in FP32; [15:0] and bit 16 in the
pair modes. -/
def fpConst (m : BitVec 2) (k : Nat) : Nat × Bool := if m = 0 then (k % 2 ^ 32, false) else (k % 65536, bitAt k 16)

/-- FMAC's lane in a pair mode: p plus two products, formed exactly and rounded once. -/
def fmacPair (f : FFmt) (ftz : Bool) (l0 r0 l1 r1 p : Nat) : Nat :=
  let v (x : Nat) : FVal := f.decode (f.flush ftz x)
  fp32.flush ftz (fp32.rne (.sum [fp32.decode (fp32.flush ftz p), (v l0).mul (v r0), (v l1).mul (v r1)]))

def fmacPayload (m : BitVec 2) (k : Nat) (l r p : Payload) : Payload :=
  let ftz := bitAt k 0
  if m = 0 then map3 32 (fun x y z => fp32.on3 ftz (fun x y z => fp32.fma x y z) x y z) l r p
  else
    ofLanes 32 ((List.range 32).map (fun i =>
      let at16 (q : Payload) (j : Nat) : Nat := q.toNat / 2 ^ (16 * j) % 65536
      fmacPair (fpFormat m) ftz (at16 l (2 * i)) (at16 r (2 * i)) (at16 l (2 * i + 1)) (at16 r (2 * i + 1)) (lane32 p i)))

/-! ### Conversions and bytes (R138, R139) -/

/-- The elements of a format that one token holds (R52). -/
def perToken (c : Nat) : Nat := 1024 / fmtBits c

/-- CVT's payload; none where a format code is not 0 to 6. -/
def cvtPayload (k : Nat) (l : Payload) : Option Payload :=
  let src := bitSpan k 0 4
  let dst := bitSpan k 4 4
  let mode := Mode.ofCode (bitSpan k 8 2)
  let sat := !bitAt k 10
  let part := bitSpan k 11 2
  if src ≤ 6 ∧ dst ≤ 6 then
    let ns := perToken src
    let nd := perToken dst
    let elems := lanes (fmtBits src) l
    let one (n : Nat) : Nat := cvtElement src dst mode sat n
    if ns ≥ nd then
      let at0 := part % (ns / nd) * nd
      some (ofLanes (fmtBits dst) ((List.range nd).map (fun i => one (elems.getD (at0 + i) 0))))
    else
      let at0 := part % (nd / ns) * ns
      some (ofLanes (fmtBits dst) (List.replicate at0 0 ++ elems.map one))
  else none

def bpermPayload (l r : Payload) : Payload :=
  map1 8 (fun x => if x < 128 then (lanes 8 l).getD x 0 else 0) r

/-- B3DEC's digits, and whether a byte it decoded is no TERN5 code (R139, R367). -/
def b3decPayload (k : Nat) (l : Payload) : Payload × Bool :=
  let first := bitSpan k 0 7
  let w := if bitAt k 7 then 32 else 8
  let bytes := (List.range (if bitAt k 7 then 6 else 25)).map (fun j => (lanes 8 l).getD (first + j) 0)
  (ofLanes w (bytes.flatMap (fun b => (List.range 5).map (fun i => bitsOf w (ternDigit b i)))), bytes.any ternBad)

def nibxPayload (high : Bool) (l : Payload) : Payload :=
  map1 8 (fun b => bitsOf 8 (sintOf 4 (if high then b / 16 else b))) l

/-- PACK narrows the lanes of l, then those of r. -/
def packPayload (k : Nat) (l r : Payload) : Payload :=
  let w := if k % 4 = 0 then 32 else 16
  let narrow (x : Nat) : Nat :=
    match bitSpan k 2 2 with
    | 0 => x % 2 ^ (w / 2)
    | 1 => satSigned (w / 2) (sintOf w x)
    | _ => satUnsigned (w / 2) (sintOf w x)
  ofLanes (w / 2) ((lanes w l ++ lanes w r).map narrow)

def unpkPayload (k : Nat) (l : Payload) : Payload :=
  let size := bitSpan k 0 2
  let w := if size = 0 then 16 else 8
  let d := if size = 1 then 16 else 32
  let n := 1024 / d
  let part := bitSpan k 2 2 % (d / w)
  ofLanes d ((List.range n).map (fun i =>
    let x := (lanes w l).getD (part * n + i) 0
    if bitAt k 4 then bitsOf d (sintOf w x) else x))

/-! ### Compares (R140) -/

/-- A lane comparison; a NaN makes every condition false except NE. -/
def laneCmp (fp : Bool) (w cond x y : Nat) : Bool :=
  if fp then
    let a := fp32.decode x
    let b := fp32.decode y
    match cond with
    | 0 => a.eq b
    | 1 => !(a.eq b)
    | 2 | 4 => a.lt b
    | _ => a.lt b || a.eq b
  else
    match cond with
    | 0 => x == y
    | 1 => x != y
    | 2 => decide (sintOf w x < sintOf w y)
    | 3 => decide (sintOf w x ≤ sintOf w y)
    | 4 => decide (x < y)
    | _ => decide (x ≤ y)

/-- VCMP's lanes and predicate bit. -/
def vcmpPayload (k : Nat) (l r : Payload) : Payload × Bool :=
  let w := constWidth (bitSpan k 4 2)
  let holds := List.zipWith (laneCmp (bitAt k 3) w (bitSpan k 0 3)) (lanes w l) (lanes w r)
  (ofLanes w (holds.map (fun c => if c then 2 ^ w - 1 else 0)),
    match bitSpan k 6 2 with
    | 0 => holds.headD false
    | 1 => holds.any id
    | 2 => holds.all id
    | _ => false)

/-- MASKSEL keeps FP32 lane i where bit i of lane 0 of r is 1, bits unchanged, and puts −∞ elsewhere (R64;
assumption 129). -/
def maskselPayload (l r : Payload) : Payload :=
  ofLanes 32 ((List.range 32).map (fun i => if bitAt r.toNat i then lane32 l i else 0xFF800000))

/-! ### Lane opcodes (R141) -/

/-- The sums of neighbours: lanes 2i and 2i + 1. -/
def pairSums (f : Nat → Nat → Nat) : List Nat → List Nat
  | a :: b :: rest => f a b :: pairSums f rest
  | l => l

/-- A pairwise tree of `n` levels. -/
def treeSum (f : Nat → Nat → Nat) : Nat → List Nat → Nat
  | 0, l => l.headD 0
  | n + 1, l => treeSum f n (pairSums f l)

def lsumPayload (k : Nat) (l : Payload) : Payload :=
  let w := constWidth k
  let ls := lanes w l
  ofLanes w [if bitAt k 2 then treeSum (fun x y => fp32.add x y) 5 ls else (ls.foldl (fun x y => x + y) 0) % 2 ^ w]

def lmaxPayload (k : Nat) (l : Payload) : Payload :=
  let w := constWidth k
  match lanes w l with
  | [] => 0
  | x :: xs => ofLanes w [if bitAt k 2 then xs.foldl (fun a b => fp32.max a b) (fp32.max x x) else xs.foldl (laneMax w) x]

/-- The winner so far and the next lane: the first of equal values wins, a NaN never (R141). -/
def argStep (better : Nat → Nat → Bool) (valid : Nat → Bool) (best : Option (Nat × Nat)) (c : Nat × Nat) :
    Option (Nat × Nat) :=
  if !valid c.2 then best
  else match best with
    | none => some c
    | some b => if better c.2 b.2 then some c else some b

def largmaxPayload (k : Nat) (l : Payload) : Payload :=
  let w := constWidth k
  let fp := bitAt k 2
  let better (x y : Nat) : Bool := if fp then (fp32.decode y).lt (fp32.decode x) else decide (sintOf w y < sintOf w x)
  let valid (x : Nat) : Bool := !fp || !(fp32.decode x).isNan
  match (List.zipIdx (lanes w l)).foldl (fun b c => argStep better valid b (c.2, c.1)) none with
  | some (i, v) => ofLanes 32 [i + bitSpan k 16 16, if fp then v else bitsOf 32 (sintOf w v)]
  | none => ofLanes 32 [0xFFFFFFFF, fp32.nan]

/-- LBCAST puts one lane in every lane, its bits unchanged (R64; assumption 129). -/
def lbcastPayload (k : Nat) (l : Payload) : Payload :=
  let w := constWidth k
  let n := 1024 / w
  ofLanes w (List.replicate n ((lanes w l).getD (bitSpan k 4 7 % n) 0))

/-- LROT rotates the lanes, their bits unchanged (R64; assumption 129). -/
def lrotPayload (k : Nat) (l : Payload) : Payload :=
  let w := constWidth k
  let n := 1024 / w
  let g := min (2 ^ bitSpan k 12 3) n
  let by_ := bitSpan k 4 7 % g
  ofLanes w ((List.range n).map (fun j => (lanes w l).getD (j / g * g + (j % g + g - by_) % g) 0))

/-- Running sums from lane 0 up. -/
def scanFrom (f : Nat → Nat → Nat) : Nat → List Nat → List Nat
  | _, [] => []
  | acc, x :: xs => f x acc :: scanFrom f (f x acc) xs

def lscanPayload (k : Nat) (l : Payload) : Payload :=
  let w := constWidth k
  match lanes w l with
  | [] => 0
  | x :: xs =>
    if bitAt k 2 then
      let first := if (fp32.decode x).isNan then fp32.nan else x
      ofLanes w (first :: scanFrom (fun a b => fp32.add a b) first xs)
    else ofLanes w (x :: scanFrom (laneAdd w) x xs)

def onehotPayload (k : Nat) (l : Payload) : Payload :=
  let v := lane32 l 0
  if v < 32 then BitVec.ofNat 1024 (k % 2 ^ 32 * 2 ^ (32 * v)) else 0

/-- LEXTR puts one lane in lane 0, its bits unchanged (R64; assumption 129). -/
def lextrPayload (k : Nat) (l r : Payload) : Payload :=
  let w := constWidth k
  let n := 1024 / w
  let at0 := (if bitAt k 11 then lane32 r 0 else bitSpan k 4 7) % n
  ofLanes w [(lanes w l).getD at0 0]

/-! ### Plumbing (R142) -/

/-- K in every 32-bit lane. -/
def constPayload (k : Nat) : Payload := ofLanes 32 (List.replicate 32 k)

/-- l with lane 0 replaced. -/
def withLane0 (l : Payload) (v : Nat) : Payload := ofLanes 32 (v :: (lanes 32 l).drop 1)

/-- Every 32-bit lane is below the bound. -/
def inBounds (k : Nat) (l : Payload) : Bool := (lanes 32 l).all (fun x => decide (x < k % 2 ^ 32))

end Sys2Proof.Machine
end

