-- ==== Sys2Proof/Machine/FabTables.lean ====
section
/-!
DEFINITION. The fabric opcodes' table: the positions an opcode reads, its latency and its targets (R136 to R142), and
what a configuration image says of a slot (R36, R42).
-/

namespace Sys2Proof.Machine

/-! ### Operation words -/

/-- The two targets of a fabric word (R35). -/
def fabTargets : Instr → List Target
  | .vadd _ x y | .vsub _ x y | .vmul _ x y | .vmad _ x y | .vmin _ x y | .vmax _ x y | .vminu _ x y
  | .vmaxu _ x y | .vand _ x y | .vor _ x y | .vxor _ x y | .vshl _ x y | .vshr _ x y | .vsra _ x y
  | .vabs _ x y | .vneg _ x y | .vaddk _ x y | .vmulk _ x y | .vsgadd _ x y | .vadds _ x y
  | .vsubs _ x y | .fadd _ x y | .fsub _ x y | .fmul _ x y | .fma _ x y | .fmax _ x y | .fmin _ x y
  | .frcp _ x y | .frsq _ x y | .fexp2 _ x y | .flog2 _ x y | .faddk _ x y | .fmulk _ x y
  | .fmac _ x y | .fabs _ x y | .fneg _ x y | .nibx _ x y => [x, y]
  | .vdot4 x y | .cvt x y | .bperm x y | .b3dec x y | .pack x y | .unpk x y | .vcmp x y | .sel x y
  | .steer x y | .gate x y | .merge x y | .masksel x y | .pnot x y | .lsum x y | .lmax x y
  | .largmax x y | .lbcast x y | .lrot x y | .lscan x y | .onehot x y | .lextr x y | .sreg x y
  | .cnt x y | .eor x y | .ordj x y | .dup x y | .const x y | .sink x y | .stitch x y | .delay x y
  | .idx x y => [x, y]
  | _ => []

/-- The positions a fabric word reads with constant k: 0 left, 1 right, 2 predicate. CONST reads none or its left one,
as the image's targets say. -/
def fabReads (i : Instr) (k : Nat) : List Nat :=
  match i with
  | .vadd _ _ _ | .vsub _ _ _ | .vmul _ _ _ | .vmin _ _ _ | .vmax _ _ _ | .vminu _ _ _ | .vmaxu _ _ _
  | .vand _ _ _ | .vor _ _ _ | .vxor _ _ _ | .vshl _ _ _ | .vshr _ _ _ | .vsra _ _ _ | .vadds _ _ _
  | .vsubs _ _ _ | .vdot4 _ _ | .fadd _ _ _ | .fsub _ _ _ | .fmul _ _ _ | .fmax _ _ _ | .fmin _ _ _
  | .bperm _ _ | .pack _ _ | .vcmp _ _ | .merge _ _ | .masksel _ _ | .ordj _ _ => [0, 1]
  | .vmad _ _ _ | .vsgadd _ _ _ | .fma _ _ _ | .fmac _ _ _ | .sel _ _ => [0, 1, 2]
  | .steer _ _ | .gate _ _ => [0, 2]
  | .lextr _ _ => if bitAt k 11 then [0, 1] else [0]
  | .stitch _ _ => if bitAt k 6 then [0, 1] else [0]
  | _ => [0]

/-- The latency in cycles. -/
def fabLatency (i : Instr) (k : Nat) : Nat :=
  match i with
  | .vmul _ _ _ | .vmad _ _ _ | .vmulk _ _ _ | .vdot4 _ _ => 2
  | .fadd _ _ _ | .fsub _ _ _ | .fmul _ _ _ | .fma _ _ _ | .faddk _ _ _ | .fmulk _ _ _ => 4
  | .frcp _ _ _ | .frsq _ _ _ | .fexp2 _ _ _ | .flog2 _ _ _ => 8
  | .fmac _ _ _ => 5
  | .cvt _ _ | .bperm _ _ | .b3dec _ _ | .nibx _ _ _ | .pack _ _ | .unpk _ _ => 2
  | .lsum _ _ | .lmax _ _ | .largmax _ _ | .lscan _ _ => 6
  | .lbcast _ _ | .lrot _ _ | .onehot _ _ | .lextr _ _ => 2
  | .delay _ _ => if k % 256 = 0 then 1 else k % 256
  | _ => 1

def isSreg : Instr → Bool
  | .sreg _ _ => true
  | _ => false
def isConst : Instr → Bool
  | .const _ _ => true
  | _ => false
def isMerge : Instr → Bool
  | .merge _ _ => true
  | _ => false
def isSink : Instr → Bool
  | .sink _ _ => true
  | _ => false
def isEor : Instr → Bool
  | .eor _ _ => true
  | _ => false

/-- A constant field that holds a value its opcode's table does not define (R371). -/
def badConst (i : Instr) (k : Nat) : Bool :=
  let lane := k % 4 == 3 || (bitAt k 2 && k % 4 != 0)
  match i with
  | .pack _ _ => decide (k % 4 ≥ 2) || bitSpan k 2 2 == 3
  | .unpk _ _ => k % 4 == 3
  | .vcmp _ _ => decide (k % 8 ≥ 6) || bitSpan k 4 2 == 3 || (bitAt k 3 && bitSpan k 4 2 != 0)
  | .sel _ _ => bitAt k 0 && bitSpan k 1 2 == 3
  | .lsum _ _ | .lmax _ _ | .largmax _ _ | .lbcast _ _ | .lrot _ _ | .lscan _ _ | .lextr _ _ => lane
  | _ => false

/-! ### Node identifiers (R42) -/

def mxId : Nat := 0
def anId (n : Nat) : Nat := 32 + n
def gpId : Nat := 64
def mnId (n : Nat) : Nat := 96 + n
def npId (n : Nat) : Nat := 128 + n
def smId : Nat := 160

/-- Every node identifier of R42. -/
def nodeIds : List Nat :=
  mxId :: (List.range 8).map anId ++ gpId :: (List.range 16).map mnId ++ [npId 0, npId 1, smId]

/-- The node that reads a place. -/
def nodeAt (p : Place) : Option Nat :=
  match p with
  | .mx _ => some mxId
  | .an n _ => some (anId n)
  | .gp _ => some gpId
  | .mn n _ => some (mnId n)
  | .np n => some (npId n)
  | .sm => some smId
  | _ => none

def NodeBlock.id : NodeBlock → Nat
  | .mx _ => mxId
  | .an n _ => anId n
  | .gp _ => gpId
  | .mn n _ => mnId n
  | .np n _ => npId n
  | .sm _ => smId

/-- The targets that a node's block names: where its tokens go. -/
def NodeBlock.targets : NodeBlock → List Target
  | .mx _ => []
  | .an _ p => [p.out, p.out2]
  | .gp p => [p.out, p.out2]
  | .mn _ p => [p.dat, p.done]
  | .np _ p => [p.out]
  | .sm p => [p.out]

/-- The graph node of a node: that of its block where its class has one (R144). -/
def NodeBlock.gnode : NodeBlock → BitVec 32
  | .an _ p => p.gnode
  | _ => 0xFFFFFFFF

/-! ### What an image says of a slot -/

def Image.slot (im : Image) (n : Nat) : Option SlotRec := im.slots.find? (fun r => r.num == n)

def SlotRec.instr (r : SlotRec) : Option Instr :=
  match decodeFabric r.word with
  | .ok i => some i
  | .error _ => none

/-- The operation a record names: of a word whose mod R37 rejects, that of its opcode, which mod 0 gives as well. -/
def SlotRec.form (r : SlotRec) : Option Instr :=
  match r.instr with
  | some i => some i
  | none => SlotRec.instr { r with word := r.word &&& 0xFF3FFFFF }

/-- The record of an empty slot, well or badly written (R38). -/
def SlotRec.isEmpty (r : SlotRec) : Bool := fOpcode r.word == 0xFF

/-- The targets a record names: the two fields of its word (R35), but for an empty slot. -/
def SlotRec.targets (r : SlotRec) : List Target :=
  match r.form with
  | some i => fabTargets i
  | none => if r.isEmpty then [] else [fX r.word, fY r.word]

/-- The place of a slot's record, whose map entry is its own (R42). -/
def Image.entry (im : Image) (n : Nat) : Option MapEntry := im.map[im.slots.findIdx (fun r => r.num == n)]?

def Image.gnode (im : Image) (n : Nat) : BitVec 32 := ((im.entry n).map (fun e => e.gnode)).getD 0xFFFFFFFF
def Image.loopReg (im : Image) (n : Nat) : BitVec 8 := ((im.entry n).map (fun e => e.loopReg)).getD 0

/-- Every target that a slot or a node parameter block names. -/
def Image.targets (im : Image) : List Target :=
  ((im.slots.flatMap SlotRec.targets) ++ im.nodes.flatMap NodeBlock.targets).filter
    (fun t => t ≠ noTarget)

/-- The positions a slot of the image reads. A CONST reads its left position when something targets it. -/
def Image.reads (im : Image) (r : SlotRec) : List Nat :=
  match r.form with
  | none => []
  | some i =>
    if isConst i then (if im.targets.contains (slotTarget r.num 0) then [0] else [])
    else fabReads i r.konst.toNat

def Image.mx (im : Image) : Option MxParams := im.nodes.findSome? (fun b => match b with | .mx p => some p | _ => none)
def Image.an (im : Image) (n : Nat) : Option AnParams :=
  im.nodes.findSome? (fun b => match b with | .an m p => if m = n then some p else none | _ => none)
def Image.gp (im : Image) : Option GpParams := im.nodes.findSome? (fun b => match b with | .gp p => some p | _ => none)
def Image.mn (im : Image) (n : Nat) : Option MnParams :=
  im.nodes.findSome? (fun b => match b with | .mn m p => if m = n then some p else none | _ => none)
def Image.np (im : Image) (n : Nat) : Option NpParams :=
  im.nodes.findSome? (fun b => match b with | .np m p => if m = n then some p else none | _ => none)
def Image.sm (im : Image) : Option SmParams := im.nodes.findSome? (fun b => match b with | .sm p => some p | _ => none)

/-- The SREG slots, in ascending slot number. -/
def Image.sregSlots (im : Image) : List SlotRec := im.slots.filter (fun r => (r.instr.map isSreg).getD false)
/-- The CONST slots without an input. -/
def Image.freeConsts (im : Image) : List SlotRec :=
  im.slots.filter (fun r => (r.instr.map isConst).getD false && (im.reads r).isEmpty)
/-- The accumulator nodes. -/
def Image.anNodes (im : Image) : List Nat := im.nodes.filterMap (fun b => match b with | .an n _ => some n | _ => none)

/-- The path to a target: that which the loader gave it, else the boxes of a shortest path from a box. -/
def Image.pathTo (im : Image) (frombox : Nat) (t : Target) : Path :=
  (lookup t im.paths).getD ⟨boxesCrossed frombox (boxOf (placeOf t)), []⟩

/-- The operation word of a slot of the running configuration. -/
def State.slotInstr (s : State) (n : Nat) : Option Instr :=
  (s.core.set.fab.running.bind (fun im => im.slot n)).bind SlotRec.instr

end Sys2Proof.Machine
end

