-- ==== Sys2Proof/Machine/Flags.lean ====
section
/-!
DEFINITION. The status word, the sticky bits and the special registers (R92, R93, R241).
-/

namespace Sys2Proof.Machine

/-- STATUS as MFS reads it (R93). -/
def State.status (s : State) : Word :=
  BitVec.ofNat 64 (s.seq.level.toNat + s.seq.te.toNat * 4 + s.seq.dz.toNat * 8 + s.part.narrow.toNat * 16)

/-- A division by zero sets DZ, which stays set (R93, R96). -/
def State.setDz (s : State) (zero : Bool) : State := if zero then s.mapSeq (fun q => { q with dz := true }) else s

/-- MTS STATUS: trap enable above unit level, DZ at every level, nothing else (R93). -/
def Seq.writeStatus (q : Seq) (v : Word) : Seq :=
  { q with te := if q.level.toNat ≥ 1 then v.getLsbD 2 else q.te, dz := v.getLsbD 3 }

/-- A scope code as the partition's policy lets it act: scope 5 narrowed to 4, which sets SCOPENARROW (R241). -/
def State.narrowed (s : State) (scope : Nat) : Bool := scope == 5 && s.part.flags.getLsbD 0

def State.noteNarrow (s : State) (scope : Nat) : State :=
  if s.narrowed scope then s.mapPart s.unit.part (fun p => { p with narrow := true }) else s

def State.scope (s : State) (scope : Nat) : Nat := if s.narrowed scope then 4 else scope

/-- The registers 0x010 to 0x013 at the current level: the tenant's or the device's copy, 0 at unit level (R92). -/
def Seq.trapReg (q : Seq) (f : TrapRegs → Word) : Word := if q.level.toNat = 0 then 0 else f q.levelRegs

def Seq.mapLevelRegs (q : Seq) (f : TrapRegs → TrapRegs) : Seq :=
  if q.level.toNat ≥ 2 then { q with device := f q.device } else { q with tenant := f q.tenant }

/-- The bytes of the argument block (R106, R297). -/
def State.argBase (s : State) : Word := BitVec.ofNat 64 (windowBase + argOffset s.core.sliced)

/-- What MFS reads (R92, R94). A number of no row reads as nothing, which the decoder has refused. -/
def State.special (s : State) (i : BitVec 14) : Word :=
  match i.toNat with
  | 0x000 => BitVec.ofNat 64 s.cycle
  | 0x001 => s.time s.part
  | 0x002 => BitVec.ofNat 64 s.unit.index
  | 0x003 => BitVec.setWidth 64 s.unit.lid
  | 0x004 => BitVec.ofNat 64 s.unit.part
  | 0x005 => BitVec.ofNat 64 s.core.num
  | 0x006 => BitVec.ofNat 64 ((s.core.set.fab.running.map (fun im => im.P)).getD 0)
  | 0x007 => BitVec.setWidth 64 s.unit.owner
  | 0x010 => s.seq.trapReg (fun r => r.cause)
  | 0x011 => s.seq.trapReg (fun r => r.pc)
  | 0x012 => s.seq.trapReg (fun r => r.val)
  | 0x013 => s.seq.trapReg (fun r => r.base)
  | 0x014 => s.status
  | 0x020 => s.argBase
  | 0x021 => BitVec.setWidth 64 s.seq.argLen
  | _ => 0

/-- The level MTS needs (R92): STATUS at every level, the trap registers at tenant level. -/
def mtsLevel (i : BitVec 14) : Nat := if i.toNat = 0x014 then 0 else 1

/-- What MTS writes (R92, R93); bits [5:0] of TRAPBASE are ignored. -/
def Seq.writeSpecial (q : Seq) (i : BitVec 14) (v : Word) : Seq :=
  match i.toNat with
  | 0x010 => q.mapLevelRegs (fun r => { r with cause := v })
  | 0x011 => q.mapLevelRegs (fun r => { r with pc := v })
  | 0x012 => q.mapLevelRegs (fun r => { r with val := v })
  | 0x013 => q.mapLevelRegs (fun r => { r with base := v &&& ~~~(0x3F : Word) })
  | 0x014 => q.writeStatus v
  | _ => q

end Sys2Proof.Machine
end

