-- ==== Sys2Proof/Machine/Fetch.lean ====
section
/-!
DEFINITION. Instruction fetch (R104, R329) and whether the current core's sequencer may issue.
-/

namespace Sys2Proof.Machine

/-- The instruction word at an aligned physical address: the word in memory, or an older one of the same location that
was fetched since the last phase boundary, when the next choice is 1 (R104). -/
def State.fetchWord (s : State) (pa : Nat) : State × BitVec 32 :=
  let loc := pa / 8 * 8
  let now := s.mem.word loc
  let half (v : Word) : BitVec 32 := BitVec.ofNat 32 (v.toNat / 2 ^ (8 * (pa % 8)))
  match lookup loc s.core.set.icache with
  | some old => (s.chosen, half (if s.choose = 1 then old else now))
  | none => (s.mapSet (fun c => { c with icache := (loc, now) :: c.icache }), half now)

/-- Fetch at the PC: the checks of R103 without the first; a fetch in the window part raises ACCESS (R104). -/
def State.fetch (s : State) : State × Except (BitVec 8) (BitVec 32) :=
  let va := s.seq.pc.toNat
  if va ≥ windowBase then (s, .error causeAccess)
  else if (s.part.windowAt va).isSome then (s, .error causeAccess)
  else match s.translate .fetch va with
    | (s, .error f) => (s, .error f.cause)
    | (s, .ok pa) =>
      match s.readError pa 4 with
      | some e => (s.report s.part.num s.core.num pa 4 e, .error causeAccess)
      | none =>
        match s.fetchWord pa with
        | (s, w) => (s, .ok w)

/-- A core's sequencer runs a unit, is not stopped by a freeze (R332) or trap lock (R327), no BAR holds it, and its last
issue is over (R91). -/
def State.canIssue (s : State) : Bool :=
  s.core.set.unit.isSome && decide (s.core.set.busy ≤ s.cycle) && (s.core.frost == .thawed || s.core.frost == .freezing) && !s.core.locked
    && !s.core.set.barred

/-- The asynchronous cause that is taken before the next issue: pending and enabled, a generator fault before a BREAK
(R322, R325). -/
def State.nextAsync (s : State) : Option Async :=
  if s.seq.level.toNat = 0 ∨ s.seq.te = true then
    match s.core.set.asyncs.find? (fun a => a.cause ≠ causeBreak) with
    | some a => some a
    | none => s.core.set.asyncs.head?
  else none

/-- What the sequencer does with its next issue: the instruction to execute, if fetch and decode give one, and the state
after fetch. A pending asynchronous cause comes first, then fetch faults, then ILLEGAL (R34, R104, R325). -/
def State.front (s : State) : State × Option Instr :=
  if s.canIssue then
    match s.nextAsync with
    | some _ => (s, some .trapEntry)
    | none =>
      match s.fetch with
      | (s, .error cause) => (s.trap cause s.seq.pc, none)
      | (s, .ok w) =>
        match decodeWord w with
        | .error _ => (s.trap causeIllegal (BitVec.setWidth 64 w), none)
        | .ok i => (s, some i)
  else (s, none)

/-- A branch or jump issues and leads where it names, so takes its n cycles; else its issue takes one. -/
def jumpCycles (s : State) (n : Needs) (goes : Bool) (cycles : Nat) : Nat :=
  if !s.stalled n && (s.seq.firstErr n.reads).isNone && goes then cycles else 1

/-- The cycles that an instruction's issue takes (R91, R278). -/
def occupancy (i : Instr) (before after : State) : Nat :=
  let branch (a b : Reg) (taken : Word → Word → Bool) : Nat :=
    jumpCycles before ⟨[a, b], 0, 0⟩ (taken (before.reg a) (before.reg b)) 3
  match i with
  | .beq a b _ => branch a b (fun x y => x == y)
  | .bne a b _ => branch a b (fun x y => x != y)
  | .blt a b _ => branch a b (fun x y => x.slt y)
  | .bge a b _ => branch a b (fun x y => y.sle x)
  | .bltu a b _ => branch a b (fun x y => x.ult y)
  | .bgeu a b _ => branch a b (fun x y => y.ule x)
  | .btr a _ => jumpCycles before ⟨[], 0, 0⟩ (!before.seq.pending a) 3
  | .jal d _ => jumpCycles before ⟨[], d, 0⟩ true 3
  | .jalr d a i => jumpCycles before ⟨[a], d, 0⟩ (decide ((before.reg a + sx14 i).toNat % 4 = 0)) 4
  | .sendrc _ _ b _ => if after.seq.pc = before.seq.pc then 1 else 1 + ((before.reg (pairOf b)).toNat + 15) / 16
  | _ => 1

/-- The sequencer of the current core issues nothing more before a cycle. -/
def State.occupy (s : State) (n : Nat) : State := s.mapSet (fun c => { c with busy := s.cycle + n })

end Sys2Proof.Machine
end

