-- ==== Sys2Proof/Machine/Time.lean ====
section
/-!
DEFINITION. What one cycle brings about in a fabric (R118 to R122, R129, R343): tokens on their way reach their buffers,
and completions that only waited for their latency are written.
-/

namespace Sys2Proof.Machine

/-! ### Completions -/

/-- Whether an operation's completion is due. -/
def Op.due (o : Op) (cycle : Nat) : Bool :=
  match o.wait with
  | .ready _ _ due => decide (due ≤ cycle)
  | _ => false

/-- The completions that are due, written in the order of issue (R87, R90). -/
def CSet.deliver (cycle : Nat) : List Op → CSet → CSet
  | [], c => c
  | o :: rest, c =>
    match o.wait with
    | .ready v e due => CSet.deliver cycle rest (if due ≤ cycle then c.finish o.id v e else c)
    | _ => CSet.deliver cycle rest c

/-! ### Tokens on their way -/

/-- The places of a buffer: 4 at a slot position (R119) or an output port (R129), and those of `nodeInputPlaces` at a
node input; a sink node takes every token (R133). -/
def placesAt (t : Target) : Nat :=
  match placeOf t with
  | .slot _ _ => 4
  | .seq _ => 4
  | _ => Config.nodeInputPlaces

/-- The tokens a buffer holds. -/
def Fabric.heldAt (f : Fabric) (t : Target) : List Token := (f.held.filter (fun p => p.1 == t)).map (·.2)

/-- The tokens on their way to a buffer; each has a place reserved there (R120). -/
def Fabric.comingTo (f : Fabric) (t : Target) : Nat := (f.flights.filter (fun g => g.tgt == t)).length

/-- A target's buffer has a free place (R120). A sink node and no target always have. -/
def Fabric.hasRoom (f : Fabric) (t : Target) : Bool :=
  match placeOf t with
  | .none => true
  | .sink _ => true
  | _ => decide ((f.heldAt t).length + f.comingTo t < placesAt t)

/-- A sink node's record takes a token (R133). -/
def SinkRec.take (r : SinkRec) (t : Token) : SinkRec where
  consumed := if r.consumed = 0xFFFFFF then r.consumed else r.consumed + 1
  lastSeen := r.lastSeen || t.tag.last
  errSeen := r.errSeen || t.isError
  firstTag := if t.isError && !r.errSeen then BitVec.ofNat 16 t.tag.bits else r.firstTag
  errors := if t.isError && r.errors ≠ 0xFFFF then r.errors + 1 else r.errors

def SinkRec.zero : SinkRec := ⟨0, false, false, 0, 0⟩

/-- A token moved: the detector's report no longer stands (R116, R143). -/
def Fabric.move (f : Fabric) (cycle : Nat) : Fabric :=
  { f with detect := { f.detect with standing := false, moved := true, lastMove := cycle } }

def PortRec.zero : PortRec := ⟨false, 0, false⟩

/-- A token passes a port (R133, R144). -/
def PortRec.pass (r : PortRec) (t : Token) : PortRec :=
  { r with passed := if r.passed = 0xFFFFFF then r.passed else r.passed + 1, last := r.last || t.tag.last }

/-- A token reaches its target: a sink node consumes it, a buffer holds it; an output port counts it, and an accumulator
node notes its place in the order of arrival (R199). -/
def Fabric.arrive (now : Nat) (f : Fabric) (t : Target) (k : Token) : Fabric :=
  match placeOf t with
  | .none => f
  | .seq n =>
    { f with held := f.held ++ [(t, k)], outPorts := insert n (((lookup n f.outPorts).getD .zero).pass k) f.outPorts }
  | .sink n => { f with sinks := insert n (((lookup n f.sinks).getD .zero).take k) f.sinks }
  | .an n i => { f with held := f.held ++ [(t, k)], anq := f.anq ++ [⟨n, k.tag.stitch.toNat, .arrived i now⟩] }
  | _ => { f with held := f.held ++ [(t, k)] }

/-- The flights due by a cycle, in the order they were sent, reach their targets (R120, R122). -/
def Fabric.land (f : Fabric) (cycle : Nat) : Fabric :=
  let due := f.flights.filter (fun g => decide (g.due ≤ cycle))
  if due.isEmpty then f
  else
    let f := { f with flights := f.flights.filter (fun g => !decide (g.due ≤ cycle)) }
    (due.foldl (fun f g => f.arrive cycle g.tgt g.tok) f).move cycle

/-- The buffers that hold a token or took one in. -/
def Fabric.touched (f : Fabric) (arrived : List Target) : List Target :=
  ((f.held.map (·.1)) ++ arrived).eraseDups

def Chan.zero : Chan := ⟨0, 0, 0⟩

/-- One buffer's counters after a cycle (R343). -/
def Chan.next (c : Chan) (held places : Nat) (arrived : Bool) : Chan :=
  ⟨c.full + (decide (held ≥ places)).toNat, c.busy + (decide (held > 0)).toNat, c.moving + arrived.toNat⟩

/-- The channel counters after a cycle (R343). -/
def Fabric.count (f : Fabric) (arrived : List Target) : Fabric :=
  { f with
    age := f.age + 1
    chan := (f.touched arrived).foldl (fun ch t =>
      insert t (((lookup t ch).getD .zero).next (f.heldAt t).length (placesAt t) (arrived.contains t)) ch) f.chan }

/-- A cycle of a fabric that runs; a token of a dropped stitch is discarded wherever it stands (R125). -/
def Fabric.cycle (f : Fabric) (dropped : Nat → Bool) (now : Nat) : Fabric :=
  let f := { f with flights := f.flights.filter (fun g => !dropped g.tok.k), fired := [] }
  let arrived := (f.flights.filter (fun g => decide (g.due ≤ now))).map (fun g => g.tgt)
  (f.land now).count arrived

/-- A cycle of a fabric that stands still: nothing on its way comes nearer (R332, R314). -/
def Fabric.wait (f : Fabric) : Fabric :=
  { f with
    flights := f.flights.map (fun g => { g with due := g.due + 1 })
    detect := { f.detect with lastMove := f.detect.lastMove + 1 } }

/-- The fabric of a core runs: neither frozen nor held, and its configuration has started (R116, R333, R340). -/
def Core.fabricRuns (k : Core) (now : Nat) : Bool :=
  k.set.fab.running.isSome && decide (k.set.fab.started ≤ now)
    && (k.frost == .thawed || k.frost == .freezing) && (k.hold == .none || k.hold == .coming)

/-- A stitch's entry of the stream table. -/
def Rounds.at (r : Rounds) (k : Nat) : Stream := (r.table[k % 64]'(Nat.mod_lt _ (by decide)))

def CSet.isDrop (c : CSet) (k : Nat) : Bool := (c.rounds.at k).status == .drop

/-! ### Input ports (R129, R130) -/

/-- A token of a sequencer input port leaves for its target, past tokens that wait for a stitch in SLIP (R125). -/
def Fabric.feed (f : Fabric) (slipped : Nat → Bool) (now port : Nat) : Fabric :=
  match f.inq.find? (fun p => p.port == port && !slipped p.tok.k) with
  | none => f
  | some p =>
    if f.hasRoom p.tgt then
      let r := (lookup port f.inPorts).getD .zero
      Fabric.move { f with
        inq := f.inq.erase p
        inPorts := insert port (r.pass p.tok) f.inPorts
        flights := f.flights ++ [⟨now + boxesCrossed port (boxOf (placeOf p.tgt)), p.tgt, p.tok, []⟩] } now
    else f

/-- The sixteen ports in one cycle. -/
def Fabric.feedAll (f : Fabric) (slipped dropped : Nat → Bool) (now : Nat) : Fabric :=
  (List.range 16).foldl (fun f port => f.feed slipped now port)
    { f with inq := f.inq.filter (fun p => !dropped p.tok.k) }

def CSet.isSlip (c : CSet) (k : Nat) : Bool := (c.rounds.at k).status == .slip

end Sys2Proof.Machine
end

