-- ==== Sys2Proof/Machine/Fire.lean ====
section
/-!
DEFINITION. The firing rule: what makes a slot ready, what a firing consumes and sends, and what the fabric logs of it
(R120 to R125, R134, R159, R328, R340, R341, R366).
-/

namespace Sys2Proof.Machine

/-! ### Sending (R120, R126, R128) -/

/-- A token of the fabric crosses a lane in a cycle. -/
def Fabric.laneTaken (f : Fabric) (lane cycle : Nat) : Bool :=
  f.flights.any (fun g => g.lanes.any (fun l => l.1 == lane && g.due == cycle + l.2))

/-- The cycles a token waits before it leaves: the fewest after which no lane of its path is taken when it crosses it,
since one token per cycle passes on each lane (R126). -/
def Fabric.laneWait (f : Fabric) (start : Nat) (p : Path) : Nat :=
  ((List.range ((f.flights.flatMap (fun g => g.lanes)).length * p.lanes.length + 1)).find? (fun d =>
    p.lanes.all (fun l => !f.laneTaken l.1 (start + d + l.2)))).getD 0

/-- The cycle from which a token may leave for a target: not before one that left for it earlier, since the tokens of a
path arrive in the order they were sent (R122); a target has one producer, and so one path (R124). -/
def Fabric.pathStart (f : Fabric) (earliest cost : Nat) (t : Target) : Nat :=
  (f.flights.filter (fun g => g.tgt == t)).foldl (fun m g => max m (g.due - cost)) earliest

/-- A token leaves for a target after a latency, by its path. -/
def Fabric.send (f : Fabric) (frombox now latency : Nat) (t : Target) (k : Token) : Fabric :=
  if t = noTarget then f
  else
    let path := match f.running with
      | some im => im.pathTo frombox t
      | none => ⟨boxesCrossed frombox (boxOf (placeOf t)), []⟩
    let start := f.pathStart (now + latency) path.cost t
    { f with flights := f.flights ++ [⟨start + f.laneWait start path + path.cost, t, k,
      path.lanes.map (fun l => (l.1, path.cost - l.2))⟩] }

/-! ### Log and trace records of the fabric (R330, R331, R341) -/

/-- A record about a place of the fabric: its slot field, graph node and loop-index register. -/
def State.fabRecord (s : State) (type : BitVec 8) (k : Nat) (slot : Nat) (gnode : BitVec 32) (loopReg : BitVec 8)
    (cause : BitVec 8) (value : Word) : LogRec where
  type := type
  part := BitVec.ofNat 8 s.unit.part
  core := BitVec.ofNat 8 s.core.num
  stitch := BitVec.ofNat 8 k
  gnode := gnode
  slot := BitVec.ofNat 16 slot
  loopReg := loopReg
  cause := cause
  loopVal := if loopReg = 0 then 0 else BitVec.setWidth 32 (s.reg (BitVec.setWidth 6 loopReg))
  time := 0
  value := value
  corrected := 0

/-- A record about a slot of the running configuration. -/
def State.slotRecord (s : State) (type : BitVec 8) (k slot : Nat) (cause : BitVec 8) (value : Word) : LogRec :=
  match s.core.set.fab.running with
  | some im => s.fabRecord type k slot (im.gnode slot) (im.loopReg slot) cause value
  | none => s.fabRecord type k slot 0xFFFFFFFF 0 cause value

/-- A record about a node, named 0x8000 | identifier. -/
def State.nodeRecord (s : State) (type : BitVec 8) (k id : Nat) (gnode : BitVec 32) (cause : BitVec 8) (value : Word) :
    LogRec := s.fabRecord type k (0x8000 + id) gnode 0 cause value

/-- The 32 bytes of a record (R330). -/
def LogRec.bytes (r : LogRec) : List Byte :=
  [r.type, r.part, r.core, r.stitch] ++ leBytes 4 r.gnode.toNat ++ leBytes 2 r.slot.toNat ++ [r.loopReg, r.cause]
    ++ leBytes 4 r.loopVal.toNat ++ leBytes 8 r.time.toNat ++ leBytes 8 r.value.toNat

/-- One staged record written at its place in the trace buffer, as a write of the unit; a record that finds no room, or
that the buffer's translation refuses, is dropped and counted. -/
def State.traceWrite (s : State) (t : Trace) (bs : List Byte) : State :=
  let setTrace (s : State) (t : Trace) : State := s.mapCore (fun k => { k with trace := some t })
  if t.stopFull ∧ t.written ≥ t.cap.toNat then setTrace s { t with dropped := t.dropped + 1 }
  else match s.checked .write (t.buffer + BitVec.ofNat 64 (32 * (t.written % t.cap.toNat))) 1 32 with
    | (u, .error _) => setTrace u { t with dropped := t.dropped + 1 }
    | (u, .ok (window, spans)) => setTrace (u.write .sequencer window spans bs).1 { t with written := t.written + 1 }

/-- The staged records of the cycles before one, written while the unit's core may inject (R264): the order of a cycle's
records is known once the cycle is over. -/
def State.traceFlush (before : Nat) : Nat → State → State
  | 0, s => s
  | n + 1, s =>
    match s.core.trace with
    | some t =>
      match t.staged with
      | [] => s
      | e :: rest =>
        if s.retentionFull || decide (before ≤ e.1) then s
        else State.traceFlush before n (s.traceWrite { t with staged := rest } e.2.2)
    | none => s

/-- A record's place among those staged: cycles in order, and ascending slots in a cycle (R341). -/
def stageRecord (e : Nat × Nat × List Byte) : List (Nat × Nat × List Byte) → List (Nat × Nat × List Byte)
  | [] => [e]
  | x :: rest =>
    if e.1 < x.1 ∨ (e.1 = x.1 ∧ e.2.1 < x.2.1) then e :: x :: rest else x :: stageRecord e rest

/-- A trace record: staged; the records past the 64th are dropped and counted. -/
def State.trace (s : State) (r : LogRec) : State :=
  match s.core.trace with
  | some t =>
    let r := { r with time := if t.noTime then 0 else s.time s.part }
    let l := stageRecord (s.cycle, r.slot.toNat, r.bytes) t.staged
    s.mapCore (fun k => { k with trace := some { t with staged := l.take 64, dropped := t.dropped + (l.length - 64) } })
  | none => s

/-- Whether records of a stitch are traced, for error tokens or for a graph node. -/
def Trace.wants (t : Trace) (k : Nat) : Bool := t.mask.getLsbD k
def Trace.filters (t : Trace) (g : BitVec 32) : Bool := t.filter == 0xFFFFFFFF || t.filter == g

/-- An error token is counted and logged where it is consumed or discarded: in the fabric error counter, in a record of
type 0x03, and in the trace when it asks for them (R328, R331, R341, R366). -/
def State.errToken (s : State) (r : LogRec) : State :=
  let s := (s.mapSet (fun c => { c with errCount := c.errCount + 1 })).log s.unit.part r
  match s.core.trace with
  | some t => if t.errsToo && t.wants r.stitch.toNat then s.trace r else s
  | none => s

def Token.tagWord (t : Token) : Word := BitVec.ofNat 64 t.tag.bits

/-- An error token consumed at, or discarded by, a slot. -/
def State.slotError (s : State) (slot : Nat) (t : Token) : State :=
  s.errToken (s.slotRecord 0x03 t.k slot (BitVec.setWidth 8 t.tag.cause) t.tagWord)

def State.nodeError (s : State) (id : Nat) (gnode : BitVec 32) (t : Token) : State :=
  s.errToken (s.nodeRecord 0x03 t.k id gnode (BitVec.setWidth 8 t.tag.cause) t.tagWord)

/-! ### Dropped stitches (R125, R147, R159) -/

/-- MXCLR's place in an accumulator node's order (R208), no token. -/
def AnWork.isClear : AnWork → Bool
  | .clear _ => true
  | _ => false

/-- Work that is a token on its way from MX: neither MXCLR's place nor that of a token that stands at an input. -/
def AnWork.fromMx : AnWork → Bool
  | .clear _ => false
  | .arrived _ _ => false
  | _ => true

/-- Every token of a stitch removed from the fabric, wherever it stands; those of output ports only where `ports` says so
(R125, R153, R156). The holders keep what they hold. -/
def Fabric.purge (f : Fabric) (k : Nat) (ports : Bool) : Fabric :=
  let away (t : Token) : Bool := t.k ≠ k
  { f with
    held := f.held.filter (fun p => away p.2 || (!ports && (match placeOf p.1 with | .seq _ => true | _ => false)))
    flights := f.flights.filter (fun g => away g.tok)
    inq := f.inq.filter (fun p => away p.tok)
    sregs := f.sregs.map (fun p => if p.1.2 = k then (p.1, { p.2 with due := [] }) else p)
    eorDue := f.eorDue.filter (fun e => away e.2)
    consts := f.consts.filter (fun e => e.2 ≠ k)
    anq := f.anq.filter (fun m => m.stitch ≠ k || m.work.isClear)
    rels := f.rels.filter (fun e => e.toks.all away)
    pair := f.pair.filter (fun e => e.2.1 ≠ k)
    scales := f.scales.filter (fun e => e.1 ≠ k)
    gpFill := f.gpFill.filter (fun e => e.1 ≠ k)
    smq := f.smq.filter (fun e => away e.1)
    mns := f.mns.map (fun e => (e.1, { e.2 with
      reorder := e.2.reorder.filter (fun r => r.stitch ≠ k)
      pass := e.2.pass.filter (fun p => p.stitch ≠ k)
      dones := e.2.dones.filter (fun d => d.stitch ≠ k) })) }

/-- The tokens of a stitch in the fabric, those of output ports apart (R153, R156). -/
def Fabric.tokensOf (f : Fabric) (k : Nat) (ports : Bool) : Nat :=
  let mine (t : Token) : Bool := t.k == k
  (f.held.filter (fun p => mine p.2 && (match placeOf p.1 with | .seq _ => false | _ => true))).length
    + (f.flights.filter (fun g => mine g.tok)).length
    + (if ports then (f.inq.filter (fun p => mine p.tok)).length else 0)
    + ((f.sregs.filter (fun p => p.1.2 == k)).map (fun p => (p.2.due.filter (fun d => d ≠ .held)).length)).foldl (· + ·) 0
    + (f.eorDue.filter (fun e => mine e.2)).length
    + (f.anq.filter (fun m => m.stitch == k && m.work.fromMx)).length
    + ((f.rels.map (fun e => (e.toks.filter mine).length)).foldl (· + ·) 0)
    + (f.pair.filter (fun e => e.2.1 == k)).length
    + (f.gpFill.filter (fun e => e.1 == k)).length
    + (f.smq.filter (fun e => mine e.1)).length
    + (f.mns.map (fun e => (e.2.reorder.filter (fun r => r.stitch == k)).length
        + (e.2.pass.filter (fun p => p.stitch == k)).toList.length
        + (e.2.dones.filter (fun d => d.stitch == k)).length)).foldl (· + ·) 0

def Rounds.put (r : Rounds) (k : Nat) (e : Stream) : Rounds := { r with table := r.table.set (k % 64) e (Nat.mod_lt _ (by decide)) }

def Stream.isUp (e : Stream) : Bool := e.status == .live || e.status == .slip

/-- The first cause recorded stays (R159). -/
def Stream.blame (e : Stream) (cause : BitVec 6) : Stream := if e.cause = 0 then { e with cause := cause } else e

/-- The change that stitch k took at the boundary of this cycle, with its status before (R147). -/
def State.turnedNow (s : State) (k : Nat) : Option (PendStitch × Status) :=
  if s.core.set.rounds.boundary = some s.cycle then s.core.set.rounds.turned.find? (fun p => p.1.k == k) else none

/-- The change found its stitch in a status that it changes (R147, R153). -/
def StitchOp.applies (op : StitchOp) (before : Status) : Bool :=
  match op with
  | .live => before == .cast
  | .slip => before == .live
  | .unslip => before == .slip
  | .lift _ => before == .drop
  | .bindoff _ => before == .live || before == .slip || before == .drop
  | .restore _ _ => true

/-- The change that stitch k made at the boundary of this cycle; one that failed is none. -/
def State.changedNow (s : State) (k : Nat) : Option (PendStitch × Status) :=
  (s.turnedNow k).filter (fun t => t.1.op.applies t.2)

/-- The status in which a fault of this cycle finds stitch k: that before a change of the same cycle (R147). -/
def State.faultStatus (s : State) (k : Nat) : Status :=
  match s.changedNow k with
  | some t => t.2
  | none => (s.core.set.rounds.at k).status

/-- A stitch drops: its tokens are discarded wherever they stand, and it takes a status. -/
def State.dropStitch (s : State) (k : Nat) (e : Stream) (st : Status) : State :=
  s.mapSet (fun c => { c with
    rounds := { c.rounds with
      table := (c.rounds.put k { e with status := st }).table
      dropped := insert k s.cycle c.rounds.dropped
      drains := c.rounds.drains.map (fun d => if d.k = k then { d with before := .drop } else d) }
    fab := (c.fab.purge k true).move s.cycle })

/-- A per-stitch fault: the cause, a record of type 0x05, and for a LIVE or SLIP stitch the status DROP, from which on
every token of the stitch is discarded (R147, R159). Where the stitch took a change at a boundary of the same cycle, the
fault comes first: BINDOFF then finds it in DROP, SLIP and UNSLIP fail, and LIVE of a cast stitch and LIFT stand. A change
that failed at that boundary is none. -/
def State.stitchFault (s : State) (k : Nat) (cause : BitVec 6) (r : LogRec) : State :=
  let e := s.core.set.rounds.at k
  let s := s.log s.unit.part r
  let record (s : State) : State := s.mapRounds (fun q => { q.put k (e.blame cause) with
    drains := q.drains.map (fun d => if d.k = k then { d with before := .drop } else d) })
  match s.changedNow k with
  | some (p, before) =>
    match p.op with
    | .bindoff _ => if before = .drop then record s else s.dropStitch k (e.blame cause) .off
    | .slip | .unslip => (s.dropStitch k (e.blame cause) .drop).settle p.id (statusWord 0x32 k) .clear
    | .live => record s
    | .lift _ => s
    | .restore _ _ => record s
  | none => if e.isUp then s.dropStitch k (e.blame cause) .drop else record s

/-! ### Readiness (R120) -/

/-- The oldest token of stitch k in a buffer. -/
def Fabric.oldest (f : Fabric) (t : Target) (k : Nat) : Option Token :=
  (f.held.find? (fun p => p.1 == t && p.2.k == k)).map (·.2)

/-- The tokens a firing consumes. -/
structure Taken where
  l : Token
  r : Option Token
  p : Option Token
  deriving DecidableEq, Repr

/-- The tokens of stitch k at the positions read, when each holds one. -/
def Fabric.takenOf (f : Fabric) (slot : Nat) (reads : List Nat) (k : Nat) : Option Taken :=
  match f.oldest (slotTarget slot 0) k with
  | none => none
  | some l =>
    let r := if reads.contains 1 then f.oldest (slotTarget slot 1) k else none
    let p := if reads.contains 2 then f.oldest (slotTarget slot 2) k else none
    if (reads.contains 1 && r.isNone) || (reads.contains 2 && p.isNone) then none else some ⟨l, r, p⟩

/-- What a slot would take now: of the stitches that have a token at every position read, the one whose left token
arrived first. -/
def Fabric.pick (f : Fabric) (slot : Nat) (reads : List Nat) : Option Taken :=
  (f.heldAt (slotTarget slot 0)).findSome? (fun l => f.takenOf slot reads l.k)

/-- What a MERGE slot would take: the first-arrived token at either position, with its target. -/
def Fabric.pickMerge (f : Fabric) (slot : Nat) : Option (Target × Token) :=
  f.held.find? (fun p => p.1 == slotTarget slot 0 || p.1 == slotTarget slot 1)

/-- Every target's buffer has a free place. -/
def Fabric.roomFor (f : Fabric) (i : Instr) : Bool := (fabTargets i).all f.hasRoom

/-- A slot that fires by R120 would fire now: it holds what it reads, or an end-of-reduction token is due at it, and its
targets have room. State-holder slots fire by R121 alone. -/
def Fabric.ready (f : Fabric) (im : Image) (r : SlotRec) : Bool :=
  match r.instr with
  | none => false
  | some i =>
    !isSreg i && f.roomFor i &&
      (if isMerge i then (f.pickMerge r.num).isSome
       else f.eorDue.any (fun e => e.1 == r.num) || (!(im.reads r).isEmpty && (f.pick r.num (im.reads r)).isSome))

def elementOf (slot : Nat) : Nat := slot / 16

/-- A token is stored by an SREG: a data token becomes the held value, which is due unless the token is the stitch's
last; another kind is due itself. -/
def SregEntry.store (e : SregEntry) (t : Token) : SregEntry :=
  if t.isData then
    { e with
      held := t.payload
      due := if t.tag.last then e.due.filter (fun d => d ≠ .held)
        else if e.due.contains .held then e.due else e.due ++ [.held]
      gotLast := e.gotLast || t.tag.last
      touched := true }
  else { e with due := e.due ++ [.pass t], touched := true }

/-- The SREG's entry for a stitch; its constant in every lane before anything is held. -/
def Fabric.sregAt (f : Fabric) (slot k : Nat) (konst : BitVec 32) : SregEntry :=
  (lookup (slot, k) f.sregs).getD ⟨constPayload konst.toNat, [], false, false⟩

/-- What an SREG owes a stitch, once the tokens that have arrived at it are stored (R148). -/
def Fabric.owes (f : Fabric) (r : SlotRec) (k : Nat) : List Due :=
  (((f.heldAt (slotTarget r.num 0)).filter (fun t => t.k == k)).foldl SregEntry.store (f.sregAt r.num k r.konst)).due

/-- The stitches whose holders emit nothing while RSAVE drains (R156). -/
def Rounds.muted (r : Rounds) (k : Nat) : Bool :=
  match r.save with
  | some v => v.since.isSome && v.set.any (fun x => x.1 == k)
  | none => false

/-- What a state holder owes stitch k may leave, in a slot cycle: a held value while the stitch is LIVE, a token that only
passes unless the stitch is in SLIP, DROP or OFF (R148). -/
def CSet.maySend (c : CSet) (k : Nat) (d : Due) : Bool :=
  let st := (c.rounds.at k).status
  !c.rounds.muted k && match d with
    | .held => st == .live
    | .pass _ => st != .slip && st != .drop && st != .off

/-- This is a slot cycle of stitch k (R145). -/
def CSet.slotCycle (c : CSet) (now k : Nat) : Bool :=
  match c.fab.running with
  | some im => decide (now % im.P = k)
  | none => false

/-- A slot's targets have room. -/
def Fabric.slotRoom (f : Fabric) (r : SlotRec) : Bool := (r.instr.map f.roomFor).getD false

/-- A state-holder slot of the element sends in this cycle: something is due that may leave, and its targets have room;
one that cannot send takes no precedence (R121). -/
def CSet.holderSends (c : CSet) (im : Image) (now element : Nat) : Bool :=
  let k := now % im.P
  im.sregSlots.any (fun r => elementOf r.num == element && c.fab.slotRoom r && (c.fab.owes r k).head?.any (c.maySend k)) ||
    (c.maySend k .held &&
      im.freeConsts.any (fun r => elementOf r.num == element && c.fab.slotRoom r && c.fab.consts.contains (r.num, k)))

/-- A slot may fire in this cycle: its element has not fired and has no state holder that sends, and it is the
element's lowest-numbered ready slot (R120, R121). -/
def CSet.mayFire (c : CSet) (im : Image) (now : Nat) (r : SlotRec) : Bool :=
  !c.fab.fired.contains (elementOf r.num) && !c.holderSends im now (elementOf r.num) && c.fab.ready im r &&
    im.slots.all (fun q => !(elementOf q.num == elementOf r.num && decide (q.num < r.num)) || !c.fab.ready im q)

/-- The slot whose operation word a fabric instruction is, on a fabric that runs. -/
def State.firingSlot (s : State) (i : Instr) : Option (Image × SlotRec) :=
  if s.core.fabricRuns s.cycle then
    match s.core.set.fab.running with
    | some im =>
      match im.slot s.firing with
      | some r => if r.instr = some i then some (im, r) else none
      | none => none
    | none => none
  else none

/-! ### Firing -/

/-- The oldest token of a stitch leaves a buffer. -/
def removeHeld (t : Target) (k : Nat) : List (Target × Token) → List (Target × Token)
  | [] => []
  | p :: rest => if p.1 = t ∧ p.2.k = k then rest else p :: removeHeld t k rest

def Fabric.consume (f : Fabric) (slot : Nat) (reads : List Nat) (k : Nat) : Fabric :=
  { f with held := reads.foldl (fun h pos => removeHeld (slotTarget slot pos) k h) f.held }

def Fabric.markFired (f : Fabric) (slot now : Nat) : Fabric :=
  { f with fired := elementOf slot :: f.fired }.move now

/-- A breakpoint's condition for a firing (R340). -/
def Breakpoint.meets (b : Breakpoint) (k : Nat) (loopVal : BitVec 32) : Bool :=
  (b.cond.getLsbD 6 || wspan b.cond 0 6 == k) && (!b.cond.getLsbD 7 || wspan b.cond 16 32 == loopVal.toNat)

/-- The breakpoint word of R340. -/
def breakWord (n k slot : Nat) (gnode : BitVec 32) : Word :=
  BitVec.ofNat 64 (n + k * 4 + slot * 256 + gnode.toNat * 2 ^ 32)

/-- A breakpoint triggers: it is disarmed, the fabric will hold, and BREAK is raised. Of breakpoints that trigger in one
cycle the word names the lowest. -/
def State.breakAt (s : State) (n : Nat) (w : Word) : State :=
  let again := s.core.broke == s.cycle && s.core.hold == .coming
  let raise (l : List Async) : List Async :=
    if again then
      l.map (fun a => if a.cause = causeBreak ∧ wspan w 0 2 < wspan a.val 0 2 then { a with val := w } else a)
    else l ++ [⟨causeBreak, w⟩]
  (s.mapCore (fun k => { k with
    breaks := k.breaks.set (n % 4) none (Nat.mod_lt _ (by decide))
    hold := if k.hold = .none ∨ k.hold = .leaving then .coming else k.hold
    broke := s.cycle })).mapSet (fun c => { c with asyncs := raise c.asyncs })

/-- What breakpoint n makes of a firing of a data token: nothing, a skip used up, or a trigger. -/
def State.breakpoint (slot k : Nat) (s : State) (n : Nat) : State :=
  match s.core.breaks[n % 4]'(Nat.mod_lt _ (by decide)), s.core.set.fab.running with
  | some b, some im =>
    let r := s.slotRecord 0x02 k slot 0 (breakWord n k slot (im.gnode slot))
    if b.gnode = im.gnode slot ∧ b.meets k r.loopVal then
      if b.skips = 0 then (s.breakAt n r.value).trace r
      else s.mapCore (fun c => { c with
        breaks := c.breaks.set (n % 4) (some { b with skips := b.skips - 1 }) (Nat.mod_lt _ (by decide)) })
    else s
  | _, _ => s

/-- What debugging sees of a firing: a trace record, and the four breakpoints. A firing that makes no result has no
first bytes to record: a free value. -/
def State.fired (s : State) (slot : Nat) (taken : Token) (result : Option Token) : State :=
  let value : Word := match result with
    | some t => BitVec.setWidth 64 t.payload
    | none => Config.freeWord s.free
  let s := match s.core.trace, s.core.set.fab.running with
    | some t, some im =>
      if t.wants taken.k && t.filters (im.gnode slot) then (s.trace (s.slotRecord 0x01 taken.k slot 0 value)).spent else s
    | _, _ => s
  if taken.isData then (List.range 4).foldl (State.breakpoint slot taken.k) s else s

/-- A firing's tokens leave for their targets. -/
def State.emit (s : State) (slot latency : Nat) (outs : List (Target × Token)) : State :=
  s.mapFab (fun f => outs.foldl (fun f o => f.send (boxOf (.slot slot 0)) s.cycle latency o.1 o.2) f)

/-! ### Results (R123) -/

def Taken.list (t : Taken) : List Token := t.l :: (t.r.toList ++ t.p.toList)
def Taken.last (t : Taken) : Bool := t.list.any (fun k => k.tag.last)
def Taken.rp (t : Taken) : Payload := (t.r.map (fun k => k.payload)).getD 0
def Taken.pp (t : Taken) : Payload := (t.p.map (fun k => k.payload)).getD 0
def Taken.pred (t : Taken) : Bool := (t.p.map (fun k => k.tag.pred)).getD false
def Taken.predError (t : Taken) : Bool := (t.p.map Token.isError).getD false
def Taken.tag (t : Taken) : Tag := ⟨t.l.tag.stitch, .data, t.l.tag.pred, t.last, 0⟩

/-- A data result. -/
def Taken.data (t : Taken) (p : Payload) : Token := ⟨t.tag, p⟩
/-- A result of the left token's kind. -/
def Taken.keep (t : Taken) (p : Payload) : Token := ⟨{ t.tag with kind := t.l.tag.kind }, p⟩
/-- An error result with a cause and a payload. -/
def Taken.fail (t : Taken) (cause : BitVec 6) (p : Payload) : Token := ⟨{ t.tag with kind := .error, cause := cause }, p⟩
def Token.withPred (k : Token) (b : Bool) : Token := { k with tag := { k.tag with pred := b } }

/-- The result: an error where a consumed token is one, with the cause of the first. -/
def Taken.result (t : Taken) (make : Taken → Token) : Token :=
  match t.list.find? Token.isError with
  | some e => t.fail e.tag.cause 0
  | none => make t

/-- A firing by R120: the slot takes its tokens, `act` says what it sends and what else it does, and the tokens leave
after the opcode's latency. -/
def fabFire (i : Instr) (act : State → SlotRec → Taken → State × List (Target × Token)) (s : State) : Out :=
  match s.firingSlot i with
  | none => .next s
  | some (im, r) =>
    match s.core.set.fab.pick r.num (im.reads r) with
    | none => .next s
    | some t =>
      when (s.core.set.mayFire im s.cycle r && !s.core.set.fab.eorDue.any (fun e => e.1 == r.num)) s (fun s =>
        let s := s.mapFab (fun f => (f.consume r.num (im.reads r) t.l.k).markFired r.num s.cycle)
        match act s r t with
        | (s, outs) =>
          (s.emit r.num (fabLatency i r.konst.toNat) outs).fired r.num t.l (outs.head?.map (·.2)))

/-- A firing whose result goes to both targets. -/
def fabMap (i : Instr) (x y : Target) (make : Nat → Taken → Token) (s : State) : Out :=
  fabFire i (fun s r t => let k := t.result (make r.konst.toNat); (s, [(x, k), (y, k)])) s

end Sys2Proof.Machine
end

