-- ==== Sys2Proof/Machine/Alu.lean ====
section
/-!
DEFINITION. The ALU, immediate and upper-immediate instructions (R91, R95 to R99).
-/

namespace Sys2Proof.Machine

/-! ### Shared forms -/

/-- A register-register instruction whose result is there for the next issue. -/
def aluRR (i : Instr) (d a b : Reg) (f : Word → Word → Word) (s : State) : Out :=
  issue i ⟨[a, b], d, 0⟩ (fun s => (s.setReg d (f (s.reg a) (s.reg b))).advance) s

/-- A one-register instruction. -/
def aluR (i : Instr) (d a : Reg) (f : Word → Word) (s : State) : Out :=
  issue i ⟨[a], d, 0⟩ (fun s => (s.setReg d (f (s.reg a))).advance) s

/-- A multiplication: the result comes 3 cycles after issue (R91). -/
def aluMul (i : Instr) (d a b : Reg) (f : Word → Word → Word) (s : State) : Out :=
  issue i ⟨[a, b], d, 0⟩ (fun s => (s.later d .other (f (s.reg a) (s.reg b)) .clear 3).advance) s

/-- A division: the result comes 34 cycles after issue, and DZ is set when the divisor is zero (R91, R96). -/
def aluDiv (i : Instr) (d a b : Reg) (f : Word → Word → Word) (s : State) : Out :=
  issue i ⟨[a, b], d, 0⟩
    (fun s => ((s.setDz (s.reg b == 0)).later d .other (f (s.reg a) (s.reg b)) .clear 34).advance) s

/-! ### The values (R95 to R98) -/

def mulhValue (a b : Word) : Word := BitVec.ofInt 64 (a.toInt * b.toInt / 2 ^ 64)
def mulhuValue (a b : Word) : Word := BitVec.ofNat 64 (a.toNat * b.toNat / 2 ^ 64)

/-- The quotient truncated towards zero; all ones by zero; −2^63 by −1 stays −2^63 (R96). -/
def divsValue (a b : Word) : Word := if b = 0 then BitVec.allOnes 64 else BitVec.ofInt 64 (a.toInt.tdiv b.toInt)
def divuValue (a b : Word) : Word := if b = 0 then BitVec.allOnes 64 else BitVec.ofNat 64 (a.toNat / b.toNat)
/-- The remainder with the sign of the dividend; all ones by zero (R96). -/
def remsValue (a b : Word) : Word := if b = 0 then BitVec.allOnes 64 else BitVec.ofInt 64 (a.toInt.tmod b.toInt)
def remuValue (a b : Word) : Word := if b = 0 then BitVec.allOnes 64 else BitVec.ofNat 64 (a.toNat % b.toNat)

def boolWord (c : Bool) : Word := if c then 1 else 0

/-- The shift count of a register (R95). -/
def shiftCount (b : Word) : Nat := b.toNat % 64

/-- The zero bits above the highest set bit; 64 for zero. -/
def clzValue (a : Word) : Word := if a = 0 then 64 else BitVec.ofNat 64 (63 - Nat.log2 a.toNat)

/-- The set bits of the low n bits. -/
def countOnes (a : Word) : Nat → Nat
  | 0 => 0
  | n + 1 => countOnes a n + (a.getLsbD n).toNat

def popcValue (a : Word) : Word := BitVec.ofNat 64 (countOnes a 64)

/-- Bits [n:0], zeros above (R97). -/
def zextValue (a : Word) (n : Nat) : Word := BitVec.ofNat 64 (a.toNat % 2 ^ (n + 1))
/-- Bits [n:0], sign-extended from bit n (R97). -/
def sextValue (a : Word) (n : Nat) : Word := BitVec.ofInt 64 (sintOf (n + 1) a.toNat)

/-! ### ALU (R95, R96) -/

def execAdd (d a b : Reg) (s : State) : Out :=
  aluRR (.add d a b) d a b (fun a b => a + b) s

def execSub (d a b : Reg) (s : State) : Out :=
  aluRR (.sub d a b) d a b (fun a b => a - b) s

def execMul (d a b : Reg) (s : State) : Out :=
  aluMul (.mul d a b) d a b (fun a b => a * b) s

def execMulh (d a b : Reg) (s : State) : Out :=
  aluMul (.mulh d a b) d a b mulhValue s

def execMulhu (d a b : Reg) (s : State) : Out :=
  aluMul (.mulhu d a b) d a b mulhuValue s

def execDivs (d a b : Reg) (s : State) : Out :=
  aluDiv (.divs d a b) d a b divsValue s

def execDivu (d a b : Reg) (s : State) : Out :=
  aluDiv (.divu d a b) d a b divuValue s

def execRems (d a b : Reg) (s : State) : Out :=
  aluDiv (.rems d a b) d a b remsValue s

def execRemu (d a b : Reg) (s : State) : Out :=
  aluDiv (.remu d a b) d a b remuValue s

def execAnd (d a b : Reg) (s : State) : Out :=
  aluRR (.and d a b) d a b (fun a b => a &&& b) s

def execOr (d a b : Reg) (s : State) : Out :=
  aluRR (.or d a b) d a b (fun a b => a ||| b) s

def execXor (d a b : Reg) (s : State) : Out :=
  aluRR (.xor d a b) d a b (fun a b => a ^^^ b) s

def execAndn (d a b : Reg) (s : State) : Out :=
  aluRR (.andn d a b) d a b (fun a b => a &&& ~~~b) s

def execShl (d a b : Reg) (s : State) : Out :=
  aluRR (.shl d a b) d a b (fun a b => a <<< shiftCount b) s

def execShr (d a b : Reg) (s : State) : Out :=
  aluRR (.shr d a b) d a b (fun a b => a >>> shiftCount b) s

def execSra (d a b : Reg) (s : State) : Out :=
  aluRR (.sra d a b) d a b (fun a b => a.sshiftRight (shiftCount b)) s

def execMin (d a b : Reg) (s : State) : Out :=
  aluRR (.min d a b) d a b (fun a b => if a.slt b then a else b) s

def execMax (d a b : Reg) (s : State) : Out :=
  aluRR (.max d a b) d a b (fun a b => if b.slt a then a else b) s

def execMinu (d a b : Reg) (s : State) : Out :=
  aluRR (.minu d a b) d a b (fun a b => if a.ult b then a else b) s

def execMaxu (d a b : Reg) (s : State) : Out :=
  aluRR (.maxu d a b) d a b (fun a b => if b.ult a then a else b) s

def execCmpeq (d a b : Reg) (s : State) : Out :=
  aluRR (.cmpeq d a b) d a b (fun a b => boolWord (a == b)) s

def execCmpne (d a b : Reg) (s : State) : Out :=
  aluRR (.cmpne d a b) d a b (fun a b => boolWord (a != b)) s

def execCmplt (d a b : Reg) (s : State) : Out :=
  aluRR (.cmplt d a b) d a b (fun a b => boolWord (a.slt b)) s

def execCmpltu (d a b : Reg) (s : State) : Out :=
  aluRR (.cmpltu d a b) d a b (fun a b => boolWord (a.ult b)) s

def execCmple (d a b : Reg) (s : State) : Out :=
  aluRR (.cmple d a b) d a b (fun a b => boolWord (a.sle b)) s

def execCmpleu (d a b : Reg) (s : State) : Out :=
  aluRR (.cmpleu d a b) d a b (fun a b => boolWord (a.ule b)) s

def execClz (d a : Reg) (s : State) : Out :=
  aluR (.clz d a) d a clzValue s

def execPopc (d a : Reg) (s : State) : Out :=
  aluR (.popc d a) d a popcValue s

/-! ### Immediates (R97, R98) -/

def execAddi (d a : Reg) (i : BitVec 14) (s : State) : Out :=
  aluR (.addi d a i) d a (fun a => a + sx14 i) s

def execAndi (d a : Reg) (i : BitVec 14) (s : State) : Out :=
  aluR (.andi d a i) d a (fun a => a &&& sx14 i) s

def execOri (d a : Reg) (i : BitVec 14) (s : State) : Out :=
  aluR (.ori d a i) d a (fun a => a ||| sx14 i) s

def execXori (d a : Reg) (i : BitVec 14) (s : State) : Out :=
  aluR (.xori d a i) d a (fun a => a ^^^ sx14 i) s

def execShli (d a : Reg) (n : BitVec 6) (s : State) : Out :=
  aluR (.shli d a n) d a (fun a => a <<< n.toNat) s

def execShri (d a : Reg) (n : BitVec 6) (s : State) : Out :=
  aluR (.shri d a n) d a (fun a => a >>> n.toNat) s

def execSrai (d a : Reg) (n : BitVec 6) (s : State) : Out :=
  aluR (.srai d a n) d a (fun a => a.sshiftRight n.toNat) s

def execCmplti (d a : Reg) (i : BitVec 14) (s : State) : Out :=
  aluR (.cmplti d a i) d a (fun a => boolWord (a.slt (sx14 i))) s

def execCmpeqi (d a : Reg) (i : BitVec 14) (s : State) : Out :=
  aluR (.cmpeqi d a i) d a (fun a => boolWord (a == sx14 i)) s

def execSext (d a : Reg) (n : BitVec 6) (s : State) : Out :=
  aluR (.sext d a n) d a (fun a => sextValue a n.toNat) s

def execZext (d a : Reg) (n : BitVec 6) (s : State) : Out :=
  aluR (.zext d a n) d a (fun a => zextValue a n.toNat) s

/-! ### Upper immediates (R99) -/

/-- d = sx(imm20) shifted left by 12. -/
def execLui (d : Reg) (i : BitVec 20) (s : State) : Out :=
  issue (.lui d i) ⟨[], d, 0⟩ (fun s => (s.setReg d (sx20 i <<< 12)).advance) s

/-- d = pc + sx(imm20) shifted left by 12, pc the address of the instruction itself. -/
def execAddpc (d : Reg) (i : BitVec 20) (s : State) : Out :=
  issue (.addpc d i) ⟨[], d, 0⟩ (fun s => (s.setReg d (s.seq.pc + (sx20 i <<< 12))).advance) s

/-- The low 44 bits of d, under imm20; d is read as well as written. -/
def lihValue (v : Word) (i : BitVec 20) : Word := (v &&& 0x00000FFFFFFFFFFF) ||| (BitVec.setWidth 64 i <<< 44)

def execLih (d : Reg) (i : BitVec 20) (s : State) : Out :=
  issue (.lih d i) ⟨[d], d, 0⟩ (fun s => (s.setReg d (lihValue (s.reg d) i)).advance) s

end Sys2Proof.Machine
end

