-- ==== Sys2Proof/Machine/Branch.lean ====
section
/-!
DEFINITION. Branches and jumps (R100, R101).
-/

namespace Sys2Proof.Machine

/-- pc + 4 · sx(off11) when taken, else pc + 4 (R29, R100). -/
def State.branch (s : State) (taken : Bool) (o : BitVec 11) : State :=
  s.setPc (if taken then s.seq.pc + 4 * sx11 o else s.seq.pc + 4)

/-- A comparing branch; it writes no register. -/
def branchOn (i : Instr) (a b : Reg) (o : BitVec 11) (c : Word → Word → Bool) (s : State) : Out :=
  issue i ⟨[a, b], 0, 0⟩ (fun s => s.branch (c (s.reg a) (s.reg b)) o) s

def execBeq (a b : Reg) (o : BitVec 11) (s : State) : Out := branchOn (.beq a b o) a b o (fun x y => x == y) s
def execBne (a b : Reg) (o : BitVec 11) (s : State) : Out := branchOn (.bne a b o) a b o (fun x y => x != y) s
def execBlt (a b : Reg) (o : BitVec 11) (s : State) : Out := branchOn (.blt a b o) a b o (fun x y => x.slt y) s
def execBge (a b : Reg) (o : BitVec 11) (s : State) : Out := branchOn (.bge a b o) a b o (fun x y => y.sle x) s
def execBltu (a b : Reg) (o : BitVec 11) (s : State) : Out := branchOn (.bltu a b o) a b o (fun x y => x.ult y) s
def execBgeu (a b : Reg) (o : BitVec 11) (s : State) : Out := branchOn (.bgeu a b o) a b o (fun x y => y.ule x) s

/-- Taken when the pending bit of a is clear; it neither waits nor reads the value (R87, R88, R100). -/
def execBtr (a : Reg) (o : BitVec 11) (s : State) : Out :=
  issue (.btr a o) ⟨[], 0, 0⟩ (fun s => s.branch (!s.seq.pending a) o) s

/-- Link and jump (R101). -/
def execJal (d : Reg) (i : BitVec 20) (s : State) : Out :=
  issue (.jal d i) ⟨[], d, 0⟩ (fun s => (s.setReg d (s.seq.pc + 4)).setPc (s.seq.pc + 4 * sx20 i)) s

/-- The target is read before d is written; a misaligned one raises ALIGN and writes nothing (R101). -/
def execJalr (d a : Reg) (i : BitVec 14) (s : State) : Out :=
  issue (.jalr d a i) ⟨[a], d, 0⟩
    (fun s =>
      let target := s.reg a + sx14 i
      if target.toNat % 4 ≠ 0 then s.trap causeAlign target
      else (s.setReg d (s.seq.pc + 4)).setPc target) s

end Sys2Proof.Machine
end

