-- ==== Sys2Proof/Machine/Fabric.lean ====
section
/-!
DEFINITION. The fabric operation words: what a slot does when it fires (R123, R134 to R142, R148, R149, R366). The slot
that fires is `State.firing`; a word that is not due there changes nothing.
-/

namespace Sys2Proof.Machine

/-! ### Integer lanes (R136) -/

/-- A firing on integer lanes of two operands. -/
def intFire (i : Instr) (m : BitVec 2) (x y : Target) (op : Nat → Nat → Nat → Nat) (s : State) : Out :=
  fabMap i x y (fun _ t => t.data (map2 (intWidth m) (op (intWidth m)) t.l.payload t.rp)) s

/-- A firing on integer lanes of one operand and the constant. -/
def intFire1 (i : Instr) (m : BitVec 2) (x y : Target) (op : Nat → Nat → Nat → Nat) (s : State) : Out :=
  fabMap i x y (fun k t => t.data (map1 (intWidth m) (op (intWidth m) (k % 2 ^ intWidth m)) t.l.payload)) s

def execVadd (m : BitVec 2) (x y : Target) (s : State) : Out :=
  intFire (.vadd m x y) m x y laneAdd s

def execVsub (m : BitVec 2) (x y : Target) (s : State) : Out :=
  intFire (.vsub m x y) m x y laneSub s

def execVmul (m : BitVec 2) (x y : Target) (s : State) : Out :=
  intFire (.vmul m x y) m x y laneMul s

def execVmin (m : BitVec 2) (x y : Target) (s : State) : Out :=
  intFire (.vmin m x y) m x y laneMin s

def execVmax (m : BitVec 2) (x y : Target) (s : State) : Out :=
  intFire (.vmax m x y) m x y laneMax s

def execVminu (m : BitVec 2) (x y : Target) (s : State) : Out :=
  intFire (.vminu m x y) m x y (fun _ => laneMinu) s

def execVmaxu (m : BitVec 2) (x y : Target) (s : State) : Out :=
  intFire (.vmaxu m x y) m x y (fun _ => laneMaxu) s

def execVand (m : BitVec 2) (x y : Target) (s : State) : Out :=
  intFire (.vand m x y) m x y (fun _ a b => a &&& b) s

def execVor (m : BitVec 2) (x y : Target) (s : State) : Out :=
  intFire (.vor m x y) m x y (fun _ a b => a ||| b) s

def execVxor (m : BitVec 2) (x y : Target) (s : State) : Out :=
  intFire (.vxor m x y) m x y (fun _ a b => a ^^^ b) s

def execVshl (m : BitVec 2) (x y : Target) (s : State) : Out :=
  intFire (.vshl m x y) m x y laneShl s

def execVshr (m : BitVec 2) (x y : Target) (s : State) : Out :=
  intFire (.vshr m x y) m x y laneShr s

def execVsra (m : BitVec 2) (x y : Target) (s : State) : Out :=
  intFire (.vsra m x y) m x y laneSra s

def execVadds (m : BitVec 2) (x y : Target) (s : State) : Out :=
  intFire (.vadds m x y) m x y laneAdds s

def execVsubs (m : BitVec 2) (x y : Target) (s : State) : Out :=
  intFire (.vsubs m x y) m x y laneSubs s

def execVabs (m : BitVec 2) (x y : Target) (s : State) : Out :=
  intFire1 (.vabs m x y) m x y (fun w _ a => laneAbs w a) s

def execVneg (m : BitVec 2) (x y : Target) (s : State) : Out :=
  intFire1 (.vneg m x y) m x y (fun w _ a => laneNeg w a) s

def execVaddk (m : BitVec 2) (x y : Target) (s : State) : Out :=
  intFire1 (.vaddk m x y) m x y (fun w k a => laneAdd w a k) s

def execVmulk (m : BitVec 2) (x y : Target) (s : State) : Out :=
  intFire1 (.vmulk m x y) m x y (fun w k a => laneMul w a k) s

def execVmad (m : BitVec 2) (x y : Target) (s : State) : Out :=
  fabMap (.vmad m x y) x y (fun _ t => t.data (map3 (intWidth m) (fun a b c => laneAdd (intWidth m) (laneMul (intWidth m) a b) c) t.l.payload t.rp t.pp)) s

def execVsgadd (m : BitVec 2) (x y : Target) (s : State) : Out :=
  fabMap (.vsgadd m x y) x y (fun _ t => t.data (map3 (intWidth m) (laneSgadd (intWidth m)) t.l.payload t.rp t.pp)) s

def execVdot4 (x y : Target) (s : State) : Out :=
  fabMap (.vdot4 x y) x y (fun k t => t.data (map2 32 (dot4 k) t.l.payload t.rp)) s

/-! ### Floating-point lanes (R137) -/

/-- A firing on floating-point lanes of two operands, flushed as constant bit 0 says (R70). -/
def fpFire (i : Instr) (m : BitVec 2) (x y : Target) (op : FFmt → Nat → Nat → Nat) (s : State) : Out :=
  fabMap i x y (fun k t => t.data (map2 (fpFormat m).width ((fpFormat m).on2 (bitAt k 0) (op (fpFormat m))) t.l.payload t.rp)) s

/-- A firing on floating-point lanes of one operand. -/
def fpFire1 (i : Instr) (m : BitVec 2) (x y : Target) (op : FFmt → Nat → Nat) (s : State) : Out :=
  fabMap i x y (fun k t => t.data (map1 (fpFormat m).width ((fpFormat m).on1 (bitAt k 0) (op (fpFormat m))) t.l.payload)) s

/-- A firing with the constant operand of FADDK and FMULK. -/
def fpFireK (i : Instr) (m : BitVec 2) (x y : Target) (op : FFmt → Nat → Nat → Nat) (s : State) : Out :=
  fabMap i x y (fun k t => t.data (map1 (fpFormat m).width
    (fun a => (fpFormat m).on2 (fpConst m k).2 (op (fpFormat m)) a (fpConst m k).1) t.l.payload)) s

/-- A firing that only reads sign bits; nothing is flushed. -/
def fpFireSign (i : Instr) (m : BitVec 2) (x y : Target) (op : FFmt → Nat → Nat) (s : State) : Out :=
  fabMap i x y (fun _ t => t.data (map1 (fpFormat m).width (op (fpFormat m)) t.l.payload)) s

def execFadd (m : BitVec 2) (x y : Target) (s : State) : Out :=
  fpFire (.fadd m x y) m x y FFmt.add s

def execFsub (m : BitVec 2) (x y : Target) (s : State) : Out :=
  fpFire (.fsub m x y) m x y FFmt.sub s

def execFmul (m : BitVec 2) (x y : Target) (s : State) : Out :=
  fpFire (.fmul m x y) m x y FFmt.mul s

def execFmax (m : BitVec 2) (x y : Target) (s : State) : Out :=
  fpFire (.fmax m x y) m x y FFmt.max s

def execFmin (m : BitVec 2) (x y : Target) (s : State) : Out :=
  fpFire (.fmin m x y) m x y FFmt.min s

def execFrcp (m : BitVec 2) (x y : Target) (s : State) : Out :=
  fpFire1 (.frcp m x y) m x y FFmt.rcp s

def execFrsq (m : BitVec 2) (x y : Target) (s : State) : Out :=
  fpFire1 (.frsq m x y) m x y FFmt.rsq s

def execFexp2 (m : BitVec 2) (x y : Target) (s : State) : Out :=
  fpFire1 (.fexp2 m x y) m x y FFmt.exp2 s

def execFlog2 (m : BitVec 2) (x y : Target) (s : State) : Out :=
  fpFire1 (.flog2 m x y) m x y FFmt.log2 s

def execFaddk (m : BitVec 2) (x y : Target) (s : State) : Out :=
  fpFireK (.faddk m x y) m x y FFmt.add s

def execFmulk (m : BitVec 2) (x y : Target) (s : State) : Out :=
  fpFireK (.fmulk m x y) m x y FFmt.mul s

def execFabs (m : BitVec 2) (x y : Target) (s : State) : Out :=
  fpFireSign (.fabs m x y) m x y FFmt.abs s

def execFneg (m : BitVec 2) (x y : Target) (s : State) : Out :=
  fpFireSign (.fneg m x y) m x y FFmt.neg s

def execFma (m : BitVec 2) (x y : Target) (s : State) : Out :=
  fabMap (.fma m x y) x y (fun k t => t.data (map3 (fpFormat m).width
    ((fpFormat m).on3 (bitAt k 0) (fpFormat m).fma) t.l.payload t.rp t.pp)) s

def execFmac (m : BitVec 2) (x y : Target) (s : State) : Out :=
  fabMap (.fmac m x y) x y (fun k t => t.data (fmacPayload m k t.l.payload t.rp t.pp)) s

/-! ### Conversions and bytes (R138, R139, R367) -/

def execCvt (x y : Target) (s : State) : Out :=
  fabMap (.cvt x y) x y (fun k t =>
    match cvtPayload k t.l.payload with
    | some p => t.data p
    | none => t.fail 0x0A 0) s

def execBperm (x y : Target) (s : State) : Out :=
  fabMap (.bperm x y) x y (fun _ t => t.data (bpermPayload t.l.payload t.rp)) s

/-- An illegal byte marks the token TERNCODE; its other digits stay. -/
def execB3dec (x y : Target) (s : State) : Out :=
  fabMap (.b3dec x y) x y (fun k t =>
    match b3decPayload k t.l.payload with
    | (p, false) => t.data p
    | (p, true) => t.fail 0x05 p) s

def execNibx (m : BitVec 1) (x y : Target) (s : State) : Out :=
  fabMap (.nibx m x y) x y (fun _ t => t.data (nibxPayload (m == 1) t.l.payload)) s

def execPack (x y : Target) (s : State) : Out :=
  fabMap (.pack x y) x y (fun k t => t.data (packPayload k t.l.payload t.rp)) s

def execUnpk (x y : Target) (s : State) : Out :=
  fabMap (.unpk x y) x y (fun k t => t.data (unpkPayload k t.l.payload)) s

/-! ### Compares, selects and gates (R134, R140) -/

/-- VCMP sets the predicate bit itself; that of an error result is not stated: a free value. -/
def execVcmp (x y : Target) (s : State) : Out :=
  fabFire (.vcmp x y) (fun s r t =>
    match t.list.find? Token.isError with
    | some e =>
      let k := (t.fail e.tag.cause 0).withPred (openPred r.num t.list)
      (s, [(x, k), (y, k)])
    | none =>
      match vcmpPayload r.konst.toNat t.l.payload t.rp with
      | (p, b) => let k := (t.data p).withPred b; (s, [(x, k), (y, k)])) s

/-- The lanes of the predicate operand that choose l. -/
def selLanes (k : Nat) (p : Payload) : List Bool := (lanes (constWidth (bitSpan k 1 2)) p).map (fun z => z ≠ 0)

/-- Whether SEL selects its left and its right input. -/
def selUses (k : Nat) (t : Taken) : Bool × Bool :=
  if bitAt k 0 then ((selLanes k t.pp).any id, (selLanes k t.pp).any (fun c => !c)) else (t.pred, !t.pred)

def selPayload (k : Nat) (t : Taken) : Payload :=
  if bitAt k 0 then
    map3 (constWidth (bitSpan k 1 2)) (fun a b z => if z ≠ 0 then a else b) t.l.payload t.rp t.pp
  else if t.pred then t.l.payload else t.rp

/-- The inputs whose errors SEL propagates, in order. -/
def selUsed (k : Nat) (t : Taken) : List Token :=
  (if (selUses k t).1 then [t.l] else []) ++ (if (selUses k t).2 then t.r.toList else []) ++ t.p.toList

/-- The error tokens SEL discards. -/
def selDropped (k : Nat) (t : Taken) : List Token :=
  ((if (selUses k t).1 then [] else [t.l]) ++ (if (selUses k t).2 then [] else t.r.toList)).filter Token.isError

/-- SEL propagates an error only from its predicate or a selected input; another is discarded and counted. -/
def execSel (x y : Target) (s : State) : Out :=
  fabFire (.sel x y) (fun s r t =>
    let k := r.konst.toNat
    let out := match (selUsed k t).find? Token.isError with
      | some e => t.fail e.tag.cause 0
      | none => t.data (selPayload k t)
    ((selDropped k t).foldl (fun s e => s.slotError r.num e) s, [(x, out), (y, out)])) s

/-- STEER: where the predicate is an error the result goes to target A only. -/
def execSteer (x y : Target) (s : State) : Out :=
  fabFire (.steer x y) (fun s _ t =>
    let out := t.result (fun t => t.keep t.l.payload)
    (s, [(if t.predError || t.pred then x else y, out)])) s

/-- GATE: l goes on where the predicate is 1, and is discarded where it is 0. -/
def execGate (x y : Target) (s : State) : Out :=
  fabFire (.gate x y) (fun s _ t =>
    let out := t.result (fun t => t.keep t.l.payload)
    (s, if t.predError then [(x, out)] else if t.pred then [(x, out), (y, out)] else [])) s

/-- MERGE takes the first-arrived token at either position and passes it, an error with a zero payload. -/
def execMerge (x y : Target) (s : State) : Out :=
  match s.firingSlot (.merge x y) with
  | none => .next s
  | some (im, r) =>
    match s.core.set.fab.pickMerge r.num with
    | none => .next s
    | some (at0, t) =>
      when (s.core.set.mayFire im s.cycle r) s (fun s =>
        let k := (⟨t, none, none⟩ : Taken).result (fun t => t.keep t.l.payload)
        ((s.mapFab (fun f => Fabric.markFired { f with held := removeHeld at0 t.k f.held } r.num s.cycle)).emit r.num 1
          [(x, k), (y, k)]).fired r.num t (some k))

def execMasksel (x y : Target) (s : State) : Out :=
  fabMap (.masksel x y) x y (fun _ t => t.data (maskselPayload t.l.payload t.rp)) s

def execPnot (x y : Target) (s : State) : Out :=
  fabFire (.pnot x y) (fun s _ t =>
    let k := (t.result (fun t => t.data t.l.payload)).withPred (!t.l.tag.pred)
    (s, [(x, k), (y, k)])) s

/-! ### Lane opcodes (R141) -/

def execLsum (x y : Target) (s : State) : Out :=
  fabMap (.lsum x y) x y (fun k t => t.data (lsumPayload k t.l.payload)) s

def execLmax (x y : Target) (s : State) : Out :=
  fabMap (.lmax x y) x y (fun k t => t.data (lmaxPayload k t.l.payload)) s

def execLargmax (x y : Target) (s : State) : Out :=
  fabMap (.largmax x y) x y (fun k t => t.data (largmaxPayload k t.l.payload)) s

def execLbcast (x y : Target) (s : State) : Out :=
  fabMap (.lbcast x y) x y (fun k t => t.data (lbcastPayload k t.l.payload)) s

def execLrot (x y : Target) (s : State) : Out :=
  fabMap (.lrot x y) x y (fun k t => t.data (lrotPayload k t.l.payload)) s

def execLscan (x y : Target) (s : State) : Out :=
  fabMap (.lscan x y) x y (fun k t => t.data (lscanPayload k t.l.payload)) s

def execOnehot (x y : Target) (s : State) : Out :=
  fabMap (.onehot x y) x y (fun k t => t.data (onehotPayload k t.l.payload)) s

def execLextr (x y : Target) (s : State) : Out :=
  fabMap (.lextr x y) x y (fun k t => t.data (lextrPayload k t.l.payload t.rp)) s

/-! ### State and plumbing (R142, R148, R149, R366) -/

/-- The step count of R146, saturating: data tokens that the lowest-numbered SREG has stored. -/
def Rounds.step (r : Rounds) (k : Nat) : Rounds :=
  let e := r.at k
  r.put k { e with steps := if e.steps = 0xFFFFFFFF then e.steps else e.steps + 1 }

/-- An arriving token is stored, in a step of its own that takes no turn of the element (R148). -/
def execSreg (x y : Target) (s : State) : Out :=
  match s.firingSlot (.sreg x y) with
  | none => .next s
  | some (im, r) =>
    match (s.core.set.fab.heldAt (slotTarget r.num 0)).head? with
    | none => .next s
    | some t =>
      let lowest := (im.sregSlots.head?.map (fun q => q.num)) = some r.num
      .next (s.mapSet (fun c => { c with
        fab := { c.fab with
          held := removeHeld (slotTarget r.num 0) t.k c.fab.held
          sregs := insert (r.num, t.k) ((c.fab.sregAt r.num t.k r.konst).store t) c.fab.sregs }
        rounds := if t.isData && lowest then c.rounds.step t.k else c.rounds }))

/-- The token of a held value. Its predicate bit is not stated: a free value, which depends on the slot and the value, as
a holder restored from an image has no more (R82). -/
def SregEntry.token (e : SregEntry) (slot k : Nat) : Token :=
  (Token.plain k e.held false).withPred (openPred slot [Token.plain 0 e.held false])

/-- The token that an SREG sends first for a stitch, where what it owes may leave. DESIGN CHOICE (assumption 130): a token
of kind 01, 10 or 11 waits behind a held value that became due before it and cannot leave. -/
def CSet.sregSends (c : CSet) (e : SregEntry) (slot k : Nat) : Option (Token × List Due) :=
  match e.due.filter (fun _ => e.due.head?.any (c.maySend k)) with
  | [] => none
  | .held :: rest => some (e.token slot k, rest)
  | .pass t :: rest => some (t, rest)

/-- A slot cycle's emission by an SREG (R121, R145, R148). -/
def execSregEmission (slot k : Nat) (s : State) : Out :=
  match s.core.set.fab.running with
  | none => .next s
  | some im =>
    match im.slot slot, lookup (slot, k) s.core.set.fab.sregs with
    | some r, some e =>
      match s.core.set.sregSends e slot k with
      | some (t, rest) =>
        when (s.core.fabricRuns s.cycle && s.core.set.slotCycle s.cycle k && (r.instr.map isSreg).getD false
            && !s.core.set.fab.fired.contains (elementOf slot)
            && s.core.set.fab.slotRoom r) s (fun s =>
          ((s.mapFab (fun f => Fabric.markFired
              { f with sregs := insert (slot, k) { e with due := rest } f.sregs } slot s.cycle)).emit slot 1
            (((r.instr.map fabTargets).getD []).map (fun g => (g, t)))).fired slot t (some t))
      | none => .next s
    | _, _ => .next s

def Fabric.count0 (f : Fabric) (slot k : Nat) : BitVec 32 := (lookup (slot, k) f.counts).getD 0
def Fabric.setCount (f : Fabric) (slot k : Nat) (v : BitVec 32) : Fabric := { f with counts := insert (slot, k) v f.counts }

/-- The next count of CNT: modulo K[15:0], 2^32 where that is 0. -/
def cntNext (k : Nat) (v : BitVec 32) : BitVec 32 := if k % 65536 = 0 then v + 1 else BitVec.ofNat 32 ((v.toNat + 1) % (k % 65536))

def execCnt (x y : Target) (s : State) : Out :=
  fabFire (.cnt x y) (fun s r t =>
    let v := s.core.set.fab.count0 r.num t.l.k
    let k := t.result (fun t => if t.l.isData then t.data (withLane0 t.l.payload v.toNat) else t.l)
    (if t.l.isData then s.mapFab (fun f => f.setCount r.num t.l.k (cntNext r.konst.toNat v)) else s, [(x, k), (y, k)])) s

/-- The end of reduction that an EOR slot makes after its N-th data token. Its predicate bit is not stated: a free value,
which depends on that token (R82). -/
def eorToken (slot : Nat) (t : Token) : Token :=
  ⟨⟨t.tag.stitch, .endOfReduction, openPred slot [t], t.tag.last, 0⟩, 0⟩

/-- EOR's passing of a token: the N-th data token leaves with last 0, and the kind 01 token that then fires carries its
last bit. -/
def eorPass (x y : Target) (s : State) : Out :=
  fabFire (.eor x y) (fun s r t =>
    let n := if r.konst.toNat % 65536 = 0 then 65536 else r.konst.toNat % 65536
    let v := (s.core.set.fab.count0 r.num t.l.k).toNat + 1
    let full := t.l.isData && decide (v ≥ n)
    let k := t.result (fun t => t.keep t.l.payload)
    let out : Token := if full then { k with tag := { k.tag with last := false } } else k
    let s := if t.l.isData then
        s.mapFab (fun f =>
          let f := f.setCount r.num t.l.k (if full then 0 else BitVec.ofNat 32 v)
          if full then { f with eorDue := f.eorDue ++ [(r.num, eorToken r.num t.l)] } else f)
      else s
    (s, [(x, out), (y, out)])) s

/-- EOR. The further firing comes first. -/
def execEor (x y : Target) (s : State) : Out :=
  match s.firingSlot (.eor x y) with
  | none => .next s
  | some (im, r) =>
    match s.core.set.fab.eorDue.find? (fun e => e.1 == r.num) with
    | none => eorPass x y s
    | some e =>
      when (s.core.set.mayFire im s.cycle r) s (fun s =>
        ((s.mapFab (fun f => Fabric.markFired { f with eorDue := f.eorDue.erase e } r.num s.cycle)).emit r.num 1
          [(x, e.2), (y, e.2)]).fired r.num e.2 (some e.2))

def execOrdj (x y : Target) (s : State) : Out := fabMap (.ordj x y) x y (fun _ t => t.keep t.l.payload) s
def execDup (x y : Target) (s : State) : Out := fabMap (.dup x y) x y (fun _ t => t.keep t.l.payload) s
def execDelay (x y : Target) (s : State) : Out := fabMap (.delay x y) x y (fun _ t => t.keep t.l.payload) s

/-- The initial token of a CONST slot without an input; its predicate bit is not stated: a free value. -/
def constToken (r : SlotRec) (k : Nat) : Token :=
  (Token.plain k (constPayload r.konst.toNat) false).withPred (openPred r.num [])

/-- CONST without an input: the initial token of a stitch at its slot cycle (R121, R149). -/
def constInitial (im : Image) (r : SlotRec) (x y : Target) (s : State) : Out :=
  let k := s.cycle % im.P
  when (s.core.set.fab.consts.contains (r.num, k) && s.core.set.maySend k .held
      && !s.core.set.fab.fired.contains (elementOf r.num) && s.core.set.fab.roomFor (.const x y)) s (fun s =>
    let t := constToken r k
    ((s.mapFab (fun f => Fabric.markFired { f with consts := f.consts.erase (r.num, k) } r.num s.cycle)).emit r.num 1
      [(x, t), (y, t)]).fired r.num t (some t))

def execConst (x y : Target) (s : State) : Out :=
  match s.firingSlot (.const x y) with
  | none => .next s
  | some (im, r) =>
    if (im.reads r).isEmpty then constInitial im r x y s
    else fabMap (.const x y) x y (fun k t => t.keep (constPayload k)) s

/-- SINK counts and logs an error token as it consumes it, and forwards error and last tokens (R366). -/
def execSink (x y : Target) (s : State) : Out :=
  fabFire (.sink x y) (fun s r t =>
    let k := t.result (fun t => t.keep t.l.payload)
    (if t.l.isError then s.slotError r.num t.l else s,
      if t.l.isError || t.l.tag.last then [(x, k), (y, k)] else [])) s

/-- STITCH takes the new stitch from its constant or from lane 0 of r, modulo P. -/
def execStitch (x y : Target) (s : State) : Out :=
  fabFire (.stitch x y) (fun s r t =>
    let P := (s.core.set.fab.running.map (fun im => im.P)).getD 1
    let n := (if bitAt r.konst.toNat 6 then lane32 t.rp 0 else r.konst.toNat % 64) % P
    let k := t.result (fun t => t.keep t.l.payload)
    let k : Token := { k with tag := { k.tag with stitch := BitVec.ofNat 6 n } }
    (s, [(x, k), (y, k)])) s

/-- IDX marks a token with a lane out of bounds and keeps its payload; the predicate bit says whether all are in. -/
def execIdx (x y : Target) (s : State) : Out :=
  fabMap (.idx x y) x y (fun k t =>
    if inBounds k t.l.payload then (t.data t.l.payload).withPred true
    else (t.fail 0x01 t.l.payload).withPred false) s

end Sys2Proof.Machine
end

