-- ==== Sys2Proof/Machine/Image.lean ====
section
/-!
DEFINITION. Configuration images: their layout, the checks on each record and parameter block by itself, and the
parameters a block holds (R39 to R43, R169, R170, R193, R194, R198, R203, R223, R272, R286, R365, R371).
-/

namespace Sys2Proof.Machine

/-! ### Rejections (R43) -/

/-- A condition of R43: the offset of the record in the image, the sub-cause, the slot, and, for a parameter block, the
offset of the field in the block (R117). -/
structure Bad where
  off   : Nat
  sub   : Nat
  slot  : Nat
  field : Nat
  deriving DecidableEq, Repr

def noSlot : Nat := 0x3FF

/-- The TRAPVAL of a rejection. -/
def Bad.word (b : Bad) : Word := BitVec.ofNat 64 (b.sub + b.slot * 256 + b.off * 2 ^ 32)

/-- The TRAPVAL of a rejected block: no slot, and the offset in the block (R117). -/
def Bad.blockWord (b : Bad) : Word := BitVec.ofNat 64 (b.sub + noSlot * 256 + b.field * 2 ^ 32)

/-- The lower of two conditions: the lower offset, then the lower sub-cause. -/
def Bad.before (key : Bad → Nat) (a b : Bad) : Bool := decide (key a < key b) || (key a == key b && decide (a.sub ≤ b.sub))

/-- The condition reported. -/
def firstBad (key : Bad → Nat) : List Bad → Option Bad
  | [] => none
  | b :: rest =>
    match firstBad key rest with
    | none => some b
    | some c => some (if b.before key c then b else c)

def subHeader : Nat := 0x01
def subRound : Nat := 0x02
def subLayout : Nat := 0x03
def subOpcode : Nat := 0x04
def subMod : Nat := 0x05
def subTarget : Nat := 0x06
def subConst : Nat := 0x07
def subSwitch : Nat := 0x08
def subParam : Nat := 0x09
def subMap : Nat := 0x0A
def subRead : Nat := 0x0B
def subNoinit : Nat := 0x10
def subBounds : Nat := 0x11
def subBalance : Nat := 0x12

/-! ### The header (R40, R41) -/

/-- A condition of the header. -/
def hdr (c : Bool) (off sub : Nat) : List Bad := if c then [⟨off, sub, noSlot, 0⟩] else []

def up8 (n : Nat) : Nat := (n + 7) / 8 * 8

/-- The places of the sections that R41 gives. -/
structure Layout where
  slots : Nat
  words : Nat
  nodes : Nat
  ns    : Nat
  nw    : Nat
  nn    : Nat
  nm    : Nat
  deriving DecidableEq, Repr

def layoutOf (bs : List Byte) : Layout where
  slots := 0x40
  words := up8 (0x40 + 12 * field bs 0x10 2)
  nodes := up8 (up8 (0x40 + 12 * field bs 0x10 2) + 2 * field bs 0x12 2)
  ns := field bs 0x10 2
  nw := field bs 0x12 2
  nn := field bs 0x14 2
  nm := field bs 0x16 2

/-- The conditions of the header that need nothing after it. -/
def headerBads (bs : List Byte) : List Bad :=
  let l := layoutOf bs
  hdr (field bs 0 4 ≠ 0x4746434B) 0x00 subHeader ++ hdr (field bs 4 2 ≠ 1) 0x04 subHeader
    ++ hdr (field bs 6 1 = 0 || field bs 6 1 > 64) 0x06 subRound ++ hdr (field bs 7 1 ≠ 0) 0x07 subHeader
    ++ hdr (l.ns > 512) 0x10 subLayout ++ hdr (l.nw > 1024) 0x12 subLayout ++ hdr (l.nn > 29) 0x14 subLayout
    ++ hdr (l.nm ≠ 0 && l.nm ≠ l.ns) 0x16 subMap ++ hdr (field bs 0x18 4 ≠ l.slots) 0x18 subLayout
    ++ hdr (field bs 0x1C 4 ≠ l.words) 0x1C subLayout ++ hdr (field bs 0x20 4 ≠ l.nodes) 0x20 subLayout
    ++ hdr ((bs.drop 0x2C).take 20 |>.any (fun b => b ≠ 0)) 0x2C subHeader

/-- The node parameter blocks from an offset on: each one's offset and length, up to the first whose length is no
multiple of 8 or below 8; where they end, and whether all have been found. -/
def walkBlocks (bs : List Byte) : Nat → Nat → List (Nat × Nat) × Nat × Bool
  | 0, off => ([], off, true)
  | n + 1, off =>
    let len := field bs (off + 2) 2
    if len < 8 ∨ len % 8 ≠ 0 then ([], off, false)
    else match walkBlocks bs n (off + len) with
      | (l, last) => ((off, len) :: l, last)

/-- The bytes of a gap between sections must be zero. R43 gives padding no offset of its own; DESIGN CHOICE (assumption
110): that of the first byte that is not zero. -/
def padBads (bs : List Byte) (lo hi : Nat) : List Bad :=
  match (List.range (hi - lo)).find? (fun i => (bs.getD (lo + i) 0) ≠ 0) with
  | some i => [⟨lo + i, subLayout, noSlot, 0⟩]
  | none => []

/-! ### Slot records, switch words and map entries (R38, R39, R42) -/

/-- The number that TRAPVAL gives a slot record. DESIGN CHOICE (assumption 110): 0x3FF for a number above 511, which
names no slot, though the field could hold one up to 1022. -/
def slotNo (n : Nat) : Nat := if n < 512 then n else noSlot

/-- Targets that no image may hold by themselves: a reserved one, A none with B not none, both none but on SINK. -/
def targetsBad (i : Instr) : Bool :=
  match fabTargets i with
  | [x, y] =>
    placeOf x == .reserved || placeOf y == .reserved || (x == noTarget && (y != noTarget || !isSink i))
  | _ => false

/-- The conditions of one slot record at an offset, `prev` being the number of the record before it. DESIGN CHOICE
(assumption 110): a number above 511, to which R43 gives no sub-cause, is LAYOUT; and a record of the empty word with flag
bit 0 clear and a constant that is not zero is an empty slot with a constant (OPCODE) too, not CONST alone. -/
def slotBads (off : Nat) (prev : Option Nat) (num flags word konst : Nat) : List Bad :=
  let bad (c : Bool) (sub : Nat) : List Bad := if c then [⟨off, sub, slotNo num, 0⟩] else []
  bad (num > 511 || (match prev with | some p => decide (num ≤ p) | none => false)) subLayout
    ++ bad (flags / 2 ≠ 0 || (flags % 2 = 0 && konst ≠ 0)) subConst
    ++ (if word / 2 ^ 24 = 0xFF then bad (word ≠ 0xFF000000 || flags % 2 = 1 || konst ≠ 0) subOpcode
        else match decodeFabric (BitVec.ofNat 32 word) with
          | .error .rejectedMod => bad true subMod
          | .error _ => bad true subOpcode
          | .ok i => bad (targetsBad i) subTarget ++ bad (badConst i konst) subConst)

/-- The slot records: their conditions and what they hold. -/
def slotRecords (bs : List Byte) : Nat → Nat → Option Nat → List Bad × List (Nat × SlotRec)
  | 0, _, _ => ([], [])
  | n + 1, off, prev =>
    let num := field bs off 2
    let rest := slotRecords bs n (off + 12) (some num)
    (slotBads off prev num (field bs (off + 2) 2) (field bs (off + 4) 4) (field bs (off + 8) 4) ++ rest.1,
      (off, ⟨num, BitVec.ofNat 32 (field bs (off + 4) 4), BitVec.ofNat 32 (field bs (off + 8) 4)⟩) :: rest.2)

/-- A switch word's fields (R39). -/
def swBox (w : BitVec 16) : Nat := w.toNat / 4096
def swOut (w : BitVec 16) : Nat := w.toNat / 256 % 16
def swIn (w : BitVec 16) : Nat := w.toNat / 16 % 16
def swLane (w : BitVec 16) : Nat := w.toNat / 4 % 4
def swOn (w : BitVec 16) : Bool := w.getLsbD 1
def swReg (w : BitVec 16) : Nat := w.toNat % 2

/-- Two enabled words on one box, output port and lane. -/
def swClash (a b : BitVec 16) : Bool :=
  swOn a && swOn b && swBox a == swBox b && swOut a == swOut b && swLane a == swLane b

def switchWords (bs : List Byte) : Nat → Nat → List (BitVec 16) → List Bad × List (BitVec 16)
  | 0, _, _ => ([], [])
  | n + 1, off, seen =>
    let w := BitVec.ofNat 16 (field bs off 2)
    let rest := switchWords bs n (off + 2) (w :: seen)
    (hdr ((!swOn w && w ≠ 0) || seen.any (swClash w)) off subSwitch ++ rest.1, w :: rest.2)

def mapEntries (bs : List Byte) (slots : List (Nat × SlotRec)) : Nat → Nat → List Bad × List MapEntry
  | 0, _ => ([], [])
  | n + 1, off =>
    let num := (slots.head?.map (fun r => slotNo r.2.num)).getD noSlot
    let rest := mapEntries bs slots.tail n (off + 8)
    ((if field bs (off + 4) 1 > 63 || field bs (off + 5) 3 ≠ 0 then [⟨off, subMap, num, 0⟩] else []) ++ rest.1,
      ⟨BitVec.ofNat 32 (field bs off 4), BitVec.ofNat 8 (field bs (off + 4) 1)⟩ :: rest.2)

/-! ### Parameter blocks -/

/-- The block length of a class (R169, R193, R198, R203, R272, R286). -/
def blockLen (id : Nat) : Option Nat :=
  if id = mxId then some 80
  else if 32 ≤ id ∧ id < 40 then some 24
  else if id = gpId then some 80
  else if 96 ≤ id ∧ id < 112 then some 64
  else if 128 ≤ id ∧ id < 130 then some 16
  else if id = smId then some 16
  else none

/-- A field of a block whose body begins at 8. -/
def bad (c : Bool) (field sub : Nat) : List Bad := if c then [⟨0, sub, noSlot, field⟩] else []

def targetAt (bs : List Byte) (off : Nat) : Target := BitVec.ofNat 11 (field bs off 2)

/-- A target field of a block: 16 bits that hold one R36 allows; `need` says that none is refused. -/
def blockTarget (bs : List Byte) (off : Nat) (need : Bool) : List Bad :=
  bad (field bs off 2 ≥ 2048 || placeOf (targetAt bs off) == .reserved || (need && targetAt bs off == noTarget)) off
    subTarget

def afmtOk (n : Nat) : Bool := n ≤ 3 || n == 5 || n == 6

/-- MX (R193, R194). -/
def mxBads (bs : List Byte) : List Bad :=
  bad (field bs 8 1 > 7) 8 subParam ++ bad (field bs 9 1 > 2) 9 subParam ++ bad (field bs 10 1 ≥ 32) 10 subParam
    ++ bad (!afmtOk (field bs 11 1)) 11 subParam ++ bad (field bs 12 4 ≠ 0) 12 subParam
    ++ ((List.range 32).flatMap (fun i =>
        bad (!afmtOk (field bs (16 + i) 1 % 16) || !afmtOk (field bs (16 + i) 1 / 16)) (16 + i) subParam))
    ++ bad (bitSpan (field bs 56 8) 16 4 ≥ 10) 56 subParam ++ bad (bitSpan (field bs 72 8) 16 4 ≥ 10) 72 subParam

def mxOf (bs : List Byte) : MxParams where
  an := field bs 8 1 % 8
  split := field bs 9 1
  ftzIn := bitAt (field bs 10 1) 0
  packed := bitAt (field bs 10 1) 1
  int := bitAt (field bs 10 1) 2
  planes := bitAt (field bs 10 1) 3
  tile := bitAt (field bs 10 1) 4
  afmt := BitVec.ofNat 4 (field bs 11 1)
  sfmt := BitVec.ofNat 256 (field bs 16 32)
  ta := BitVec.ofNat 64 (field bs 48 8)
  tao := BitVec.ofNat 64 (field bs 56 8)
  td := BitVec.ofNat 64 (field bs 64 8)
  tdo := BitVec.ofNat 64 (field bs 72 8)

/-- The parameters of an MX without a block. -/
def mxDefault : MxParams := ⟨0, 0, false, false, false, false, false, 0, 0, 0, 0, 0, 0⟩

/-- Accumulator nodes (R198). -/
def anBads (bs : List Byte) : List Bad :=
  blockTarget bs 8 true ++ blockTarget bs 10 false
    ++ bad (field bs 12 1 ≥ 4 || (bitAt (field bs 12 1) 1 && !bitAt (field bs 12 1) 0)) 12 subParam
    ++ bad (field bs 13 1 > 4) 13 subParam ++ bad (field bs 14 2 ≠ 0) 14 subParam

def anOf (bs : List Byte) : AnParams where
  out := targetAt bs 8
  out2 := targetAt bs 10
  int := bitAt (field bs 12 1) 0
  trap := bitAt (field bs 12 1) 1
  cols := if field bs 13 1 = 0 then 4 else field bs 13 1
  kblk := BitVec.ofNat 32 (field bs 16 4)
  gnode := BitVec.ofNat 32 (field bs 20 4)

/-- A gate-pipeline stage that the loader rejects by itself: a reserved code or bit, or CVT's formats. -/
def stageBad (word k : Nat) : Bool :=
  decide (word ≥ 14) || (word == 13 && (k % 16 != 0 || decide (bitSpan k 4 4 > 6)))

def stageWord (bs : List Byte) (base i : Nat) : Nat := field bs (base + 8 * i) 4
def stageConst (bs : List Byte) (base i : Nat) : Nat := field bs (base + 8 * i + 4) 4

/-- The stages that EXPQ8 or CVT wrongly stands before: those other than PASS after one. -/
def afterNarrow : Bool → List (Nat × Nat) → List Nat
  | _, [] => []
  | narrowed, (i, w) :: rest =>
    (if narrowed && w ≠ 0 then [i] else []) ++ afterNarrow (narrowed || w == 12 || w == 13) rest

/-- The stages of R203 that are rejected, in order. -/
def badStages (bs : List Byte) (base : Nat) : List Nat :=
  ((List.range 8).filter (fun i => stageBad (stageWord bs base i) (stageConst bs base i)))
    ++ afterNarrow false ((List.range 8).map (fun i => (i, stageWord bs base i)))

def stagesOf (bs : List Byte) (base : Nat) : List (BitVec 4 × BitVec 32) :=
  (List.range 8).map (fun i => (BitVec.ofNat 4 (stageWord bs base i), BitVec.ofNat 32 (stageConst bs base i)))

/-- The element bits of a program's results: 8 after EXPQ8, the destination's after CVT, else 32. -/
def stagesBits (l : List (BitVec 4 × BitVec 32)) : Nat :=
  match (l.filter (fun s => s.1 ≠ 0)).getLast? with
  | some (c, k) => if c = 12 then 8 else if c = 13 then fmtBits (bitSpan k.toNat 4 4) else 32
  | none => 32

def gpBads (bs : List Byte) : List Bad :=
  blockTarget bs 8 true ++ blockTarget bs 10 false ++ bad (field bs 12 1 ≥ 2) 12 subParam
    ++ bad (field bs 13 3 ≠ 0) 13 subParam ++ (badStages bs 16).flatMap (fun i => bad true (16 + 8 * i) subParam)
    ++ bad (bitAt (field bs 12 1) 0 && stagesBits (stagesOf bs 16) == 32) 12 subParam

def gpOf (bs : List Byte) : GpParams := ⟨targetAt bs 8, targetAt bs 10, bitAt (field bs 12 1) 0, stagesOf bs 16⟩

/-- The latency of one stage (R203). -/
def stageLatency (code : Nat) : Nat :=
  match code with
  | 1 | 2 | 3 | 4 => 1
  | 5 => 6 | 6 => 9 | 7 => 7 | 8 => 17 | 9 => 3 | 10 | 11 => 2 | 12 => 5 | 13 => 1
  | _ => 0

/-- A program's latency: the sum of its stages', at least 1. -/
def GpParams.latency (p : GpParams) : Nat := max 1 ((p.stages.map (fun s => stageLatency s.1.toNat)).foldl (· + ·) 0)

/-- A stage reads y, the token at gp.1. -/
def GpParams.readsY (p : GpParams) : Bool := p.stages.any (fun s => s.1 == 3 || s.1 == 4)

/-- Signed 32-bit strides. -/
def strideOf (d : BitVec 32) : Int := d.toInt
def countOf (n : BitVec 32) : Nat := if n = 0 then 1 else n.toNat

def MnParams.n (p : MnParams) (i : Nat) : Nat := countOf (p.counts.getD i 1)
def MnParams.d (p : MnParams) (i : Nat) : Int := strideOf (p.strides.getD i 0)

def mnOf (bs : List Byte) : MnParams where
  mode := field bs 8 1
  store := bitAt (field bs 9 1) 0
  free := bitAt (field bs 9 1) 1
  stream := bitAt (field bs 9 1) 2
  dat := targetAt bs 10
  done := targetAt bs 12
  fmt := BitVec.ofNat 4 (field bs 14 1)
  base := BitVec.ofNat 64 (field bs 16 8)
  counts := (List.range 4).map (fun i => BitVec.ofNat 32 (field bs (24 + 4 * i) 4))
  strides := (List.range 4).map (fun i => BitVec.ofNat 32 (field bs (40 + 4 * i) 4))
  modeWord := BitVec.ofNat 64 (field bs 56 8)

/-- The fields of the mode word (R169, R223). -/
def MnParams.sstr (p : MnParams) : Int := sint32 (wspan p.modeWord 0 32)
def MnParams.bound (p : MnParams) : Nat := wspan p.modeWord 0 32
def MnParams.istr (p : MnParams) : Nat := wspan p.modeWord 32 32
def MnParams.h (p : MnParams) : Nat := wspan p.modeWord 0 16
def MnParams.w (p : MnParams) : Nat := wspan p.modeWord 16 16
def MnParams.kh (p : MnParams) : Nat := wspan p.modeWord 32 4
def MnParams.kw (p : MnParams) : Nat := wspan p.modeWord 36 4
def MnParams.step (p : MnParams) : Nat := wspan p.modeWord 40 4
def MnParams.pad (p : MnParams) : Nat := wspan p.modeWord 44 4
def MnParams.pix (p : MnParams) : Nat := wspan p.modeWord 48 8
def MnParams.tpb (p : MnParams) : Nat := wspan p.modeWord 0 16
def MnParams.rpp (p : MnParams) : Nat := wspan p.modeWord 16 3 + 1

/-- A streaming walk that could go down (R178). -/
def MnParams.goesDown (p : MnParams) : Bool :=
  (List.range 4).any (fun j =>
    decide (p.d j < 0) ||
      (decide (j > 0) &&
        decide (p.d j < ((List.range j).map (fun i => ((p.n i : Int) - 1) * p.d i)).foldl (· + ·) 0)))

/-- The conditions of each mode. -/
def mnModeBads (bs : List Byte) (p : MnParams) : List Bad :=
  let mw := p.modeWord
  match p.mode with
  | 0 =>
    bad (p.base.toNat % 16 ≠ 0) 16 subParam
      ++ (List.range 4).flatMap (fun i => bad (p.d i % 16 ≠ 0) (40 + 4 * i) subParam)
      ++ bad (p.sstr % 16 ≠ 0 || wspan mw 32 32 ≠ 0) 56 subParam
      ++ bad (p.stream && p.goesDown) 9 subParam
  | 1 =>
    bad (p.base.toNat % 16 ≠ 0) 16 subParam
      ++ (List.range 4).flatMap (fun i => bad (p.d i % 16 ≠ 0) (40 + 4 * i) subParam)
      ++ bad (p.istr % 16 ≠ 0) 56 subParam ++ bad p.stream 9 subParam
  | 2 =>
    bad (p.store || p.stream) 9 subParam
      ++ bad (p.h = 0 || p.w = 0 || p.kh = 0 || p.kw = 0 || p.step = 0 || p.pix = 0 || p.kh * p.kw * p.pix > 128
          || wspan mw 56 8 ≠ 0 || p.h + 2 * p.pad < p.kh || p.w + 2 * p.pad < p.kw) 56 subParam
  | _ =>
    bad p.stream 9 subParam ++ bad (p.base ≠ 0) 16 subParam
      ++ (List.range 4).flatMap (fun i => bad (p.counts.getD i 0 ≠ 0) (24 + 4 * i) subParam)
      ++ (List.range 4).flatMap (fun i => bad (p.strides.getD i 0 ≠ 0) (40 + 4 * i) subParam)
      ++ bad (p.tpb = 0 || wspan mw 19 45 ≠ 0) 56 subParam
      ++ bad (field bs 14 1 = 7 || field bs 14 1 = 8 || (p.store && field bs 14 1 = 9)) 14 subParam

/-- Memory nodes (R169, R170, R178, R223, R365). -/
def mnBads (bs : List Byte) : List Bad :=
  if field bs 8 1 > 3 then bad true 8 subParam
  else
    bad (field bs 9 1 ≥ 8) 9 subParam ++ blockTarget bs 10 false ++ blockTarget bs 12 false
      ++ bad (field bs 14 1 ≥ 10) 14 subParam ++ bad (field bs 15 1 ≠ 0) 15 subParam ++ mnModeBads bs (mnOf bs)

/-- Network ports (R272). -/
def npBads (bs : List Byte) : List Bad :=
  blockTarget bs 8 true ++ bad (field bs 10 1 > 1) 10 subParam ++ bad (field bs 11 1 > 15) 11 subParam
    ++ bad (field bs 12 4 ≠ 0) 12 subParam

def npOf (bs : List Byte) : NpParams := ⟨targetAt bs 8, field bs 10 1, BitVec.ofNat 4 (field bs 11 1)⟩

/-- The composer (R286). -/
def smBads (bs : List Byte) : List Bad :=
  blockTarget bs 8 true
    ++ bad (field bs 10 1 ≥ 4 || (bitAt (field bs 10 1) 1 && !bitAt (field bs 10 1) 0)) 10 subParam
    ++ bad (field bs 11 5 ≠ 0) 11 subParam

def smOf (bs : List Byte) : SmParams := ⟨targetAt bs 8, bitAt (field bs 10 1) 0, bitAt (field bs 10 1) 1⟩

/-- What a block holds, by its identifier. -/
def nodeOf (id : Nat) (bs : List Byte) : NodeBlock :=
  if id = mxId then .mx (mxOf bs)
  else if id < 40 then .an (id - 32) (anOf bs)
  else if id = gpId then .gp (gpOf bs)
  else if id < 112 then .mn (id - 96) (mnOf bs)
  else if id < 130 then .np (id - 128) (npOf bs)
  else .sm (smOf bs)

def bodyBads (id : Nat) (bs : List Byte) : List Bad :=
  if id = mxId then mxBads bs
  else if id < 40 then anBads bs
  else if id = gpId then gpBads bs
  else if id < 112 then mnBads bs
  else if id < 130 then npBads bs
  else smBads bs

/-- The conditions of one block by itself. R43 names no sub-cause for a reserved word of its head that is not zero;
DESIGN CHOICE (assumption 110): PARAM. -/
def blockBads (bs : List Byte) : List Bad :=
  match blockLen (field bs 0 2) with
  | none => bad true 0 subParam
  | some n =>
    if field bs 2 2 ≠ n then bad true 2 subParam
    else bad (field bs 4 4 ≠ 0) 4 subParam ++ bodyBads (field bs 0 2) bs

/-- A block whose identifier is one of R42's and whose length is that of its class, so that its fields can be read. -/
def blockFits (b : List Byte) : Bool := blockLen (field b 0 2) == some (field b 2 2)

/-- The blocks of an image: their conditions, and what those hold whose fields can be read. -/
def blockRecords (bs : List Byte) : List (Nat × Nat) → Option Nat → List Bad × List (Nat × NodeBlock)
  | [], _ => ([], [])
  | (off, len) :: more, prev =>
    let b := (bs.drop off).take len
    let id := field b 0 2
    let own := (blockBads b).map (fun x => { x with off := off })
    let order := match prev with
      | some p => if id ≤ p then [(⟨off, subLayout, noSlot, 0⟩ : Bad)] else []
      | none => []
    let rest := blockRecords bs more (some id)
    (own ++ order ++ rest.1, if blockFits b then (off, nodeOf id b) :: rest.2 else rest.2)

/-! ### State holders (R155) -/

inductive Holder where
  | sreg (slot : Nat)
  | an (n : Nat)
  deriving DecidableEq, Repr

/-- A holder's key, byte count and number. -/
def Image.holderKey (im : Image) : Holder → Nat × Nat × Nat
  | .sreg n => ((im.gnode n).toNat, 128, n)
  | .an n => (((im.an n).map (fun p => p.gnode.toNat)).getD 0, 520, n)

def keyLe (a b : Nat × Nat × Nat) : Bool :=
  decide (a.1 < b.1) || (a.1 == b.1 && (decide (a.2.1 < b.2.1) || (a.2.1 == b.2.1 && decide (a.2.2 ≤ b.2.2))))

def Image.insertHolder (im : Image) (h : Holder) : List Holder → List Holder
  | [] => [h]
  | x :: rest => if keyLe (im.holderKey h) (im.holderKey x) then h :: x :: rest else x :: im.insertHolder h rest

/-- The state holders, in ascending key, then byte count, then number. -/
def Image.holders (im : Image) : List Holder :=
  ((im.sregSlots.map (fun r => Holder.sreg r.num)) ++ im.anNodes.map Holder.an).foldr im.insertHolder []

/-- The bytes of a state area: 64 + 136 n + 528 m (R155). -/
def Image.areaLen (im : Image) : Nat := 64 + 136 * im.sregSlots.length + 528 * im.anNodes.length

end Sys2Proof.Machine
end

