-- ==== Sys2Proof/Machine/Loader.lean ====
section
/-!
DEFINITION. The loader: the checks that join records, the routes, the feedback loops and the padding (R121, R124,
R126 to R128, R170, R194, R197, R370, R372), and the whole check of an image or of a store with a block replaced.
-/

namespace Sys2Proof.Machine

/-! ### Producers -/

/-- One target that a slot or node names: its record's offset, slot number and field, the vertex it leaves, the box and
input port it enters by, and the target. -/
structure Producer where
  off    : Nat
  slot   : Nat
  field  : Nat
  vertex : Nat
  box    : Nat
  port   : Nat
  tgt    : Target
  deriving DecidableEq, Repr

/-- The vertex of a node, beside the slots 0 to 511. -/
def nodeVertex (id : Nat) : Nat := 1024 + id

/-- An image with the offsets of its records. `vague` lists the nodes that may have a block which cannot be read. -/
structure Parsed where
  im     : Image
  slots  : List (Nat × SlotRec)
  nodes  : List (Nat × NodeBlock)
  vague  : List Nat
  deriving DecidableEq, Repr

def slotProducers (off : Nat) (r : SlotRec) : List Producer :=
  match r.targets with
  | [x, y] =>
    let port := 2 * (r.num / 16 % 2)
    [⟨off, r.num, 0, r.num, r.num / 32, port, x⟩, ⟨off, r.num, 0, r.num, r.num / 32, port + 1, y⟩]
  | _ => []

/-- The field of a block's i-th target. -/
def targetField (b : NodeBlock) (i : Nat) : Nat :=
  match b with
  | .mn _ _ => 10 + 2 * i
  | _ => 8 + 2 * i

/-- The box a node is joined to, and the input port its results enter by (R126). -/
def nodeBox (b : NodeBlock) : Nat × Nat :=
  match b with
  | .mx _ => (0, 6)
  | .an n _ => (1 + n, 6)
  | .gp _ => (9, 6)
  | .mn n _ => (n, 4)
  | .np n _ => (10 + n, 6)
  | .sm _ => (12, 6)

def blockProducers (off : Nat) (b : NodeBlock) : List Producer :=
  (List.zipIdx b.targets).map (fun t =>
    ⟨off, noSlot, targetField b t.2, nodeVertex b.id, (nodeBox b).1, (nodeBox b).2, t.1⟩)

/-- Every target named, in the order of the records; none is no target. -/
def Parsed.producers (p : Parsed) : List Producer :=
  ((p.slots.flatMap (fun r => slotProducers r.1 r.2)) ++ p.nodes.flatMap (fun b => blockProducers b.1 b.2)).filter
    (fun t => t.tgt ≠ noTarget)

/-- The inputs a memory node reads in its mode (R372). -/
def MnParams.takes (p : MnParams) (input : Nat) : Bool :=
  if input = 1 then p.store else !(p.store && p.mode == 0)

/-- A target leads to an input that something reads: a position its slot's opcode reads, or an input of a node that has
a block and reads it (R43, R169, R372). What an opcode that R38 does not define reads is not known. -/
def Image.accepts (im : Image) (t : Target) : Bool :=
  match placeOf t with
  | .slot n pos =>
    match im.slot n with
    | some r =>
      match r.form with
      | some i => (if isConst i then [0] else fabReads i r.konst.toNat).contains pos
      | none => !r.isEmpty
    | none => false
  | .mx _ => true
  | .an n _ => (im.an n).isSome
  | .gp _ => im.gp.isSome
  | .mn n input => match im.mn n with | some p => p.takes input | none => false
  | .np n => (im.np n).isSome
  | .sm => im.sm.isSome
  | .reserved => false
  | _ => true

/-- As `Image.accepts`; a node that may have a block which cannot be read may read the input, and so may a slot whose
record cannot be read. -/
def Parsed.accepts (p : Parsed) (allSlots : Bool) (t : Target) : Bool :=
  p.im.accepts t ||
    match placeOf t with
    | .slot n _ => !allSlots && (p.im.slot n).isNone
    | g => (nodeAt g).any p.vague.contains

/-- Targets that lead nowhere, and inputs with a producer before (R124). -/
def producerBads (accepts : Target → Bool) : List Target → List Producer → List Bad
  | _, [] => []
  | seen, p :: rest =>
    (if !accepts p.tgt || seen.contains p.tgt then [⟨p.off, subTarget, p.slot, p.field⟩] else [])
      ++ producerBads accepts (p.tgt :: seen) rest

/-! ### Checks of single nodes against the rest -/

/-- Two state-holder slots in one element (R121). That a CONST has no input is known only once the whole image is. -/
def holderBads (im : Image) (whole : Bool) : List Nat → List (Nat × SlotRec) → List Bad
  | _, [] => []
  | seen, (off, r) :: rest =>
    let holds := match r.form with
      | some i => isSreg i || (whole && isConst i && (im.reads r).isEmpty)
      | none => false
    if holds then
      (if seen.contains (elementOf' r.num) then [⟨off, subBalance, r.num, 0⟩] else [])
        ++ holderBads im whole (elementOf' r.num :: seen) rest
    else holderBads im whole seen rest
where
  elementOf' (n : Nat) : Nat := n / 16

/-- The addresses of an AFF walk: the lowest and the highest it reaches, relative to the base (R170). -/
def MnParams.walkSpan (p : MnParams) (P : Nat) : Int × Int :=
  let ends := ((P : Int) - 1) * p.sstr
  let step (i : Nat) : Int := ((p.n i : Int) - 1) * p.d i
  ((List.range 4).foldl (fun a i => a + min 0 (step i)) (min 0 ends),
    (List.range 4).foldl (fun a i => a + max 0 (step i)) (max 0 ends))

/-- A node's extent over every stitch below P: the first byte and the end; none when empty, or in PAGED mode. DESIGN CHOICE
(assumption 131): where the row pitch of WIN is negative, R170's formula would end before it begins, and the extent is from
the lowest row to the highest. -/
def MnParams.extent (p : MnParams) (P : Nat) : Option (Int × Int) :=
  let b : Int := p.base.toNat
  match p.mode with
  | 0 => some (b + (p.walkSpan P).1, b + (p.walkSpan P).2 + 128)
  | 1 => if p.bound = 0 then none else some (b, b + ((p.bound : Int) - 1) * p.istr + 128)
  | 2 =>
    let image : Int := ((p.h : Int) - 1) * p.d 0
    let shift : Int := ((P : Int) - 1) * p.d 1
    some (b + min 0 shift + min 0 image, b + max 0 shift + max 0 image + p.w * p.pix)
  | _ => none

/-- The extent lies in one part of R161, in the window part within the window the unit has. -/
def MnParams.inBounds (p : MnParams) (P : Nat) (sliced : Bool) : Bool :=
  match p.extent P with
  | none => true
  | some (lo, hi) =>
    decide (0 ≤ lo) &&
      (decide (hi ≤ windowBase) || (decide ((windowBase : Int) ≤ lo) && decide (hi ≤ windowBase + windowSize sliced)))

/-- Whether the MX stands in the configuration: it has a block, or a target names it. -/
def Image.usesMx (im : Image) : Bool :=
  im.mx.isSome || im.targets.any (fun t => match placeOf t with | .mx _ => true | _ => false)

def Image.mxParams (im : Image) : MxParams := im.mx.getD mxDefault

/-- The checks that join MX and its bound node (R194, R197), each with its sub-cause and its field in MX's block and in
the node's. -/
def mxChecks (im : Image) (sliced : Bool) : List (Bool × Nat × Nat × Nat) :=
  let p := im.mxParams
  match im.an p.an with
  | none => [(true, subTarget, 8, 0)]
  | some a =>
    let t := tileOf p.ta p.tao
    let d := tileOf p.td p.tdo
    [(p.int != a.int, subParam, 10, 12),
     (p.tile && !t.valid (windowSize sliced), subParam, 48, 0),
     (p.tile && decide (t.rows > im.P), subParam, 56, 0),
     (p.tile && p.tdo != 0 && !d.valid (windowSize sliced), subParam, 64, 0),
     (p.tile && decide (a.kblk.toNat > 1), subParam, 10, 16)]

/-- The offset at which MX stands: its block, or the first record that names it. -/
def Parsed.mxOff (p : Parsed) : Nat :=
  match p.nodes.find? (fun b => match b.2 with | .mx _ => true | _ => false) with
  | some b => b.1
  | none =>
    ((p.producers.find? (fun t => match placeOf t.tgt with | .mx _ => true | _ => false)).map (fun t => t.off)).getD 0

/-- The field of a block that names a target; of MX, that which names its bound node. -/
def NodeBlock.fieldOf (b : NodeBlock) (t : Target) : Nat :=
  match b with
  | .mx _ => 8
  | _ => targetField b (b.targets.findIdx (fun x => x == t))

def namesMx (t : Target) : Bool :=
  match placeOf t with
  | .mx _ => true
  | _ => false

/-- The field of a block that CFGPARM replaces by which a check on MX fails (R118): MX's own, that of its bound node, or
the target by which the block brings MX in. -/
def NodeBlock.mxField (b : NodeBlock) (bound : Nat) (c : Bool × Nat × Nat × Nat) : Nat :=
  let brings := ((b.targets.find? namesMx).map b.fieldOf).getD 0
  match b with
  | .mx _ => c.2.2.1
  | .an n _ => if n = bound ∧ c.2.2.2 ≠ 0 then c.2.2.2 else brings
  | _ => brings

/-- The checks on MX; `block` is the block that CFGPARM replaces, whose fields they then name. -/
def Parsed.mxBads (p : Parsed) (sliced : Bool) (block : Option NodeBlock) : List Bad :=
  if !p.im.usesMx || p.vague.contains mxId || p.vague.contains (anId p.im.mxParams.an) then []
  else
    (mxChecks p.im sliced).flatMap (fun c =>
        if c.1 then
          [match block with
           | some b => (⟨0, c.2.1, noSlot, b.mxField p.im.mxParams.an c⟩ : Bad)
           | none => ⟨p.mxOff, c.2.1, noSlot, 0⟩]
        else [])
      ++ (if p.im.mxParams.int then
            (p.producers.filter (fun t => placeOf t.tgt == .mx 1 && decide (t.vertex < 512))).map
              (fun t => (⟨if block.isSome then 0 else t.off, subTarget, t.slot, 10⟩ : Bad))
          else [])

def Parsed.boundBads (p : Parsed) (sliced : Bool) : List Bad :=
  p.nodes.flatMap (fun b =>
    match b.2 with
    | .mn _ m => if m.inBounds p.im.P sliced then [] else [(⟨b.1, subBounds, noSlot, 16⟩ : Bad)]
    | _ => [])

/-! ### Routes (R126, R127) -/

/-- The output ports of a target's box by which a token reaches it. -/
def outPorts : Place → List Nat
  | .slot n _ => if n / 16 % 2 = 0 then [0, 1] else [2, 3]
  | .mn _ _ => [4]
  | .seq _ => [5]
  | .sink _ => [7]
  | .none => []
  | .reserved => []
  | _ => [6]

/-- Where an output port to a neighbour leads: the box and its input port. -/
def nextBox (box out : Nat) : Nat × Nat :=
  match out with
  | 8 => ((box + 1) % 16, 10)
  | 9 => ((box + 1) % 16, 11)
  | 10 => ((box + 15) % 16, 8)
  | 11 => ((box + 15) % 16, 9)
  | 12 => ((box + 4) % 16, 14)
  | 13 => ((box + 4) % 16, 15)
  | 14 => ((box + 12) % 16, 12)
  | _ => ((box + 12) % 16, 13)

/-- A box crossed: the lane of its output port, the input port that feeds it, and the delay register on it. -/
structure Hop where
  lane : Nat
  port : Nat
  reg  : Nat
  deriving DecidableEq, Repr

/-- The number of a lane of a box's output port. -/
def laneId (box out lane : Nat) : Nat := box * 64 + out * 4 + lane

abbrev Route := List Hop

/-- One cycle for each box, and one for each registered word. -/
def routeCost (r : Route) : Nat := (r.map (fun h => 1 + h.reg)).foldl (· + ·) 0

/-- The cheaper of two routes. -/
def least (a b : Option Route) : Option Route :=
  match a, b with
  | none, b => b
  | a, none => a
  | some x, some y => if routeCost y < routeCost x then some y else some x

/-- The shortest chain of enabled words on a lane from an input port to a target. No chain passes an input port twice. -/
def chainRoute (words : List (BitVec 16)) (lane : Nat) (t : Place) : Nat → List (Nat × Nat) → Nat → Nat → Option Route
  | 0, _, _, _ => none
  | n + 1, seen, box, port =>
    if seen.contains (box, port) then none
    else
      (words.filter (fun w => swOn w && swBox w == box && swIn w == port && swLane w == lane)).foldl
        (fun best w =>
          let hop : Hop := ⟨laneId box (swOut w) lane, port, swReg w⟩
          if box = boxOf t ∧ (outPorts t).contains (swOut w) then least best (some [hop])
          else if swOut w ≥ 8 then
            match chainRoute words lane t n ((box, port) :: seen) (nextBox box (swOut w)).1 (nextBox box (swOut w)).2 with
            | some r => least best (some (hop :: r))
            | none => best
          else best) none

/-- A lane that no edge uses, or, to be shared, that the same input port feeds already: one lane joins one input port
(R39). -/
def laneFree (taken : List Hop) (share : Bool) (lane port : Nat) : Bool :=
  taken.all (fun h => h.lane != lane || (share && h.port == port))

/-- A partial route of a search: where it stands, and its hops, the last first. -/
structure Search where
  box  : Nat
  port : Nat
  back : Route
  deriving DecidableEq, Repr

/-- The shortest free route to a target, by search from the partial routes of one length (R127). -/
def freeRoute (taken : List Hop) (share : Bool) (lane : Nat) (t : Place) : Nat → List (Nat × Nat) → List Search → Option Route
  | 0, _, _ => none
  | n + 1, seen, front =>
    let hop (f : Search) (out : Nat) : Option Hop :=
      if laneFree taken share (laneId f.box out lane) f.port then some ⟨laneId f.box out lane, f.port, 0⟩ else none
    match front.findSome? (fun f =>
        if f.box = boxOf t then ((outPorts t).findSome? (hop f)).map (fun h => (h :: f.back).reverse) else none) with
    | some r => some r
    | none =>
      let next := front.flatMap (fun f => [8, 9, 10, 11, 12, 13, 14, 15].filterMap (fun out =>
        (hop f out).map (fun h => Search.mk (nextBox f.box out).1 (nextBox f.box out).2 (h :: f.back))))
      let fresh := next.foldl (fun (a : List (Nat × Nat) × List Search) f =>
        if a.1.contains (f.box, f.port) then a else ((f.box, f.port) :: a.1, a.2 ++ [f])) (seen, [])
      if fresh.2.isEmpty then none else freeRoute taken share lane t n fresh.1 fresh.2

/-- The words whose lanes may be used: those that no edge uses, or all. -/
def openWords (words : List (BitVec 16)) (taken : List Hop) (share : Bool) : List (BitVec 16) :=
  words.filter (fun w => share || taken.all (fun h => h.lane != laneId (swBox w) (swOut w) (swLane w)))

/-- The route of one edge: among the enabled words where the image has any, else on the lanes that are free. Of routes of
one length it takes that of the lowest lane; where `alone` says so, one that shares no lane with another edge before one
that does. -/
def edgeRoute (alone : Bool) (words : List (BitVec 16)) (taken : List Hop) (p : Producer) : Option Route :=
  let t := placeOf p.tgt
  (if alone then [false, true] else [true]).foldl (fun best share =>
    (List.range 4).foldl (fun best lane =>
      if words.isEmpty then
        (if (best.map routeCost) = some (boxesCrossed p.box (boxOf t)) then best
         else least best (freeRoute taken share lane t 65 [(p.box, p.port)] [⟨p.box, p.port, []⟩]))
      else least best (chainRoute (openWords words taken share) lane t 257 [] p.box p.port)) best) none

/-- The routes of edges one after the other, in the order of the records (assumption 110); none where an edge finds no
route. -/
def routesFrom (alone : Bool) (words : List (BitVec 16)) : List Hop → List Producer → List (Target × Option Route)
  | _, [] => []
  | taken, p :: rest =>
    let r := edgeRoute alone words taken p
    (p.tgt, r) :: routesFrom alone words (taken ++ r.getD []) rest

abbrev Routes := List (Target × Option Route)

/-- The routes of an image's edges. Lanes are shared no more than needed; where an edge then finds none free, they are shared
wherever one input port feeds them (assumption 110). -/
def Parsed.routes (p : Parsed) : Routes :=
  let rs := routesFrom true p.im.words [] p.producers
  if rs.all (fun r => r.2.isSome) then rs else routesFrom false p.im.words [] p.producers

/-- The route of an edge, where it has one. -/
def routeOf (rs : Routes) (t : Producer) : Option Route := (lookup t.tgt rs).bind id

/-- The latency of an edge's path before padding. -/
def pathCost (rs : Routes) (t : Producer) : Nat := ((routeOf rs t).map routeCost).getD 1

/-- The delay registers that the loader puts on box output lanes (R128), by lane. -/
abbrev Pads := List (Nat × Nat)

def padOn (pads : Pads) (lane : Nat) : Nat := (lookup lane pads).getD 0

/-- The delay registers that an edge passes. -/
def padAlong (pads : Pads) (r : Route) : Nat := (r.map (fun h => padOn pads h.lane)).foldl (· + ·) 0

/-- The lanes of a route, with the cycle in which each is crossed. -/
def laneTimes (pads : Pads) : Nat → Route → List (Nat × Nat)
  | _, [] => []
  | n, h :: rest => (h.lane, n) :: laneTimes pads (n + 1 + h.reg + padOn pads h.lane) rest

/-- An edge without a route: no chain of the enabled words leads to its target, or no lane is free (assumption 110). -/
def Parsed.switchBads (p : Parsed) (rs : Routes) : List Bad :=
  p.producers.flatMap (fun t =>
    if (routeOf rs t).isNone then [(⟨t.off, subSwitch, t.slot, t.field⟩ : Bad)] else [])

/-! ### Feedback loops (R128, R370) -/

/-- An edge between slots and nodes, with the latency of its source's opcode or node and of its path. -/
structure Edge where
  src  : Nat
  dst  : Nat
  tgt  : Target
  cost : Nat
  deriving DecidableEq, Repr

/-- The vertex a target leads to; sequencer ports and sink nodes are none. -/
def vertexOf (t : Target) : Option Nat :=
  match placeOf t with
  | .slot n _ => some n
  | .mx _ => some (nodeVertex mxId)
  | .an n _ => some (nodeVertex (anId n))
  | .gp _ => some (nodeVertex gpId)
  | .mn n _ => some (nodeVertex (mnId n))
  | .np n => some (nodeVertex (npId n))
  | .sm => some (nodeVertex smId)
  | _ => none

/-- The load bound of R190 by which R370 counts a memory node's request: from core to the home of an address. -/
def loadBound (pins : List Pin) (core pa : Nat) : Nat :=
  let byLevel (n : Nat) : Nat := if n ≤ 1 then 20 else if n = 2 then 36 else if n = 3 then 56 else 110
  match pins.find? (fun p => decide (p.page ≤ pa) && decide (pa < p.page + p.size)) with
  | some p =>
    if p.level < 4 ∧ switchOf p.level core = switchOf p.level p.core.toNat then byLevel p.level else 110
  | none =>
    match regionOf pa with
    | .stacked subtree _ => if core / 16 = subtree then 150 else if core / 64 = subtree / 4 then 180 else 260
    | .lpddr _ => 320
    | .scratch c _ =>
      if c = core then 4 else if c / 4 = core / 4 then 20 else if c / 16 = core / 16 then 36
      else if c / 64 = core / 64 then 56 else 110
    | .none => 320

/-- A memory node's figure: 4 for an extent in the window, else the bound for its first page as translated now; the
largest bound where that page has no translation, and in PAGED mode (assumption 11). -/
def State.mnFigure (s : State) (p : MnParams) (P : Nat) : Nat :=
  match p.extent P with
  | none => if p.mode = 3 then 320 else 4
  | some (lo, _) =>
    if (windowBase : Int) ≤ lo then 4
    else match (s.walk s.part .look lo.toNat).2 with
      | .ok l => loadBound s.host.pins s.core.num (l.page + lo.toNat % l.size)
      | .error _ => 320

/-- The latency counted at a vertex. MX counts with its bound node; 78 stands for the 16-bit mode, and the 8-bit
mode's is larger: with the node's 2 either exceeds every P. -/
def State.vertexCost (s : State) (im : Image) (v : Nat) : Nat :=
  if v < 512 then
    match im.slot v with
    | some r => (r.form.map (fun i => fabLatency i r.konst.toNat)).getD 0
    | none => 0
  else if v = nodeVertex mxId then 78
  else if v < nodeVertex gpId then 2
  else if v = nodeVertex gpId then (im.gp.map GpParams.latency).getD 1
  else if v < nodeVertex (npId 0) then (im.mn (v - nodeVertex (mnId 0))).elim 0 (fun p => s.mnFigure p im.P)
  else if v < nodeVertex smId then 152
  else 8

/-- The edges of an image. -/
def State.edges (s : State) (p : Parsed) (cost : Producer → Nat) : List Edge :=
  (p.producers.filterMap (fun t =>
      (vertexOf t.tgt).map (fun v => ⟨t.vertex, v, t.tgt, s.vertexCost p.im t.vertex + cost t⟩)))
    ++ (if p.im.usesMx then
          [⟨nodeVertex mxId, nodeVertex (anId p.im.mxParams.an), noTarget, s.vertexCost p.im (nodeVertex mxId)⟩]
        else [])

/-- The vertices from which one can be reached, by `n` rounds of stepping back. -/
def reachers (es : List Edge) : Nat → List Nat → List Nat
  | 0, l => l
  | n + 1, l =>
    let more := ((es.filter (fun e => l.contains e.dst && !l.contains e.src)).map (fun e => e.src)).eraseDups
    if more.isEmpty then l else reachers es n (l ++ more)

/-- The simple cycles through `start` whose other vertices are above it and can reach it. -/
def cyclesFrom (es : List Edge) (ok : List Nat) (start : Nat) : Nat → List Nat → List Edge → Nat → List (List Edge)
  | 0, _, _, _ => []
  | n + 1, seen, path, v =>
    (es.filter (fun e => e.src == v)).flatMap (fun e =>
      if e.dst = start then [path ++ [e]]
      else if e.dst < start ∨ seen.contains e.dst ∨ !ok.contains e.dst then []
      else cyclesFrom es ok start n (e.dst :: seen) (path ++ [e]) e.dst)

def verticesOf (es : List Edge) : List Nat := ((es.map (fun e => e.src)) ++ es.map (fun e => e.dst)).eraseDups

/-- Every feedback loop: a simple cycle of edges between slots and nodes. -/
def feedbackLoops (es : List Edge) : List (List Edge) :=
  (verticesOf es).flatMap (fun v =>
    cyclesFrom es (reachers es (verticesOf es).length [v]) v (verticesOf es).length [v] [] v)

/-- An SREG or CONST slot: what may hold a loop's state. -/
def Image.isHolder (im : Image) (v : Nat) : Bool :=
  decide (v < 512) && ((im.slot v).bind SlotRec.form).elim false (fun i => isSreg i || isConst i)

def loopCost (l : List Edge) : Nat := (l.map (fun e => e.cost)).foldl (· + ·) 0
def holdersOn (im : Image) (l : List Edge) : Nat := (l.filter (fun e => im.isHolder e.src)).length

/-- The offset of a vertex's record. -/
def Parsed.offOf (p : Parsed) (v : Nat) : Nat :=
  if v < 512 then ((p.slots.find? (fun r => r.2.num == v)).map (·.1)).getD 0xFFFFFFFF
  else ((p.nodes.find? (fun b => nodeVertex b.2.id == v)).map (·.1)).getD 0xFFFFFFFF

/-- The condition of a loop. R43 does not say which of a loop's records it is reported at; DESIGN CHOICE (assumption
110): the lowest offset of its records and the lowest of its slots. -/
def Parsed.loopBad (p : Parsed) (l : List Edge) (sub : Nat) : Bad :=
  ⟨(l.map (fun e => p.offOf e.src)).foldl min 0xFFFFFFFF, sub,
    ((l.map (fun e => e.src)).filter (fun v => decide (v < 512))).foldl min noSlot, 0⟩

/-! ### Padding (R128) -/

/-- A loop with its one state holder that is not too long. -/
def goodLoop (im : Image) (l : List Edge) : Bool := holdersOn im l == 1 && decide (loopCost l ≤ im.P)

/-- The lanes that an edge crosses. -/
def edgeLanes (rs : Routes) (e : Edge) : List Nat := (((lookup e.tgt rs).bind id).getD []).map (fun h => h.lane)

/-- How often each loop crosses a lane. -/
def laneUses (rs : Routes) (loops : List (List Edge)) (lane : Nat) : List Nat :=
  loops.map (fun l => (l.flatMap (edgeLanes rs)).count lane)

/-- The lanes that loops cross, those together that every loop crosses equally often. -/
def laneClasses (rs : Routes) (loops : List (List Edge)) : List (List Nat × List Nat) :=
  ((loops.flatMap (fun l => l.flatMap (edgeLanes rs))).eraseDups).foldl (fun acc lane =>
    let u := laneUses rs loops lane
    insert u (((lookup u acc).getD []) ++ [lane]) acc) []

/-- The classes still to come can take up what the loops still need. -/
def canPad (classes : List (List Nat × List Nat)) (need : List Nat) : Bool :=
  (List.zipIdx need).all (fun n =>
    decide (n.1 ≤ (classes.map (fun c => 64 * c.2.length * c.1.getD n.2 0)).foldl (· + ·) 0))

/-- Delay registers for each class of lanes, at most 64 a lane, so that every loop gets what it needs. -/
def solvePads : List (List Nat × List Nat) → List Nat → Option (List Nat)
  | [], need => if need.all (· == 0) then some [] else none
  | c :: rest, need =>
    let most := ((List.zip need c.1).filter (fun n => decide (n.2 > 0))).foldl (fun m n => min m (n.1 / n.2)) (64 * c.2.length)
    (List.range (most + 1)).reverse.findSome? (fun x =>
      let left := List.zipWith (fun n u => n - x * u) need c.1
      if canPad rest left then (solvePads rest left).map (fun l => x :: l) else none)

/-- A class's delay registers, lane by lane. -/
def spreadPad : Nat → List Nat → Pads
  | _, [] => []
  | x, lane :: rest => (lane, min x 64) :: spreadPad (x - 64) rest

/-- Delay registers on box output lanes that make every one of some loops exactly P at once; none where there are no such. -/
def loopPads (rs : Routes) (P : Nat) (loops : List (List Edge)) : Option Pads :=
  let classes := laneClasses rs loops
  (solvePads classes (loops.map (fun l => P - loopCost l))).map (fun xs =>
    (List.zip xs classes).flatMap (fun c => spreadPad c.1 c.2.2))

/-- The loops that no padding makes exactly P at once. -/
def unpadded (im : Image) (rs : Routes) (loops : List (List Edge)) : List (List Edge) :=
  let good := loops.filter (goodLoop im)
  if (loopPads rs im.P good).isNone then good.filter (fun l => decide (loopCost l < im.P)) else []

/-- A loop needs exactly one state holder and a latency of at most P, and padding that makes all of them exactly P at
once. -/
def Parsed.loopBads (p : Parsed) (rs : Routes) (es : List Edge) : List Bad :=
  let loops := feedbackLoops es
  loops.flatMap (fun l =>
      if holdersOn p.im l ≠ 1 then [p.loopBad l subNoinit]
      else if loopCost l > p.im.P then [p.loopBad l subBalance]
      else [])
    ++ (unpadded p.im rs loops).map (fun l => p.loopBad l subBalance)

/-- An edge's weight in the padding: a holder's tokens leave P cycles before they return. -/
def edgeWeight (im : Image) (e : Edge) : Int := (e.cost : Int) - (if im.isHolder e.src then (im.P : Int) else 0)

/-- One round of raising each vertex's time to the latest arrival at it. -/
def raiseTimes (im : Image) (es : List Edge) (times : List (Nat × Int)) : List (Nat × Int) :=
  times.map (fun t =>
    (t.1, (es.filter (fun e => e.dst == t.1)).foldl
      (fun best e => max best ((lookup e.src times).getD 0 + edgeWeight im e)) t.2))

def raiseAll (im : Image) (es : List Edge) : Nat → List (Nat × Int) → List (Nat × Int)
  | 0, t => t
  | n + 1, t => raiseAll im es n (raiseTimes im es t)

/-- A time for every vertex such that paths that meet arrive together, every loop taking P. -/
def vertexTimes (im : Image) (es : List Edge) : List (Nat × Int) :=
  raiseAll im es (verticesOf es).length
    ((verticesOf es).map (fun v => (v, if es.any (fun e => e.dst == v) then (-1000000 : Int) else 0)))

/-- The delay registers that make up for an edge off the loops, on a lane that no other edge crosses; none where it has no
such lane or more than 64 would be needed. -/
def feedPad (im : Image) (rs : Routes) (times : List (Nat × Int)) (e : Edge) : Pads :=
  let pad := (lookup e.dst times).getD 0 - (lookup e.src times).getD 0 - edgeWeight im e
  let shared := (rs.filter (fun r => r.1 ≠ e.tgt)).flatMap (fun r => (r.2.getD []).map (fun h => h.lane))
  match (edgeLanes rs e).find? (fun lane => !shared.contains lane) with
  | some lane => if pad ≤ 0 ∨ pad > 64 then [] else [(lane, pad.toNat)]
  | none => []

/-- Every delay register of an image. -/
def State.padsOf (s : State) (p : Parsed) (rs : Routes) : Pads :=
  let loops := feedbackLoops (s.edges p (pathCost rs))
  let held := (loopPads rs p.im.P (loops.filter (goodLoop p.im))).getD []
  let es := s.edges p (fun t => pathCost rs t + padAlong held ((routeOf rs t).getD []))
  let times := vertexTimes p.im es
  held ++ (es.filter (fun e => !loops.any (fun l => l.any (fun x => x.tgt == e.tgt)))).flatMap (feedPad p.im rs times)

/-- The path of every target of the image, padding included. -/
def State.pathsOf (s : State) (p : Parsed) (rs : Routes) : List (Target × Path) :=
  let pads := s.padsOf p rs
  p.producers.map (fun t =>
    let r := (routeOf rs t).getD []
    (t.tgt, ⟨pathCost rs t + padAlong pads r, laneTimes pads 0 r⟩))

/-! ### The whole check -/

/-- Every condition that joins records but those of loops, for what can be read of an image: its slot records all or in
part, and its switch words. -/
def State.joinBads (s : State) (p : Parsed) (rs : Routes) (allSlots allWords : Bool) (block : Option NodeBlock) : List Bad :=
  producerBads (p.accepts allSlots) [] p.producers ++ holderBads p.im (allSlots && p.vague.isEmpty) [] p.slots
    ++ p.boundBads s.core.sliced ++
    if allSlots && allWords then p.mxBads s.core.sliced block ++ p.switchBads rs else []

/-- What READ reports, where the image could not be read to its end. -/
def readBads (limit : Option Nat) : List Bad :=
  match limit with
  | some n => [⟨n, subRead, noSlot, 0⟩]
  | none => []

/-- An image in parts: the conditions of each record and block by itself, what it holds, and whether all its slot
records and its switch words could be read. -/
structure Checked where
  own      : List Bad
  image    : Parsed
  allSlots : Bool
  allWords : Bool
  deriving DecidableEq, Repr

/-- The parts of an image's bytes. `limit` is the offset of the first byte that could not be read: only what stands whole
before it has conditions. Where the image ends before the head of a block, its length is wrong, and so is a map offset
that lies before the blocks still to come can end. DESIGN CHOICE (assumption 110): after a block length that is no multiple
of 8, or below 8, nothing more can be placed, so neither the map offset nor the length is checked. -/
def checkImage (bs : List Byte) (limit : Option Nat) : Checked :=
  let l := layoutOf bs
  let whole (off len : Nat) : Bool := match limit with | some n => decide (off + len ≤ n) | none => true
  let slots := slotRecords bs l.ns l.slots none
  let words := switchWords bs l.nw l.words []
  let keep (len : Nat) (b : Bad) : Bool := whole b.off len
  let walked := walkBlocks bs l.nn l.nodes
  let last := walked.2.1
  let blocks := walked.1.filter (fun b => whole b.1 b.2)
  let nodes := blockRecords bs blocks none
  let read := slots.2.filter (fun r => whole r.1 12)
  let map := mapEntries bs slots.2 l.nm (up8 last)
  let len := up8 (up8 last + 8 * l.nm)
  let rest := if walked.2.2 then
      hdr (field bs 0x24 4 ≠ up8 last) 0x24 subLayout ++ hdr (field bs 0x28 4 ≠ len) 0x28 subLayout
        ++ (padBads bs last (up8 last)).filter (keep 1) ++ map.1.filter (keep 8)
    else if !whole last 8 then []
    else if last + 8 > bs.length then
      hdr (field bs 0x24 4 < last + 8 * (l.nn - walked.1.length)) 0x24 subLayout ++ hdr true 0x28 subLayout
    else [⟨last, subParam, noSlot, 2⟩]
  let vague := if walked.2.2 && blocks.length == walked.1.length then
      blocks.filterMap (fun b => if blockFits ((bs.drop b.1).take b.2) then none else some (field bs b.1 2))
    else nodeIds.filter (fun n => nodes.2.all (fun b => b.2.id ≠ n))
  let im : Image :=
    ⟨field bs 6 1, BitVec.ofNat 64 (field bs 8 8), read.map (·.2), words.2, nodes.2.map (·.2), map.2, []⟩
  let p : Parsed := ⟨im, read, nodes.2, vague⟩
  ⟨headerBads bs ++ slots.1.filter (keep 12) ++ (padBads bs (0x40 + 12 * l.ns) l.words).filter (keep 1)
      ++ words.1.filter (keep 2) ++ (padBads bs (l.words + 2 * l.nw) l.nodes).filter (keep 1) ++ nodes.1 ++ rest,
    p, whole l.slots (12 * l.ns), whole l.words (2 * l.nw)⟩

/-- The conditions that join the records of an image. -/
def State.imageJoins (s : State) (c : Checked) (rs : Routes) : List Bad :=
  s.joinBads c.image rs c.allSlots c.allWords none
    ++ if c.allSlots && c.allWords then c.image.loopBads rs (s.edges c.image (pathCost rs)) else []

/-- The kind of access that a memory node makes. -/
def MnParams.access (p : MnParams) : AccKind := if p.store then .write else .read

/-- CFGLD translates the first page of a node's extent, which pins it where its leaf says so; a remote window takes the place
of translation (R166, R175, R350): the state, and the node with the translation that CFGSW patches into its generator. -/
def State.walkFirst (s : State) (P : Nat) (b : NodeBlock) : State × List (Nat × TlbEntry) :=
  match b with
  | .mn n p =>
    match p.extent P with
    | some (lo, _) =>
      if 0 ≤ lo ∧ lo < (windowBase : Int) ∧ s.part.windowAt lo.toNat = none then
        match s.walk s.part p.access lo.toNat with
        | (s, .ok l) => (s, [(n, l.cached p.access lo.toNat)])
        | (s, .error _) => (s, [])
      else (s, [])
    | none => (s, [])
  | _ => (s, [])

/-- The first pages of nodes translated in turn. -/
def State.walkFirsts (P : Nat) : List NodeBlock → State → State × List (Nat × TlbEntry)
  | [], s => (s, [])
  | b :: rest, s =>
    match s.walkFirst P b with
    | (s, l) =>
      match State.walkFirsts P rest s with
      | (s, more) => (s, l ++ more)

/-- The image of an image's bytes, or the rejection's TRAPVAL. -/
def State.loadImage (s : State) (bs : List Byte) (limit : Option Nat) : Except Word Image :=
  let c := checkImage bs limit
  let rs := c.image.routes
  let bads := if c.own.any (fun b => decide (b.off < 0x18)) then c.own else c.own ++ s.imageJoins c rs
  match firstBad Bad.off (bads ++ readBads limit) with
  | some b => .error b.word
  | none => .ok { c.image.im with paths := s.pathsOf c.image rs }

/-- The first pages of an image's nodes translated, as a CFGLD that stages it does before it balances. -/
def State.translateNodes (s : State) (bs : List Byte) (limit : Option Nat) : State × List (Nat × TlbEntry) :=
  let c := checkImage bs limit
  if c.own.isEmpty && limit.isNone then State.walkFirsts c.image.im.P c.image.im.nodes s else (s, [])

/-! ### A block replaced (R118) -/

def replaceNode (b : NodeBlock) : List NodeBlock → List NodeBlock
  | [] => [b]
  | c :: rest => if c.id = b.id then b :: rest else if b.id < c.id then b :: c :: rest else c :: replaceNode b rest

/-- The store with the block in place. -/
def Image.withNode (im : Image) (b : NodeBlock) : Image := { im with nodes := replaceNode b im.nodes }

/-- A loaded image with offsets that only tell the records of node `id` from the others. -/
def Image.parsed (im : Image) (id : Nat) : Parsed :=
  ⟨im, im.slots.map (fun r => (1, r)), im.nodes.map (fun b => (if b.id = id then 0 else 1, b)), []⟩

/-- The running store with the block in place: no padding changes (R118). -/
def Image.replace (im : Image) (b : NodeBlock) : Image :=
  let new := im.withNode b
  let p := new.parsed b.id
  let rs := p.routes
  { new with paths := p.producers.map (fun t =>
      (t.tgt, (lookup t.tgt im.paths).getD ⟨pathCost rs t, laneTimes [] 0 ((routeOf rs t).getD [])⟩)) }

/-- A block of a class whose nodes do not exist without a block, where the store has none (R118). -/
def Image.lacks (im : Image) (b : NodeBlock) : Bool := b.id ≠ mxId && !im.nodes.any (fun c => c.id == b.id)

/-- The field of the new block that a condition between nodes is reported at (R118): that of its own condition; the one
whose target another record names as well; and the memory node's flags, where a target leads to an input that its new
mode does not read. -/
def NodeBlock.blamed (b : NodeBlock) (p : Parsed) (e : Bad) : Bad :=
  if e.off = 0 then e
  else
    let clash := p.producers.find? (fun t => t.off == 0 && p.producers.any (fun u => u.off == 1 && u.tgt == t.tgt))
    { e with field := match clash with | some t => b.fieldOf t.tgt | none => 9 }

/-- The field of the new block that a loop's condition is reported at: where its latency is wrong, the program of the
gate pipeline or the base of a memory node; else the target by which the loop leaves the node. DESIGN CHOICE (assumption
47). -/
def NodeBlock.loopField (b : NodeBlock) (l : List Edge) (sub : Nat) : Nat :=
  let leaves := match l.find? (fun e => e.src == nodeVertex b.id) with | some e => b.fieldOf e.tgt | none => 0
  match b with
  | .gp _ => if sub = subBalance then 16 else leaves
  | .mn _ _ => if sub = subBalance then 16 else leaves
  | _ => leaves

/-- The conditions of the loops of a store with the new block in place. In the running store every loop must keep the
latency it was loaded with. -/
def State.blockLoopBads (s : State) (b : NodeBlock) (p : Parsed) (rs : Routes) (running : Option Image) : List Bad :=
  let cost (t : Producer) : Nat :=
    match running.bind (fun im => lookup t.tgt im.paths) with
    | some g => g.cost
    | none => pathCost rs t
  let loops := feedbackLoops (s.edges p cost)
  let bad (l : List Edge) (sub : Nat) : Bad := ⟨0, sub, noSlot, b.loopField l sub⟩
  loops.flatMap (fun l =>
      if holdersOn p.im l ≠ 1 then [bad l subNoinit]
      else if loopCost l > p.im.P then [bad l subBalance]
      else if running.isSome && decide (loopCost l ≠ p.im.P) then [bad l subBalance]
      else [])
    ++ if running.isSome then [] else (unpadded p.im rs loops).map (fun l => bad l subBalance)

/-- The store with a block replaced, or the rejection's TRAPVAL. -/
def State.loadBlock (s : State) (im : Image) (bs : List Byte) (running : Bool) : Except Word Image :=
  match firstBad Bad.field (blockBads bs) with
  | some b => .error b.blockWord
  | none =>
    let b := nodeOf (field bs 0 2) bs
    if im.lacks b then .error (⟨0, subParam, noSlot, 0⟩ : Bad).blockWord
    else
      let new := im.withNode b
      let p := new.parsed b.id
      let rs := p.routes
      let joins := (s.joinBads p rs true true (some b)).map (b.blamed p)
      match firstBad Bad.field (joins ++ s.blockLoopBads b p rs (if running then some im else none)) with
      | some e => .error e.blockWord
      | none => .ok (if running then im.replace b else { new with paths := s.pathsOf p rs })

end Sys2Proof.Machine
end

