-- ==== Sys2Proof/Machine/Holders.lean ====
section
/-!
DEFINITION. State holders and the state image of one stream (R148, R149, R155).
-/

namespace Sys2Proof.Machine

/-! ### Accumulator entries (R199) -/

def AnEntry.zero : AnEntry := ⟨0, 0, 0, none, false, false⟩

def Fabric.anAt (f : Fabric) (n k : Nat) : AnEntry := (lookup (n, k) f.an).getD .zero
def Fabric.setAn (f : Fabric) (n k : Nat) (e : AnEntry) : Fabric := { f with an := insert (n, k) e f.an }

def anInput (n i : Nat) : Target := nodeTarget 1 (2 * n + i)

/-- The work of a message: the token that stands at an input, where it keeps that token's place. -/
def Fabric.anWork (f : Fabric) (m : AnMsg) : AnWork :=
  match m.work with
  | .arrived i _ => ((f.oldest (anInput m.node i) m.stitch).map (AnWork.token i)).getD m.work
  | w => w

/-- Work that releases the sum: kind 01 at any input, and any token at input 1. -/
def AnWork.releases : AnWork → Bool
  | .token i t => i == 1 || t.tag.kind == .endOfReduction
  | _ => false

/-- Work that makes the node send something: a release, or an order token that goes on. -/
def AnWork.emits (w : AnWork) : Bool :=
  w.releases || match w with
    | .token _ t => t.tag.kind == .order
    | _ => false

/-- The first work of a stitch at a node, in the order in which it reached the node. -/
def Fabric.anFirst (f : Fabric) (n k : Nat) : Option AnMsg := f.anq.find? (fun m => m.node == n && m.stitch == k)

/-- The mark byte of a record: bit 7 when the sum is marked, the cause in [5:0]. -/
def markByte (m : Option (BitVec 6)) : Byte :=
  match m with
  | some c => BitVec.ofNat 8 (128 + c.toNat)
  | none => 0

def markOf (b : Byte) : Option (BitVec 6) := if b.getLsbD 7 then some (BitVec.setWidth 6 b) else none

/-- The lane groups G of an accumulator node (R198). -/
def Image.groups (im : Image) (n : Nat) : Nat := ((im.an n).map (fun p => p.cols)).getD 4

/-- The 520 bytes of an accumulator node's entry; the addend counter stands modulo G. -/
def AnEntry.bytes (e : AnEntry) (g : Nat) : List Byte :=
  leBytes 512 e.lanes.toNat ++ leBytes 4 e.blocks.toNat ++ leBytes 1 (e.addend.toNat % g) ++ [markByte e.mark, 0, 0]

def AnEntry.ofBytes (bs : List Byte) : AnEntry where
  lanes := BitVec.ofNat 4096 (field bs 0 512)
  blocks := BitVec.ofNat 32 (field bs 512 4)
  addend := BitVec.ofNat 8 (field bs 516 1)
  mark := markOf (BitVec.ofNat 8 (field bs 517 1))
  gotLast := false
  touched := false

/-! ### Loading holders (R149) -/

/-- Counts restart: CNT, EOR and memory-node sequence counters. DESIGN CHOICE (assumption 130): an end of reduction that an
EOR slot still owes the stitch is dropped with the count it came from. -/
def Fabric.restart (f : Fabric) (k : Nat) : Fabric :=
  { f with
    counts := f.counts.filter (fun e => e.1.2 ≠ k)
    eorDue := f.eorDue.filter (fun e => e.2.k ≠ k)
    mns := f.mns.map (fun e => (e.1, { e.2 with
      expect := e.2.expect.filter (fun x => x.1 ≠ k)
      steps := e.2.steps.filter (fun x => x.1 ≠ k) })) }

/-- What begins anew at a cast-on alone: the packed scales in use (R195), the pack fill (R204), the pass that a streaming
node serves (R178) and what the PAGED nodes have cached (R227). -/
def Fabric.renew (f : Fabric) (k : Nat) : Fabric :=
  { f with
    scales := f.scales.filter (fun e => e.1 ≠ k)
    gpFill := f.gpFill.filter (fun e => e.1 ≠ k)
    mns := f.mns.map (fun e => (e.1, { e.2 with
      passed := e.2.passed.filter (fun x => x ≠ k)
      paged := e.2.paged.filter (fun x => x.1 ≠ k) })) }

/-- A holder loaded with its data, or as the reset flag says; an SREG's initial token is due after those that pass it. -/
def Fabric.loadHolder (im : Image) (k : Nat) (f : Fabric) (h : Holder) (data : Option (List Byte)) : Fabric :=
  match h with
  | .sreg n =>
    let held := match data with
      | some bs => payloadOf bs
      | none => constPayload (((im.slot n).map (fun r => r.konst.toNat)).getD 0)
    let passing := ((lookup (n, k) f.sregs).elim [] (fun e => e.due)).filter (fun d => d ≠ .held)
    { f with sregs := insert (n, k) ⟨held, passing ++ [.held], false, false⟩ f.sregs }
  | .an n => f.setAn n k (match data with | some bs => .ofBytes bs | none => .zero)

/-- Every holder loaded for stitch k, and the initial tokens due: from records paired in order, or from the slot
constants. -/
def Fabric.loadHolders (f : Fabric) (im : Image) (k : Nat) (records : Option (List (List Byte))) : Fabric :=
  let f := (List.zipIdx im.holders).foldl
    (fun f h => f.loadHolder im k h.1 (records.map (fun l => l.getD h.2 []))) (f.restart k)
  { f with consts := f.consts.filter (fun e => e.2 ≠ k) ++ im.freeConsts.map (fun r => (r.num, k)) }

/-! ### The state image (R155) -/

def Status.code : Status → Nat
  | .free => 0
  | .cast => 1
  | .live => 2
  | .slip => 3
  | .drop => 4
  | .off => 5

def Status.ofCode (n : Nat) : Status :=
  match n with
  | 1 => .cast
  | 2 => .live
  | 3 => .slip
  | 4 => .drop
  | 5 => .off
  | _ => .free

/-- The data of a holder for a stitch. -/
def Fabric.holderData (f : Fabric) (im : Image) (k : Nat) (h : Holder) : List Byte :=
  match h with
  | .sreg n => payloadBytes (f.sregAt n k (((im.slot n).map (fun r => r.konst)).getD 0)).held
  | .an n => (f.anAt n k).bytes (im.groups n)

def Image.record (im : Image) (f : Fabric) (k : Nat) (h : Holder) : List Byte :=
  leBytes 4 (im.holderKey h).1 ++ leBytes 4 (im.holderKey h).2.1 ++ f.holderData im k h

/-- The image of stitch k: its header, with the status and cause given, and a record for each holder. -/
def Fabric.stateImage (f : Fabric) (im : Image) (k : Nat) (st : Status) (e : Stream) : List Byte :=
  leBytes 8 im.gid.toNat ++ leBytes 1 im.P ++ leBytes 1 k ++ leBytes 1 st.code
    ++ leBytes 1 (if st = .drop then e.cause.toNat else 0) ++ leBytes 4 e.steps.toNat ++ leBytes 8 e.user.toNat
    ++ leBytes 8 e.handle.toNat ++ leBytes 2 im.holders.length ++ leBytes 2 1 ++ leBytes 4 im.areaLen
    ++ List.replicate 24 0 ++ im.holders.flatMap (im.record f k)

/-- A state image as a reader takes it. -/
structure StateImage where
  stitch  : Nat
  status  : Status
  cause   : BitVec 6
  steps   : BitVec 32
  user    : Word
  handle  : Word
  records : List (List Byte)
  deriving DecidableEq, Repr

/-- The records of an image that pair with the holders, in their order; none where a key or byte count differs. -/
def pairRecords (im : Image) (bs : List Byte) : Nat → List Holder → Option (List (List Byte))
  | _, [] => some []
  | off, h :: rest =>
    let n := (im.holderKey h).2.1
    if field bs off 4 = (im.holderKey h).1 ∧ field bs (off + 4) 4 = n then
      (pairRecords im bs (off + 8 + n) rest).map (fun l => (bs.drop (off + 8)).take n :: l)
    else none

/-- An image read for a configuration; none is a MISMATCH. -/
def Image.readState (im : Image) (bs : List Byte) : Option StateImage :=
  let st := field bs 0x0A 1
  let cause := field bs 0x0B 1
  if field bs 0 8 ≠ im.gid.toNat ∨ st < 2 ∨ st > 4 ∨ (cause ≠ 0 ∧ st ≠ 4) ∨ field bs 0x20 2 ≠ im.holders.length
      ∨ field bs 0x22 2 ≠ 1 ∨ field bs 0x24 4 ≠ im.areaLen then none
  else (pairRecords im bs 64 im.holders).map (fun records =>
    ⟨field bs 9 1, Status.ofCode st, BitVec.ofNat 6 cause, BitVec.ofNat 32 (field bs 0x0C 4),
      BitVec.ofNat 64 (field bs 0x10 8), BitVec.ofNat 64 (field bs 0x18 8), records⟩)

/-- The state area at a pointer: aligned, and translated over its whole length. -/
def State.area (s : State) (kind : AccKind) (ptr : Word) (len : Nat) : State × Option (Bool × List Span) :=
  if ptr.toNat % 64 ≠ 0 ∨ ptr.toNat ≥ 2 ^ 48 then (s, none)
  else match s.resolve kind ptr.toNat len with
    | (s, .ok r) => (s, some r)
    | (s, .error _) => (s, none)

/-- The bytes of a state area, when it can be read. -/
def State.readArea (s : State) (ptr : Word) (len : Nat) : State × Option (List Byte) :=
  match s.area .read ptr len with
  | (s, none) => (s, none)
  | (s, some (window, spans)) =>
    match State.readSpans window spans s with
    | (s, bs, none) => (s, some bs)
    | (s, _, some _) => (s, none)

end Sys2Proof.Machine
end

