-- ==== Sys2Proof/Machine/Packets.lean ====
section
/-!
DEFINITION. Packets on the network: their path, trimming, re-asks, order and acknowledgement (R259 to R268).
-/

namespace Sys2Proof.Machine

/-! ### The tree (R9, R259, R268) -/

/-- The switch an endpoint is attached to, and its port there. -/
def attached (e : Nat) : Nat × Nat :=
  if e < 256 then (e / 4, e % 4)
  else if e < 341 then (e - 256, 5)
  else if 352 ≤ e ∧ e < 368 then (84, 8 + (e - 352))
  else (84, 7)

/-- The first endpoint that lies outside the module, that of Ethernet port 0. -/
def remoteEnd : Nat := 352

/-- The endpoint of the Ethernet port that serves remote windows: the first that is enabled (R22; assumption 8). -/
def State.windowEnd (s : State) : Nat := remoteEnd + s.host.enabled.port 0

/-- The switch above a switch, and the port there; none above the L4 switch. -/
def aboveSwitch (sw : Nat) : Option (Nat × Nat) :=
  if sw < 64 then some (64 + sw / 4, sw % 4)
  else if sw < 80 then some (80 + (sw - 64) / 4, (sw - 64) % 4)
  else if sw < 84 then some (84, sw - 80)
  else none

/-- The switches up from one, each with the port a packet enters by. -/
def climb : Nat → Nat × Nat → List (Nat × Nat)
  | 0, p => [p]
  | n + 1, p =>
    match aboveSwitch p.1 with
    | some q => p :: climb n q
    | none => [p]

/-- The input ports a packet passes: up to the lowest common switch, then down by the ports towards the parents
(R259). -/
def pathOf (src dst : Nat) : List (Nat × Nat) :=
  if src = dst then []
  else
    let up := climb 3 (attached src)
    let down := (climb 3 (attached dst)).map (·.1)
    let below := up.takeWhile (fun p => !down.contains p.1)
    let top := (up.drop below.length).take 1
    let meet := (top.map (·.1)).headD 84
    below ++ top ++ ((down.takeWhile (fun sw => sw ≠ meet)).reverse.map (fun sw => (sw, 4)))

/-- The input port after a packet's place on its path. -/
def hopAfter : Option (Nat × Nat) → List (Nat × Nat) → Option (Nat × Nat)
  | none, path => path.head?
  | some p, path => ((path.dropWhile (fun q => q ≠ p)).drop 1).head?

def Packet.path (k : Packet) : List (Nat × Nat) := pathOf k.src k.dst
def Packet.nextHop (k : Packet) : Option (Nat × Nat) := hopAfter k.place k.path

/-- A packet's flits: the header and its payload (R259). -/
def Packet.flits (k : Packet) : Nat := 1 + (k.bytes.length + 31) / 32

/-! ### The header (R262) -/

/-- A core's number by R10, and 0xFF for an endpoint that has none. -/
def endByte (e : Nat) : Byte := if e < 256 then BitVec.ofNat 8 e else 0xFF

/-- The kind of a packet. -/
def Packet.kind (k : Packet) : Nat :=
  match k.body with
  | .route _ _ _ _ _ _ => 0
  | .yarn _ _ _ => 1
  | .write _ _ _ => 2
  | .read _ _ => 3
  | .reply _ _ _ => 4
  | .bank _ => 5

def Packet.ordered (k : Packet) : Bool :=
  match k.body with
  | .route _ ordered _ _ _ _ => ordered
  | .yarn _ _ _ => true
  | .write _ _ _ => true
  | _ => false

def Packet.class (k : Packet) : Nat :=
  match k.body with
  | .route cls _ _ _ _ _ => cls.toNat
  | _ => 0

/-- The token tag of a yarn or fabric-port packet. -/
def Packet.tokenTag (k : Packet) : Nat :=
  match k.body with
  | .route _ _ _ tag _ _ => tag.toNat
  | .yarn _ _ tok => tok.tag.bits
  | _ => 0

/-- The physical address of a memory packet, the destination word of a route-class packet. -/
def Packet.address (k : Packet) : Nat :=
  match k.body with
  | .route _ _ dest _ _ _ => dest.toNat
  | .write _ pa _ => pa
  | .read pa _ => pa
  | .reply pa _ _ => pa
  | .bank acc => acc.pa
  | .yarn _ _ _ => 0

/-- The header flit of a packet. -/
def Packet.headerBytes (k : Packet) : List Byte :=
  let trimmed := k.way == .header
  [endByte k.src, endByte k.dst, BitVec.ofNat 8 k.part,
    BitVec.ofNat 8 (trimmed.toNat + k.ordered.toNat * 2 + k.resent.toNat * 4),
    BitVec.ofNat 8 (k.class + (if trimmed then 7 else k.vc) * 16), BitVec.ofNat 8 (k.flits - 1)] ++
    leBytes 2 k.bytes.length ++ leBytes 4 k.seq.toNat ++ leBytes 2 k.tokenTag ++ leBytes 2 k.unit ++
    leBytes 8 k.address ++ [BitVec.ofNat 8 k.kind, BitVec.ofNat 8 (k.phase % 4 + k.scope * 4)] ++ leBytes 2 k.trims ++
    leBytes 4 0

/-! ### Packets by number -/

def State.packet (s : State) (id : Nat) : Option Packet := s.net.packets.find? (fun k => k.id == id)

def State.mapNet (s : State) (f : Net → Net) : State := { s with net := f s.net }

def State.setPacket (s : State) (k : Packet) : State :=
  s.mapNet (fun n => { n with packets := n.packets.map (fun q => if q.id = k.id then k else q) })

def State.dropPacket (s : State) (id : Nat) : State :=
  s.mapNet (fun n => { n with packets := n.packets.filter (fun q => q.id ≠ id) })

/-- A write or access has been applied at its home, or reported lost (R230). -/
def State.arrivedId (s : State) (id : Nat) : Bool :=
  match s.packet id with
  | some k => k.way == .delivered || k.way == .lost
  | none => true

/-- Two packets of one pair. -/
def Packet.samePair (k q : Packet) : Bool := k.src == q.src && k.dst == q.dst

def Packet.sameUnit (k q : Packet) : Bool := k.lid == q.lid && k.unit == q.unit

/-- Two packets of one ordered flow: the tokens of a yarn, the packets of an ordered class of a pair, the writes of
one source to one home (R251, R267), those of one endpoint's ordered flow to one home (R348); those of two partitions
are never of one flow (R261). -/
def Packet.sameFlow (k q : Packet) : Bool :=
  k.samePair q && k.part == q.part && match k.body, q.body with
    | .yarn a b _, .yarn c d _ => a == c && b == d
    | .route a true _ _ _ _, .route b true _ _ _ _ => a == b
    | .write .outside _ _, .write .outside _ _ => k.lid == q.lid && k.owner == q.owner && k.owner ≠ 0
    | .write a _ _, .write b _ _ => a == b && k.sameUnit q
    | _, _ => false

/-- No earlier packet of the flow is still to be handed over: a hole holds the later ones back, a loss does not
(R251, R267). A lost token of a yarn still has its place to take (R274). -/
def State.inOrder (s : State) (k : Packet) : Bool :=
  s.net.packets.all (fun q =>
    !(decide (q.id < k.id) && q.sameFlow k) ||
      match q.body with
      | .yarn _ _ _ => q.way == .delivered
      | _ => q.way == .delivered || q.way == .lost)

/-- A write or access of a sequencer. -/
def Packet.bySequencer (k : Packet) : Bool :=
  match k.body with
  | .write .sequencer _ _ => true
  | .bank _ => true
  | _ => false

/-- Each byte takes the stores and the atomics of one unit's sequencer in program order (R246): no earlier one of them
is still to be applied to a byte that this one reaches. -/
def State.ownOrder (s : State) (k : Packet) : Bool :=
  !(k.bySequencer && s.net.packets.any (fun q =>
    decide (q.id < k.id) && q.sameUnit k && q.bySequencer && q.way ≠ .delivered && q.way ≠ .lost &&
      decide (q.writeAt < k.writeAt + k.writeLen) && decide (k.writeAt < q.writeAt + q.writeLen)))

/-- A packet is among the 64 (of a core) or 256 (of a slice) that its source's retention buffer holds (R264). -/
def State.injected (s : State) (k : Packet) : Bool :=
  decide ((s.net.packets.filter (fun q => q.src == k.src && decide (q.id < k.id) && q.way ≠ .gone)).length
    < if k.src < 256 then 64 else 256)

/-! ### Counters and the tension limiter (R268, R320) -/

def State.countAt (s : State) (sw port vc part : Nat) : State :=
  s.mapNet (fun n => { n with
    counters := insert (sw, port, vc, part) ((lookup (sw, port, vc, part) n.counters).getD 0 + 1) n.counters })

/-- The fabric ingress port that a packet enters by: network ports 0 and 1, memory nodes from 2, engine queues from
18; none for the sequencer and slices. -/
def Packet.ingress (k : Packet) : Option Nat :=
  match k.body with
  | .yarn p _ _ => some p
  | .route _ _ _ _ _ p => if k.op.isNone then some p else none
  | .write (.node n) _ _ => some (2 + n)
  | .write (.engine q) _ _ => some (18 + q)
  | _ => none

/-- A bucket's contents now, in 64ths of a flit. -/
def State.bucket (s : State) (p : Part) (core port : Nat) : Nat :=
  match lookup (p.num, core, port) s.net.buckets with
  | some (level, since) => min (p.burst * 64) (level + p.rateNow * (s.cycle - since))
  | none => p.burst * 64

/-- The bucket of a port holds some flits (R320). -/
def State.hasFlits (s : State) (part core port flits : Nat) : Bool := decide (64 * flits ≤ s.bucket (s.partOf part) core port)

/-- Flits pass an ingress port whose bucket holds them (R320). -/
def State.spend (s : State) (part core port flits : Nat) : State :=
  s.mapNet (fun n => { n with
    buckets := insert (part, core, port) (s.bucket (s.partOf part) core port - 64 * flits, s.cycle) n.buckets })

/-- A partition's buckets with what they hold now, before its rate changes. -/
def State.settleBuckets (s : State) (p : Part) : State :=
  s.mapNet (fun n => { n with
    buckets := n.buckets.map (fun b => if b.1.1 = p.num then (b.1, s.bucket p b.1.2.1 b.1.2.2, s.cycle) else b) })

/-- A packet may enter the network: its bucket holds its flits (R320). -/
def State.mayEnter (s : State) (k : Packet) : Bool :=
  k.place.isSome || k.resent ||
    match k.ingress with
    | some port => s.hasFlits k.part k.src port k.flits
    | none => true

/-- A packet of a core's ingress port waits to enter: the port's producer is back-pressured (R320). -/
def State.portWaits (s : State) (core port : Nat) : Bool :=
  s.net.packets.any (fun k => k.src == core && k.ingress == some port && k.way == .sent && k.place.isNone && !k.resent)

def State.entered (s : State) (k : Packet) : State :=
  if k.place.isSome || k.resent then s
  else match k.ingress with
    | some port => s.spend k.part k.src port k.flits
    | none => s

/-! ### Trimming (R263, R265, R266) -/

/-- The flits of a partition's packets of a channel that stand at an input port (R261). -/
def State.occupancy (s : State) (sw port vc part : Nat) : Nat :=
  ((s.net.packets.filter (fun q =>
    q.place == some (sw, port) && q.vc == vc && q.part == part && q.way == .sent)).map Packet.flits).foldl (· + ·) 0

/-- The wait before a re-ask, by the trims so far (R265). -/
def reaskWait (trims : Nat) : Nat :=
  match trims with
  | 1 => 64
  | 2 => 128
  | 3 => 256
  | 4 => 512
  | _ => 1024

/-- What a hole or a loss leaves for the next packet of its class (R267, R280): every loss, and a hole of an unordered
class. -/
def State.markHole (s : State) (k : Packet) (lost : Bool) : State :=
  match k.body with
  | .route cls ordered _ _ _ _ =>
    if lost || !ordered then s.mapNet (fun n => { n with marks := n.marks ++ [(k.src, k.dst, k.part, cls, k.id)] }) else s
  | _ => s

/-- A control packet leaves the destination of a pair for its source. -/
def State.notify (s : State) (src dst part : Nat) (what : Notice) : State :=
  s.mapNet (fun n => { n with nextId := n.nextId + 1, control := n.control ++ [⟨n.nextId, src, dst, part, what, none⟩] })

/-- The record of a loss (R266, R331): the pair, the sequence number and, above it, the kind (assumption 116). -/
def Packet.lossWord (k : Packet) : Word :=
  BitVec.ofNat 64 ((endByte k.src).toNat + (endByte k.dst).toNat * 256 + k.seq.toNat * 2 ^ 16 + k.kind * 2 ^ 48)

/-- A yarn token takes its place in the order of arrival (R274). -/
def State.noteYarn (s : State) (k : Packet) : State :=
  match k.body with
  | .yarn _ _ _ => s.mapNet (fun n => { n with yarned := n.yarned ++ [k.id] })
  | _ => s

/-- The destination learns of a trim: it records the hole and when it may ask again, or after the eighth trim logs the
loss, sends the loss notice and treats the packet as arrived (R265, R266). `k` holds the new count. -/
def State.noteTrim (s : State) (k : Packet) : State :=
  if k.trims ≥ 8 then
    let at1 := attached k.dst
    ((((((s.setPacket { k with way := .lost, place := none }).notify k.dst k.src k.part (.loss k.id)).markHole k
      true).noteYarn k).countAt at1.1 at1.2 7 k.part).log k.part
        (LogRec.plain 0x07 k.part (endByte k.dst).toNat 0x08 k.lossWord))
  else
    (s.setPacket { k with way := .hole (s.cycle + reaskWait k.trims), place := none }).markHole k false

/-- A trim is counted for the owner of the unit that sent the packet (R319). -/
def State.useTrim (s : State) (k : Packet) : State := if k.unit = 0xFFFF then s else s.use k.part k.owner 3 1

/-- A destination trims a packet that it cannot take, and records the trim itself (R263, R268). -/
def State.trimHere (s : State) (k : Packet) : State :=
  let at1 := attached k.dst
  ((s.countAt at1.1 at1.2 k.vc k.part).useTrim k).noteTrim { k with trims := k.trims + 1 }

/-! ### Delivery (R264, R267) -/

/-- A packet is handed over: its arrival counts towards the next acknowledgement of its pair. -/
def State.handOver (s : State) (k : Packet) : State :=
  (s.setPacket { k with way := .delivered, place := none }).mapNet (fun n => { n with
    unacked :=
      match lookup (k.src, k.dst) n.unacked with
      | some (count, since) => insert (k.src, k.dst) (count + 1, since) n.unacked
      | none => insert (k.src, k.dst) (1, s.cycle) n.unacked })

/-- The numbers of a pair that have arrived without a gap: how far the acknowledgement reaches (R264). -/
def State.ackReach (s : State) (src dst : Nat) : Option (BitVec 32) :=
  (((s.net.packets.filter (fun k => k.src == src && k.dst == dst)).takeWhile
    (fun k => k.way == .delivered || k.way == .lost || k.way == .gone)).getLast?).map (fun k => k.seq)

/-- The set of a core whose unit a packet is for: the unit its destination word names, or the one of the partition. -/
def Packet.isFor (k : Packet) (c : CSet) : Bool :=
  match c.unit, k.body with
  | some u, .route _ _ dest _ _ _ =>
    match destOf (wspan dest 0 18) with
    | .unit index => u.lid == k.lid && u.index == index
    | _ => u.part == k.part
  | some u, _ => u.part == k.part
  | none, _ => false

def Core.setFor (k : Core) (p : Packet) : Option CSet := k.sets.find? p.isFor

/-- Past its freeze point. -/
def Frost.still (f : Frost) : Bool := f ≠ .thawed && f ≠ .freezing

def Hold.still (h : Hold) : Bool := h ≠ .none && h ≠ .coming

/-- What arrives for a set past its freeze point waits in the core's port buffers, and so do the tokens for a fabric that
is held (R332, R340). -/
def Core.stillFor (c : Core) (k : Packet) (tokens : Bool) : Bool :=
  let at' : Frost × Hold :=
    match c.shadow with
    | some x => if !k.isFor c.set && k.isFor x then (x.parked.frost, x.parked.hold) else (c.frost, c.hold)
    | none => (c.frost, c.hold)
  at'.1.still || (tokens && at'.2.still)

/-- What arrives for a frozen core waits, the replies apart; and a load waits at the home for its unit's own earlier
atomics there (R246, R332). -/
def State.takes (s : State) (k : Packet) : Bool :=
  match k.body with
  | .route _ _ _ _ h1 _ => decide (k.dst ≥ remoteEnd) || !(s.coreAt k.dst).stillFor k h1
  | .yarn _ _ _ => !(s.coreAt k.dst).stillFor k true
  | .read pa _ => !s.atomicBefore k.lid k.unit k.id pa 8
  | _ => true

/-! ### Output ports (R260, R261, R263) -/

/-- The flits of the longest packet: what one buffer place holds (R259, R261). -/
def placeFlits : Nat := 9

/-- The packet's flits would take the partition's occupancy of its channel at the port past three quarters. -/
def State.mustTrim (s : State) (k : Packet) (sw port : Nat) : Bool :=
  decide (4 * (s.occupancy sw port k.vc k.part + k.flits) > 3 * placeFlits * (s.partOf k.part).places)

/-- The output port that a packet wants next, named by the input port it leads to, or by the endpoint. -/
def portOf (next : Option (Nat × Nat)) (dst : Nat) : Nat × Nat := next.getD (1000, dst)

def Packet.out (k : Packet) : Nat × Nat := portOf k.nextHop k.dst

def Control.nextHop (c : Control) : Option (Nat × Nat) := hopAfter c.place (pathOf c.src c.dst)
def Control.out (c : Control) : Nat × Nat := portOf c.nextHop c.dst

/-- VC7 has a header place for the partition at an input port: one of 8; an endpoint takes every header. -/
def State.headerRoom (s : State) (at' : Nat × Nat) (part : Nat) : Bool :=
  decide (at'.1 ≥ 1000) ||
    decide ((s.net.packets.filter (fun q => q.way == .header && q.place == some at' && q.part == part)).length < 8)

/-- The same of VC6. -/
def State.controlRoom (s : State) (at' : Nat × Nat) (part : Nat) : Bool :=
  decide (at'.1 ≥ 1000) ||
    decide ((s.net.control.filter (fun c => c.place == some at' && c.part == part)).length < 8)

/-- A trimmed header may go on: it waits on credits alone. -/
def State.headerGoes (s : State) (k : Packet) : Bool := k.way == .header && s.headerRoom k.out k.part

def State.controlGoes (s : State) (c : Control) : Bool := s.controlRoom c.out c.part

/-- A data packet could go on: it may enter, its endpoint takes it, and where it is to be trimmed VC7 has room. -/
def State.dataGoes (s : State) (k : Packet) : Bool :=
  k.way == .sent && s.injected k && s.mayEnter k &&
    match k.nextHop with
    | some p => !s.mustTrim k p.1 p.2 || s.headerRoom p k.part
    | none => s.takes k

/-- The lowest number from n on, else the lowest there is. -/
def roundFrom (n : Nat) (l : List Nat) : Option Nat :=
  match (l.filter (fun x => decide (n ≤ x))).min? with
  | some x => some x
  | none => l.min?

/-- A number put into a rising list. -/
def insertRising (n : Nat) : List Nat → List Nat
  | [] => [n]
  | x :: rest => if n < x then n :: x :: rest else if n = x then x :: rest else x :: insertRising n rest

/-- Numbers in rotation from n on, each once. -/
def rotation (n : Nat) (l : List Nat) : List Nat :=
  let r := l.foldl (fun r x => insertRising x r) []
  r.filter (fun x => decide (n ≤ x)) ++ r.filter (fun x => decide (x < n))

/-- The data packets that want an output port. -/
def State.waitingAt (s : State) (out : Nat × Nat) : List Packet := s.net.packets.filter (fun q => q.out == out && s.dataGoes q)

/-- A partition's share of an output port: a turn is for as many flits as it has places (R260; assumption 117). -/
def State.share (s : State) (part : Nat) : Nat := max 1 (s.partOf part).places

/-- The flits that a partition has sent beyond its turns at an output port. -/
def Net.debt (n : Net) (out : Nat × Nat) (part : Nat) : Nat := (lookup (out, part) n.debts).getD 0

/-- The turns that a partition passes over, since it has had their flits already. -/
def State.passes (s : State) (out : Nat × Nat) (part : Nat) : Nat := s.net.debt out part / s.share part

/-- The partitions that wait for an output port, in rotation from the one after the last served. -/
def State.queueAt (s : State) (out : Nat × Nat) : List Nat :=
  rotation (match lookup out s.net.turns with | some (p, _) => p + 1 | none => 0) ((s.waitingAt out).map (fun q => q.part))

/-- Of partitions in rotation, the first of those that pass over the fewest turns. -/
def State.nextPart (s : State) (out : Nat × Nat) : List Nat → Option Nat
  | [] => none
  | p :: rest =>
    match s.nextPart out rest with
    | some q => if s.passes out p ≤ s.passes out q then some p else some q
    | none => some p

/-- A partition's turn at an output port has flits left, and it waits there. -/
def State.turnGoesOn (s : State) (out : Nat × Nat) : Option Nat :=
  match lookup out s.net.turns with
  | some (p, left) => if left > 0 && (s.waitingAt out).any (fun q => q.part == p) then some p else none
  | none => none

/-- The partition and data channel that an output port serves next: that whose turn it is, then the next that waits; and
its channels in rotation (R260; assumption 117). -/
def State.turnAt (s : State) (out : Nat × Nat) : Option (Nat × Nat) :=
  let part := match s.turnGoesOn out with
    | some p => some p
    | none => s.nextPart out (s.queueAt out)
  part.bind (fun p =>
    (roundFrom (match lookup (out, p) s.net.lastVcs with | some v => v + 1 | none => 0)
      (((s.waitingAt out).filter (fun q => q.part == p)).map (fun q => q.vc))).map (fun v => (p, v)))

/-- An output port serves VC7 first, then VC6, then the data channels. -/
def State.controlTurn (s : State) (c : Control) : Bool :=
  s.controlGoes c && !s.net.packets.any (fun q => q.out == c.out && s.headerGoes q)

def State.dataTurn (s : State) (k : Packet) : Bool :=
  s.dataGoes k && !s.net.packets.any (fun q => q.out == k.out && s.headerGoes q) &&
    !s.net.control.any (fun c => c.out == k.out && s.controlGoes c) && s.turnAt k.out == some (k.part, k.vc)

/-- The debts of the partitions that wait for a port, once the turn of one has come: each passed over pays a share for a
turn, and one that does not wait owes nothing. -/
def State.payTurns (s : State) (out : Nat × Nat) (part : Nat) : List (((Nat × Nat) × Nat) × Nat) :=
  let queue := s.queueAt out
  let rounds := s.passes out part
  let first := queue.takeWhile (fun q => q ≠ part)
  s.net.debts.filter (fun d => d.1.1 ≠ out) ++ queue.map (fun q =>
    ((out, q), s.net.debt out q - s.share q * (rounds + (first.contains q).toNat)))

/-- A data packet has been served at the output port it wanted; what it takes beyond the turn is charged to the next. -/
def State.served (s : State) (k : Packet) : State :=
  let goes := s.turnGoesOn k.out == some k.part
  let debts := if goes then s.net.debts else s.payTurns k.out k.part
  let owed := (lookup (k.out, k.part) debts).getD 0
  let left := if goes then ((lookup k.out s.net.turns).map (·.2)).getD 0 else s.share k.part - owed
  s.mapNet (fun n => { n with
    turns := insert k.out (k.part, left - k.flits) n.turns
    debts := insert (k.out, k.part) (k.flits - left) debts
    lastVcs := insert (k.out, k.part) k.vc n.lastVcs })

/-- A packet may move on to an input port. -/
def State.mayHop (s : State) (k : Packet) (sw port : Nat) : Bool := k.nextHop == some (sw, port) && s.dataTurn k

/-- A packet has come to the end of its path and may be taken. -/
def State.atEnd (s : State) (k : Packet) : Bool := k.nextHop.isNone && s.dataTurn k

end Sys2Proof.Machine
end

