-- ==== Sys2Proof/Machine/Detector.lean ====
section
/-!
DEFINITION. The quiescence detector (R24, R143, R144).
-/

namespace Sys2Proof.Machine

/-! ### What holds a token -/

/-- A stitch whose holders will send: it is cast on or LIVE, and no RSAVE keeps it still. -/
def CSet.willSend (c : CSet) (k : Nat) : Bool :=
  ((c.rounds.at k).status == .cast || (c.rounds.at k).status == .live) && !c.rounds.muted k

/-- An SREG owes a passing token, or a held value that it will send. -/
def CSet.owesToken (c : CSet) (k : Nat) (e : SregEntry) : Bool :=
  e.due.any (fun d =>
    match d with
    | .held => c.willSend k
    | .pass _ => true)

def CSet.sregHolds (c : CSet) : Bool := c.fab.sregs.any (fun p => c.owesToken p.1.2 p.2)

/-- A memory node holds a request, a token of its reorder buffer, or a completion token. -/
def MnState.busy (m : MnState) : Bool := !m.reorder.isEmpty || m.pass.isSome || !m.dones.isEmpty

/-- The nodes that hold a token inside (R42's identifiers). -/
def Fabric.nodesBusy (f : Fabric) : List Nat :=
  (f.anq.filter (fun m => m.work.fromMx)).map (fun m => anId m.node) ++ f.pair.map (fun e => anId e.1)
    ++ f.rels.map (fun e => anId e.node)
    ++ (if f.gpFill.isEmpty then [] else [gpId]) ++ (if f.smq.isEmpty then [] else [smId]) ++ (f.mns.filter (fun e => e.2.busy)).map (fun e => mnId e.1)

/-- The nodes that hold a token, at an input or inside. -/
def Fabric.nodesHolding (f : Fabric) : List Nat := f.held.filterMap (fun p => nodeAt (placeOf p.1)) ++ f.nodesBusy

/-- No token is held in the fabric. -/
def CSet.empty0 (c : CSet) : Bool :=
  c.fab.held.isEmpty && c.fab.flights.isEmpty && c.fab.inq.isEmpty && c.fab.eorDue.isEmpty && c.fab.nodesBusy.isEmpty &&
    !c.sregHolds && !c.fab.consts.any (fun e => c.willSend e.2)

/-! ### A stitch that has run out (R147) -/

/-- What the holders of a configuration say of a stitch: one has been reached, and has stored its last token. -/
def Fabric.holderMarks (f : Fabric) (k : Nat) : List (Bool × Bool) :=
  (f.sregs.filter (fun p => p.1.2 == k)).map (fun p => (p.2.touched, p.2.gotLast))
    ++ (f.an.filter (fun p => p.1.2 == k)).map (fun p => (p.2.touched, p.2.gotLast))

/-- Every holder that a token of the stitch has reached has stored a token with last = 1, and no token of the stitch
remains. DESIGN CHOICE (assumption 112): one holder at least has been reached, so that a stitch whose configuration has no
holder, or to which no token has come, does not run out. -/
def Fabric.ranOut (f : Fabric) (k : Nat) : Bool :=
  (f.holderMarks k).any (fun m => m.2) && (f.holderMarks k).all (fun m => !m.1 || m.2) && f.tokensOf k true == 0

/-- A LIVE stitch that has run out: it becomes FREE in this cycle. -/
def CSet.runsOut (c : CSet) (k : Nat) : Bool := (c.rounds.at k).status == .live && c.fab.ranOut k

/-! ### Outstanding requests and other waits -/

/-- A message or yarn token that a network port of the core sent is on its way. -/
def Packet.fromPort (k : Packet) (core : Nat) : Bool :=
  k.src == core && k.way ≠ .delivered && k.way ≠ .lost && k.way ≠ .gone && match k.body with
    | .yarn _ _ _ => true
    | .route _ _ _ _ _ _ => k.op.isNone
    | _ => false

/-- A memory node's request is outstanding: its tokens have room to leave, or a write of it has not been applied. -/
def State.mnOpen (s : State) (f : Fabric) (m : MnState) : Bool :=
  m.pass.any (fun a => f.hasRoom a.par.dat) ||
    m.dones.any (fun d => d.writes.any (fun i => match s.net.packets.find? (fun k => k.id == i) with
      | some k => k.way ≠ .delivered && k.way ≠ .lost
      | none => false))

/-- The tokens an input port buffers, and whether it is full (R129). -/
def Fabric.inPort (f : Fabric) (q : Nat) : List PortTok := f.inq.filter (fun p => p.port == q)
def Fabric.portFull (f : Fabric) (q : Nat) : Bool := decide ((f.inPort q).length ≥ 4)

/-- A request of the configuration's nodes is outstanding. -/
def State.requestsOpen (s : State) (core : Nat) (f : Fabric) : Bool :=
  f.mns.any (fun e => s.mnOpen f e.2) || s.net.packets.any (fun k => k.fromPort core)

/-- The matrix node waits on a tile tag: of an MXW's tile, or of the ring it reads. -/
def CSet.tagWait (c : CSet) (im : Image) : Bool :=
  c.ops.any (fun o => match o.wait with
    | .latch even odd _ _ _ => !c.tagFull (tileOf even odd).tag
    | _ => false) ||
  match im.mx with
  | some p => p.tile && !c.tagFull ((tileOf p.ta p.tao).tag + c.fab.tileRow.1)
  | none => false

def Fabric.portClosed (f : Fabric) (q : Nat) : Bool := ((lookup q f.inPorts).map (fun r => r.closed)).getD false

/-- A HALT, CFGSW or CFGREL waits for the report, so that ports count as closed. -/
def CSet.waived (c : CSet) : Bool :=
  c.halting || c.ops.any (fun o => match o.wait with
    | .cfgsw => true
    | .cfgrel => true
    | _ => false)

/-- A request stands before a memory node that a SIGWAIT of the unit holds back (R238): it counts as outstanding. -/
def CSet.requestHeld (c : CSet) : Bool :=
  c.sigwaits && c.fab.held.any (fun p => match placeOf p.1 with | .mn _ _ => true | _ => false)

/-- A wait that prevents a deadlock report. -/
def State.detectorWaits (s : State) (k : Core) (im : Image) : Bool :=
  s.requestsOpen k.num k.set.fab || k.set.requestHeld || k.set.fab.mns.any (fun e => e.2.stop.isSome) ||
    (List.range im.P).any k.set.isSlip || k.set.tagWait im ||
    (!k.set.waived && (List.range 16).any (fun q => !k.set.fab.portClosed q))

/-- The 256 cycles count from the end of a wait (R24): while one lasts, the count starts again. -/
def State.postpone (s : State) (k : Core) : Core :=
  match k.set.fab.running with
  | some im =>
    if s.detectorWaits k im then
      { k with set := { k.set with fab := { k.set.fab with detect := { k.set.fab.detect with lastMove := s.cycle } } } }
    else k
  | none => k

/-! ### The report word (R144) -/

/-- A slot holds a token: at a position it reads, or one that it has still to send: what an SREG owes, the initial token of
a CONST slot without an input, the end of a reduction at an EOR slot. SREG slots store at once what reaches them. -/
def CSet.slotHolds (c : CSet) (r : SlotRec) : Bool :=
  ([0, 1, 2].any (fun pos => !(c.fab.heldAt (slotTarget r.num pos)).isEmpty) && !(r.instr.map isSreg).getD false) ||
    c.fab.sregs.any (fun p => p.1.1 == r.num && c.owesToken p.1.2 p.2) ||
    c.fab.consts.any (fun e => e.1 == r.num && c.willSend e.2) ||
    c.fab.eorDue.any (fun e => e.1 == r.num)

/-- The blocked slots: those that hold a token and are not ready. -/
def CSet.blocked (c : CSet) (im : Image) : List SlotRec := im.slots.filter (fun r => c.slotHolds r && !c.fab.ready im r)

/-- The lowest of some numbers. -/
def lowest : List Nat → Option Nat
  | [] => none
  | n :: rest =>
    match lowest rest with
    | some m => some (min n m)
    | none => some n

/-- The graph node of a node of the image. -/
def Image.nodeGraph (im : Image) (id : Nat) : BitVec 32 :=
  ((im.nodes.find? (fun b => b.id == id)).map NodeBlock.gnode).getD 0xFFFFFFFF

/-- A sink node or output port that the configuration targets has not passed a token with last = 1. -/
def Fabric.lastMissing (f : Fabric) (im : Image) : Bool :=
  im.targets.any (fun t =>
    match placeOf t with
    | .seq n => !((lookup n f.outPorts).map (fun r => r.last)).getD false
    | .sink n => !((lookup n f.sinks).map (fun r => r.lastSeen)).getD false
    | _ => false)

/-- The lowest blocked node, where no slot is blocked. -/
def CSet.blockedNode (c : CSet) (im : Image) : Option Nat :=
  if (c.blocked im).isEmpty then lowest c.fab.nodesHolding else none

/-- The report word; `kind` is 1 for completion and 2 for deadlock. DESIGN CHOICE (assumption 114): where neither a slot
nor a node is blocked, [22:14] and [63:32] are 0. -/
def CSet.reportWord (c : CSet) (im : Image) (kind : Nat) : Word :=
  let slots := c.blocked im
  let node := c.blockedNode im
  BitVec.ofNat 64 (kind + (c.fab.lastMissing im).toNat * 4 + node.isSome.toNat * 8 + min slots.length 1023 * 16 +
    match slots.head?, node with
    | some r, _ => r.num * 2 ^ 14 + (im.gnode r.num).toNat * 2 ^ 32
    | none, some n => n * 2 ^ 14 + (im.nodeGraph n).toNat * 2 ^ 32
    | none, none => 0)

/-! ### Reports -/

/-- The report that ends a wait at once: one that still stands, or that of a configuration that holds nothing and in which
nothing has moved. -/
def State.standing (s : State) : Option Word :=
  let f := s.core.set.fab
  match f.running with
  | none => none
  | some im =>
    if f.detect.standing then f.detect.report
    else if !f.detect.moved && s.core.set.empty0 && !s.requestsOpen s.core.num f then some (s.core.set.reportWord im 1)
    else none

/-- The detector of the current core is awake: neither frozen nor held (R332, R340). -/
def State.detects (s : State) : Bool := s.core.fabricRuns s.cycle && s.core.hold == .none && s.core.set.fab.detect.moved

def isDraw (o : Op) : Bool :=
  match o.wait with
  | .draw _ _ _ => true
  | _ => false

/-- Operations that only a report ends, once it is made: an SDRAW on an empty port completes with NOTOKEN, and after a
deadlock report an SFEED or SFEEDT that waits for room with DEADLOCK (R114, R133). -/
def CSet.reportEnds (c : CSet) (deadlock : Bool) (now : Nat) (o : Op) : Op :=
  match o.wait with
  | .draw q _ _ =>
    if (c.fab.heldAt (nodeTarget 6 q)).isEmpty then { o with wait := .ready (statusWord 0x28 0) .clear (now + 1) } else o
  | .feed q _ _ _ _ _ _ => if deadlock && c.fab.portFull q then { o with wait := .ready (statusWord 0x23 0) .clear (now + 1) } else o
  | .feedTile q even odd _ _ part =>
    if deadlock && c.fab.portFull q && (part != 0 || c.tags.getLsbD (tileOf even odd).tag) then
      { o with wait := .ready (statusWord 0x23 (part - 1)) .clear (now + 1) }
    else o
  | _ => o

/-- A report is made. -/
def State.makeReport (s : State) (im : Image) (kind : Nat) : State :=
  let w := s.core.set.reportWord im kind
  s.mapSet (fun c => { c with
    fab := { c.fab with detect := { c.fab.detect with report := some w, standing := true, moved := false } }
    ops := c.ops.map (c.reportEnds (kind == 2) s.cycle) })

/-- The stitch of a token that a slot holds. -/
def CSet.slotStitch (c : CSet) (r : SlotRec) : Option Nat :=
  match [0, 1, 2].findSome? (fun pos => ((c.fab.heldAt (slotTarget r.num pos)).head?.map Token.k)) with
  | some k => some k
  | none =>
    match c.fab.sregs.find? (fun p => p.1.1 == r.num && c.owesToken p.1.2 p.2) with
    | some p => some p.1.2
    | none =>
      match c.fab.consts.find? (fun e => e.1 == r.num && c.willSend e.2) with
      | some e => some e.2
      | none => (c.fab.eorDue.find? (fun e => e.1 == r.num)).map (fun e => e.2.k)

/-- The stitch of a token that a node holds at an input or, at an accumulator node, from MX. -/
def Fabric.nodeStitch (f : Fabric) (id : Nat) : Option Nat :=
  match f.held.find? (fun p => nodeAt (placeOf p.1) == some id) with
  | some p => some p.2.k
  | none => (f.anq.find? (fun m => anId m.node == id && m.work.fromMx)).map (fun m => m.stitch)

/-- The accumulator node of an even core whose release waits for its partner's (R202). -/
def State.pairWaits (s : State) (im : Image) : Option Nat :=
  let n := im.mxParams.an
  if im.usesMx && im.mxParams.split == 2 && s.core.num % 2 == 0 &&
      s.core.set.fab.anq.any (fun m => m.node == n && (s.core.set.fab.anWork m).releases) then some (anId n)
  else none

/-- The records of a deadlock: one for every blocked slot, and one for the accumulator node that waits for its partner's
release, or where no slot is blocked for the blocked node. -/
def State.deadlockRecords (s : State) (im : Image) (w : Word) : List LogRec :=
  let c := s.core.set
  let node (id : Nat) : LogRec := s.nodeRecord 0x06 ((c.fab.nodeStitch id).getD 0xFF) id (im.nodeGraph id) 0 w
  (c.blocked im).map (fun r => s.slotRecord 0x06 ((c.slotStitch r).getD 0xFF) r.num 0 w) ++
    (((s.pairWaits im).toList ++ (c.blockedNode im).toList).eraseDups).map node

/-- COMPLETION_REPORT: no token is held and no request is outstanding; a stitch that becomes FREE in the same cycle is
FREE first. -/
def execCompletionReport (s : State) : Out :=
  match s.core.set.fab.running with
  | some im =>
    when (s.detects && s.core.set.empty0 && !(List.range 64).any s.core.set.runsOut &&
         !s.requestsOpen s.core.num s.core.set.fab) s
      (fun s => s.makeReport im 1)
  | none => .next s

/-- A token is held, none has moved for 256 cycles, and no wait applies. -/
def State.deadlocked (s : State) (im : Image) : Bool :=
  s.detects && !s.core.set.empty0 && decide (s.cycle ≥ s.core.set.fab.detect.lastMove + 256) &&
    !s.detectorWaits s.core im

/-- DEADLOCK_REPORT: also the records of type 0x06. -/
def execDeadlockReport (s : State) : Out :=
  match s.core.set.fab.running with
  | some im =>
    when (s.deadlocked im) s (fun s =>
      let w := s.core.set.reportWord im 2
      ((s.deadlockRecords im w).foldl (fun t r => t.log s.unit.part r) s).makeReport im 2)
  | none => .next s

end Sys2Proof.Machine
end

