-- ==== Sys2Proof/Machine/LoadStore.lean ====
section
/-!
DEFINITION. Scalar loads and stores (R102 to R108, R229, R232).
-/

namespace Sys2Proof.Machine

/-! ### Loads -/

/-- The value a load of `size` bytes at pa takes from its location's 8 bytes, with the unit's own bytes over them; 4
bytes are sign-extended (R102, R107). -/
def loadValue (size pa : Nat) (loc : Word) (own : List Host.Cell) : Word :=
  let bs := overlay own pa (leBytes size (loc.toNat / 2 ^ (8 * (pa % 8))))
  if size = 4 then BitVec.signExtend 64 (BitVec.ofNat 32 (leNat bs)) else BitVec.ofNat 64 (leNat bs)

/-- A phase boundary that the unit asked for before operation `id` has not completed (R232). -/
def CSet.boundaryBefore (c : CSet) (id : Nat) : Bool :=
  c.ops.any (fun o => decide (o.id < id) && match o.wait with | .boundary _ _ => true | _ => false)

/-- The phase of the current unit that an operation stands in, before which no boundary is open: that which the first open
boundary behind it ends, else the unit's own (R229). -/
def State.phaseAt (s : State) (id : Nat) : Nat :=
  (s.core.set.ops.findSome? (fun o =>
    match o.wait with
    | .boundary k _ => if id < o.id then some k else none
    | _ => none)).getD s.unit.phase

/-- A load of the current unit performs: from a snapshot copy, when it holds one, no SIGWAIT bypasses it and the next
choice is 1; else a read request leaves for the home (R17, R238). The unit's own earlier writes that are still on their way
lie over what it reads (R107, R246). -/
def State.performLoad (s : State) (id pa size : Nat) (home : Bool) : State :=
  let own := s.ownCells id pa size
  let ask (s : State) : State :=
    (s.rewait id (.load pa size own home (some s.net.nextId))).inject
      { s.unitPacket (homeOf s.host.pins pa) 0 [] (.read pa home) (some id) with phase := s.phaseAt id }
  match lookup (pa / 8 * 8) s.core.set.snaps with
  | some v =>
    if home || s.atomicBefore s.unit.lid s.unit.index id pa size then ask s
    else if s.choose = 1 then s.chosen.settle id (loadValue size pa v own) .clear
    else ask s.chosen
  | none => ask s

/-- A global load begins; a phase boundary of the unit that has not completed holds it back (R232). -/
def State.beginLoad (s : State) (d : Reg) (pa size : Nat) : State :=
  let home := s.unit.bypass
  let started := s.begin d .other (.load pa size [] home none)
  if s.core.set.boundaryBefore s.net.nextId then started else started.performLoad s.net.nextId pa size home

/-- The value of a window load, or the error that it meets (R103, R105). -/
def State.windowLoad (s : State) (d : Reg) (pa size : Nat) : State :=
  match s.readError pa size with
  | some e => (s.report s.part.num s.core.num pa size e).later d .other 0 .token 4
  | none => s.later d .other (loadValue size pa (s.mem.word (pa / 8 * 8)) []) .clear 4

/-- An access to the global part waits for an earlier FENCE or SIGWAIT, and for a place in the retention buffer
(R236, R238, R264). -/
def State.globalHeld (s : State) (va : Word) : Bool :=
  decide (va.toNat < windowBase) && (s.core.set.fenced || s.retentionFull)

/-- A read made within an issue step waits besides for the unit's own atomics, whose results it has to see (R246). -/
def State.readHeld (s : State) (va : Word) : Bool :=
  s.globalHeld va || (decide (va.toNat < windowBase) && s.atomicOpen)

/-- A load with its checks at issue (R102, R103). -/
def loadInstr (i : Instr) (d a : Reg) (imm : BitVec 14) (size : Nat) (s : State) : Out :=
  issue i ⟨[a], d, 0⟩
    (fun s =>
      let va := s.reg a + sx14 imm
      if s.globalHeld va then s
      else match s.checked .read va size size with
        | (t, .error c) => t.trap c va
        | (t, .ok (_, [])) => t.advance
        | (t, .ok (true, sp :: _)) => (t.windowLoad d sp.pa size).advance
        | (t, .ok (false, sp :: _)) => (t.beginLoad d sp.pa size).advance) s

def execLdw (d a : Reg) (i : BitVec 14) (s : State) : Out := loadInstr (.ldw d a i) d a i 4 s
def execLdd (d a : Reg) (i : BitVec 14) (s : State) : Out := loadInstr (.ldd d a i) d a i 8 s

/-! ### Stores -/

/-- A store with its checks at issue: at once in the window, else a write on its way to its home (R102, R103, R229). -/
def storeInstr (i : Instr) (d a : Reg) (imm : BitVec 14) (size : Nat) (s : State) : Out :=
  issue i ⟨[a, d], 0, 0⟩
    (fun s =>
      let va := s.reg a + sx14 imm
      if s.globalHeld va then s
      else match s.checked .write va size size with
        | (t, .error c) => t.trap c va
        | (t, .ok (window, spans)) =>
          (t.write .sequencer window spans (leBytes size (s.reg d).toNat)).1.advance) s

def execStw (d a : Reg) (i : BitVec 14) (s : State) : Out := storeInstr (.stw d a i) d a i 4 s
def execStd (d a : Reg) (i : BitVec 14) (s : State) : Out := storeInstr (.std d a i) d a i 8 s

end Sys2Proof.Machine
end

