-- ==== Sys2Proof/Machine/Cfg.lean ====
section
/-!
DEFINITION. CFG instructions (R112 to R119). What CFGSW, CFGREL, DRAIN, QWAIT and a running CFGPARM still wait for is
ended by TOKEN_COMPLETION.
-/

namespace Sys2Proof.Machine

/-! ### Reading an image or a block (R43, R44, R116) -/

/-- The bytes of a range from va up, and the address of the first byte that could not be read. -/
def State.readUpTo (s : State) (va len : Nat) : State × List Byte × Option Nat :=
  let stop := if inWindowPart va then windowBase + windowSize s.core.sliced else windowBase
  let n := min len (stop - va)
  let cut := if n < len then some (va + n) else none
  let take (s : State) (window : Bool) (spans : List Span) (cut : Option Nat) : State × List Byte × Option Nat :=
    match State.readSpans window spans s with
    | (s, bs, some (_, sp)) => (s, bs, some sp.va)
    | (s, bs, none) => (s, bs, cut)
  match s.resolve .read va n with
  | (s, .ok (window, spans)) => take s window spans cut
  | (s, .error (_, at0)) =>
    match s.resolve .read va (at0 - va) with
    | (s, .ok (window, spans)) => take s window spans (some at0)
    | (s, .error _) => (s, [], some va)

/-- An RLOAD or RSAVE of the unit is incomplete (R151). -/
def State.moving (s : State) : Bool := s.unfinished [.move]

/-- A CFG instruction of the unit has still to take its effect, whatever its token register: a later one takes its own
after it (R113; assumption 109). -/
def State.cfgOwed (s : State) : Bool :=
  s.core.set.ops.any (fun o => o.cls == .cfg && match o.wait with
    | .cfgsw | .cfgrel | .parm _ _ => true
    | _ => false)

/-- A CFG instruction issues: no CFG, STRM or MAT instruction of the unit is in progress, none of the CFG class has still
to take its effect, and no RLOAD or RSAVE is incomplete (R113, R151, R206). -/
def cfgIssue (i : Instr) (n : Needs) (body : State → State) (s : State) : Out :=
  issueUnless (fun s => s.inProgress [.cfg, .strm, .mat] || s.cfgOwed || s.moving) i n body s

/-- An uncorrectable error met where the address checks have passed: an error completion with the value 0 (R103). -/
def State.readFails (s : State) (t : Reg) (cls : OpClass) : State := s.later t cls 0 .token 1

/-! ### CFGLD -/

/-- The answer of the loader: the image staged with its nodes' translations, or the rejection mark set. -/
def State.stage (s : State) (t : Reg) (r : Except Word Image) (pages : List (Nat × TlbEntry)) : State :=
  match r with
  | .ok im => (s.mapFab (fun f => { f with staged := some im, pages := pages, mark := none })).later t .cfg im.gid .clear 1
  | .error w => (s.mapFab (fun f => { f with mark := some w })).later t .cfg w .cfgbad 1

/-- The bytes of an image that are read: what its header says, and no more than the largest image takes. -/
def imageLen (head : List Byte) : Nat := max 64 (min (field head 0x28 4) 16384)

def execCfgld (t a : Reg) (s : State) : Out :=
  cfgIssue (.cfgld t a) ⟨[a], t, 0⟩
    (fun s =>
      let va := s.reg a
      if s.readHeld va then s
      else match s.checked .read va 64 64 with
        | (u, .error c) => u.trap c va
        | (u, .ok (window, spans)) =>
          match State.readSpans window spans u with
          | (u, _, some _) => (u.readFails t .cfg).advance
          | (u, head, none) =>
            match u.readUpTo (va.toNat + 64) (imageLen head - 64) with
            | (u, rest, limit) =>
              let cut := limit.map (fun n => n - va.toNat)
              match u.translateNodes (head ++ rest) cut with
              | (u, pages) => (u.stage t (u.loadImage (head ++ rest) cut) pages).advance) s

/-! ### CFGSW and CFGREL -/

/-- The running configuration is released: its node state, its tokens and its yarns go with it (R112, R273). -/
def Fabric.release (f : Fabric) : Fabric := { Fabric.empty with staged := f.staged, pages := f.pages, mark := f.mark }

/-- An image becomes running, to start at the next round boundary of its P (R116), with translations patched into its
generators (R175). -/
def Fabric.run (f : Fabric) (im : Image) (now : Nat) (pages : List (Nat × TlbEntry)) : Fabric :=
  { Fabric.empty with
    running := some im
    started := (now / im.P + 1) * im.P
    mark := f.mark
    mns := pages.map (fun e => (e.1, { MnState.zero with tlb := [e.2] })) }

/-- The staged image moves into the running store. -/
def State.switchConfig (s : State) : State :=
  match s.core.set.fab.staged with
  | some im => s.mapFab (fun f => f.run im s.cycle f.pages)
  | none => s

def Image.roundWord (im : Image) : Word := BitVec.ofNat 64 im.P

def execCfgsw (t : Reg) (s : State) : Out :=
  cfgIssue (.cfgsw t) ⟨[], t, 0⟩
    (fun s =>
      match s.core.set.fab.mark, s.core.set.fab.staged, s.core.set.fab.running with
      | some w, _, _ => (s.mapFab (fun f => { f with mark := none })).trap causeCfgbad w
      | none, none, _ => (s.failsAs t .cfg 0x20).advance
      | none, some im, none => (s.switchConfig.later t .cfg im.roundWord .clear 1).advance
      | none, some _, some _ => (s.begin t .cfg .cfgsw).advance) s

/-- A stitch of the core is not FREE. -/
def CSet.stitchBusy (c : CSet) : Bool := (List.range 64).any (fun k => (c.rounds.at k).status ≠ .free)

/-- What a report makes of a CFGSW or CFGREL that waits: DEADLOCK, BUSY, or the change (R116). -/
def State.afterReport (s : State) (id : Nat) (w : Word) (change : State → State) (v : Word) : State :=
  if wspan w 0 2 = 2 then s.settle id (statusWord 0x23 0) .clear
  else if s.core.set.stitchBusy then s.settle id (statusWord 0x21 0) .clear
  else (change s).settle id v .clear

def State.endCfgsw (s : State) (id : Nat) : State :=
  match s.standing, s.core.set.fab.staged with
  | some w, some im => s.afterReport id w State.switchConfig im.roundWord
  | _, _ => s

def execCfgrel (t : Reg) (s : State) : Out :=
  cfgIssue (.cfgrel t) ⟨[], t, 0⟩
    (fun s =>
      match s.core.set.fab.running with
      | none => (s.failsAs t .cfg 0x22).advance
      | some _ => (s.begin t .cfg .cfgrel).advance) s

def State.endCfgrel (s : State) (id : Nat) : State :=
  match s.standing with
  | some w => s.afterReport id w (fun s => s.mapFab Fabric.release) 0
  | none => s

/-! ### CFGPARM (R117, R118) -/

/-- A rejected block. -/
def State.parmBad (s : State) (t : Reg) (w : Word) : State := s.later t .cfg w .cfgbad 1

/-- The block once it has been read: its own checks, then the store with it in place. -/
def State.parm (s : State) (t : Reg) (q : BitVec 1) (bs : List Byte) (limit : Option Nat) : State :=
  let own := (blockBads bs).filter (fun b => match limit with | some n => decide (b.field < n) | none => true)
  let cut := match limit with | some n => [(⟨0, subRead, noSlot, n⟩ : Bad)] | none => []
  match firstBad Bad.field (own ++ cut) with
  | some b => s.parmBad t b.blockWord
  | none =>
    if q = 0 then
      match s.core.set.fab.staged with
      | none => s.failsAs t .cfg 0x20
      | some im =>
        match s.walkFirst im.P (nodeOf (field bs 0 2) bs) with
        | (s, pages) =>
          match s.loadBlock im bs false with
          | .error w => s.parmBad t w
          | .ok new =>
            (s.mapFab (fun f => { f with
              staged := some new
              pages := pages ++ f.pages.filter (fun e => !pages.any (fun x => x.1 == e.1)) })).later t .cfg 0 .clear 1
    else
      match s.core.set.fab.running with
      | none => s.failsAs t .cfg 0x22
      | some im =>
        let s := (s.walkFirst im.P (nodeOf (field bs 0 2) bs)).1
        match s.loadBlock im bs true with
        | .error w => s.parmBad t w
        | .ok _ => s.begin t .cfg (.parm (nodeOf (field bs 0 2) bs) 0)

/-- The bytes of a block after its head: those of its class where the length field gives them. -/
def blockRest (head : List Byte) : Nat :=
  match blockLen (field head 0 2) with
  | some n => if field head 2 2 = n then n - 8 else 0
  | none => 0

def execCfgparm (t a : Reg) (q : BitVec 1) (s : State) : Out :=
  cfgIssue (.cfgparm t a q) ⟨[a], t, 0⟩
    (fun s =>
      let va := s.reg a
      if s.readHeld va then s
      else match s.checked .read va 8 8 with
        | (u, .error c) => u.trap c va
        | (u, .ok (window, spans)) =>
          match State.readSpans window spans u with
          | (u, _, some _) => (u.readFails t .cfg).advance
          | (u, head, none) =>
            match u.readUpTo (va.toNat + 8) (blockRest head) with
            | (u, rest, limit) => (u.parm t q (head ++ rest) (limit.map (fun n => n - va.toNat))).advance) s

/-- The node is at a token boundary (R119): a memory node is between two requests, an accumulator node sends no release;
the others take whole tokens. -/
def Fabric.atBoundary (f : Fabric) (b : NodeBlock) : Bool :=
  match b with
  | .mn n _ => (((lookup n f.mns).map (fun m => m.pass.isNone)).getD true)
  | .an n _ => !f.rels.any (fun e => e.node == n)
  | _ => true

/-- The block takes effect in the running store. -/
def State.endParm (s : State) (id : Nat) (b : NodeBlock) (v : Word) : State :=
  match s.core.set.fab.running with
  | some im =>
    if s.core.set.fab.atBoundary b then (s.mapFab (fun f => { f with running := some (im.replace b) })).settle id v .clear
    else s
  | none => s.settle id v .clear

/-! ### DRAIN and QWAIT -/

/-- Every input port closed. -/
def Fabric.closeAll (f : Fabric) : Fabric :=
  { f with inPorts := (List.range 16).foldl (fun l q => insert q { (lookup q l).getD .zero with closed := true } l) f.inPorts }

def execDrain (t : Reg) (s : State) : Out :=
  cfgIssue (.drain t) ⟨[], t, 0⟩
    (fun s =>
      match s.core.set.fab.running with
      | none => (s.failsAs t .cfg 0x22).advance
      | some _ => ((s.mapFab Fabric.closeAll).begin t .cfg .drain).advance) s

def execQwait (t : Reg) (s : State) : Out :=
  cfgIssue (.qwait t) ⟨[], t, 0⟩
    (fun s =>
      match s.core.set.fab.running with
      | none => (s.later t .cfg 1 .clear 1).advance
      | some _ => (s.begin t .cfg .qwait).advance) s

/-- The report word completes a DRAIN or QWAIT. -/
def State.endWithReport (s : State) (id : Nat) : State :=
  match s.standing with
  | some w => s.settle id w .clear
  | none => s

end Sys2Proof.Machine
end

