-- ==== Sys2Proof/Machine/Strm.lean ====
section
/-!
DEFINITION. STRM instructions (R113, R114, R129 to R133). What SFEED, SFEEDT and SDRAW still wait for is ended by
TOKEN_COMPLETION.
-/

namespace Sys2Proof.Machine

/-- A STRM instruction issues: no CFG instruction and no RLOAD or RSAVE of the unit is in progress (R113, R151). -/
def strmIssue (i : Instr) (n : Needs) (body : State → State) (s : State) : Out :=
  issueUnless (fun s => s.inProgress [.cfg] || s.moving) i n body s

/-! ### Feeding -/

def feedTag (v : Word) : Tag := Tag.ofBits (wspan v 0 16)
def feedTarget (v : Word) : Target := BitVec.ofNat 11 (wspan v 16 11)

/-- A tag whose cause is not zero where its kind is not error. -/
def Tag.misCaused (t : Tag) : Bool := t.cause ≠ 0 && t.kind ≠ .error

/-- A target that reads what is fed to it: a position the slot reads, or a node input that the node reads (R114). -/
def Image.fedAt (im : Image) (t : Target) : Bool :=
  match placeOf t with
  | .slot n pos => (im.slot n).any (fun r => (im.reads r).contains pos)
  | _ => im.accepts t

/-- The status of a feed that cannot be made (R114). -/
def State.feedStatus (s : State) (port : Nat) (v : Word) : Option Nat :=
  match s.core.set.fab.running with
  | none => some 0x22
  | some im =>
    if s.core.set.fab.portClosed port then some 0x24
    else if feedTarget v = noTarget ∨ !im.fedAt (feedTarget v) ∨ im.targets.contains (feedTarget v) then some 0x25
    else if (feedTag v).stitch.toNat ≥ im.P ∨ (feedTag v).misCaused then some 0x26
    else none

def execSfeed (t a b : Reg) (q : BitVec 4) (s : State) : Out :=
  strmIssue (.sfeed t a b q) ⟨[a, b], t, 0⟩
    (fun s =>
      let va := s.reg a
      if s.readHeld va then s
      else match s.checked .read va 16 128 with
        | (u, .error c) => u.trap c va
        | (u, .ok (window, spans)) =>
          match s.feedStatus q.toNat (s.reg b) with
          | some n => (u.failsAs t .strm n).advance
          | none => (u.begin t .strm (.feed q.toNat window spans (feedTag (s.reg b)) (feedTarget (s.reg b)) s.unit.phase
            s.unit.bypass)).advance) s

/-- The input port that an operation feeds. -/
def Wait.feedsPort (w : Wait) (port : Nat) : Bool :=
  match w with
  | .feed p _ _ _ _ _ _ => p == port
  | .feedTile p _ _ _ _ _ => p == port
  | _ => false

/-- The output port that an operation draws from. -/
def Wait.drawsPort (w : Wait) (port : Nat) : Bool :=
  match w with
  | .draw p _ _ => p == port
  | _ => false

/-- Of the operations of a kind, `id` was issued first. -/
def CSet.firstOf (c : CSet) (id : Nat) (kind : Wait → Bool) : Bool :=
  c.ops.all (fun o => !kind o.wait || decide (id ≤ o.id))

/-- A token enters an input port. -/
def Fabric.enqueue (f : Fabric) (port : Nat) (tgt : Target) (k : Token) (now : Nat) : Fabric :=
  Fabric.move { f with inq := f.inq ++ [⟨port, tgt, k⟩] } now

/-- The payload of an SFEED is read and enters its port, once the port has a free place (R130). DESIGN CHOICE (assumption
111): one that waited when SCLOSE closed its port still enters. -/
def State.endFeed (s : State) (id port : Nat) (window : Bool) (spans : List Span) (tag : Tag) (tgt : Target) (phase : Nat)
    (home : Bool) : State :=
  if s.core.set.fab.portFull port || !s.core.set.firstOf id (fun w => w.feedsPort port) then s
  else match s.readAs phase home (State.readSpans window spans) with
    | (s, _, some _) => s.settle id 0 .token
    | (s, bs, none) => (s.mapFab (fun f => f.enqueue port tgt ⟨tag, payloadOf bs⟩ s.cycle)).settle id 0 .clear

/-- The status of an SFEEDT's tile reference (R114, R130). -/
def Tile.feedStatus (t : Tile) (size : Nat) : Option Nat :=
  if !t.valid size then some 0x40
  else if t.units > 8 then some 0x45
  else if t.badFormat then some 0x41
  else none

def execSfeedt (t a b : Reg) (q : BitVec 4) (s : State) : Out :=
  strmIssue (.sfeedt t a b q) ⟨[a, pairOf a, b], t, 0⟩
    (fun s =>
      let even := s.reg a
      let odd := s.reg (pairOf a)
      match s.feedStatus q.toNat (s.reg b), (tileOf even odd).feedStatus (windowSize s.core.sliced) with
      | some n, _ => (s.failsAs t .strm n).advance
      | none, some n => (s.failsAs t .strm n).advance
      | none, none =>
        (s.begin t .strm (.feedTile q.toNat even odd (feedTag (s.reg b)) (feedTarget (s.reg b)) 0)).advance) s

/-- The spans of row r of tile j in the current core's window. -/
def State.rowSpans (s : State) (t : Tile) (j r : Nat) : List Span :=
  (List.range t.units).map (fun u =>
    ⟨windowBase + t.offset j r u, windowPa s.core.num s.core.sliced s.core.half (t.offset j r u), 16⟩)

/-- An SFEEDT's next part (R130): part 0 is the wait for the tile's tag to be FULL, part r + 1 row r, which enters its port
once that has a free place; after the last row the tag becomes EMPTY. -/
def State.endFeedTile (s : State) (id port : Nat) (even odd : Word) (tag : Tag) (tgt : Target) (part : Nat) : State :=
  let t := tileOf even odd
  if !s.core.set.firstOf id (fun w => w.feedsPort port) then s
  else if part = 0 then
    if s.core.set.tags.getLsbD t.tag then s.rewait id (.feedTile port even odd tag tgt 1) else s
  else if s.core.set.fab.portFull port then s
  else match State.readSpans true (s.rowSpans t 0 (part - 1)) s with
    | (s, _, some _) => s.settle id 0 .token
    | (s, bs, none) =>
      let lastRow := decide (part ≥ t.rows)
      let s := s.mapFab (fun f =>
        f.enqueue port tgt ⟨{ tag with last := tag.last && lastRow }, payloadOf bs⟩ s.cycle)
      if lastRow then (s.setTag t.tag false).settle id (BitVec.ofNat 64 t.rows) .clear
      else s.rewait id (.feedTile port even odd tag tgt (part + 1))

/-! ### Drawing -/

def execSdraw (t a : Reg) (q : BitVec 4) (s : State) : Out :=
  strmIssue (.sdraw t a q) ⟨[a], t, 0⟩
    (fun s =>
      let va := s.reg a
      if s.globalHeld va then s
      else match s.checked .write va 16 128 with
        | (u, .error c) => u.trap c va
        | (u, .ok (window, spans)) =>
          if s.core.set.fab.running.isNone then (u.failsAs t .strm 0x22).advance
          else (u.begin t .strm (.draw q.toNat window spans)).advance) s

/-- The first token of an output port is drawn, and its payload written (R130, R131). -/
def State.endDraw (s : State) (id port : Nat) (window : Bool) (spans : List Span) : State :=
  match (s.core.set.fab.heldAt (nodeTarget 6 port)).head? with
  | none => s
  | some k =>
    if (!window && s.retentionFull) || !s.core.set.firstOf id (fun w => w.drawsPort port) then s
    else
      let s := s.mapFab (fun f => Fabric.move { f with held := removeHeld (nodeTarget 6 port) k.k f.held } s.cycle)
      (s.write .sequencer window spans (payloadBytes k.payload)).1.settle id k.tagWord
        (if k.isError then .fabric (BitVec.ofNat 4 port) else .clear)

/-! ### Ports, sinks and tags -/

def execSclose (t : Reg) (q : BitVec 4) (s : State) : Out :=
  strmIssue (.sclose t q) ⟨[], t, 0⟩
    (fun s =>
      if s.core.set.fab.running.isNone then (s.failsAs t .strm 0x22).advance
      else ((s.mapFab (fun f => { f with
        inPorts := insert q.toNat { (lookup q.toNat f.inPorts).getD .zero with closed := true } f.inPorts })).later
          t .strm 0 .clear 2).advance) s

/-- A port's status word (R133). -/
def portWord (tokens : Nat) (r : PortRec) : Word :=
  BitVec.ofNat 64 (min tokens 4 + r.closed.toNat * 8 + r.passed.toNat * 2 ^ 16)

/-- A sink node's status word (R133). -/
def SinkRec.word (r : SinkRec) : Word :=
  BitVec.ofNat 64 (r.consumed.toNat + r.lastSeen.toNat * 2 ^ 24 + r.errSeen.toNat * 2 ^ 25 + r.firstTag.toNat * 2 ^ 32
    + r.errors.toNat * 2 ^ 48)

/-- The status word of a selector of SSTAT. DESIGN CHOICE (assumption 111): with no running configuration every count of it
is zero. -/
def Fabric.statusOf (f : Fabric) (n : Nat) : Word :=
  if n < 16 then portWord (f.inPort n).length ((lookup n f.inPorts).getD .zero)
  else if n < 32 then
    portWord (f.heldAt (nodeTarget 6 (n - 16))).length { (lookup (n - 16) f.outPorts).getD .zero with closed := false }
  else ((lookup (n - 32) f.sinks).getD .zero).word

def execSstat (t a : Reg) (s : State) : Out :=
  strmIssue (.sstat t a) ⟨[a], t, 0⟩
    (fun s =>
      if (s.reg a).toNat > 63 then (s.failsAs t .strm 0x27).advance
      else (s.later t .strm (s.core.set.fab.statusOf (s.reg a).toNat) .clear 2).advance) s

/-- The states of 64 tags from one on; a tag at or above 1024 reads as 0. -/
def CSet.tagWord (c : CSet) (n : Nat) : Word := BitVec.ofNat 64 (c.tags.toNat / 2 ^ n)

/-- Tags n to n + count − 1 set by the unit. -/
def CSet.setTags (c : CSet) (n count : Nat) (full : Bool) : CSet :=
  c.putUnitTags (BitVec.ofNat 1024 ((2 ^ count - 1) * 2 ^ n)) full

def tagInstr (i : Instr) (t a b : Reg) (full : Bool) (s : State) : Out :=
  strmIssue i ⟨[a, b], t, 0⟩
    (fun s =>
      let n := (s.reg a).toNat
      let count := (s.reg b).toNat
      if count > 64 ∨ n + count > 1024 then (s.failsAs t .strm 0x27).advance
      else ((s.mapSet (fun c => c.setTags n count full)).later t .strm (s.core.set.tagWord n) .clear 2).advance) s

def execTagset (t a b : Reg) (s : State) : Out := tagInstr (.tagset t a b) t a b true s
def execTagclr (t a b : Reg) (s : State) : Out := tagInstr (.tagclr t a b) t a b false s

end Sys2Proof.Machine
end

