-- ==== Sys2Proof/Machine/Engine.lean ====
section
/-!
DEFINITION. Copy engines (R182 to R187): operations enter their queue at issue, start by ENGINE_OPERATION_START, and
copy on, a read request or 256 bytes at a time, and complete once their writes have been applied.
-/

namespace Sys2Proof.Machine

/-! ### Failures and queues (R182, R183, R186) -/

/-- A failure: the status, and the address concerned in [55:8]. -/
def engStatus (status va : Nat) : Word := statusWord status (va % 2 ^ 48)

def State.engFails (s : State) (t : Reg) (status va : Nat) : State := s.later t .other (engStatus status va) .clear 1

/-- The operations of a queue, in order. -/
def CSet.queueOps (c : CSet) (q : Nat) : List EngOp := c.eng.filter (fun e => e.queue == q)

/-- The operations that standing fences put before a new operation of queue q. -/
def CSet.fencedBy (c : CSet) (q : Nat) : List Nat :=
  (c.fences.filter (fun f => f.mask.getLsbD q)).flatMap (fun f => f.ids.filter (fun i => c.eng.any (fun e => e.id == i)))

/-- An operation enters its queue. -/
def State.enterQueue (s : State) (t : Reg) (q : Nat) (work : EngWork) : State :=
  (s.begin t .other (.engine s.net.nextId)).mapSet (fun c => { c with
    eng := c.eng ++ [⟨s.net.nextId, q, t, work, s.core.set.fencedBy q, s.unit.phase, s.unit.bypass, none⟩] })

/-- An ENG instruction that names a queue: it stalls while the queue is full; `check` is the status and address of a
failure of its operands. -/
def engInstr (i : Instr) (t : Reg) (regs : List Reg) (q : BitVec 4) (check : State → Option (Nat × Nat))
    (work : State → EngWork) (s : State) : Out :=
  issue i ⟨regs, t, 0⟩
    (fun s =>
      if (s.core.set.queueOps q.toNat).length ≥ 16 then s
      else match check s with
        | some f => (s.engFails t f.1 f.2).advance
        | none => (s.enterQueue t q.toNat (work s)).advance) s

/-! ### Checks of operands (R183, R185) -/

/-- A bad length, a bad address, in that order of mention. -/
def lengthBad (len : Nat) : Bool := len = 0 || len % 16 ≠ 0 || decide (len > 2 ^ 32)

def shapeCheck (addrs : List Nat) (len : Nat) : Option (Nat × Nat) :=
  match addrs.find? (fun a => a % 16 ≠ 0) with
  | some a => some (0x45, a)
  | none => if lengthBad len then some (0x45, 0) else none

def overlap (a b len : Nat) : Bool := decide (a < b + len) && decide (b < a + len)

def copyCheck (dst src len : Nat) : Option (Nat × Nat) :=
  match shapeCheck [dst, src] len with
  | some f => some f
  | none => if overlap dst src len then some (0x47, dst) else none

/-- The stride of b + 1, sign-extended to 64 bits, and the tile index. -/
def strideArg (v : Word) : BitVec 32 := BitVec.ofNat 32 (wspan v 0 32)
def tileArg (v : Word) : Nat := wspan v 32 4

/-- The checks of a tile reference and the memory side of ACOPY2 and ACOPYB; `high` holds the bits of b + 1 that must
be zero. -/
def tileCheck (t : Tile) (size j mem : Nat) (stride : BitVec 32) (high : Nat) : Option (Nat × Nat) :=
  if !t.valid size || decide (j ≥ t.depth) then some (0x40, 0)
  else if t.badFormat then some (0x41, 0)
  else if mem % 16 ≠ 0 then some (0x45, mem)
  else if stride.toNat % 16 ≠ 0 ∨ high ≠ 0 then some (0x45, 0)
  else none

def execAcopy (t a b : Reg) (q : BitVec 4) (s : State) : Out :=
  engInstr (.acopy t a b q) t [a, b, pairOf b] q
    (fun s => copyCheck (s.reg a).toNat (s.reg b).toNat (s.reg (pairOf b)).toNat)
    (fun s => .copy (s.reg a).toNat (s.reg b).toNat (s.reg (pairOf b)).toNat) s

def execAcopy2 (t a b : Reg) (q : BitVec 4) (s : State) : Out :=
  engInstr (.acopy2 t a b q) t [a, pairOf a, b, pairOf b] q
    (fun s => tileCheck (tileOf (s.reg a) (s.reg (pairOf a))) (windowSize s.core.sliced) (tileArg (s.reg (pairOf b)))
      (s.reg b).toNat (strideArg (s.reg (pairOf b))) (wspan (s.reg (pairOf b)) 37 27))
    (fun s => .tile (s.reg a) (s.reg (pairOf a)) (s.reg b) (strideArg (s.reg (pairOf b))) (tileArg (s.reg (pairOf b)))
      ((s.reg (pairOf b)).getLsbD 36)) s

def execAfill (t a b : Reg) (q : BitVec 4) (s : State) : Out :=
  engInstr (.afill t a b q) t [a, b, pairOf b] q
    (fun s => shapeCheck [(s.reg a).toNat] (s.reg (pairOf b)).toNat)
    (fun s => .fill (s.reg a).toNat (s.reg (pairOf b)).toNat (s.reg b)) s

/-! ### ACOPYB (R185) -/

/-- The cores of a subtree that contains a core: level 0 the core itself, 1 its L1 group, 2 its L2 subtree, 3 its die. -/
def subtreeCores (core level : Nat) : List Nat :=
  (List.range (4 ^ level)).map (fun i => core / 4 ^ level * 4 ^ level + i)

/-- The set of a core that runs a unit of a launch, with the half of the scratchpad that it has. -/
def Core.launchSet (k : Core) (lid : BitVec 32) : Option (CSet × Bool) :=
  if k.set.runs lid then some (k.set, k.half)
  else match k.shadow with
    | some c => if c.runs lid then some (c, !k.half) else none
    | none => none

/-- A core of the subtree outside the launch, or one whose window is of another size. -/
def State.regionBad (s : State) (level : Nat) : Bool :=
  (subtreeCores s.core.num level).any (fun n =>
    ((s.coreAt n).launchSet s.unit.lid).isNone || (s.coreAt n).sliced != s.core.sliced)

def execAcopyb (t a b : Reg) (q : BitVec 4) (s : State) : Out :=
  engInstr (.acopyb t a b q) t [a, pairOf a, b, pairOf b] q
    (fun s =>
      let w := s.reg (pairOf b)
      if s.regionBad (wspan w 37 2) then some (0x46, 0)
      else tileCheck (tileOf (s.reg a) (s.reg (pairOf a))) (windowSize s.core.sliced) (tileArg w) (s.reg b).toNat
        (strideArg w) (wspan w 36 1 + wspan w 39 25))
    (fun s =>
      let w := s.reg (pairOf b)
      .spread (s.reg a) (s.reg (pairOf a)) (s.reg b) (strideArg w) (tileArg w) (subtreeCores s.core.num (wspan w 37 2))) s

/-! ### QFENCE (R186) -/

def execQfence (t a : Reg) (s : State) : Out :=
  issue (.qfence t a) ⟨[a], t, 0⟩
    (fun s =>
      let mask : BitVec 16 := BitVec.ofNat 16 (wspan (s.reg a) 0 16)
      let ids := (s.core.set.eng.filter (fun e => mask.getLsbD e.queue)).map (fun e => e.id)
      if ids.isEmpty then (s.later t .other 0 .clear 1).advance
      else ((s.begin t .other (.queues ids)).mapSet (fun c => { c with fences := c.fences ++ [⟨mask, ids⟩] })).advance) s

/-! ### One unit of 16 bytes (R183, R350) -/

/-- Where a 16-byte unit leads: the scratchpad window, a home, or a peer module. -/
inductive EngAt where
  | window (sp : Span)
  | home (sp : Span)
  | peer (va : Nat)
  deriving DecidableEq, Repr

/-- A unit's place; remote windows serve ACOPY only. -/
def State.unitAt (s : State) (kind : AccKind) (peers : Bool) (va : Nat) : State × Except XFault EngAt :=
  if va ≥ 2 ^ 48 then (s, .error .access)
  else if peers && !inWindowPart va && (s.part.windowAt va).isSome then (s, .ok (.peer va))
  else match s.resolve kind va 16 with
    | (s, .ok (true, sp :: _)) => (s, .ok (.window sp))
    | (s, .ok (false, sp :: _)) => (s, .ok (.home sp))
    | (s, .ok (_, [])) => (s, .error .access)
    | (s, .error f) => (s, .error f.1)

/-- A source unit: at an address, or given. -/
inductive EngSrc where
  | at (va : Nat)
  | given (bs : List Byte)
  deriving DecidableEq, Repr

/-- A source unit's bytes, or the status and address of a fault. A peer module's bytes are free. -/
def State.readUnit (s : State) (peers : Bool) (src : EngSrc) : State × Except (Nat × Nat) (List Byte) :=
  match src with
  | .given bs => (s, .ok bs)
  | .at va =>
    match s.unitAt .read peers va with
    | (s, .error f) => (s, .error (f.status, va))
    | (s, .ok (.peer _)) => (s.spent, .ok ((payloadBytes (Config.freePayload s.free)).take 16))
    | (s, .ok (.window sp)) =>
      match s.readSpan true sp with
      | (s, .ok bs) => (s, .ok bs)
      | (s, .error _) => (s, .error (0x44, va))
    | (s, .ok (.home sp)) =>
      match s.readSpan false sp with
      | (s, .ok bs) => (s, .ok bs)
      | (s, .error _) => (s, .error (0x44, va))

/-- The units of an operation in ascending order up to the first fault: where each goes with its bytes, and the fault. -/
def State.gather (peers : Bool) : List (Nat × EngSrc) → State → State × List (EngAt × List Byte) × Option (Nat × Nat)
  | [], s => (s, [], none)
  | (dst, src) :: rest, s =>
    match s.readUnit peers src with
    | (s, .error f) => (s, [], some f)
    | (s, .ok bs) =>
      match s.unitAt .write peers dst with
      | (s, .error f) => (s, [], some (f.status, dst))
      | (s, .ok p) =>
        match State.gather peers rest s with
        | (s, more, f) => (s, (p, bs) :: more, f)

/-! ### The requests and the writes of an operation -/

/-- A packet of an operation for the peer module of a remote window: its endpoint entry and the address there (R350). -/
def State.sendPeer (s : State) (bytes : List Byte) (body : Body) (va : Nat) : State :=
  s.inject { s.unitPacket s.windowEnd 0 bytes body none with
    scope := 5, peer := (s.part.windowAt va).map (fun w => (w.peer, w.base + (va - w.va))) }

/-- The units for peer modules sent one by one. -/
def State.writePeers (q : Nat) : List (Nat × List Byte) → State → State × List Nat
  | [], s => (s, [])
  | u :: rest, s =>
    match State.writePeers q rest (s.sendPeer u.2 (.write (.engine q) (2 ^ 52) (BitVec.ofNat 48 u.1)) u.1) with
    | (t, more) => (t, s.net.nextId :: more)

/-- The writes of an operation: window units at once, in runs of up to 256 bytes, others on their way to their homes. -/
def State.engWrite (s : State) (q : Nat) (units : List (EngAt × List Byte)) : State × List Nat :=
  let here := units.filterMap (fun u => match u.1 with | .window sp => some (sp, u.2) | _ => none)
  let homes := units.filterMap (fun u => match u.1 with | .home sp => some (sp, u.2) | _ => none)
  let peers := units.filterMap (fun u => match u.1 with | .peer va => some (va, u.2) | _ => none)
  match (s.write (.engine q) true (here.map (·.1)) (here.flatMap (·.2))).1.write (.engine q) false (homes.map (·.1))
      (homes.flatMap (·.2)) with
  | (s, ids) =>
    match State.writePeers q peers s with
    | (s, more) => (s, ids ++ more)

/-! ### What an operation copies (R185) -/

/-- Unit u of row r at a memory address with a stride. -/
def memUnit (mem : Word) (stride : BitVec 32) (r u : Nat) : Nat :=
  (mem + BitVec.ofInt 64 (stride.toInt * r) + BitVec.ofNat 64 (16 * u)).toNat

/-- Rows and units of a tile, in order. -/
def Tile.unitList (t : Tile) : List (Nat × Nat) :=
  (List.range t.rows).flatMap (fun r => (List.range t.units).map (fun u => (r, u)))

/-- The destination and source of every unit. -/
def EngWork.units (w : EngWork) : List (Nat × EngSrc) :=
  match w with
  | .copy dst src len => (List.range (len / 16)).map (fun u => (dst + 16 * u, .at (src + 16 * u)))
  | .fill dst len pattern =>
    (List.range (len / 16)).map (fun u => (dst + 16 * u, .given (leBytes 8 pattern.toNat ++ leBytes 8 pattern.toNat)))
  | .tile even odd mem stride j out =>
    let t := tileOf even odd
    t.unitList.map (fun p =>
      let tile := windowBase + t.offset j p.1 p.2
      let m := memUnit mem stride p.1 p.2
      if out then (m, .at tile) else (tile, .at m))
  | .spread even odd mem stride j _ =>
    let t := tileOf even odd
    t.unitList.map (fun p => (windowBase + t.offset j p.1 p.2, .at (memUnit mem stride p.1 p.2)))

def EngWork.usesPeers : EngWork → Bool
  | .copy _ _ _ => true
  | _ => false

/-- A unit of this core's window on the cores of a broadcast: the window at home, and a write to each other core. -/
def State.spreadUnit (s : State) (cores : List Nat) (u : EngAt × List Byte) : List (EngAt × List Byte) :=
  match u.1 with
  | .window sp =>
    u :: (cores.filter (fun n => n ≠ s.core.num)).filterMap (fun n =>
      ((s.coreAt n).launchSet s.unit.lid).map (fun x =>
        (.home ⟨sp.va, windowPa n (s.coreAt n).sliced x.2 (sp.va - windowBase), sp.n⟩, u.2)))
  | _ => [u]

/-- What a completed operation answers, and the tag changes it makes. -/
def EngWork.value (w : EngWork) : Nat :=
  match w with
  | .copy _ _ len => len
  | .fill _ len _ => len
  | .tile even odd _ _ _ _ => (tileOf even odd).rows * (tileOf even odd).units * 16
  | .spread even odd _ _ _ cores => cores.length * ((tileOf even odd).rows * (tileOf even odd).units * 16)

def EngWork.tagChanges (w : EngWork) (core : Nat) : List (Nat × Nat × Bool) :=
  match w with
  | .tile even odd _ _ j out => [(core, (tileOf even odd).tag + j, !out)]
  | .spread even odd _ _ j cores => cores.map (fun n => (n, (tileOf even odd).tag + j, true))
  | _ => []

/-! ### Start and completion (R182, R185) -/

/-- The tags an operation waits for are as it needs them. -/
def State.tagsReady (s : State) (w : EngWork) : Bool :=
  match w with
  | .tile even odd _ _ j out => s.core.set.tagFull ((tileOf even odd).tag + j) == out
  | .spread even odd _ _ j cores =>
    cores.all (fun n =>
      match (s.coreAt n).launchSet s.unit.lid with
      | some x => !x.1.tagFull ((tileOf even odd).tag + j)
      | none => false)
  | _ => true

/-- An operation that reads memory or the window. -/
def EngWork.reads : EngWork → Bool
  | .fill _ _ _ => false
  | _ => true

/-- What holds back an operation: a FENCE or SIGWAIT issued before it, and, where it reads, a phase boundary asked for
before it, and an own earlier atomic that has not been applied (R232, R236, R238, R246). -/
def State.engHeld (s : State) (e : EngOp) : Bool :=
  s.core.set.ops.any (fun o => decide (o.id < e.id) && match o.wait with
    | .fence => true
    | .sigwait => true
    | .boundary _ _ => e.work.reads
    | _ => false) ||
  (e.work.reads && s.net.packets.any (fun k =>
    k.isAtomic && k.pends s.unit.lid s.unit.index && decide (k.id < e.id)))

/-- The 256-byte block of the global part that a unit is read from. -/
def EngSrc.block : EngSrc → Option Nat
  | .at va => if inWindowPart va then none else some (va / 256)
  | .given _ => none

/-- What a unit is copied with: the block it is read from, which takes one read request (assumption 118); where it takes
none, the block that it is written to. -/
def unitRun (u : Nat × EngSrc) : Option Nat × Nat := (u.2.block, if u.2.block.isSome then 0 else u.1 / 256)

/-- The units that an operation copies next, after those it has copied. -/
def EngWork.next (w : EngWork) (done : Nat) : List (Nat × EngSrc) :=
  match w.units.drop done with
  | [] => []
  | u :: rest => u :: rest.takeWhile (fun x => unitRun x == unitRun u)

/-- Units take a read request. -/
def asksRead (us : List (Nat × EngSrc)) : Bool := us.any (fun u => u.2.block.isSome)

/-- Units send packets: a read request, writes to the global part or to a peer module, or writes to other cores. -/
def EngWork.sends (w : EngWork) (us : List (Nat × EngSrc)) : Bool :=
  asksRead us || us.any (fun u => !inWindowPart u.1) || match w with | .spread _ _ _ _ _ _ => true | _ => false

/-- The fabric ingress port of an engine queue. -/
def engIngress (q : Nat) : Nat := 18 + q

/-- The next units of an operation may be copied: there is a place in the retention buffer for what they send, no packet of
the queue waits for the tension limiter, and its bucket holds a read request's flit (R264, R320). -/
def State.engRoom (s : State) (e : EngOp) (done : Nat) : Bool :=
  let us := e.work.next done
  !e.work.sends us || (!s.retentionFull && !s.portWaits s.core.num (engIngress e.queue) &&
    (!asksRead us || s.hasFlits s.part.num s.core.num (engIngress e.queue) 1))

/-- The first operation of a queue may start: the one before it is done, as are those that fences put before it, its tags
are as it needs them, and its first units may be copied (R182, R186). -/
def State.mayStart (s : State) (e : EngOp) : Bool :=
  e.run.isNone && e.after.all (fun i => !s.core.set.eng.any (fun x => x.id == i)) && s.tagsReady e.work &&
    (s.core.frost == .thawed || s.core.frost == .freezing) && s.core.set.unit.isSome && !s.engHeld e && s.engRoom e 0

def CSet.setRun (c : CSet) (id : Nat) (r : EngRun) : CSet :=
  { c with eng := c.eng.map (fun x => if x.id = id then { x with run := some r } else x) }

/-- The read request of some units: it passes the tension limiter, and one to a peer module leaves for it, which answers
with free bytes (R320, R350). The answer holds the packet's number. -/
def State.requestUnits (s : State) (e : EngOp) (us : List (Nat × EngSrc)) : State × List Nat :=
  let s := if asksRead us then s.spend s.part.num s.core.num (engIngress e.queue) 1 else s
  match us.head?.map (·.2) with
  | some (EngSrc.at va) =>
    if e.work.usesPeers && !inWindowPart va && (s.part.windowAt va).isSome then
      (s.sendPeer [] (.read (2 ^ 52) true) va, [s.net.nextId])
    else (s, [])
  | _ => (s, [])

/-- The next units are read and their writes sent; a fault ends the operation after the units before the fault. -/
def State.copyOn (s : State) (e : EngOp) (r : EngRun) : State :=
  let us := e.work.next r.done
  match s.requestUnits e us with
  | (s, asked) =>
    match s.readAs e.phase e.home (State.gather e.work.usesPeers us) with
    | (s, units, fault) =>
      match s.engWrite e.queue (match e.work with
        | .spread _ _ _ _ _ cores => units.flatMap (s.spreadUnit cores)
        | _ => units) with
      | (s, ids) =>
        s.mapSet (fun c => c.setRun e.id (match fault with
          | some f => ⟨r.writes ++ asked ++ ids, engStatus f.1 f.2, [], e.work.units.length⟩
          | none => { r with writes := r.writes ++ asked ++ ids, done := r.done + us.length }))

/-- An operation starts with its first units. -/
def State.startEngine (s : State) (e : EngOp) : State :=
  s.copyOn e ⟨[], BitVec.ofNat 64 e.work.value, e.work.tagChanges s.core.num, 0⟩

def execEngineOperationStart (q : Nat) (s : State) : Out :=
  match (s.core.set.queueOps q).head? with
  | some e => when (s.mayStart e) s (fun s => s.startEngine e)
  | none => .next s

/-- A tag of the set that runs the launch's unit on a core. -/
def Core.setLaunchTag (k : Core) (lid : BitVec 32) (i : Nat) (full : Bool) : Core :=
  if k.set.runs lid then { k with set := k.set.setTag i full }
  else { k with shadow := k.shadow.map (fun c => if c.runs lid then c.setTag i full else c) }

/-- An operation in progress copies on. Once it has copied every unit and all its writes have been applied, it is complete:
its tags change, and its queue goes on. -/
def State.endEngine (s : State) (id : Nat) : State :=
  match s.core.set.eng.find? (fun e => e.id == id) with
  | some e =>
    match e.run with
    | some r =>
      if r.done < e.work.units.length then (if s.engRoom e r.done then s.copyOn e r else s)
      else if r.writes.all s.arrivedId then
        ((r.tags.foldl (fun s c => s.mapCoreAt c.1 (fun k => k.setLaunchTag s.unit.lid c.2.1 c.2.2)) s).mapSet
          (fun c => { c with eng := c.eng.filter (fun x => x.id ≠ id) })).settle id r.value .clear
      else s
    | none => s
  | none => s

/-- A QFENCE completes when every operation it stands behind has. -/
def State.endQueues (s : State) (id : Nat) (ids : List Nat) : State :=
  if ids.any (fun i => s.core.set.eng.any (fun e => e.id == i)) then s
  else (s.mapSet (fun c => { c with fences := c.fences.filter (fun f => f.ids ≠ ids) })).settle id 0 .clear

end Sys2Proof.Machine
end

