-- ==== Sys2Proof/Machine/Pool.lean ====
section
/-!
DEFINITION. Block pools and the BLK instructions (R210 to R221). A request is on its way from its issue until
TOKEN_COMPLETION performs it at its controller, the requests of one unit to one controller in the order of issue. What
a pool's metadata holds stands in the pool itself until something else writes there (R222; assumption 12).
-/

namespace Sys2Proof.Machine

/-! ### A pool's blocks (R211 to R215) -/

/-- The count of a block: 16 bits. -/
def Pool.count (p : Pool) (b : Nat) : Nat := (lookup b p.refs).getD 0

def Pool.setCount (p : Pool) (b v : Nat) : Pool :=
  if v % 65536 = 0 then { p with refs := erase b p.refs } else { p with refs := insert b (v % 65536) p.refs }

/-- Units of 16 KiB that a block charges. -/
def Pool.unit (p : Pool) : Nat := p.size / 16384

/-- Blocks held with a count above 0, charged once each. -/
def Pool.charge (p : Pool) : Nat := p.refs.length * p.unit

def Pool.overQuota (p : Pool) : Bool := decide (p.charge + p.unit > 4 * p.quota)

/-- The block taken next: the top of the free stack, else the watermark. -/
def Pool.take (p : Pool) : Option (Nat × Pool) :=
  match p.stack with
  | b :: rest => some (b, { p with stack := rest })
  | [] => if p.mark < p.n then some (p.mark, { p with mark := p.mark + 1 }) else none

/-- One hold on a block ends; a block that nobody holds goes onto the stack. -/
def Pool.drop (p : Pool) (b : Nat) : Pool :=
  let v := (p.count b + 65535) % 65536
  let p := p.setCount b v
  if v = 0 then { p with stack := b :: p.stack } else p

/-- The entries dropped in order, and how many blocks that releases. -/
def Pool.dropAll (p : Pool) (es : List Nat) : Pool × Nat :=
  es.foldl (fun a b => (a.1.drop b, a.2 + (decide ((a.1.count b + 65535) % 65536 = 0)).toNat)) (p, 0)

/-! ### Tables (R213, R219) -/

def tableNone : Nat := 0x1FFFFF

def Pool.table (p : Pool) (t : Nat) : Option (List Nat) := if t = tableNone then none else lookup t p.tables

def Pool.setTable (p : Pool) (t : Nat) (l : List Nat) : Pool := { p with tables := insert t l p.tables }

/-- The metadata chunks that a table of n entries holds. -/
def chunksFor (n : Nat) : Nat := (n + 255) / 256

def Pool.chunksUsed (p : Pool) : Nat := (p.tables.map (fun e => chunksFor e.2.length)).foldl (· + ·) 0

def Pool.lacksChunks (p : Pool) (n : Nat) : Bool := decide (p.chunksUsed + n > p.chunks)

/-- The lowest table number that is free below the limit. -/
def Pool.freeTable (p : Pool) : Option Nat :=
  (List.range (min p.limit (p.tables.length + 1))).find? (fun t => (lookup t p.tables).isNone)

/-! ### Handles (R214) -/

def handleCtrl (h : Word) : Nat := wspan h 29 3
def handlePool (h : Word) : Nat := wspan h 21 8
def handleTable (h : Word) : Nat := wspan h 0 21

def Pool.handle (p : Pool) (t : Nat) : Nat := p.ctrl * 2 ^ 29 + p.num * 2 ^ 21 + t

/-- The bytes of a pool's metadata. -/
def State.metaBytes (s : State) (p : Pool) : List Byte :=
  p.pages.flatMap (fun g => (List.range 0x200000).map (fun i => s.mem.get (g + i)))

/-- A pool as its controller finds it: where a program has written into the metadata, what that holds (R222). -/
def State.readPool (s : State) (p : Pool) : Pool :=
  if p.spoilt then
    match Config.metaPool p.num (s.metaBytes p) with
    | (stack, mark, refs, tables) => { p with stack := stack, mark := mark, refs := refs, tables := tables, spoilt := false }
  else p

/-- The pool that a handle names for a partition. -/
def State.poolOf (s : State) (part : Nat) (h : Word) : Option Pool :=
  (s.pools.find? (fun p => p.num == handlePool h && p.ctrl == handleCtrl h && p.part == part)).map s.readPool

/-- A controller writes a pool's metadata (R352; assumption 12). -/
def State.writePool (s : State) (p : Pool) : State :=
  ((Config.metaWrites s.free).foldl (fun s w =>
    match p.pages[w.1 / 0x200000]? with
    | some g => s.land (g + w.1 % 0x200000) (w.2.take (0x200000 - w.1 % 0x200000))
    | none => s) s).spent

def State.setPool (s : State) (p : Pool) : State :=
  { s with pools := s.pools.map (fun q => if q.num = p.num then p else q) }

/-! ### Requests (R218 to R220) -/

def blkEmpty : Nat := 0x01
def blkQuota : Nat := 0x02
def blkNoPool : Nat := 0x03
def blkBadSeq : Nat := 0x04
def blkTableFull : Nat := 0x05
def blkRefMax : Nat := 0x06
def blkBadBlk : Nat := 0x07
def blkNoMeta : Nat := 0x08
def blkBadParam : Nat := 0x09
def blkPoolFull : Nat := 0x0A

/-- What a request answers: the failure's status and detail, or the pool after it and the value. -/
abbrev BlkAnswer := Except (Nat × Nat) (Pool × Nat)

/-- A block is charged and taken, with the count 1. -/
def Pool.grab (p : Pool) : Except (Nat × Nat) (Nat × Pool) :=
  if p.overQuota then .error (blkQuota, 0)
  else match p.take with
    | none => .error (blkEmpty, 0)
    | some (b, q) => .ok (b, q.setCount b 1)

def Pool.balloc (p : Pool) : BlkAnswer :=
  match p.grab with
  | .error e => .error e
  | .ok (b, q) => .ok (q, b)

def Pool.bfree (p : Pool) (b : Nat) : BlkAnswer :=
  if b ≥ p.n ∨ p.count b = 0 then .error (blkBadBlk, 0) else .ok (p.drop b, p.count b - 1)

/-- A block appended to table t, whose entries are l; a new chunk is needed at each multiple of 256. -/
def Pool.append (p : Pool) (t : Nat) (l : List Nat) : Except (Nat × Nat) (Nat × Pool) :=
  if l.length % 256 = 0 && p.lacksChunks 1 then .error (blkNoMeta, 0)
  else match p.grab with
    | .error e => .error e
    | .ok (b, q) => .ok (b, q.setTable t (l ++ [b]))

def Pool.btapp (p : Pool) (h : Word) (fresh : Bool) : BlkAnswer :=
  if fresh then
    match p.freeTable with
    | none => .error (blkTableFull, 1)
    | some t =>
      match p.append t [] with
      | .error e => .error e
      | .ok (b, q) => .ok (q, p.handle t + b * 2 ^ 32)
  else
    match p.table (handleTable h) with
    | none => .error (blkBadSeq, 0)
    | some l =>
      if l.length ≥ 65536 then .error (blkTableFull, 0)
      else match p.append (handleTable h) l with
        | .error e => .error e
        | .ok (b, q) => .ok (q, b + l.length * 2 ^ 32)

def Pool.bttrim (p : Pool) (h b : Word) : BlkAnswer :=
  match p.table (handleTable h) with
  | none => .error (blkBadSeq, 0)
  | some l =>
    if b.toNat > l.length then .error (blkBadSeq, 0)
    else
      let r := p.dropAll (l.drop b.toNat)
      .ok (r.1.setTable (handleTable h) (l.take b.toNat), r.2)

def Pool.btlook (p : Pool) (h b : Word) : BlkAnswer :=
  match p.table (handleTable h) with
  | none => .error (blkBadSeq, 0)
  | some l =>
    match l[b.toNat / p.size]? with
    | none => .error (blkBadSeq, 0)
    | some e => .ok (p, p.base + e * p.size + b.toNat % p.size)

def Pool.btfork (p : Pool) (h b : Word) : BlkAnswer :=
  match p.table (handleTable h) with
  | none => .error (blkBadSeq, 0)
  | some l =>
    let m := if b = 0 then l.length else b.toNat
    if m > l.length then .error (blkBadSeq, 0)
    else match p.freeTable with
      | none => .error (blkTableFull, 1)
      | some t =>
        if p.lacksChunks (chunksFor m) then .error (blkNoMeta, 0)
        else if (l.take m).any (fun e => p.count e == 65535) then .error (blkRefMax, 0)
        else
          .ok (((l.take m).foldl (fun q e => q.setCount e (q.count e + 1)) p).setTable t (l.take m), p.handle t)

def Pool.btdrop (p : Pool) (h : Word) : BlkAnswer :=
  match p.table (handleTable h) with
  | none => .error (blkBadSeq, 0)
  | some l =>
    let r := p.dropAll l
    .ok ({ r.1 with tables := erase (handleTable h) r.1.tables }, r.2)

/-- The code of a block size (R221). -/
def sizeCode (size : Nat) : Nat := if size = 16384 then 0 else if size = 65536 then 1 else if size = 262144 then 2 else 3

def Pool.bpstat (p : Pool) (h : Word) (q : Nat) : BlkAnswer :=
  match q with
  | 0 => .ok (p, p.n - p.mark + p.stack.length)
  | 1 => .ok (p, p.refs.length)
  | 2 => .ok (p, p.quota)
  | 3 => .ok (p, p.charge)
  | 4 => .ok (p, p.base + sizeCode p.size * 2 ^ 48 + p.ctrl * 2 ^ 50)
  | 5 => .ok (p, p.tables.length + p.limit * 2 ^ 32)
  | _ =>
    match p.table (handleTable h) with
    | none => .error (blkBadSeq, 0)
    | some l => .ok (p, l.length)

/-- The handle that a request names; BPMAKE names none. -/
def BlkReq.handle : BlkReq → Word
  | .balloc h | .bfree h _ | .btapp h _ | .bttrim h _ | .btlook h _ | .btfork h _ | .btdrop h | .bpstat h _ => h
  | .bpmake _ => 0

/-- A request to a pool. -/
def Pool.perform (p : Pool) : BlkReq → BlkAnswer
  | .balloc _ => p.balloc
  | .bfree _ b => p.bfree b.toNat
  | .btapp h fresh => p.btapp h fresh
  | .bttrim h b => p.bttrim h b
  | .btlook h b => p.btlook h b
  | .btfork h b => p.btfork h b
  | .btdrop h => p.btdrop h
  | .bpstat h q => p.bpstat h q
  | .bpmake _ => .error (blkNoPool, 0)

/-! ### BPMAKE (R221) -/

/-- The block size of a size code; the smallest for one out of its limits. -/
def blockSize (code : Nat) : Nat := if code ≤ 3 then 16384 * 4 ^ code else 16384

/-- The metadata pages of 2 MiB of a pool. -/
def metaPages (n limit chunks : Nat) : Nat := (6 * n + 16 * limit + 1024 * chunks + 0x1FFFFF) / 0x200000

/-- A controller's metadata stands in its die's stacked DRAM, that of controller 4 in LPDDR (R210). -/
def homeFits (ctrl pa : Nat) : Bool :=
  match regionOf pa with
  | .stacked subtree _ => decide (ctrl = subtree / 4)
  | .lpddr _ => ctrl == 4
  | _ => false

/-- The physical pages of a metadata area. -/
def State.areaPages (s : State) (area count : Nat) : List Nat :=
  (List.range count).filterMap (fun i =>
    match (s.walk s.part .look (area + 0x200000 * i)).2 with
    | .ok l => some l.page
    | .error _ => none)

/-- A metadata page: a 2 MiB leaf with R, W and not E, no pin, at the controller's home; none in a remote window, which takes
the place of translation (R350). -/
def State.metaPage (s : State) (ctrl va : Nat) : Bool :=
  (s.part.windowAt va).isNone && match (s.walk s.part .look va).2 with
  | .ok l =>
    l.size == 0x200000 && bitAt l.pte 1 && bitAt l.pte 2 && !bitAt l.pte 7 && bitSpan l.pte 52 3 == 0 && homeFits ctrl l.page
  | .error _ => false

/-- The fields of the parameter block. -/
structure PoolParams where
  base   : Nat
  n      : Nat
  code   : Nat
  ctrl   : Nat
  quota  : Nat
  limit  : Nat
  area   : Nat
  chunks : Nat
  deriving DecidableEq, Repr

def poolParams (bs : List Byte) : PoolParams where
  base := field bs 0 8
  n := field bs 8 4
  code := field bs 12 1
  ctrl := field bs 13 1
  quota := field bs 16 4
  limit := field bs 20 4
  area := field bs 24 8
  chunks := field bs 32 4

def PoolParams.nOk (p : PoolParams) : Bool := decide (1 ≤ p.n) && decide (p.n ≤ 2 ^ 24)

/-- The offset of the first field that a limit rejects. -/
def State.badPool (s : State) (bs : List Byte) : Option Nat :=
  let p := poolParams bs
  let size := blockSize p.code
  let n := if p.nOk then p.n else 1
  let chunks := if p.chunks = 0 then 1 else p.chunks
  if p.base % size ≠ 0 ∨ p.base + n * size > windowBase then some 0
  else if !p.nOk then some 8
  else if p.code > 3 then some 12
  else if p.ctrl > 4 then some 13
  else if field bs 14 2 ≠ 0 then some 14
  else if p.quota = 0 then some 16
  else if p.limit = 0 ∨ p.limit > tableNone then some 20
  else if p.area % 0x200000 ≠ 0 ∨ p.area + 0x200000 * metaPages p.n p.limit chunks > windowBase ∨
      !(List.range (metaPages p.n p.limit chunks)).all (fun i => s.metaPage p.ctrl (p.area + 0x200000 * i)) then some 24
  else if p.chunks = 0 then some 32
  else if ((bs.drop 36).take 28).any (fun b => b ≠ 0) then some 36
  else none

/-- The lowest pool number that is free, of 256. -/
def State.freePool (s : State) : Option Nat :=
  (List.range 256).find? (fun n => !s.pools.any (fun p => p.num == n))

/-- The pool made, or the failure. -/
def State.makePool (s : State) (bs : List Byte) : Except (Nat × Nat) Pool :=
  let p := poolParams bs
  match s.badPool bs with
  | some off => .error (blkBadParam, off)
  | none =>
    match s.freePool with
    | none => .error (blkPoolFull, 0)
    | some num =>
      if ((s.pools.filter (fun q => q.part == s.part.num)).map (fun q => q.quota)).foldl (· + ·) p.quota > s.part.pool.toNat then
        .error (blkQuota, 0)
      else .ok ⟨num, s.part.num, p.ctrl, blockSize p.code, p.n, p.base, p.quota, p.limit, p.chunks, p.area, [], 0, [], [],
        s.areaPages p.area (metaPages p.n p.limit p.chunks), false⟩

/-- A request performed at its controller for the current unit, and what it completes with (R218). -/
def State.performBlk (s : State) (req : BlkReq) : State × Word :=
  match req with
  | .bpmake bs =>
    match s.makePool bs with
    | .error e => (s, statusWord e.1 e.2)
    | .ok p => (({ s with pools := s.pools ++ [p] } : State).writePool p, BitVec.ofNat 64 (p.handle tableNone))
  | _ =>
    match s.poolOf s.part.num req.handle with
    | none => (s, statusWord blkNoPool 0)
    | some p =>
      match p.perform req with
      | .error e => (s, statusWord e.1 e.2)
      | .ok (q, v) => (if q = p then s.setPool q else (s.setPool q).writePool q, BitVec.ofNat 64 v)

/-- Requests of the controller. -/
def Wait.asks (ctrl : Nat) (w : Wait) : Bool :=
  match w with
  | .blk c _ => c == ctrl
  | _ => false

/-- The request arrives at its controller, after those of its unit that were issued before it (R216). -/
def State.endBlk (s : State) (id ctrl : Nat) (req : BlkReq) : State :=
  if s.core.set.firstOf id (Wait.asks ctrl) then
    match s.performBlk req with
    | (s, v) => s.settle id v .clear
  else s

/-! ### The instructions (R217) -/

/-- A BLK instruction with a handle. -/
def blkInstr (i : Instr) (t : Reg) (regs : List Reg) (req : State → BlkReq) (s : State) : Out :=
  issue i ⟨regs, t, 0⟩ (fun s => (s.begin t .other (.blk (handleCtrl (req s).handle) (req s))).advance) s

def execBalloc (t a : Reg) (s : State) : Out :=
  blkInstr (.balloc t a) t [a] (fun s => .balloc (s.reg a)) s

def execBfree (t a b : Reg) (s : State) : Out :=
  blkInstr (.bfree t a b) t [a, b] (fun s => .bfree (s.reg a) (s.reg b)) s

def execBtapp (t a : Reg) (q : BitVec 1) (s : State) : Out :=
  blkInstr (.btapp t a q) t [a] (fun s => .btapp (s.reg a) (q == 1)) s

def execBttrim (t a b : Reg) (s : State) : Out :=
  blkInstr (.bttrim t a b) t [a, b] (fun s => .bttrim (s.reg a) (s.reg b)) s

def execBtlook (t a b : Reg) (s : State) : Out :=
  blkInstr (.btlook t a b) t [a, b] (fun s => .btlook (s.reg a) (s.reg b)) s

def execBtfork (t a b : Reg) (s : State) : Out :=
  blkInstr (.btfork t a b) t [a, b] (fun s => .btfork (s.reg a) (s.reg b)) s

def execBtdrop (t a : Reg) (s : State) : Out :=
  blkInstr (.btdrop t a) t [a] (fun s => .btdrop (s.reg a)) s

def execBpstat (t a : Reg) (q : BitVec 3) (s : State) : Out :=
  blkInstr (.bpstat t a q) t [a] (fun s => .bpstat (s.reg a) q.toNat) s

/-- BPMAKE requires tenant level and checks its address at issue (R103). The bytes of a block that meets an
uncorrectable error are free, since no BLK instruction makes an error completion (R218). -/
def execBpmake (t a : Reg) (s : State) : Out :=
  issue (.bpmake t a) ⟨[a], t, 1⟩
    (fun s =>
      let va := s.reg a
      if s.readHeld va then s
      else match s.checked .read va 8 64 with
        | (u, .error c) => u.trap c va
        | (u, .ok (window, spans)) =>
          match State.readSpans window spans u with
          | (u, bs, none) => (u.begin t .other (.blk (field bs 13 1) (.bpmake bs))).advance
          | (u, bs, some _) =>
            let bs := (bs ++ payloadBytes (Config.freePayload u.free)).take 64
            (u.spent.begin t .other (.blk (field bs 13 1) (.bpmake bs))).advance) s

end Sys2Proof.Machine
end

