-- ==== Sys2Proof/Machine/Xlat.lean ====
section
/-!
DEFINITION. XLAT instructions, and the trap of a stopped generator (R164, R166, R176 to R181, R188, R189).
-/

namespace Sys2Proof.Machine

/-! ### TINVAL -/

/-- The global pages of 64 KiB that a TINVAL names: the first and the count; 0 names them all. -/
def pagesNamed (va count : Nat) : Nat × Nat := if count = 0 then (0, windowBase / 65536) else (va / 65536, count)

/-- A cached translation of one of the pages. -/
def TlbEntry.among (e : TlbEntry) (first count : Nat) : Bool := decide (first ≤ e.vpn) && decide (e.vpn < first + count)

/-- Cached translations of pages dropped from a set: those of its sequencer and engines, of its generators, and those
that CFGLD made for the staged image. -/
def CSet.dropPages (c : CSet) (first count : Nat) : CSet :=
  let keep (l : List TlbEntry) : List TlbEntry := l.filter (fun e => !e.among first count)
  { c with
    tlb := keep c.tlb
    fab := { c.fab with
      pages := c.fab.pages.filter (fun e => !e.2.among first count)
      mns := c.fab.mns.map (fun e => (e.1, { e.2 with tlb := keep e.2.tlb })) } }

/-- A set that may hold translations of a partition: that of a unit of it, or one that no unit has taken since. -/
def CSet.mayCache (c : CSet) (part : Nat) : Bool :=
  match c.unit with
  | some u => u.part == part
  | none => true

/-- A pinned page that the named pages cover goes back to its memory home. -/
def Pin.covered (p : Pin) (part first count : Nat) : Bool :=
  p.part == part && decide (p.va < (first + count) * 65536) && decide (first * 65536 < p.va + p.size)

/-- The translations of pages dropped, from every core of the partition or from this one, and pinned pages written back
(R166, R189). -/
def State.invalidate (s : State) (every : Bool) (first count : Nat) : State :=
  let part := s.unit.part
  let drop (c : CSet) : CSet := if c.mayCache part then c.dropPages first count else c
  let s := if every then s.mapSets drop else s.mapCore (fun k => k.mapSets drop)
  { s with host := { s.host with pins := s.host.pins.filter (fun p => !p.covered part first count) } }

/-- A node's extent covers one of the pages; a PAGED node, which has no extent, may read any. -/
def MnParams.covers (p : MnParams) (P first count : Nat) : Bool :=
  p.mode == 3 || match p.extent P with
    | some (lo, hi) => decide (lo < ((first + count) * 65536 : Nat)) && decide (((first * 65536 : Nat) : Int) < hi)
    | none => false

/-- A generator of a core that runs is within a request that may use one of the pages. -/
def Core.within (k : Core) (now first count : Nat) : Bool :=
  k.fabricRuns now && match k.set.fab.running with
    | some im => k.set.fab.mns.any (fun e => e.2.stop.isNone &&
        match e.2.pass with | some a => a.par.covers im.P first count | none => false)
    | none => false

/-- Every generator in scope stands at a request boundary, and so is paused (R176): the translations go, and the
invalidation completes (R177). -/
def State.endInval (s : State) (id : Nat) (every : Bool) (first count : Nat) : State :=
  let scope := if every then s.cores.filter (fun k => k.set.mayCache s.unit.part) else [s.core]
  if scope.any (fun k => k.within s.cycle first count) then s
  else (s.invalidate every first count).settle id 0 .clear

/-- The TINVALs in progress whose scope takes in the current core's set: their pages. -/
def State.invals (s : State) : List (Nat × Nat) :=
  let of (own : Bool) (c : CSet) : List (Nat × Nat) :=
    if c.unit.map (fun u => u.part) = some s.unit.part then
      c.ops.filterMap (fun o => match o.wait with
        | .inval every first count => if every || own then some (first, count) else none
        | _ => none)
    else []
  s.core.sets.flatMap (of true) ++ s.sets.flatMap (of false)

/-- A generator pauses at its request boundary while a TINVAL of a page of its extent is in progress (R176). -/
def State.pausedMn (s : State) (im : Image) (p : MnParams) : Bool := s.invals.any (fun x => p.covers im.P x.1 x.2)

def execTinval (t a b : Reg) (q : BitVec 1) (s : State) : Out :=
  issue (.tinval t a b q) ⟨[a, b], t, 1⟩
    (fun s =>
      let va := (s.reg a).toNat
      let count := (s.reg b).toNat
      if va % 65536 ≠ 0 then (s.engFails t 0x45 va).advance
      else if count > 65536 then (s.engFails t 0x27 0).advance
      else
        let p := pagesNamed va count
        (s.begin t .other (.inval (q == 1) p.1 p.2)).advance) s

/-! ### TLOOK -/

/-- The word of a successful translation. -/
def lookWord (l : Leaf) (va : Nat) : Word :=
  BitVec.ofNat 64 (l.page + va % l.size + (bitAt l.pte 1).toNat * 2 ^ 52 + (bitAt l.pte 2).toNat * 2 ^ 53
    + (bitAt l.pte 3).toNat * 2 ^ 54 + (decide (l.size = 0x200000)).toNat * 2 ^ 55 + (bitAt l.pte 6).toNat * 2 ^ 56
    + (decide (bitSpan l.pte 52 3 ≠ 0)).toNat * 2 ^ 57)

/-- The window part: the scratchpad's physical address, R and W. -/
def State.windowWord (s : State) (va : Nat) : Word :=
  BitVec.ofNat 64 (windowPa s.core.num s.core.sliced s.core.half (va - windowBase) + 2 ^ 52 + 2 ^ 53)

def State.lookAt (s : State) (t : Reg) (va : Nat) : State :=
  if va ≥ 2 ^ 48 then s.engFails t 0x43 va
  else if inWindowPart va then
    (if va - windowBase < windowSize s.core.sliced then s.later t .other (s.windowWord va) .clear 6
     else s.engFails t 0x43 va)
  else if (s.part.windowAt va).isSome then s.engFails t 0x43 va
  else match s.walk s.part .look va with
    | (s, .ok l) => s.later t .other (lookWord l va) .clear 6
    | (s, .error f) => s.engFails t f.status va

/-- The address at step m of an AFF walk of stitch k (R171). -/
def MnParams.stepAddr (p : MnParams) (k m : Nat) : Int :=
  let i0 := m % p.n 0
  let i1 := m / p.n 0 % p.n 1
  let i2 := m / (p.n 0 * p.n 1) % p.n 2
  let i3 := m / (p.n 0 * p.n 1 * p.n 2) % p.n 3
  (p.base.toNat : Int) + k * p.sstr + i0 * p.d 0 + i1 * p.d 1 + i2 * p.d 2 + i3 * p.d 3

/-- The tokens of a pass of an AFF load, or the steps of a store's walk. -/
def MnParams.passLen (p : MnParams) : Nat := p.n 0 * p.n 1 * p.n 2 * p.n 3

def Fabric.mnAt (f : Fabric) (n : Nat) : MnState := (lookup n f.mns).getD .zero

/-- The lowest address a streaming node has still to ask for in stitch k: its whole pass, the rest of the one that runs
or of a store's walk, or nothing (R178, R181). -/
def MnState.lowFor (m : MnState) (p : MnParams) (k : Nat) : Option Int :=
  if m.passed.contains k then none
  else match m.pass with
    | some a => if a.stitch = k then some (p.stepAddr k a.idx) else some (p.stepAddr k 0)
    | none => some (p.stepAddr k (if p.store then (lookup k m.steps).getD 0 else 0))

/-- The window tail: it never decreases (R181). -/
def MnState.tailNow (m : MnState) (p : MnParams) (P : Nat) : Nat :=
  let last := ((p.extent P).map (fun e => e.2)).getD 0
  let stores := m.dones.filterMap (fun d => d.va.map (fun a => (a : Int)))
  let low := ((List.range P).filterMap (m.lowFor p) ++ stores).foldl min last
  max (m.tail.getD 0) low.toNat

/-- The tails of the streaming nodes of a set whose extent contains an address. -/
def CSet.tails (c : CSet) (va : Nat) : List Nat :=
  match c.fab.running with
  | none => []
  | some im =>
    im.nodes.filterMap (fun b =>
      match b with
      | .mn n p =>
        match p.extent im.P with
        | some (lo, hi) =>
          if p.stream && decide (lo ≤ (va : Int)) && decide ((va : Int) < hi) then some ((c.fab.mnAt n).tailNow p im.P) else none
        | none => none
      | _ => none)

/-- The lowest tail of a partition's streaming nodes at an address. -/
def State.lowestTail (s : State) (va : Nat) : Nat :=
  ((s.sets.filter (fun c => match c.unit with | some u => u.part == s.unit.part | none => false)).flatMap
    (fun c => c.tails va)).foldl min (2 ^ 48)

def execTlook (t a : Reg) (q : BitVec 1) (s : State) : Out :=
  issue (.tlook t a q) ⟨[a], t, 0⟩
    (fun s =>
      if q = 0 then (s.lookAt t (s.reg a).toNat).advance
      else (s.later t .other (BitVec.ofNat 64 (s.lowestTail (s.reg a).toNat)) .clear 6).advance) s

/-! ### Stopped generators (R179, R180) -/

/-- The TRAPVAL of a generator's fault. -/
def stopWord (n : Nat) (st : MnStop) : Word :=
  BitVec.ofNat 64 (st.va.toNat + n * 2 ^ 48 + 2 ^ 52 + st.store.toNat * 2 ^ 53)

def Fabric.setMn (f : Fabric) (n : Nat) (m : MnState) : Fabric := { f with mns := insert n m f.mns }

/-- The sequencer is told of a generator that stopped; the trap is taken between two instructions. -/
def execGeneratorFault (n : Nat) (s : State) : Out :=
  match (s.core.set.fab.mnAt n).stop with
  | some st =>
    when (!st.told && s.core.set.unit.isSome) s (fun s =>
      s.mapSet (fun c => { c with
        fab := c.fab.setMn n { c.fab.mnAt n with stop := some { st with told := true } }
        asyncs := c.asyncs ++ [⟨st.cause, stopWord n st⟩] }))
  | none => .next s

/-- A generator of a set goes on at the faulting access. -/
def CSet.resumeMn (c : CSet) (n : Nat) : CSet :=
  { c with fab := c.fab.setMn n { c.fab.mnAt n with stop := none } }

def CSet.hasMn (c : CSet) (part n : Nat) : Bool :=
  (match c.unit with | some u => u.part == part | none => false) &&
    match c.fab.running with
    | some im => (im.mn n).isSome
    | none => false

/-- GENRES on a core of the partition: the generator of the set that has the node. -/
def State.resumeGenerator (s : State) (t : Reg) (n core : Nat) : State :=
  match (s.coreAt core).sets.find? (fun c => c.hasMn s.unit.part n) with
  | none => s.engFails t 0x27 0
  | some c =>
    if (c.fab.mnAt n).stop.isNone then s.engFails t 0x48 0
    else (s.mapCoreAt core (fun k => k.mapSets (fun x => if x.hasMn s.unit.part n then x.resumeMn n else x))).later
      t .other 0 .clear 1

def execGenres (t a : Reg) (q : BitVec 4) (s : State) : Out :=
  issue (.genres t a q) ⟨[a], t, 1⟩
    (fun s =>
      let n := (s.reg a).toNat
      if n ≥ 256 ∨ (s.coreMask s.unit.part).getLsbD n = false then (s.engFails t 0x43 0).advance
      else (s.resumeGenerator t q.toNat n).advance) s

end Sys2Proof.Machine
end

