-- ==== Sys2Proof/Machine/Memnode.lean ====
section
/-!
DEFINITION. Memory nodes (R169 to R179, R223 to R227, R372). A node serves one load at a time; the tokens of a pass leave
one by one.
-/

namespace Sys2Proof.Machine

/-- The fabric ingress port of a memory node. -/
def mnIngress (n : Nat) : Nat := 2 + n

/-! ### Emission -/

/-- A token leaves a node. One that has no target is discarded, and counted when it is an error. -/
def State.nodeSend (s : State) (id : Nat) (from_ : Place) (gnode : BitVec 32) (tgt : Target) (t : Token) : State :=
  if tgt = noTarget then (if t.isError then s.nodeError id gnode t else s)
  else s.mapFab (fun f => (f.send (boxOf from_) s.cycle 0 tgt t).move s.cycle)

def State.mapMn (s : State) (n : Nat) (f : MnState → MnState) : State :=
  s.mapFab (fun g => g.setMn n (f (g.mnAt n)))

/-- What a step leaves of a streaming node's tail (R181). -/
def State.publish (s : State) (n : Nat) (p : MnParams) (P : Nat) : State :=
  if p.stream then s.mapMn n (fun m => { m with tail := some (m.tailNow p P) }) else s

/-- A completion token is owed. -/
def State.owe (s : State) (n : Nat) (p : MnParams) (k : Nat) (t : Token) (va : Option Nat) (writes : List Nat) : State :=
  s.mapMn n (fun m => { m with dones := m.dones ++ [⟨k, t, p.done, va, writes⟩] })

/-- A token of kind 10 with a zero payload and the tag of another. -/
def Token.failed (t : Token) (cause : BitVec 6) : Token :=
  ⟨⟨t.tag.stitch, .error, t.tag.pred, t.tag.last, cause⟩, 0⟩

/-! ### What a node takes next (R173, R372) -/

def mnInput (n i : Nat) : Target := nodeTarget 3 (2 * n + i)

/-- The input that a node's requests stand at: its data input for an AFF store. -/
def MnParams.primary (p : MnParams) : Nat := if p.store && p.mode == 0 then 1 else 0

/-- A store that pairs a request with a data token. -/
def MnParams.pairs (p : MnParams) : Bool := p.store && p.mode != 0

/-- A token that is a request, or an error in its place. -/
def Token.asks (t : Token) : Bool := t.isData || t.isError

/-- The sequence number of a request: bits [7:0] of lane 31. -/
def Token.number (t : Token) : BitVec 8 := BitVec.ofNat 8 (lane32 t.payload 31)

def MnState.expects (m : MnState) (k : Nat) : BitVec 8 := (lookup k m.expect).getD 0

/-- The j-th token of stitch k at the data input that takes part in pairing. -/
def Fabric.dataAt (f : Fabric) (n k j : Nat) : Option Token :=
  ((f.heldAt (mnInput n 1)).filter (fun t => t.k == k && t.asks))[j]?

/-- What a node does next with a token. -/
inductive MnPick where
  /-- the request is issued, with the data it pairs with -/
  | issue (t : Token) (d : Option Token)
  /-- a request of the reorder buffer is issued -/
  | unstash (x : MnStash)
  /-- a token of kind 01 or 11 goes on -/
  | through (input : Nat) (t : Token)
  /-- the request waits in the reorder buffer -/
  | stash (x : MnStash)
  deriving DecidableEq, Repr

/-- The parameters under which a pick is handled: those a buffered request was accepted under (R119). -/
def MnPick.par (c : MnPick) (p : MnParams) : MnParams :=
  match c with
  | .unstash x => x.par
  | _ => p

/-- The data token that a request pairs with, `before` being the tokens that stand before it: none while it has not
come. -/
def Fabric.mate (f : Fabric) (n : Nat) (p : MnParams) (before : List Token) (t : Token) : Option (Option Token) :=
  if p.pairs then
    (f.dataAt n t.k ((before.filter (fun b => b.k == t.k && b.asks)).length)).map some
  else some none

/-- A request of the stitch that arrived before the first token of kind 01, 10 or 11 at the request input waits in the
reorder buffer. -/
def MnState.waitsBefore (m : MnState) (k : Nat) : Bool := m.reorder.any (fun x => x.stitch == k && x.behind == 0)

/-- The tokens of kind 01 or 11 of a stitch that stand at the data input before a token. -/
def Fabric.dataBehind (f : Fabric) (n k : Nat) (d : Option Token) : Nat :=
  match d with
  | some x =>
    let l := (f.heldAt (mnInput n 1)).filter (fun t => t.k == k)
    ((l.take (l.idxOf x)).filter (fun t => !t.asks)).length
  | none => 0

/-- What may be done with a token at the primary input. A token of kind 01, 10 or 11 waits for the requests of its stitch
that arrived before it, a number that is not the expected one for a place in the reorder buffer. -/
def MnState.judge (m : MnState) (f : Fabric) (n : Nat) (p : MnParams) (before : List Token) (t : Token) : Option MnPick :=
  let mine := before.filter (fun b => b.k == t.k)
  if !t.asks then
    if mine.isEmpty && !m.waitsBefore t.k then some (.through p.primary t) else none
  else match f.mate n p before t with
    | none => none
    | some d =>
      if t.isError then (if mine.isEmpty && !m.waitsBefore t.k then some (.issue t d) else none)
      else if p.free then (if mine.isEmpty then some (.issue t d) else none)
      else if t.number = m.expects t.k then some (.issue t d)
      else if (m.reorder.filter (fun x => x.stitch == t.k)).length < 4 then
        some (.stash ⟨t.k, t, d, p, (mine.filter (fun b => !b.isData)).length, f.dataBehind n t.k d⟩)
      else none

/-- The first token of a list that something may be done with. -/
def MnState.scan (m : MnState) (f : Fabric) (n : Nat) (p : MnParams) : List Token → List Token → Option MnPick
  | _, [] => none
  | before, t :: rest =>
    match m.judge f n p before t with
    | some c => some c
    | none => MnState.scan m f n p (before ++ [t]) rest

/-- A token of kind 01 or 11 that stands first of its stitch at the data input of a store that pairs. -/
def MnState.passing (m : MnState) (f : Fabric) (n : Nat) (p : MnParams) : Option MnPick :=
  if p.pairs then
    let l := f.heldAt (mnInput n 1)
    (l.find? (fun t => !t.asks && (l.find? (fun b => b.k == t.k)) == some t &&
      !m.reorder.any (fun x => x.stitch == t.k && x.behindData == 0))).map (.through 1)
  else none

def MnState.pickNext (m : MnState) (f : Fabric) (n : Nat) (p : MnParams) : Option MnPick :=
  match m.reorder.find? (fun x => x.tok.number == m.expects x.stitch) with
  | some x => some (.unstash x)
  | none =>
    match m.scan f n p [] (f.heldAt (mnInput n p.primary)) with
    | some c => some c
    | none => m.passing f n p

/-- A token that is no data token has left an input: the buffered requests of its stitch stand behind one less. -/
def MnState.tokenLeft (m : MnState) (primary : Bool) (k : Nat) : MnState :=
  { m with reorder := m.reorder.map (fun x =>
      if x.stitch ≠ k then x
      else if primary then { x with behind := x.behind - 1 } else { x with behindData := x.behindData - 1 }) }

/-- The expected number advances with a request issued. -/
def MnState.advance (m : MnState) (p : MnParams) (t : Token) : MnState :=
  { m with expect := if t.isData && !p.free then insert t.k (m.expects t.k + 1) m.expect else m.expect }

/-- The j-th token of stitch k at a target that takes part in pairing leaves. -/
def removeAsking (at0 : Target) (k : Nat) : Nat → List (Target × Token) → List (Target × Token)
  | _, [] => []
  | j, p :: rest =>
    if p.1 = at0 ∧ p.2.k = k ∧ p.2.asks = true then (if j = 0 then rest else p :: removeAsking at0 k (j - 1) rest)
    else p :: removeAsking at0 k j rest

/-- The place of a request among those of its stitch at the primary input, which is that of the data it pairs with. -/
def Fabric.askPlace (f : Fabric) (n : Nat) (p : MnParams) (t : Token) : Nat :=
  ((f.heldAt (mnInput n p.primary)).filter (fun b => b.k == t.k && b.asks)).idxOf t

/-- The tokens of a pick leave the input or the reorder buffer, and the expected number advances. -/
def Fabric.consumeMn (f : Fabric) (n : Nat) (p : MnParams) (c : MnPick) : Fabric :=
  let m := f.mnAt n
  let take (t : Token) (d : Option Token) : List (Target × Token) :=
    let l := f.held.erase (mnInput n p.primary, t)
    if d.isSome then removeAsking (mnInput n 1) t.k (f.askPlace n p t) l else l
  let gone (m : MnState) (t : Token) : MnState := if t.isError then m.tokenLeft true t.k else m
  match c with
  | .issue t d => ({ f with held := take t d } : Fabric).setMn n (gone (m.advance p t) t)
  | .unstash x => f.setMn n (MnState.advance { m with reorder := m.reorder.erase x } x.par x.tok)
  | .through i t => ({ f with held := f.held.erase (mnInput n i, t) } : Fabric).setMn n (m.tokenLeft (i == p.primary) t.k)
  | .stash x => ({ f with held := take x.tok x.dat } : Fabric).setMn n
      { m with reorder := m.reorder ++ [x] }

def State.consumeMn (s : State) (n : Nat) (p : MnParams) (c : MnPick) : State :=
  s.mapFab (fun f => (f.consumeMn n p c).move s.cycle)

/-! ### Reading (R171, R172, R225, R364) -/

/-- A part of a loaded token: bytes at an address, or zeros. -/
inductive Chunk where
  | at (va n : Nat)
  | zeros (n : Nat)
  deriving DecidableEq, Repr

/-- Why a read gives no bytes: a fault of the walk at an address, or an error of the data. -/
inductive MnErr where
  | fault (f : XFault) (va : Nat)
  | data (cause : BitVec 6)
  deriving DecidableEq, Repr

/-- Translation for node n, through its own cache of 16. While a TINVAL is in progress a request already issued
completes under the translations it used (R175, R176). -/
def State.translateMn (s : State) (n : Nat) (kept : Bool) (kind : AccKind) (va : Nat) : State × Except XFault Nat :=
  match s.throughCache (s.core.set.fab.mnAt n).tlb kept kind va with
  | (u, cache, r) => (u.mapMn n (fun m => { m with tlb := cache.take 16 }), r)

def State.resolveMn (s : State) (n : Nat) (kind : AccKind) (va len : Nat) :
    State × Except (XFault × Nat) (Bool × List Span) :=
  let kept := !s.invals.isEmpty
  s.resolveBy (fun s va => s.translateMn n kept kind va) va len

def State.readChunk (s : State) (n : Nat) (c : Chunk) : State × Except MnErr (List Byte) :=
  match c with
  | .zeros len => (s, .ok (List.replicate len 0))
  | .at va len =>
    match s.resolveMn n .read va len with
    | (s, .error f) => (s, .error (.fault f.1 f.2))
    | (s, .ok (window, spans)) =>
      match State.readSpans window spans s with
      | (s, bs, none) => (s, .ok bs)
      | (s, _, some e) => (s, .error (.data e.1))

def State.readChunks (n : Nat) : List Chunk → State → State × Except MnErr (List Byte)
  | [], s => (s, .ok [])
  | c :: rest, s =>
    match s.readChunk n c with
    | (s, .error e) => (s, .error e)
    | (s, .ok bs) =>
      match State.readChunks n rest s with
      | (s, .error e) => (s, .error e)
      | (s, .ok more) => (s, .ok (bs ++ more))

/-- The outputs of a WIN pass in one direction. -/
def winCount (size pad k step : Nat) : Nat := if size + 2 * pad < k then 0 else (size + 2 * pad - k) / step + 1

def MnParams.ow (p : MnParams) : Nat := winCount p.w p.pad p.kw p.step
def MnParams.oh (p : MnParams) : Nat := winCount p.h p.pad p.kh p.step

/-- The pixels of a WIN token: those outside the image need no access. -/
def MnParams.pixels (p : MnParams) (k idx : Nat) : List Chunk :=
  let oy := idx / p.ow
  let ox := idx % p.ow
  (List.range (p.kh * p.kw)).map (fun j =>
    let iy : Int := (oy * p.step : Nat) - (p.pad : Int) + (j / p.kw : Nat)
    let ix : Int := (ox * p.step : Nat) - (p.pad : Int) + (j % p.kw : Nat)
    if 0 ≤ iy ∧ iy < p.h ∧ 0 ≤ ix ∧ ix < p.w then
      .at ((p.base.toNat : Int) + k * p.d 1 + iy * p.d 0 + ix * p.pix).toNat p.pix
    else .zeros p.pix)

/-- The address of an IDX request. -/
def MnParams.indexed (p : MnParams) (t : Token) : Nat := p.base.toNat + lane32 t.payload 0 * p.istr

/-- What token `idx` of a request is made of, in modes AFF, IDX and WIN. -/
def MnParams.chunks (p : MnParams) (a : MnPass) : List Chunk :=
  match p.mode with
  | 0 => [.at (p.stepAddr a.stitch a.idx).toNat 128]
  | 1 => [.at (p.indexed a.req) 128]
  | _ => p.pixels a.stitch a.idx

/-! ### PAGED layouts (R224, R225) -/

/-- Rows of a block start here: after the scale or the count, and the scale rows. -/
def MnParams.rowsAt (p : MnParams) : Nat :=
  match p.fmt.toNat with
  | 3 => 16
  | 9 => 16 + 128 * p.rpp
  | _ => 0

def MnParams.rowBytes (p : MnParams) : Nat := if p.fmt = 9 then 32 else 128

def MnParams.position (t : Token) : Nat := lane32 t.payload 0

/-- The offset in its block of row r of the position of a request. -/
def MnParams.rowAt (p : MnParams) (t : Token) (r : Nat) : Nat :=
  p.rowsAt + (MnParams.position t % p.tpb * p.rpp + r) * p.rowBytes

/-- The end of the rows, where format 9 has its outlier list. -/
def MnParams.rowsEnd (p : MnParams) : Nat := p.rowsAt + p.tpb * p.rpp * p.rowBytes

/-- An outlier entry: position offset, channel, value. -/
structure Outlier where
  pos   : Nat
  chan  : Nat
  value : Nat
  deriving DecidableEq, Repr

def outliersOf (bs : List Byte) (c : Nat) : List Outlier :=
  (List.range c).map (fun i => ⟨field bs (8 * i) 2, field bs (8 * i + 2) 2, field bs (8 * i + 4) 2⟩)

/-- Element e of a decoded key row. -/
def keyElement (scales row : List Byte) (outs : List Outlier) (j r e : Nat) : Nat :=
  let nib := (row.getD (e / 2) 0).toNat / 16 ^ (e % 2) % 16
  let v := bf16.rne (.mul (.ofInt (sintOf 4 nib)) (fp16.decode (field scales (2 * e) 2)))
  outs.foldl (fun v o => if o.pos = j ∧ o.chan = r * 64 + e then bf16.rne (fp16.decode o.value) else v) v

def keyRow (scales row : List Byte) (outs : List Outlier) (j r : Nat) : Payload :=
  ofLanes 16 ((List.range 64).map (keyElement scales row outs j r))

/-- An element of a block's layout that no row or channel has. -/
def MnParams.strays (p : MnParams) (o : Outlier) : Bool := decide (o.pos ≥ p.tpb) || decide (o.chan ≥ 64 * p.rpp)

def causeFmtbad : BitVec 6 := 0x0A
def causeIdxbound : BitVec 6 := 0x01

/-- A format 9 row decoded; a layout that passes the block or an entry out of range is FMTBAD. -/
def State.readKeyRow (s : State) (n : Nat) (p : MnParams) (a : MnPass) : State × Except MnErr Payload :=
  match State.readChunks n [.at a.block 4] s with
  | (s, .error e) => (s, .error e)
  | (s, .ok head) =>
    let c := field head 0 4
    if p.rowsEnd + 8 * c > a.size then (s, .error (.data causeFmtbad))
    else
      let r := a.idx
      match State.readChunks n [.at (a.block + p.rowsEnd) (8 * c)] s with
      | (s, .error e) => (s, .error e)
      | (s, .ok list) =>
        let outs := outliersOf list c
        if outs.any p.strays then (s, .error (.data causeFmtbad))
        else
          match State.readChunks n [.at (a.block + 16 + 128 * r) 128, .at (a.block + p.rowAt a.req r) 32] s with
          | (s, .error e) => (s, .error e)
          | (s, .ok bs) => (s, .ok (keyRow (bs.take 128) (bs.drop 128) outs (MnParams.position a.req % p.tpb) r))

/-! ### The tokens of a pass (R171, R172, R174, R179, R225) -/

/-- The generator stops at the faulting access. -/
def State.stopMn (s : State) (n : Nat) (f : XFault) (va : Nat) (store : Bool) : State :=
  s.mapMn n (fun m => { m with stop := some ⟨BitVec.ofNat 48 va, store, f.cause, false⟩ })

/-- The payload of the next token of a pass. -/
def State.readPass (s : State) (n : Nat) (p : MnParams) (a : MnPass) : State × Except MnErr Payload :=
  if a.req.isError then (s, .error (.data a.req.tag.cause))
  else if p.mode = 3 ∧ p.fmt = 9 then s.readKeyRow n p a
  else
    match State.readChunks n (if p.mode = 3 then [.at (a.block + p.rowAt a.req a.idx) 128] else p.chunks a) s with
    | (s, .ok bs) => (s, .ok (payloadOf bs))
    | (s, .error e) => (s, .error e)

/-- The completion token of a load; a format 3 request ends with its block's scale (R225). -/
def State.loadEnds (s : State) (n : Nat) (p : MnParams) (a : MnPass) : State × Except MnErr Token :=
  if p.mode = 3 ∧ p.fmt = 3 ∧ !a.req.isError then
    match State.readChunks n [.at a.block 4] s with
    | (s, .ok bs) => (s, .ok (Token.plain a.stitch (withLane0 0 (leNat bs)) a.last))
    | (s, .error (.data c)) => (s, .ok (Token.error a.stitch c a.last))
    | (s, .error e) => (s, .error e)
  else (s, .ok (Token.order a.stitch a.last))

/-- A token of a pass leaves; the last one ends the pass. A pass that served a request is its stitch's one pass at a
streaming node (R178); a token of kind 10 is no request (R372). -/
def State.sendPass (s : State) (n : Nat) (p : MnParams) (a : MnPass) (fin : Option Token) (t : Token) : State :=
  let s := s.nodeSend (mnId n) (.mn n 0) 0xFFFFFFFF p.dat t
  match fin with
  | none => s.mapMn n (fun m => { m with pass := some { a with idx := a.idx + 1 } })
  | some d =>
    (s.mapMn n (fun m => { m with
      pass := none
      passed := if p.stream && a.req.isData && !m.passed.contains a.stitch then a.stitch :: m.passed else m.passed })).owe n p
        a.stitch d none []

/-- The next token of a pass read and sent, or the generator stopped at it. -/
def State.emitPass (s : State) (n : Nat) (p : MnParams) (a : MnPass) : State :=
  let lastOne := decide (a.idx + 1 ≥ a.total)
  match (if lastOne then s.loadEnds n p a else (s, .ok (Token.order a.stitch false))) with
  | (s, .error (.fault f va)) => s.stopMn n f va false
  | (s, .error (.data _)) => s
  | (s, .ok d) =>
    let fin := if lastOne then some d else none
    let last := a.last && lastOne
    match s.readPass n p a with
    | (s, .error (.fault f va)) => s.stopMn n f va false
    | (s, .error (.data c)) => s.sendPass n p a fin (Token.error a.stitch c last)
    | (s, .ok pl) => s.sendPass n p a fin (Token.plain a.stitch pl last)

/-- The first and the last byte of step m of stitch k's walk: a token's 128 bytes in AFF and IDX, a pixel in WIN, of which
only those inside the image count (R364), and in PAGED mode the byte at m. -/
def MnParams.walkEnds (p : MnParams) (P k m : Nat) : List Int :=
  match p.mode with
  | 0 => if k < P ∧ m < p.passLen then [p.stepAddr k m, p.stepAddr k m + 127] else []
  | 1 => if m < p.bound then [p.base.toNat + m * p.istr, p.base.toNat + m * p.istr + 127] else []
  | 2 =>
    if k < P ∧ m < p.h * p.w then
      let at0 : Int := (p.base.toNat : Int) + k * p.d 1 + (m / p.w : Nat) * p.d 0 + (m % p.w : Nat) * p.pix
      [at0, at0 + p.pix - 1]
    else []
  | _ => [m]

/-- The page of an address of a node's walk, translated ahead of the request that needs it (R175): a walk that fails tells
nothing yet. -/
def State.pageAhead (p : MnParams) (n : Nat) (s : State) (at0 : Int) : State :=
  let va := at0.toNat
  if 0 ≤ at0 && va < windowBase && (s.part.windowAt va).isNone &&
      !(s.core.set.fab.mnAt n).tlb.any (fun e => e.vpn == va / 65536 && e.allows p.access) then
    (s.translateMn n false p.access va).1
  else s

/-- The pages of step m of stitch k's walk, translated ahead. -/
def State.walkAhead (s : State) (n k m : Nat) : State :=
  match s.core.set.fab.running with
  | none => s
  | some im =>
    match im.mn n with
    | none => s
    | some p => if s.pausedMn im p then s else (p.walkEnds im.P k m).foldl (State.pageAhead p n) s

/-- The pages of the next token of an AFF load's pass, translated ahead. -/
def execWalkAhead (n : Nat) (s : State) : Out :=
  match (s.core.set.fab.mnAt n).pass with
  | some a =>
    when (s.core.fabricRuns s.cycle && a.par.mode == 0 && a.req.isData && decide (a.idx + 1 < a.total)) s
      (fun s => s.walkAhead n a.stitch (a.idx + 1))
  | none => .next s

/-! ### Issue -/

/-- A load's request begins its pass; one that has no token is performed at once. -/
def State.beginPass (s : State) (n : Nat) (p : MnParams) (c : MnPick) (a : MnPass) : State :=
  let s := s.consumeMn n p c
  if a.total = 0 then s.owe n p a.stitch (Token.order a.stitch a.last) none []
  else s.mapMn n (fun m => { m with pass := some a })

/-- A store that makes no access completes with an error. -/
def State.failStore (s : State) (n : Nat) (p : MnParams) (c : MnPick) (k : Nat) (last : Bool) (cause : BitVec 6) : State :=
  (s.consumeMn n p c).owe n p k (Token.error k cause last) none []

/-- The uncorrectable error for which a store cannot be performed: that of a line of which it covers a part, where the
rest of the line cannot be kept; with the span it is met at (R172, R329; assumption 113). -/
def State.storeError (s : State) (spans : List Span) : Option (BitVec 6 × Span) :=
  (joinSpans spans).findSome? (fun sp =>
    let part := (linesOf sp.pa sp.n).filter (fun l => !(wholeLines sp.pa sp.n).contains l)
    if part.any (fun l => s.host.errLines.contains l) then some (0x03, sp)
    else if part.any (fun l => s.host.poisoned.contains l) then some (0x0B, sp)
    else none)

/-- A store of 128 bytes: the tokens are consumed once the walk has not faulted. One that an uncorrectable error keeps
from being performed is logged, and its completion carries the error. -/
def State.performStore (s : State) (n : Nat) (p : MnParams) (c : MnPick) (k : Nat) (last : Bool) (va : Nat) (pl : Payload) :
    State :=
  match s.resolveMn n .write va 128 with
  | (u, .error f) => u.stopMn n f.1 f.2 true
  | (u, .ok (window, spans)) =>
    match u.storeError spans with
    | some e => (u.report u.part.num u.core.num e.2.pa e.2.n e.1).failStore n p c k last e.1
    | none =>
      if !window && (s.retentionFull || s.portWaits s.core.num (mnIngress n)) then s
      else
        match (u.consumeMn n p c).write (.node n) window spans (payloadBytes pl) with
        | (u, ids) => u.owe n p k (Token.order k last) (some va) ids

/-- The error of a request or of the data it pairs with; the request's when both are errors. -/
def errorOf (t : Token) (d : Option Token) : Option (BitVec 6) :=
  if t.isError then some t.tag.cause
  else match d with
    | some x => if x.isError then some x.tag.cause else none
    | none => none

def lastOf (t : Token) (d : Option Token) : Bool := t.tag.last || (d.map (fun x => x.tag.last)).getD false

/-- The step of an AFF store's walk that its stitch has reached. -/
def MnState.stepOf (m : MnState) (k : Nat) : Nat := (lookup k m.steps).getD 0

/-- The walk of an AFF store goes a step on. -/
def State.stepStore (s : State) (n k : Nat) (p : MnParams) : State :=
  s.mapMn n (fun m =>
    let next := m.stepOf k + 1
    { m with
      steps := insert k (next % p.passLen) m.steps
      passed := if p.stream && next == p.passLen then k :: m.passed else m.passed })

/-- A streaming node serves one pass of a stitch, and nothing below its tail (R178, R181). DESIGN CHOICE (assumption 131): a
request that would go below the tail, of a stitch cast on again, is refused as a further request is, with IDXBOUND. -/
def MnState.refuses (m : MnState) (p : MnParams) (k : Nat) (at0 : Int) : Bool :=
  p.stream && (m.passed.contains k || decide (at0 < ((m.tail.getD 0 : Nat) : Int)))

/-- A store of modes AFF and IDX. -/
def State.issueStore (s : State) (n : Nat) (p : MnParams) (c : MnPick) (t : Token) (d : Option Token) : State :=
  let m := s.core.set.fab.mnAt n
  let k := t.k
  let last := lastOf t d
  match errorOf t d with
  | some cause =>
    let s := s.failStore n p c k last cause
    if p.mode = 0 then s.stepStore n k p else s
  | none =>
    if p.mode = 0 then
      let va := p.stepAddr k (m.stepOf k)
      if m.refuses p k va then s.failStore n p c k last causeIdxbound
      else
        let u := s.performStore n p c k last va.toNat t.payload
        if (u.core.set.fab.mnAt n).dones.length = m.dones.length then u else u.stepStore n k p
    else if lane32 t.payload 0 ≥ p.bound then s.failStore n p c k last causeIdxbound
    else s.performStore n p c k last (p.indexed t) ((d.map (fun x => x.payload)).getD 0)

/-- A load of modes AFF, IDX and WIN. -/
def State.issueLoad (s : State) (n : Nat) (p : MnParams) (c : MnPick) (t : Token) : State :=
  let k := t.k
  let last := t.tag.last
  if t.isError then s.beginPass n p c ⟨k, 0, 1, last, t, 0, 0, p⟩
  else match p.mode with
    | 0 =>
      if (s.core.set.fab.mnAt n).refuses p k (p.stepAddr k 0) then
        s.beginPass n p c ⟨k, 0, 1, last, t.failed causeIdxbound, 0, 0, p⟩
      else s.beginPass n p c ⟨k, 0, p.passLen, last, t, 0, 0, p⟩
    | 1 =>
      if lane32 t.payload 0 ≥ p.bound then s.beginPass n p c ⟨k, 0, 1, last, t.failed causeIdxbound, 0, 0, p⟩
      else s.beginPass n p c ⟨k, 0, 1, last, t, 0, 0, p⟩
    | _ => s.beginPass n p c ⟨k, 0, p.oh * p.ow, last, t, 0, 0, p⟩

/-- A token of kind 01 or 11 goes on: on the data target of a load, among the completions of a store. -/
def State.passThrough (s : State) (n : Nat) (p : MnParams) (c : MnPick) (t : Token) : State :=
  if p.store then (s.consumeMn n p c).owe n p t.k t none []
  else if s.core.set.fab.hasRoom p.dat then (s.consumeMn n p c).nodeSend (mnId n) (.mn n 0) 0xFFFFFFFF p.dat t
  else s

/-- The node of the running configuration, while its fabric runs and its generator is not stopped. -/
def State.liveMn (s : State) (n : Nat) : Option (Image × MnParams) :=
  if s.core.fabricRuns s.cycle && (s.core.set.fab.mnAt n).stop.isNone then
    match s.core.set.fab.running with
    | some im => (im.mn n).map (fun p => (im, p))
    | none => none
  else none

/-- What a node does next: the next token of its pass, or the next token it takes. -/
inductive MnAct where
  | emit (a : MnPass)
  | take (c : MnPick)
  deriving DecidableEq, Repr

def MnState.next (m : MnState) (f : Fabric) (n : Nat) (p : MnParams) : Option MnAct :=
  match m.pass with
  | some a => some (.emit a)
  | none => if m.dones.length ≥ Config.nodeOwes then none else (m.pickNext f n p).map .take

/-- The parameters that a node acts under: those of the pass, or of the request, where it was accepted before the block
of now (R119). -/
def MnAct.par (x : MnAct) (p : MnParams) : MnParams :=
  match x with
  | .emit a => a.par
  | .take c => c.par p

/-- The next token of a pass needs global memory: not where its request is an error, nor in the window, which is no part
of the network, nor where a WIN token lies wholly in the padding (R364). -/
def MnPass.asks (a : MnPass) : Bool :=
  a.req.isData && decide (a.par.base.toNat < windowBase) &&
    (a.par.mode != 2 || (a.par.pixels a.stitch a.idx).any (fun c => match c with | .at _ _ => true | .zeros _ => false))

/-- The next token of a pass may be read: it asks memory with one read request, a flit, which the retention buffer and the
tension limiter let through (R264, R320; assumption 118). -/
def State.mayAsk (s : State) (n : Nat) (a : MnPass) : Bool :=
  !a.asks || (!s.retentionFull && s.hasFlits s.part.num s.core.num (mnIngress n) 1)

/-- The token read and sent, its read request counted at the ingress port. -/
def State.askPass (s : State) (n : Nat) (p : MnParams) (a : MnPass) : State :=
  if !a.asks then s.emitPass n p a
  else (s.spend s.part.num s.core.num (mnIngress n) 1).emitPass n p a

/-- A SIGWAIT of the unit holds back the requests of a node that reaches the global part (R238). -/
def State.sigHolds (s : State) (p : MnParams) : Bool :=
  s.core.set.sigwaits && (p.mode == 3 || decide (p.base.toNat < windowBase))

/-- A node's next step, `begins` a request. A generator that a TINVAL pauses takes nothing (R176). -/
def State.stepMn (s : State) (im : Image) (n : Nat) (q : MnParams) (x : MnAct)
    (begins : State → MnPick → Token → Option Token → State) : State :=
  match x with
  | .emit a => if s.core.set.fab.hasRoom q.dat && s.mayAsk n a then s.askPass n q a else s
  | .take c =>
    if s.pausedMn im q then s
    else match c with
      | .issue t d => if s.sigHolds q then s else begins s c t d
      | .unstash y => if s.sigHolds q then s else begins s c y.tok y.dat
      | .through _ t => s.passThrough n q c t
      | .stash _ => s.consumeMn n q c

/-- A node of modes AFF, IDX and WIN issues a request, sends a token of a pass, or handles a token that is no request. -/
def execMemoryNodeRequest (n : Nat) (s : State) : Out :=
  match s.liveMn n with
  | some (im, p) =>
    match (s.core.set.fab.mnAt n).next s.core.set.fab n p with
    | some x =>
      let q := x.par p
      when (q.mode ≠ 3) s (fun s =>
        (s.stepMn im n q x (fun s c t d => if q.store then s.issueStore n q c t d else s.issueLoad n q c t)).publish n p im.P)
    | none => .next s
  | none => .next s

/-! ### PAGED requests (R223 to R227) -/

/-- The block that a request of stitch k at a position leads to: the cached one, or the controller's answer; else the
controller's status. -/
def State.pagedBlock (s : State) (n : Nat) (p : MnParams) (k pos : Nat) : State × Except Nat (Nat × Nat) :=
  let h : BitVec 32 := BitVec.setWidth 32 (s.core.set.rounds.at k).handle
  let hw : Word := BitVec.setWidth 64 h
  let bi := pos / p.tpb
  match s.poolOf s.part.num hw with
  | none => (s, .error blkNoPool)
  | some g =>
    match (s.core.set.fab.mnAt n).paged.find? (fun e => e.1 == k && e.2.1 == h && e.2.2.1 == bi) with
    | some e => (s, .ok (g.base + e.2.2.2 * g.size, g.size))
    | none =>
      match (g.table (handleTable hw)).bind (fun l => l[bi]?) with
      | none => (s, .error blkBadSeq)
      | some b =>
        (s.mapMn n (fun m => { m with paged := (k, h, bi, b) :: m.paged.filter (fun e => e.1 ≠ k) }),
          .ok (g.base + b * g.size, g.size))

/-- A refused request is logged with the controller's status (assumption 13). -/
def State.logRefused (s : State) (n : Nat) (t : Token) (status : Nat) : State :=
  s.log s.unit.part (s.nodeRecord 0x03 t.k (mnId n) 0xFFFFFFFF (BitVec.ofNat 8 status) (t.failed causeIdxbound).tagWord)

/-- Whether a block is too small for the layout; format 9 is judged with its outlier list. -/
def MnParams.overflows (p : MnParams) (size : Nat) : Bool := p.fmt ≠ 9 && decide (p.rowsEnd > size)

/-- The cause of a layout error outside format 9, which is not stated: one of the two that such a request can raise
(R226, R328), as a free value says. -/
def MnParams.layoutCause (p : MnParams) : BitVec 6 :=
  if Config.layoutFmtbad p.store p.fmt then causeFmtbad else causeIdxbound

/-- A PAGED load. -/
def State.issuePagedLoad (s : State) (n : Nat) (p : MnParams) (c : MnPick) (t : Token) : State :=
  let k := t.k
  let last := t.tag.last
  if t.isError then s.beginPass n p c ⟨k, 0, 1, last, t, 0, 0, p⟩
  else match s.pagedBlock n p k (MnParams.position t) with
    | (s, .error status) => (s.logRefused n t status).beginPass n p c ⟨k, 0, p.rpp, last, t.failed causeIdxbound, 0, 0, p⟩
    | (s, .ok (va, size)) =>
      if p.overflows size then
        s.beginPass n p c ⟨k, 0, p.rpp, last, t.failed p.layoutCause, 0, 0, p⟩
      else s.beginPass n p c ⟨k, 0, p.rpp, last, t, va, size, p⟩

/-- A PAGED store of the row that lane 1 of its request names. -/
def State.issuePagedStore (s : State) (n : Nat) (p : MnParams) (c : MnPick) (t : Token) (d : Option Token) : State :=
  let k := t.k
  let last := lastOf t d
  match errorOf t d with
  | some cause => s.failStore n p c k last cause
  | none =>
    match s.pagedBlock n p k (MnParams.position t) with
    | (s, .error status) => (s.logRefused n t status).failStore n p c k last causeIdxbound
    | (s, .ok (va, size)) =>
      let off := p.rowAt t (lane32 t.payload 1)
      if p.overflows size || decide (off + 128 > size) then
        s.failStore n p c k last p.layoutCause
      else s.performStore n p c k last (va + off) ((d.map (fun x => x.payload)).getD 0)

def execPagedRequest (n : Nat) (s : State) : Out :=
  match s.liveMn n with
  | some (im, p) =>
    match (s.core.set.fab.mnAt n).next s.core.set.fab n p with
    | some x =>
      let q := x.par p
      when (q.mode = 3) s (fun s =>
        s.stepMn im n q x (fun s c t d => if q.store then s.issuePagedStore n q c t d else s.issuePagedLoad n q c t))
    | none => .next s
  | none => .next s

/-! ### Completions (R174) -/

/-- The first completion token of its stitch whose writes have been applied. -/
def State.doneReady (s : State) (l : List MnDone) : Option MnDone :=
  l.find? (fun d => l.find? (fun e => e.stitch == d.stitch) == some d && d.writes.all s.arrivedId)

/-- A completion token leaves. -/
def execMemoryNodeCompletion (n : Nat) (s : State) : Out :=
  match s.core.set.fab.running with
  | none => .next s
  | some im =>
    match im.mn n, s.doneReady (s.core.set.fab.mnAt n).dones with
    | some p, some d =>
      when (s.core.fabricRuns s.cycle && s.core.set.fab.hasRoom d.tgt) s (fun s =>
        ((s.mapMn n (fun m => { m with dones := m.dones.erase d })).nodeSend (mnId n) (.mn n 0) 0xFFFFFFFF d.tgt d.tok).publish
          n p im.P)
    | _, _ => .next s

end Sys2Proof.Machine
end

