-- ==== Sys2Proof/Machine/NetEvents.lean ====
section
/-!
DEFINITION. The network's own steps (R263 to R267): packets at switches, delivery, trims, re-asks, acknowledgements and
losses. An event that names a packet is due only where the packet stands so.
-/

namespace Sys2Proof.Machine

/-! ### At a switch (R260, R263) -/

/-- A packet at a switch input is forwarded, or trimmed to a bare header on VC7. -/
def State.atSwitch (s : State) (k : Packet) (sw port : Nat) : State :=
  let u := (s.served k).entered k
  if s.mustTrim k sw port then
    ((u.countAt sw port k.vc k.part).useTrim k).setPacket
      { k with way := .header, place := some (sw, port), trims := k.trims + 1 }
  else u.setPacket { k with place := some (sw, port) }

/-- A control packet at a switch input; a re-ask is counted there (R268). -/
def State.hopControl (s : State) (c : Control) (sw port : Nat) : State :=
  let s := s.mapNet (fun n => { n with
    control := n.control.map (fun x => if x.id = c.id then { x with place := some (sw, port) } else x) })
  match c.notice with
  | .reask _ => s.countAt sw port 6 c.part
  | _ => s

def State.controlAt (s : State) (i : Nat) : Option Control := s.net.control.find? (fun c => c.id == i)

/-- A packet, a trimmed header or a control packet moves on to an input port. -/
def execPacketAtSwitch (i sw port : Nat) (s : State) : Out :=
  match s.packet i, s.controlAt i with
  | some k, _ =>
    if k.way = .header then
      when (s.headerGoes k && k.nextHop == some (sw, port)) s (fun s => s.setPacket { k with place := some (sw, port) })
    else when (s.mayHop k sw port) s (fun s => s.atSwitch k sw port)
  | none, some c => when (s.controlTurn c && c.nextHop == some (sw, port)) s (fun s => s.hopControl c sw port)
  | none, none => .next s

/-! ### Delivery (R107, R267) -/

/-- The packets of the same ordered flow that wait in the reorder buffer. -/
def State.reordered (s : State) (k : Packet) : Nat :=
  (s.net.packets.filter (fun q => q.way == .holding && decide (q.id ≠ k.id) && q.sameFlow k)).length

/-- A snapshot copy of a location left for a unit (R17). -/
def CSet.keepSnap (c : CSet) (loc : Nat) (v : Word) : CSet :=
  if (lookup loc c.snaps).isSome then c else { c with snaps := (loc, v) :: c.snaps }

/-- A read request at the home: the location is read, a copy is left on the unit's path, unless the request's phase has
ended, and the slice sends the reply. -/
def State.serveRead (s : State) (k : Packet) (pa : Nat) (bypass : Bool) : State :=
  let part := s.partOf k.part
  let loc := pa / 8 * 8
  let err := s.readError pa 1
  let v : Word :=
    if part.inCounters loc then BitVec.ofNat 64 (leNat (s.bytesAt part loc 8))
    else s.homeWord k.lid k.unit k.phase bypass loc
  let s := match err with
    | some e => s.report k.part k.src pa 1 e
    | none =>
      if s.readsLate k.lid k.phase then s
      else s.mapSets (fun c => if c.runsUnit k.lid k.unit then c.keepSnap loc v else c)
  s.inject { k with
    src := k.dst, dst := k.src, unit := 0xFFFF, trims := 0, resent := false, bytes := leBytes 8 v.toNat,
    body := .reply pa v err, way := .sent, place := none }

/-- A reply at the core: the load that waits for it takes its value; an uncorrectable error makes an error completion
with the value 0 (R103). -/
def State.takeReply (s : State) (k : Packet) (v : Word) (err : Option (BitVec 6)) : State :=
  match k.op, err with
  | none, _ => s
  | some id, some _ => s.settle id 0 .token
  | some id, none =>
    s.mapSets (fun c =>
      { c with ops := c.ops.map (fun o =>
          if o.id = id then
            match o.wait with
            | .load pa size own _ _ => { o with wait := .ready (loadValue size pa v own) .clear (s.cycle + 1) }
            | _ => o
          else o) })

/-- A packet that has come to the end of its path arrives: reads and replies are served at once, others are held until
they may be handed over; one that finds its flow's reorder buffer full is trimmed (R263, R267). A request for a peer module leaves
the module. -/
def State.arrivePacket (s : State) (k : Packet) : State :=
  let s := (s.served k).entered k
  match k.body with
  | .read pa bypass => if k.dst ≥ remoteEnd then s.handOver k else (s.handOver k).serveRead k pa bypass
  | .reply _ v err => (s.handOver k).takeReply k v err
  | _ =>
    if s.reordered k ≥ 32 ∧ !s.inOrder k then s.trimHere k
    else (s.setPacket { k with way := .holding, place := none }).noteYarn k

def execPacketDelivery (i : Nat) (s : State) : Out :=
  match s.packet i with
  | some k => when (s.atEnd k) s (fun s => s.arrivePacket k)
  | none => .next s

/-! ### Trims and re-asks (R265, R266) -/

def execTrimNotice (i : Nat) (s : State) : Out :=
  match s.packet i with
  | some k => when (k.way == .header && k.nextHop.isNone) s (fun s => s.noteTrim k)
  | none => .next s

def Packet.isHole (k : Packet) : Bool :=
  match k.way with
  | .hole _ => true
  | _ => false

/-- A re-ask of the pair has not been answered yet, by the payload or by its trim notice. -/
def Packet.asked (q : Packet) : Bool := q.way == .reasked || (q.resent && (q.way == .sent || q.way == .header))

/-- The re-ask of a hole is due: its wait has passed, it is the pair's lowest hole, and no re-ask of the pair is
outstanding (R265). -/
def State.mayReask (s : State) (k : Packet) : Bool :=
  (match k.way with | .hole due => decide (due ≤ s.cycle) | _ => false) &&
    s.net.packets.all (fun q => !q.samePair k || (!q.asked && (!q.isHole || decide (k.id ≤ q.id))))

/-- The re-ask leaves for the source. -/
def State.reask (s : State) (k : Packet) : State :=
  (s.setPacket { k with way := .reasked }).notify k.dst k.src k.part (.reask k.id)

def execReask (i : Nat) (s : State) : Out :=
  match s.packet i with
  | some k => when (s.mayReask k) s (fun s => s.reask k)
  | none => .next s

def State.dropControl (s : State) (i : Nat) : State :=
  s.mapNet (fun n => { n with control := n.control.filter (fun c => c.id ≠ i) })

/-- A control packet has come to its source. -/
def State.controlEnds (s : State) (c : Control) : Bool := c.nextHop.isNone && s.controlTurn c

/-- The source sends the packet again, unchanged but for the retransmission flag and the trim count. -/
def execRetransmission (i : Nat) (s : State) : Out :=
  match s.packet i, s.net.control.find? (fun c => c.notice == .reask i) with
  | some k, some c =>
    when (k.way == .reasked && s.controlEnds c) s
      (fun s => (s.dropControl c.id).setPacket { k with way := .sent, resent := true, place := none })
  | _, _ => .next s

/-! ### Acknowledgements (R264) -/

/-- 16 packets after the first unacknowledged arrival, or 128 cycles after it. -/
def State.mayAck (s : State) (src dst : Nat) : Bool :=
  match lookup (src, dst) s.net.unacked with
  | some (count, since) => decide (count > 16) || decide (s.cycle ≥ since + 128)
  | none => false

/-- A sequence number is at or before another, modulo 2^32. -/
def seqUpTo (a b : BitVec 32) : Bool := decide ((b - a).toNat < 2 ^ 31)

/-- Whether a packet is one that an acknowledgement covers. -/
def Packet.ackedBy (k : Packet) (src dst : Nat) (upto : BitVec 32) : Bool :=
  k.src == src && k.dst == dst && k.way == .delivered && seqUpTo k.seq upto

/-- The acknowledgement covers what has arrived without a gap; what has arrived behind a gap waits for the next one, 128
cycles later (R264). -/
def State.sendAck (s : State) (src dst : Nat) : State :=
  let reach := s.ackReach src dst
  let covered (k : Packet) : Bool := reach.any (fun upto => k.ackedBy src dst upto)
  let mine := s.net.packets.filter (fun k => k.src == src && k.dst == dst && k.way == .delivered)
  let s := s.mapNet (fun n => { n with
    unacked := if mine.any (fun k => !covered k) then insert (src, dst) (0, s.cycle) n.unacked else erase (src, dst) n.unacked })
  match reach, mine.find? covered with
  | some upto, some k => s.notify dst src k.part (.ack upto)
  | _, _ => s

def execAcknowledgement (src dst : Nat) (s : State) : Out :=
  when (s.mayAck src dst) s (fun s => s.sendAck src dst)

/-- The send that waits on an acknowledged packet completes with its trims (R278). -/
def State.completeSend (s : State) (k : Packet) : State :=
  match k.body, k.op with
  | .route _ _ _ _ _ _, some id => s.settle id (BitVec.ofNat 64 k.trims) .clear
  | _, _ => s

/-- The source frees the acknowledged entries and completes their sends. -/
def State.takeAck (s : State) (src dst : Nat) (upto : BitVec 32) : State :=
  let done := s.net.packets.filter (fun k => k.ackedBy src dst upto)
  (done.foldl (fun s k => s.completeSend k) s).mapNet
    (fun n => { n with packets := n.packets.filter (fun k => !k.ackedBy src dst upto) })

def execAckReceived (i : Nat) (s : State) : Out :=
  match s.controlAt i with
  | some c =>
    match c.notice with
    | .ack upto => when (s.controlEnds c) s (fun s => (s.dropControl i).takeAck c.dst c.src upto)
    | _ => .next s
  | none => .next s

/-! ### Losses (R230, R266) -/

/-- A lost write is named in a record of type 0x08 and kept for its phase's release (R230). -/
def State.loseWrite (s : State) (k : Packet) (va : BitVec 48) : State :=
  (s.mapSets (fun c =>
    if c.runsUnit k.lid k.unit then
      { c with unit := c.unit.map (fun u =>
          { u with lost := if (lookup k.phase u.lost).isSome then u.lost else u.lost ++ [(k.phase, va)] }) }
    else c)).log k.part (LogRec.plain 0x08 k.part (endByte k.src).toNat 0x08 (BitVec.setWidth 64 va))

/-- The replies of the host's writes of which every part has been applied, or is lost (R348). -/
def State.settleHost (s : State) : State :=
  let gone (w : HostWrite) : Bool := w.ids.all s.arrivedId
  { s with host := { s.host with
      replies := s.host.replies ++ (s.host.pending.filter gone).map (fun w => w.reply)
      pending := s.host.pending.filter (fun w => !gone w) } }

/-- The source frees a lost packet's entry and reports the loss by its kind (R266). A token of a yarn is replaced where
it would have arrived (R274). -/
def State.lose (s : State) (k : Packet) : State :=
  match k.body, k.op with
  | .route _ _ _ _ _ _, some id => (s.settle id (BitVec.ofNat 64 (8 + 8 * 256)) .token).dropPacket k.id
  | .route _ _ _ _ _ _, none => s.dropPacket k.id
  | .yarn _ _ _, _ => s.setPacket { k with way := .gone }
  | .write _ _ va, _ => (s.loseWrite k va).dropPacket k.id
  | .read _ _, some id => (s.settle id 0 .token).dropPacket k.id
  | .reply _ _ _, some id => (s.settle id 0 .token).dropPacket k.id
  | .bank acc, some id =>
    ((s.loseWrite k acc.va).settle id (BitVec.ofNat 64 (8 + acc.va.toNat * 256)) .token).dropPacket k.id
  | .bank acc, none => (s.loseWrite k acc.va).dropPacket k.id
  | _, none => s.dropPacket k.id

def execLossNotice (i : Nat) (s : State) : Out :=
  match s.controlAt i with
  | some c =>
    match c.notice with
    | .loss id =>
      when (s.controlEnds c) s (fun s =>
        match s.packet id with
        | some k => ((s.dropControl i).lose k).settleHost
        | none => s.dropControl i)
    | _ => .next s
  | none => .next s

/-! ### Writes at their homes (R230, R244, R251) -/

/-- An own load that has not been served still reads past this write (R107). -/
def CSet.readsBefore (c : CSet) (k : Packet) : Bool :=
  c.runsUnit k.lid k.unit && c.ops.any (fun o =>
    match o.wait with
    | .load pa size own _ _ =>
      decide (o.id < c.poOf k) && (List.range size).any (fun j =>
        decide (k.writeAt ≤ pa + j) && decide (pa + j < k.writeAt + k.writeLen) && (lookup (pa + j) own).isNone)
    | _ => false)

def State.mayApply (s : State) (k : Packet) : Bool :=
  k.way == .holding && s.inOrder k && s.ownOrder k && !s.sets.any (fun c => c.readsBefore k)

end Sys2Proof.Machine
end

