-- ==== Sys2Proof/Machine/Sync.lean ====
section
/-!
DEFINITION. Synchronisation: phases, fences, signals, atomics and reductions (R229 to R244).
-/

namespace Sys2Proof.Machine

/-! ### PHB, BAR and FENCE (R236) -/

/-- A boundary is asked for: the phase ends and the next begins; a third live phase is not (R232). -/
def boundaryInstr (i : Instr) (t : Reg) (bar : Bool) (s : State) : Out :=
  issue i ⟨[], t, 0⟩
    (fun s =>
      if s.core.set.openBoundaries ≥ 2 then s
      else ((s.begin t .other (.boundary s.unit.phase bar)).mapUnit (fun u => { u with phase := u.phase + 1 })).advance) s

def execPhb (t : Reg) (s : State) : Out := boundaryInstr (.phb t) t false s
def execBar (t : Reg) (s : State) : Out := boundaryInstr (.bar t) t true s

def execFence (t : Reg) (q : BitVec 3) (s : State) : Out :=
  issue (.fence t q) ⟨[], t, 0⟩ (fun s => ((s.noteNarrow q.toNat).begin t .other .fence).advance) s

/-- A write, atomic or reduction of the sequencer or an engine queue (R236). -/
def Packet.isFenced (k : Packet) : Bool :=
  match k.body with
  | .write (.node _) _ _ => false
  | .write _ _ _ => true
  | .bank _ => true
  | _ => false

/-- The fence part is over: every write, atomic and reduction of the unit issued before `id` by the sequencer or into
any engine queue has been applied at its home, those of ACCRD and SDRAW among them (R229, R236). -/
def State.fenceDone (s : State) (c : CSet) (id : Nat) : Bool :=
  match c.unit with
  | none => true
  | some u =>
    s.net.packets.all (fun k =>
      !(decide (k.id < id) && k.isFenced && k.lid == u.lid && k.unit == u.index) ||
        k.way == .delivered || k.way == .lost) &&
    c.eng.all (fun e => decide (id ≤ e.id)) &&
    c.ops.all (fun o => decide (id ≤ o.id) || match o.wait with
      | .sigset _ _ _ _ _ => false
      | .accrd _ _ _ _ => false
      | .draw _ _ _ => false
      | _ => true)

/-! ### Flags and homes (R235, R240, R241) -/

/-- Where an atomic access goes: a home bank, or a peer module through a remote window (R350). -/
inductive Reach where
  | home (pa : Nat)
  | remote (peer addr : Nat)
  | short
  deriving DecidableEq, Repr

/-- The checks of a flag or an atomic's address (R235, R240, R243): those of R103, ACCESS in the window part and for a
scratchpad, and the reach of the scope. -/
def State.reach (s : State) (kind : AccKind) (va : Word) (size scope : Nat) : State × Except (BitVec 8) Reach :=
  if va.toNat % size ≠ 0 then (s, .error causeAlign)
  else if va.toNat ≥ windowBase then (s, .error causeAccess)
  else match s.part.windowAt va.toNat with
    | some w => (s, .ok (if s.scope scope = 5 then .remote w.peer (w.base + (va.toNat - w.va)) else .short))
    | none =>
      match s.translate kind va.toNat with
      | (s, .error f) => (s, .error f.cause)
      | (s, .ok pa) =>
        match regionOf pa with
        | .scratch _ _ => (s, .error causeAccess)
        | _ => (s, .ok (.home pa))

def va48 (va : Word) : BitVec 48 := BitVec.setWidth 48 va

/-- An access whose home is outside the package below scope 5: not performed, an error completion with ATOMREACH, and a
log record, whose type is free (R240; assumption 9). -/
def State.unreached (s : State) (t : Reg) (va : Word) : State :=
  (s.later t .other (BitVec.ofNat 64 (7 + va.toNat % 2 ^ 48 * 256)) .token 1).logOpen s.unit.part
    (LogRec.plain 0 s.unit.part s.core.num 0x07 va)

/-- An access of the current unit sent to its bank. -/
def State.sendBank (s : State) (reach : Reach) (scope : Nat) (acc : BankAcc) (op : Nat) : State :=
  match reach with
  | .home pa =>
    (s.dropSnaps pa 8).inject
      { s.unitPacket (homeOf s.host.pins pa) 0 [] (.bank { acc with pa := pa }) (some op) with scope := scope }
  | .remote peer addr =>
    s.inject { s.unitPacket s.windowEnd 0 [] (.bank acc) (some op) with scope := scope, peer := some (peer, addr) }
  | .short => s

/-! ### SIGSET and SIGWAIT (R237, R238) -/

def execSigset (t a b : Reg) (q : BitVec 3) (s : State) : Out :=
  issue (.sigset t a b q) ⟨[a, b], t, 0⟩
    (fun s =>
      let va := s.reg a
      if s.globalHeld va then s
      else match s.reach .write va 8 q.toNat with
        | (u, .error c) => u.trap c va
        | (u, .ok .short) => ((u.noteNarrow q.toNat).unreached t va).advance
        | (u, .ok (.home pa)) =>
          ((u.noteNarrow q.toNat).begin t .other (.sigset pa (va48 va) (s.reg b) (s.scope q.toNat) none)).advance
        | (u, .ok (.remote peer addr)) =>
          ((u.noteNarrow q.toNat).begin t .other
            (.sigset (2 ^ 52) (va48 va) (s.reg b) (s.scope q.toNat) (some (peer, addr)))).advance) s

/-- The flag write of a SIGSET whose fence part is over: a bank access in program order (R237). -/
def State.setFlag (s : State) (id pa : Nat) (va : BitVec 48) (v : Word) (scope : Nat) (peer : Option (Nat × Nat)) :
    State :=
  (s.rewait id .bank).sendBank (match peer with | some p => .remote p.1 p.2 | none => .home pa) scope
    ⟨.set, true, pa, va, v, 0, true⟩ id

/-- A SIGWAIT on its way to its flag's home, to be tested on arrival (R238), or to a peer module's flag (R350). -/
def State.awaitFlag (s : State) (pa : Nat) (peer : Option (Nat × Nat)) (x cond : Word) : State :=
  let m := wspan cond 16 32
  s.mapNet (fun n => { n with waits := n.waits ++
    [⟨s.core.num, s.unit.lid, s.unit.index, s.net.nextId, pa, x, BitVec.ofNat 2 (wspan cond 0 2),
      if m = 0 then none else some (m * 1024), none, true, peer⟩] })

def execSigwait (t a b : Reg) (q : BitVec 3) (s : State) : Out :=
  issue (.sigwait t a b q) ⟨[a, b, pairOf b], t, 0⟩
    (fun s =>
      let va := s.reg a
      let cond := s.reg (pairOf b)
      if s.globalHeld va then s
      else match s.reach .read va 8 q.toNat with
        | (u, .error c) => u.trap c va
        | (u, .ok r) =>
          let u := u.noteNarrow q.toNat
          if wspan cond 2 14 ≠ 0 ∨ wspan cond 48 16 ≠ 0 then (u.later t .other (statusWord 0x61 0) .clear 1).advance
          else match r with
            | .short => (u.unreached t va).advance
            | .home pa => ((u.awaitFlag pa none (s.reg b) cond).begin t .other .sigwait).advance
            | .remote peer addr =>
              ((u.awaitFlag (2 ^ 52) (some (peer, addr)) (s.reg b) cond).begin t .other .sigwait).advance) s

def State.waitAt (s : State) (op : Nat) : Option SigWait := s.net.waits.find? (fun w => w.op == op)
def State.dropWait (s : State) (op : Nat) : State :=
  s.mapNet (fun n => { n with waits := n.waits.filter (fun w => w.op ≠ op) })

/-- No phase boundary asked for before the operation is open (R232). -/
def State.performs (s : State) (op : Nat) : Bool := !s.sets.any (fun c => c.ops.any (fun o => o.id == op) && c.boundaryBefore op)

/-- The test of a SIGWAIT's arrival at its flag's home. -/
def execSigwaitTest (i : Nat) (s : State) : Out :=
  match s.waitAt i with
  | some w => when (w.fresh && s.performs w.op) s (fun s => s.testFlag w)
  | none => .next s

/-- The limit has passed since the arrival, and no write to the flag is still to be tested. -/
def SigWait.expired (w : SigWait) (now : Nat) : Bool :=
  (!w.fresh || w.pa == 2 ^ 52) &&
    match w.limit, w.since with
    | some l, some c => decide (c + l ≤ now)
    | _, _ => false

/-- The limit passes: a status completion with TIMEOUT, and no acquire. -/
def execSigwaitTimeout (i : Nat) (s : State) : Out :=
  match s.waitAt i with
  | some w =>
    when (w.expired s.cycle) s
      (fun s => (s.dropWait i).settle i (statusWord 0x60 0) .clear)
  | none => .next s

/-! ### Phase boundaries (R230, R231) -/

/-- A write or bank access of a unit of a launch, in a phase, that has not been applied, nor been reported lost at its
source, where its entry is freed (R230). -/
def Packet.openWrite (k : Packet) (lid : BitVec 32) (phase : Nat) : Bool :=
  k.lid == lid && k.phase == phase && k.way ≠ .delivered && match k.body with
    | .write source _ _ => source ≠ .outside
    | .bank _ => true
    | _ => false

/-- The sets of a core that are not frozen. -/
def Core.liveSets (k : Core) : List CSet :=
  (if k.frost = .frozen then [] else [k.set]) ++ k.shadow.toList.filter (fun c => c.parked.frost ≠ .frozen)

/-- The sets that are not frozen, and those that wait elsewhere. -/
def State.liveSets (s : State) : List CSet :=
  s.cores.flatMap Core.liveSets ++
    (s.disp.suspended.map (·.2) ++ s.disp.stored.map (·.2.2) ++ s.disp.streaming.map (·.2.2)).filter
      (fun c => c.parked.frost ≠ .frozen)

/-- Every unit of the launch that has not halted has ended the phase and its writes have arrived (R230, R231). -/
def State.released (s : State) (l : Launch) : Bool :=
  decide ((s.liveSets.filter (fun c => match c.unit with
    | some u => u.lid == l.lid && decide (l.phase < u.phase)
    | none => false)).length = l.left) &&
  s.net.packets.all (fun k => !k.openWrite l.lid l.phase)

/-- A unit at the boundary: it drops its snapshot copies and completes its PHB or BAR with k + 1, or with the first lost
write of the phase (R230, R231). -/
def CSet.passBoundary (c : CSet) (k now : Nat) : CSet :=
  let lost := (c.unit.bind (fun u => lookup k u.lost))
  { c with
    snaps := []
    icache := []
    unit := c.unit.map (fun u => { u with bypass := false, bound := k + 1, lost := erase k u.lost })
    ops := c.ops.map (fun o =>
      match o.wait with
      | .boundary j _ =>
        if j = k then
          { o with wait := match lost with
            | some va => .ready (BitVec.ofNat 64 (8 + va.toNat * 256)) .token (now + 1)
            | none => .ready (BitVec.ofNat 64 (k + 1)) .clear (now + 1) }
        else o
      | _ => o) }

def State.passBoundary (s : State) (l : Launch) : State :=
  let s := (s.dropEarly l.lid (some (l.phase + 1))).mapSets (fun c => if c.runs l.lid then c.passBoundary l.phase s.cycle else c)
  { s with disp := { s.disp with
      launches := s.disp.launches.map (fun m => if m.lid = l.lid then { m with phase := m.phase + 1 } else m) } }

/-- The phase combiner of a launch signals every unit. -/
def execPhaseBoundary (lid : BitVec 32) (s : State) : Out :=
  match s.disp.launches.find? (fun l => l.lid == lid && l.bound) with
  | some l => when (decide (l.left > 0) && s.released l) s (fun s => s.passBoundary l)
  | none => .next s

/-! ### Atomics and reductions (R242, R243) -/

/-- The new value m′ of a location, at 64 or 32 bits (R242). -/
def bankNew (kind : BankKind) (w : Nat) (m x y : Nat) : Nat :=
  let lt (p q : Nat) : Bool := decide (sintOf w p < sintOf w q)
  match kind with
  | .add => (m + x) % 2 ^ w
  | .and => m &&& x
  | .or => m ||| x
  | .xor => m ^^^ x
  | .min => if lt m x then m else x
  | .max => if lt x m then m else x
  | .minu => if m < x then m else x
  | .maxu => if x < m then m else x
  | .xchg => x
  | .cas => if m = x then y else m
  | .addf => fp32.add m x
  | .load => m
  | .set => x

/-- An atomic or reduction instruction: its checks at issue, then an access on its way to the home bank (R243). -/
def bankInstr (i : Instr) (t a : Reg) (regs : List Reg) (kind : BankKind) (wide quiet : Bool) (scope : Nat)
    (x y : State → Word) (s : State) : Out :=
  issue i ⟨a :: regs, t, 0⟩
    (fun s =>
      let va := s.reg a
      if s.globalHeld va then s
      else match s.reach (if kind = .load then .read else .write) va (if wide then 8 else 4) scope with
        | (u, .error c) => u.trap c va
        | (u, .ok .short) => ((u.noteNarrow scope).unreached t va).advance
        | (u, .ok r) =>
          let u := u.noteNarrow scope
          let mask (v : Word) : Word := if wide then v else BitVec.ofNat 64 (v.toNat % 2 ^ 32)
          ((u.begin t .other .bank).sendBank r (s.scope scope) ⟨kind, wide, 2 ^ 52, va48 va, mask (x s), mask (y s), quiet⟩
            u.net.nextId).advance) s

def qScope (q : BitVec 4) : Nat := q.toNat % 8
def qWide (q : BitVec 4) : Bool := !q.getLsbD 3

/-- An atomic with one operand register. -/
def atomicInstr (i : Instr) (t a b : Reg) (q : BitVec 4) (kind : BankKind) (quiet : Bool) (s : State) : Out :=
  bankInstr i t a [b] kind (qWide q) quiet (qScope q) (fun s => s.reg b) (fun _ => 0) s

def execAadd (t a b : Reg) (q : BitVec 4) (s : State) : Out := atomicInstr (.aadd t a b q) t a b q .add false s
def execAand (t a b : Reg) (q : BitVec 4) (s : State) : Out := atomicInstr (.aand t a b q) t a b q .and false s
def execAor (t a b : Reg) (q : BitVec 4) (s : State) : Out := atomicInstr (.aor t a b q) t a b q .or false s
def execAxor (t a b : Reg) (q : BitVec 4) (s : State) : Out := atomicInstr (.axor t a b q) t a b q .xor false s
def execAmin (t a b : Reg) (q : BitVec 4) (s : State) : Out := atomicInstr (.amin t a b q) t a b q .min false s
def execAmax (t a b : Reg) (q : BitVec 4) (s : State) : Out := atomicInstr (.amax t a b q) t a b q .max false s
def execAminu (t a b : Reg) (q : BitVec 4) (s : State) : Out := atomicInstr (.aminu t a b q) t a b q .minu false s
def execAmaxu (t a b : Reg) (q : BitVec 4) (s : State) : Out := atomicInstr (.amaxu t a b q) t a b q .maxu false s
def execAxchg (t a b : Reg) (q : BitVec 4) (s : State) : Out := atomicInstr (.axchg t a b q) t a b q .xchg false s

/-- The expected value stands in b, the new one in b + 1. -/
def execAcas (t a b : Reg) (q : BitVec 4) (s : State) : Out :=
  bankInstr (.acas t a b q) t a [b, pairOf b] .cas (qWide q) false (qScope q) (fun s => s.reg b)
    (fun s => s.reg (pairOf b)) s

def execAaddf (t a b : Reg) (q : BitVec 3) (s : State) : Out :=
  bankInstr (.aaddf t a b q) t a [b] .addf false false q.toNat (fun s => s.reg b) (fun _ => 0) s

def execAld (t a : Reg) (q : BitVec 4) (s : State) : Out :=
  bankInstr (.ald t a q) t a [] .load (qWide q) false (qScope q) (fun _ => 0) (fun _ => 0) s

def execRadd (t a b : Reg) (q : BitVec 4) (s : State) : Out := atomicInstr (.radd t a b q) t a b q .add true s
def execRmin (t a b : Reg) (q : BitVec 4) (s : State) : Out := atomicInstr (.rmin t a b q) t a b q .min true s
def execRmax (t a b : Reg) (q : BitVec 4) (s : State) : Out := atomicInstr (.rmax t a b q) t a b q .max true s

def execRaddf (t a b : Reg) (q : BitVec 3) (s : State) : Out :=
  bankInstr (.raddf t a b q) t a [b] .addf false true q.toNat (fun s => s.reg b) (fun _ => 0) s

/-! ### At the home bank (R237, R243, R244, R250) -/

/-- The access waits for nothing more: it delivers at once (R267), but takes the unit's program order at its own bytes
(R246): its earlier stores and atomics there, and its earlier loads; and a load form does not pass an open boundary. -/
def State.mayBank (s : State) (k : Packet) (acc : BankAcc) : Bool :=
  k.way == .holding && s.ownOrder k && !s.sets.any (fun c => c.readsBefore k) &&
    (acc.kind ≠ .load || match k.op with | some id => s.performs id | none => true)

/-- The waiting instruction completes. -/
def State.settleOp (s : State) (k : Packet) (v : Word) (e : ErrKind) : State :=
  match k.op with
  | some id => s.settle id v e
  | none => s

/-- One access in bank order: the old value read, the new one written, the token completed. An uncorrectable error
writes nothing and makes an error completion with POISON. The value at a peer module is free. -/
def State.bankAccess (s : State) (k : Packet) (acc : BankAcc) : State :=
  let n := if acc.wide then 8 else 4
  if k.dst ≥ remoteEnd then
    ((s.handOver k).settleOp k (if acc.quiet then 0 else BitVec.ofNat 64 ((Config.freeWord s.free).toNat % 2 ^ (8 * n)))
      .clear).spent
  else if acc.kind ≠ .set ∧ (s.readError acc.pa n).isSome then
    (((s.report k.part k.src acc.pa n 0x0B).handOver k).settleOp k (BitVec.ofNat 64 (11 + acc.va.toNat * 256)) .token)
  else
    let m := s.mem.nat acc.pa n
    let s := if acc.kind = .load then s else s.applyPhase k acc.pa (leBytes n (bankNew acc.kind (8 * n) m acc.x.toNat acc.y.toNat))
    (s.handOver k).settleOp k (if acc.quiet then 0 else BitVec.ofNat 64 m) .clear

def execHomeBankAccess (i : Nat) (s : State) : Out :=
  match s.packet i with
  | some k =>
    match k.body with
    | .bank acc => when (s.mayBank k acc) s (fun s => s.bankAccess k acc)
    | _ => .next s
  | none => .next s

end Sys2Proof.Machine
end

