-- ==== Sys2Proof/Machine/Net.lean ====
section
/-!
DEFINITION. Route classes, receive queues, yarns and the NET instructions (R269 to R281).
-/

namespace Sys2Proof.Machine

/-! ### Class entries (R269) -/

def classEntry (p : Part) (q : Nat) : BitVec 32 := p.classes[q % 16]'(Nat.mod_lt _ (by decide))

/-- An entry with a reserved bit set, or a VC of 6 or 7, acts as not valid. -/
def classValid (w : BitVec 32) : Bool :=
  bitAt w.toNat 0 && decide (bitSpan w.toNat 2 3 ≤ 5) && !bitAt w.toNat 7 && bitSpan w.toNat 14 2 == 0 &&
    bitSpan w.toNat 20 12 == 0

def classOrdered (w : BitVec 32) : Bool := bitAt w.toNat 1
def classVc (w : BitVec 32) : Nat := bitSpan w.toNat 2 3
def classPort1 (w : BitVec 32) : Bool := bitAt w.toNat 5
def classShare (w : BitVec 32) : Nat := if bitSpan w.toNat 8 6 = 0 then 64 else bitSpan w.toNat 8 6
def classEther (w : BitVec 32) : Nat := bitSpan w.toNat 16 4

/-! ### Destinations (R276, R277) -/

/-- The core on which a unit of a launch stands: where it runs, or where it was bound. -/
def State.coreOfUnit (s : State) (lid : BitVec 32) (index : Nat) : Option Nat :=
  match s.cores.find? (fun k => k.sets.any (fun c => c.runsUnit lid index)) with
  | some k => some k.num
  | none => (s.disp.launches.find? (fun l => l.lid == lid)).bind (fun l => l.units[index]?)

/-- The endpoint that a destination word leads to for the current unit; `ether` serves remote endpoints, where that port is
enabled (R22). -/
def State.destEnd (s : State) (w ether : Nat) : Option Nat :=
  match destOf w with
  | .unit index => s.coreOfUnit s.unit.lid index
  | .core n => if (s.coreMask s.part.num).getLsbD n then some n else none
  | .remote entry =>
    if (lookup entry s.part.ends).isSome && s.host.enabled.ports.getLsbD ether then some (352 + ether) else none
  | .bad => none

/-- A tag is for handler-1 classes only. -/
def destTagBad (handler1 : Bool) (w : Word) : Bool := !handler1 && wspan w 48 16 != 0

/-- A route-class packet of the current unit. -/
def State.routePacket (s : State) (dst cls : Nat) (e : BitVec 32) (w : Word) (bs : List Byte) (port : Nat) (op : Option Nat) :
    Packet :=
  s.unitPacket dst (classVc e) bs
    (.route (BitVec.ofNat 4 cls) (classOrdered e) w (BitVec.ofNat 16 (wspan w 48 16)) (classPort1 e) port) op

/-! ### SENDRC (R278) -/

/-- The statuses of SENDRC that its length and address give. -/
def sendShape (va len : Nat) : Bool := decide (len > 256) || len % 16 != 0 || va % 16 != 0

/-- The failure of a SENDRC by its class and destination, in the order of R277. -/
def State.sendStatus (s : State) (w : Word) (cls len : Nat) : Option Nat :=
  let e := classEntry s.part cls
  if !classValid e then some 0x70
  else if classPort1 e && len != 128 then some 0x45
  else if destTagBad (classPort1 e) w || (s.destEnd (wspan w 0 48) (classEther e)).isNone then some 0x71
  else none

/-- The packet injected. -/
def State.sendClass (s : State) (t : Reg) (w : Word) (cls : Nat) (bs : List Byte) : State :=
  let e := classEntry s.part cls
  match s.destEnd (wspan w 0 48) (classEther e) with
  | none => s.fails t 0x71
  | some dst => (s.begin t .other .ack).inject ((s.begin t .other .ack).routePacket dst cls e w bs 0 (some s.net.nextId))

/-- SENDRC makes every check of R277 before it waits for a place in the retention buffer and reads its payload (R278). -/
def execSendrc (t a b : Reg) (q : BitVec 4) (s : State) : Out :=
  issue (.sendrc t a b q) ⟨[a, b, pairOf b], t, 0⟩
    (fun s =>
      let va := s.reg b
      let len := (s.reg (pairOf b)).toNat
      if sendShape va.toNat len then (s.fails t 0x45).advance
      else match s.checked .read va 16 len with
        | (u, .error c) => u.trap c va
        | (u, .ok (window, spans)) =>
          match u.sendStatus (s.reg a) q.toNat len with
          | some n => (u.fails t n).advance
          | none =>
            if s.readHeld va || s.retentionFull then s
            else match State.readSpans window spans u with
              | (u, _, some _) => (u.later t .other 0 .token 1).advance
              | (u, bs, none) => (u.sendClass t (s.reg a) q.toNat bs).advance) s

/-! ### RCMASK, RCUMASK and RCRECV (R279, R280) -/

def maskInstr (i : Instr) (t a : Reg) (f : BitVec 16 → BitVec 16 → BitVec 16) (s : State) : Out :=
  issue i ⟨[a], t, 0⟩
    (fun s =>
      ((s.mapUnit (fun u => { u with classMask := f u.classMask (BitVec.setWidth 16 (s.reg a)) })).later t .other
        (BitVec.setWidth 64 s.unit.classMask) .clear 1).advance) s

def execRcmask (t a : Reg) (s : State) : Out := maskInstr (.rcmask t a) t a (fun m x => m ||| x) s
def execRcumask (t a : Reg) (s : State) : Out := maskInstr (.rcumask t a) t a (fun m x => m &&& ~~~x) s

/-- The class's packets may be taken by RCRECV: NOCLASS or MASKED where not. -/
def State.recvStatus (s : State) (cls : Nat) : Option Nat :=
  let e := classEntry s.part cls
  if !classValid e || classPort1 e then some 0x70
  else if s.unit.classMask.getLsbD cls then some 0x72
  else none

/-- RCRECV checks the 256 bytes that a payload may take. -/
def execRcrecv (t a : Reg) (q : BitVec 4) (s : State) : Out :=
  issue (.rcrecv t a q) ⟨[a], t, 0⟩
    (fun s =>
      let va := s.reg a
      if s.globalHeld va then s
      else match s.checked .write va 16 256 with
        | (u, .error c) => u.trap c va
        | (u, .ok (window, spans)) =>
          match u.recvStatus q.toNat with
          | some n => (u.fails t n).advance
          | none => (u.begin t .other (.receive q window spans)).advance) s

def Wait.receives (cls : BitVec 4) (w : Wait) : Bool :=
  match w with
  | .receive c _ _ => c == cls
  | _ => false

/-- The word RCRECV completes with. -/
def RxPacket.word (r : RxPacket) : Word :=
  BitVec.ofNat 64 (r.bytes.length + r.mark.toNat * 512 + r.srcUnit.toNat * 2 ^ 16 + r.srcCore.toNat * 2 ^ 32)

/-- A waiting RCRECV: MASKED where its class has become masked; else the oldest packet of the class, in issue order. -/
def State.endReceive (s : State) (id : Nat) (cls : BitVec 4) (window : Bool) (spans : List Span) : State :=
  if s.unit.classMask.getLsbD cls.toNat then s.settle id (statusWord 0x72 0) .clear
  else if !s.core.set.firstOf id (Wait.receives cls) || (!window && s.retentionFull) then s
  else match s.unit.rxq.find? (fun r => r.cls == cls) with
    | none => s
    | some r =>
      ((s.mapUnit (fun u => { u with rxq := u.rxq.erase r })).write .sequencer window (spans.take (r.bytes.length / 16))
        r.bytes).1.settle id r.word .clear

/-! ### Arrival of handler-0 packets (R270) -/

/-- A change of the first set of a core that a packet is for. -/
def Core.mapFor (k : Core) (p : Packet) (f : CSet → CSet) : Core :=
  if p.isFor k.set then { k with set := f k.set }
  else { k with shadow := k.shadow.map (fun c => if p.isFor c then f c else c) }

def UnitCtx.full (u : UnitCtx) (cls : BitVec 4) (share : Nat) : Bool :=
  decide (u.rxq.length ≥ 64) || decide ((u.rxq.filter (fun r => r.cls == cls)).length ≥ share)

/-- A mark of a packet's pair, partition and class, left before it. -/
def Packet.markedBy (k : Packet) (cls : BitVec 4) (m : Nat × Nat × Nat × BitVec 4 × Nat) : Bool :=
  m.1 == k.src && m.2.1 == k.dst && m.2.2.1 == k.part && m.2.2.2.1 == cls && decide (m.2.2.2.2 < k.id)

/-- A hole or a loss of the pair and class came before the packet. -/
def Net.marked (n : Net) (k : Packet) (cls : BitVec 4) : Bool := n.marks.any (k.markedBy cls)

def Net.unmark (n : Net) (k : Packet) (cls : BitVec 4) : Net := { n with marks := n.marks.filter (fun m => !k.markedBy cls m) }

/-- The packet enters the unit's queue. -/
def State.enqueueRx (s : State) (k : Packet) (cls : BitVec 4) (tag : BitVec 16) : State :=
  let r : RxPacket :=
    ⟨cls, k.bytes, s.net.marked k cls, BitVec.ofNat 16 k.unit, BitVec.ofNat 8 k.src, tag⟩
  (((s.mapCoreAt k.dst (fun c => c.mapFor k (fun x =>
    { x with unit := x.unit.map (fun u => { u with rxq := u.rxq ++ [r] }) }))).mapNet (fun n => n.unmark k cls)).handOver k)

/-- A packet that came to the end of its path, is next in its order, and does not wait for a frozen core. -/
def State.mayTake (s : State) (k : Packet) : Bool := k.way == .holding && s.inOrder k && s.takes k

/-- A packet for a queue enters it, or is trimmed where there is no room or no unit. One for a remote endpoint leaves
the module. -/
def State.arriveRx (s : State) (k : Packet) (cls : BitVec 4) (tag : BitVec 16) : State :=
  if k.dst ≥ remoteEnd then s.handOver k
  else
    let e := classEntry ((s.partAt k.part).getD Part.device) cls.toNat
    match ((s.coreAt k.dst).setFor k).bind (fun c => c.unit) with
    | none => s.trimHere k
    | some u => if u.full cls (classShare e) then s.trimHere k else s.enqueueRx k cls tag

/-- The unit's class mask holds a packet's class. -/
def State.maskedAt (s : State) (k : Packet) (cls : BitVec 4) : Bool :=
  match ((s.coreAt k.dst).setFor k).bind (fun c => c.unit) with
  | some u => u.classMask.getLsbD cls.toNat
  | none => false

/-- A packet of a handler-0 class, or of a handler-1 class that is masked, reaches the receive queue. -/
def execRouteClassArrival (i : Nat) (s : State) : Out :=
  match s.packet i with
  | some k =>
    match k.body with
    | .route cls _ _ tag h1 _ =>
      when (s.mayTake k && (!h1 || k.dst ≥ remoteEnd || s.maskedAt k cls)) s (fun s => s.arriveRx k cls tag)
    | _ => .next s
  | none => .next s

/-! ### Arrival of handler-1 packets (R271) -/

def npInput (p : Nat) : Target := nodeTarget 4 p

/-- The network port block of a set's running configuration. -/
def CSet.port (c : CSet) (p : Nat) : Option NpParams := c.fab.running.bind (fun im => im.np p)

/-- A token enters a fabric at a network port and goes to the port's arrival target. -/
def CSet.arriveAt (c : CSet) (p now : Nat) (q : NpParams) (t : Token) : CSet :=
  { c with fab := (c.fab.send (boxOf (.np p)) now 0 q.out t).move now }

def tokenOf (tag : BitVec 16) (bs : List Byte) : Token := ⟨Tag.ofBits tag.toNat, payloadOf bs⟩

/-- A packet becomes a token at the destination's port; without a port it is trimmed, without room it waits. -/
def State.arriveToken (s : State) (k : Packet) (tag : BitVec 16) (p : Nat) : State :=
  match (s.coreAt k.dst).setFor k with
  | none => s.trimHere k
  | some c =>
    match c.port p with
    | none => s.trimHere k
    | some q =>
      if c.fab.hasRoom q.out then
        (s.mapCoreAt k.dst (fun x => x.mapFor k (fun c => c.arriveAt p s.cycle q (tokenOf tag k.bytes)))).handOver k
      else s

/-- Packets of a class that wait in a unit's queue. -/
def State.queuedAt (s : State) (k : Packet) (cls : BitVec 4) : Bool :=
  match ((s.coreAt k.dst).setFor k).bind (fun c => c.unit) with
  | some u => u.rxq.any (fun r => r.cls == cls)
  | none => false

/-- A packet that a mask held in the current unit's queue goes on to its port, unless the fabric stands still. -/
def State.releaseQueued (s : State) : State :=
  if s.core.frost.still || s.core.hold.still then s
  else match s.unit.rxq.find? (fun r => classPort1 (classEntry s.part r.cls.toNat) && !s.unit.classMask.getLsbD r.cls.toNat) with
  | none => s
  | some r =>
    let p := bitSpan (classEntry s.part r.cls.toNat).toNat 6 1
    match s.core.set.port p with
    | none => s
    | some q =>
      if s.core.set.fab.hasRoom q.out then
        (s.mapUnit (fun u => { u with rxq := u.rxq.erase r })).mapSet (fun c => c.arriveAt p s.cycle q (tokenOf r.tag r.bytes))
      else s

/-- A handler-1 packet becomes a token, behind those of its class that wait in the queue. Where i names no such packet,
it is the oldest that the current core's unit holds in its queue under a mask that has gone. -/
def execHandler1Arrival (i : Nat) (s : State) : Out :=
  match s.packet i with
  | some k =>
    match k.body with
    | .route cls _ _ tag true _ =>
      let e := classEntry ((s.partAt k.part).getD Part.device) cls.toNat
      when (s.mayTake k && decide (k.dst < remoteEnd) && !s.maskedAt k cls && !s.queuedAt k cls) s
        (fun s => s.arriveToken k tag (bitSpan e.toNat 6 1))
    | _ => .next s.releaseQueued
  | none => .next s.releaseQueued

/-! ### Sending from the fabric (R272, R273) -/

def NpState.zero : NpState := ⟨none, false⟩
def Fabric.npAt (f : Fabric) (p : Nat) : NpState := (lookup p f.nps).getD .zero

/-- The oldest token at a port's input leaves; the port has sent. -/
def Fabric.takeNp (f : Fabric) (p : Nat) (t : Token) (now : Nat) : Fabric :=
  { f with
    held := f.held.erase (npInput p, t)
    nps := insert p { f.npAt p with sent := true } f.nps }.move now

/-- A token sent over the port's yarn. -/
def State.sendYarn (s : State) (p : Nat) (y : BitVec 8 × Nat × Nat) (t : Token) : State :=
  (s.mapFab (fun f => f.takeNp p t s.cycle)).inject
    (s.unitPacket y.1.toNat y.2.2 (payloadBytes t.payload) (.yarn p y.2.1 t) none)

/-- A token sent as a packet of the port's class to the destination in its lane 31, or discarded and counted. -/
def State.sendToken (s : State) (p : Nat) (q : NpParams) (t : Token) : State :=
  let e := classEntry s.part q.cls.toNat
  let w := lane32 t.payload 31 % 2 ^ 18
  let u := s.mapFab (fun f => f.takeNp p t s.cycle)
  match (if classValid e then s.destEnd w (classEther e) else none) with
  | none => u.nodeError (npId p) 0xFFFFFFFF t
  | some dst =>
    u.inject (u.routePacket dst q.cls.toNat e (BitVec.ofNat 64 (w + t.tag.bits * 2 ^ 48)) (payloadBytes t.payload) p none)

/-- A network port may send a packet of 128 bytes: the retention buffer has a place, and the tension limiter lets the
packet in, none of the port waiting there (R264, R320). -/
def State.portMaySend (s : State) (p : Nat) : Bool :=
  !s.retentionFull && !s.portWaits s.core.num p && s.hasFlits s.part.num s.core.num p 5

/-- A network port sends its oldest token: over its yarn in mode 0, which it waits for, and as a packet in mode 1. -/
def execNetworkPortSend (p : Nat) (s : State) : Out :=
  match s.core.set.port p, (s.core.set.fab.heldAt (npInput p)).head? with
  | some q, some t =>
    when (s.core.fabricRuns s.cycle && s.portMaySend p) s (fun s =>
      if q.mode = 1 then s.sendToken p q t
      else match (s.core.set.fab.npAt p).yarn with
        | some y => s.sendYarn p y t
        | none => s)
  | _, _ => .next s

/-! ### Arrival over a yarn (R274) -/

/-- A yarn token, or in the place of a lost one an error token with NETLOSS. -/
def Packet.yarnToken (k : Packet) (t : Token) : Token :=
  if k.way = .lost ∨ k.way = .gone then Token.error t.k 0x08 t.tag.last else t

/-- The token enters at the remote port, once that has room. Of a lost packet the entry at its source is left, until the
loss notice has come there (R266). -/
def State.arriveYarn (s : State) (k : Packet) (p : Nat) (t : Token) : State :=
  match ((s.coreAt k.dst).setFor k).bind (fun c => (c.port p).map (fun q => (c, q))) with
  | none => s
  | some (c, q) =>
    if c.fab.hasRoom q.out then
      let s := (s.mapCoreAt k.dst (fun x => x.mapFor k (fun c => c.arriveAt p s.cycle q (k.yarnToken t)))).mapNet
        (fun n => { n with yarned := n.yarned.filter (fun i => i ≠ k.id) })
      if k.way = .gone then s.dropPacket k.id
      else if k.way = .lost then s.setPacket { k with body := .reply 0 0 none }
      else s.handOver k
    else s

/-- A token of another yarn of the partition that may enter the same port came before: tokens of different yarns enter in
their order of arrival, and those of another partition enter another set's port (R261, R274). -/
def State.yarnBehind (s : State) (k : Packet) (p : Nat) : Bool :=
  (s.net.yarned.takeWhile (fun i => i ≠ k.id)).any (fun i =>
    match s.packet i with
    | some q => q.dst == k.dst && q.part == k.part && s.inOrder q && match q.body with
      | .yarn _ r _ => r == p
      | _ => false
    | none => false)

def execYarnTokenArrival (i : Nat) (s : State) : Out :=
  match s.packet i with
  | some k =>
    match k.body with
    | .yarn _ p t =>
      when ((k.way == .holding || k.way == .lost || k.way == .gone) && s.inOrder k && s.takes k && !s.yarnBehind k p) s
        (fun s => s.arriveYarn k p t)
    | _ => .next s
  | none => .next s

/-! ### YBIND (R281) -/

/-- The failure of a YBIND, in the order of R277. -/
def State.ybindStatus (s : State) (p : Nat) (w : Word) : Option Nat :=
  match s.core.set.fab.running with
  | none => some 0x22
  | some im =>
    if (s.core.set.fab.npAt p).sent then some 0x21
    else if ((im.np p).map (fun q => q.mode == 0)).getD false = false ∨ wspan w 12 52 ≠ 0 ∨ wspan w 9 3 > 5 then some 0x27
    else if (s.coreMask s.part.num).getLsbD (wspan w 0 8) = false then some 0x71
    else none

def execYbind (t a : Reg) (q : BitVec 1) (s : State) : Out :=
  issue (.ybind t a q) ⟨[a], t, 0⟩
    (fun s =>
      let w := s.reg a
      let p := q.toNat
      match s.ybindStatus p w with
      | some n => (s.fails t n).advance
      | none =>
        ((s.mapFab (fun f => { f with
          nps := insert p { f.npAt p with yarn := some (BitVec.ofNat 8 (wspan w 0 8), wspan w 8 1, wspan w 9 3) } f.nps })).later
            t .other 0 .clear 8).advance) s

end Sys2Proof.Machine
end

