-- ==== Sys2Proof/Machine/Rnd.lean ====
section
/-!
DEFINITION. RND instructions, the round boundary and the two drains (R145 to R160).
-/

namespace Sys2Proof.Machine

/-! ### Issue and statuses (R145, R150, R151) -/

/-- An RND instruction other than STRD and CASTON issues: no RND, CFG, STRM or MAT instruction of the unit is in
progress. -/
def rndIssue (i : Instr) (n : Needs) (body : State → State) (s : State) : Out :=
  issueUnless (fun s => s.unfinished [.rnd, .cast, .move, .cfg, .strm] || s.inProgress [.mat]) i n body s

/-- A status completion that names a stitch, 0xFF for none. -/
def State.rndFails (s : State) (t : Reg) (cls : OpClass) (status stitch : Nat) : State :=
  s.later t cls (statusWord status stitch) .clear 1

def noStitch : Nat := 0xFF

/-- The stitch that a register names, or the status and stitch of its failure. -/
def State.stitchArg (s : State) (a : Reg) : Except (Nat × Nat) Nat :=
  let n := (s.reg a).toNat
  if n > 63 then .error (0x31, noStitch)
  else match s.core.set.fab.running with
    | some im => if n ≥ im.P then .error (0x31, n) else .ok n
    | none => .ok n

def State.stream (s : State) (k : Nat) : Stream := s.core.set.rounds.at k
def State.putStream (s : State) (k : Nat) (e : Stream) : State := s.mapRounds (fun r => r.put k e)

/-- A change of stitch k asked for, to take effect at a later round boundary. -/
def State.ask (s : State) (t : Reg) (cls : OpClass) (k : Nat) (op : StitchOp) : State :=
  (s.begin t cls .round).mapRounds (fun r => { r with pending := r.pending ++ [⟨k, op, s.net.nextId, s.cycle⟩] })

/-! ### CASTON (R152) -/

/-- An entry with the fields of a record laid out as an entry. -/
def Stream.record (e : Stream) (bs : List Byte) : Stream :=
  { e with
    state := BitVec.ofNat 64 (field bs 0 8)
    reset := bitAt (field bs 8 8) 0
    steps := BitVec.ofNat 32 (bitSpan (field bs 8 8) 16 32)
    user := BitVec.ofNat 64 (field bs 16 8)
    handle := BitVec.ofNat 64 (field bs 24 8) }

/-- The lowest FREE stitch below P. -/
def Rounds.lowestFree (r : Rounds) (P : Nat) : Option Nat := (List.range P).find? (fun k => (r.at k).status == .free)

/-- The stitch of a CASTON, or the status and stitch of its failure. -/
def State.castStitch (s : State) (im : Image) (b : Reg) : Except (Nat × Nat) Nat :=
  let pick := if b = 0 then
      match s.core.set.rounds.lowestFree im.P with
      | some k => .ok k
      | none => .error (0x31, noStitch)
    else s.stitchArg b
  match pick with
  | .ok k => if (s.stream k).status = .free then .ok k else .error (0x30, k)
  | .error e => .error e

/-- The stitch cast on with its entry: its holders loaded from the constants or from the state image at its pointer, to
be LIVE at the next boundary. -/
def State.castOn (s : State) (t : Reg) (im : Image) (k : Nat) (e : Stream) : State :=
  let go (s : State) (e : Stream) (records : Option (List (List Byte))) : State :=
    ((s.putStream k { e with status := .cast, cause := 0 }).mapFab (fun f =>
      ((f.renew k).loadHolders im k records).move s.cycle)).ask t .cast k .live
  if e.reset then go s e none
  else match s.readArea e.state im.areaLen with
    | (u, none) => u.rndFails t .cast 0x33 k
    | (u, some bs) =>
      match im.readState bs with
      | none => u.rndFails t .cast 0x34 k
      | some x => go u { e with steps := x.steps } (some x.records)

/-- CASTON once the record, if any, has been read. -/
def State.caston (s : State) (t b : Reg) (rec : Option (List Byte)) : State :=
  match s.core.set.fab.running with
  | none => s.rndFails t .cast 0x22 noStitch
  | some im =>
    match s.castStitch im b with
    | .error e => s.rndFails t .cast e.1 e.2
    | .ok k => s.castOn t im k (match rec with | some bs => (s.stream k).record bs | none => s.stream k)

/-- A CASTON that reads a state image waits as a read of the issuing unit does (R246, R368). -/
def State.castHeld (s : State) (b : Reg) (rec : Option (List Byte)) : Bool :=
  match s.core.set.fab.running with
  | none => false
  | some im =>
    match s.castStitch im b with
    | .error _ => false
    | .ok k =>
      let e := match rec with | some bs => (s.stream k).record bs | none => s.stream k
      !e.reset && s.readHeld e.state

/-- CASTON does not wait for an earlier CASTON (R151). -/
def execCaston (t a b : Reg) (s : State) : Out :=
  issueUnless (fun s => s.unfinished [.rnd, .move, .cfg, .strm] || s.inProgress [.mat]) (.caston t a b) ⟨[a, b], t, 0⟩
    (fun s =>
      if a = 0 then (if s.castHeld b none then s else (s.caston t b none).advance)
      else
        let va := s.reg a
        if s.readHeld va then s
        else match s.checked .read va 8 32 with
          | (u, .error c) => u.trap c va
          | (u, .ok (window, spans)) =>
            match State.readSpans window spans u with
            | (u, _, some _) => (u.readFails t .cast).advance
            | (u, bs, none) => if s.castHeld b (some bs) then s else (u.caston t b (some bs)).advance) s

/-! ### BINDOFF, SLIP, UNSLIP and LIFT (R153) -/

/-- A one-stitch instruction: the configuration, the stitch, then the status it needs. -/
def oneStitch (i : Instr) (t a : Reg) (need : Status → Bool) (body : Image → Nat → State → State) (s : State) : Out :=
  rndIssue i ⟨[a], t, 0⟩
    (fun s =>
      match s.core.set.fab.running with
      | none => (s.rndFails t .rnd 0x22 noStitch).advance
      | some im =>
        match s.stitchArg a with
        | .error e => (s.rndFails t .rnd e.1 e.2).advance
        | .ok k => if need (s.stream k).status then (body im k s).advance else (s.rndFails t .rnd 0x32 k).advance) s

/-- LIVE, SLIP or DROP: what BINDOFF and RSAVE take. -/
def Status.held (st : Status) : Bool := st == .live || st == .slip || st == .drop

/-- The state area as it is to be written; a check that finds it cannot be leaves memory as it was. -/
def State.areaToWrite (s : State) (ptr : Word) (len : Nat) : State × Option (Bool × List Span) :=
  match s.area .write ptr len with
  | (u, some r) => (u, some r)
  | (u, none) => ({ u with mem := s.mem }, none)

/-- With q = 1 the area stays translated as it was at issue, so that the end of the drain cannot fail. -/
def execBindoff (t a : Reg) (q : BitVec 1) (s : State) : Out :=
  oneStitch (.bindoff t a q) t a Status.held
    (fun im k s =>
      if q = 0 then s.ask t .rnd k (.bindoff none)
      else match s.areaToWrite (s.stream k).state im.areaLen with
        | (u, some r) => u.ask t .rnd k (.bindoff (some r))
        | (u, none) => u.rndFails t .rnd 0x33 k) s

def execSlip (t a : Reg) (s : State) : Out :=
  oneStitch (.slip t a) t a (fun st => st == .live) (fun _ k s => s.ask t .rnd k .slip) s

def execUnslip (t a : Reg) (s : State) : Out :=
  oneStitch (.unslip t a) t a (fun st => st == .slip) (fun _ k s => s.ask t .rnd k .unslip) s

def execLift (t a : Reg) (q : BitVec 1) (s : State) : Out :=
  oneStitch (.lift t a q) t a (fun st => st == .drop) (fun _ k s => s.ask t .rnd k (.lift (q == 1))) s

/-! ### STRD and STWR (R146, R154) -/

/-- Word q of an entry. -/
def Stream.word (e : Stream) (q : Nat) : Word :=
  match q with
  | 0 => e.state
  | 1 => BitVec.ofNat 64 (e.reset.toNat + e.status.code * 2 + e.cause.toNat * 256 + e.steps.toNat * 2 ^ 16)
  | 2 => e.user
  | _ => e.handle

def Stream.setWord (e : Stream) (q : Nat) (v : Word) : Stream :=
  match q with
  | 0 => { e with state := v }
  | 1 => { e with reset := v.getLsbD 0, steps := BitVec.ofNat 32 (wspan v 16 32) }
  | 2 => { e with user := v }
  | _ => { e with handle := v }

/-- The stitches in a status, as a mask. -/
def Rounds.maskOf (r : Rounds) (st : Status) : Word :=
  (List.range 64).foldl (fun m k => if (r.at k).status = st then m ||| ((1 : Word) <<< k) else m) 0

def Rounds.select (r : Rounds) (n q : Nat) : Option Word :=
  if n < 64 then some ((r.at n).word q)
  else if q ≠ 0 then none
  else match n with
    | 64 => some (r.maskOf .drop)
    | 65 => some (r.maskOf .slip)
    | 66 => some (r.maskOf .live)
    | 67 => some r.saved
    | _ => none

/-- STRD waits for no RND, CFG or STRM instruction (R151), but for MAT instructions as every RND one does (R206). -/
def execStrd (t a : Reg) (q : BitVec 2) (s : State) : Out :=
  issueUnless (fun s => s.inProgress [.mat]) (.strd t a q) ⟨[a], t, 0⟩
    (fun s =>
      match s.core.set.rounds.select (s.reg a).toNat q.toNat with
      | some v => (s.later t .rnd v .clear 2).advance
      | none => (s.rndFails t .rnd 0x27 noStitch).advance) s

/-- A write to word 3 of an entry clears what the PAGED nodes have cached for the stitch (R227). -/
def Fabric.forget (f : Fabric) (k q : Nat) : Fabric :=
  if q = 3 then
    { f with mns := f.mns.map (fun e => (e.1, { e.2 with paged := e.2.paged.filter (fun x => x.1 ≠ k) })) }
  else f

def execStwr (t a b : Reg) (q : BitVec 2) (s : State) : Out :=
  rndIssue (.stwr t a b q) ⟨[a, b], t, 0⟩
    (fun s =>
      match s.stitchArg a with
      | .error e => (s.rndFails t .rnd e.1 e.2).advance
      | .ok k =>
        if (s.stream k).status = .free ∨ (s.stream k).status = .slip ∨ (s.stream k).status = .drop then
          (((s.putStream k ((s.stream k).setWord q.toNat (s.reg b))).mapFab (fun f => f.forget k q.toNat)).later
            t .rnd 0 .clear 2).advance
        else (s.rndFails t .rnd 0x32 k).advance) s

/-! ### RSAVE (R156) -/

/-- The state areas of stitches as they are to be written, or the first stitch whose area cannot be. -/
def State.areasToWrite (len : Nat) : List Nat → State → State × Except Nat (List (Nat × Bool × List Span))
  | [], s => (s, .ok [])
  | k :: rest, s =>
    match s.areaToWrite (s.stream k).state len with
    | (u, none) => (u, .error k)
    | (u, some r) =>
      match State.areasToWrite len rest u with
      | (u, .ok l) => (u, .ok ((k, r) :: l))
      | (u, .error k) => (u, .error k)

def execRsave (t : Reg) (s : State) : Out :=
  rndIssue (.rsave t) ⟨[], t, 0⟩
    (fun s =>
      match s.core.set.fab.running with
      | none => (s.rndFails t .move 0x22 noStitch).advance
      | some im =>
        match State.areasToWrite im.areaLen ((List.range 64).filter (fun k => (s.stream k).status.held)) s with
        | (u, .error k) => ({ u with mem := s.mem }.rndFails t .move 0x33 k).advance
        | (u, .ok set) =>
          ((u.begin t .move .round).mapRounds (fun r => { r with save := some ⟨set, u.net.nextId, u.cycle, none⟩ })).advance) s

/-! ### RLOAD (R157) -/

/-- One stream to be restored: its old and new stitch, its pointer, and its image. -/
structure Restored where
  new : Nat
  ptr : Word
  img : StateImage
  deriving DecidableEq, Repr

/-- The streams of a resume map read and checked, in ascending old stitch; or the status and stitch of the first failure. -/
def State.restored (im : Image) : List (Nat × Nat × Word) → List Nat → State →
    State × Except (Nat × Nat) (List Restored)
  | [], _, s => (s, .ok [])
  | (old, new, ptr) :: rest, seen, s =>
    if new ≥ im.P ∨ seen.contains new then (s, .error (0x35, old))
    else match s.readArea ptr im.areaLen with
      | (s, none) => (s, .error (0x33, old))
      | (s, some bs) =>
        if field bs 9 1 ≠ old then (s, .error (0x35, old))
        else match im.readState bs with
          | none => (s, .error (0x34, old))
          | some x =>
            match State.restored im rest (new :: seen) s with
            | (s, .ok l) => (s, .ok (⟨new, ptr, x⟩ :: l))
            | (s, .error e) => (s, .error e)

/-- The map of a resume block. -/
def resumeMap (bs : List Byte) : List (Nat × Nat × Word) :=
  (List.range 64).filterMap (fun k =>
    if field bs k 1 = 0xFF then none else some (k, field bs k 1, BitVec.ofNat 64 (field bs (64 + 8 * k) 8)))

/-- The identity map over the saved mask. -/
def Rounds.savedMap (r : Rounds) : List (Nat × Nat × Word) :=
  ((List.range 64).filter (fun k => r.saved.getLsbD k)).map (fun k => (k, k, (r.at k).state))

/-- One stream restored: its entry, its holders, and the status it takes at the first boundary. -/
def State.restore (im : Image) (id : Nat) (s : State) (x : Restored) : State :=
  ((s.putStream x.new ⟨x.ptr, false, .cast, 0, x.img.steps, x.img.user, x.img.handle⟩).mapFab
    (fun f => ((f.renew x.new).loadHolders im x.new (some x.img.records)).move s.cycle)).mapRounds (fun r => { r with
      pending := r.pending ++ [⟨x.new, .restore x.img.status x.img.cause, id, s.cycle⟩] })

/-- The image becomes running with its streams cast on. -/
def State.reload (s : State) (t : Reg) (im : Image) (pages : List (Nat × TlbEntry)) (l : List Restored) : State :=
  let id := s.net.nextId
  let s := (s.begin t .move .round).mapFab (fun f => { f.run im s.cycle pages with staged := f.staged, pages := f.pages })
  (l.foldl (State.restore im id) s).mapRounds (fun r => { r with loading := some (id, l.length) })

/-- RLOAD once the image's answer and the map are known. -/
def State.rload (s : State) (t : Reg) (r : Except Word Image) (pages : List (Nat × TlbEntry))
    (map : List (Nat × Nat × Word)) : State :=
  match r with
  | .error w => s.later t .move w .cfgbad 1
  | .ok im =>
    match State.restored im map [] s with
    | (u, .error e) => u.rndFails t .move e.1 e.2
    | (u, .ok l) => u.reload t im pages l

/-- RLOAD past its traps and BUSY: the image, then the streams of a map, none where it could not be read. -/
def State.rloadFrom (s : State) (t : Reg) (va : Word) (window : Bool) (spans : List Span)
    (map : Option (List (Nat × Nat × Word))) : State :=
  match State.readSpans window spans s with
  | (s, _, some _) => s.readFails t .move
  | (s, head, none) =>
    match s.readUpTo (va.toNat + 64) (imageLen head - 64) with
    | (s, rest, limit) =>
      let cut := limit.map (fun n => n - va.toNat)
      match s.translateNodes (head ++ rest) cut with
      | (s, pages) =>
        match map with
        | none => s.readFails t .move
        | some m => s.rload t (s.loadImage (head ++ rest) cut) pages m

/-- The map that RLOAD follows: the identity over the saved mask, or that of a resume block, none where a read of it meets
an error. -/
def State.rloadMap (s : State) (block : Option (Bool × List Span)) : State × Option (List (Nat × Nat × Word)) :=
  match block with
  | none => (s, some s.core.set.rounds.savedMap)
  | some b =>
    match State.readSpans b.1 b.2 s with
    | (s, _, some _) => (s, none)
    | (s, bs, none) => (s, some (resumeMap bs))

/-- RLOAD past its traps. It reads every state image that its map names as the issuing unit, and waits as its reads do
(R246, R368). -/
def State.rloadBy (s u : State) (t : Reg) (va : Word) (window : Bool) (spans : List Span)
    (block : Option (Bool × List Span)) : State :=
  if u.core.set.stitchBusy then (u.rndFails t .move 0x21 noStitch).advance
  else match u.rloadMap block with
    | (u, map) =>
      if (map.getD []).any (fun m => s.readHeld m.2.2) then s else (u.rloadFrom t va window spans map).advance

def execRload (t a b : Reg) (s : State) : Out :=
  rndIssue (.rload t a b) ⟨[a, b], t, 0⟩
    (fun s =>
      let va := s.reg a
      if s.readHeld va || (b ≠ 0 && s.readHeld (s.reg b)) then s
      else match s.checked .read va 64 64 with
        | (u, .error c) => u.trap c va
        | (u, .ok (window, spans)) =>
          if b = 0 then s.rloadBy u t va window spans none
          else match u.checked .read (s.reg b) 64 576 with
            | (u, .error c) => u.trap c (s.reg b)
            | (u, .ok block) => s.rloadBy u t va window spans (some block)) s

/-! ### Tokens still on loops (R121, R153, R156) -/

/-- The edges of an image, without costs. -/
def Image.links (im : Image) : List Edge :=
  (im.parsed 1024).producers.filterMap (fun t => (vertexOf t.tgt).map (fun v => ⟨t.vertex, v, t.tgt, 0⟩))
    ++ (if im.usesMx then [⟨nodeVertex mxId, nodeVertex (anId im.mxParams.an), noTarget, 0⟩] else [])

/-- The vertices that hold a stream's state: SREG and CONST slots, and accumulator nodes. -/
def Image.holds (im : Image) (v : Nat) : Bool := im.isHolder v || im.anNodes.any (fun n => nodeVertex (anId n) == v)

/-- The edges that lead from a state holder to one, those of every feedback loop among them. -/
def Image.holderEdges (im : Image) : List Edge :=
  let es := im.links
  let n := (verticesOf es).length
  let holders := (verticesOf es).filter im.holds
  let ahead := reachers es n holders
  let behind := reachers (es.map (fun e => { e with src := e.dst, dst := e.src })) n holders
  es.filter (fun e => behind.contains e.src && ahead.contains e.dst)

/-- A token of stitch k held at a target lacks another that its slot or node takes with it, or has reached its holder. -/
def Fabric.lacks (f : Fabric) (im : Image) (k : Nat) (t : Target) : Bool :=
  let missing (u : Target) : Bool := (f.oldest u k).isNone
  match placeOf t with
  | .slot n _ =>
    match im.slot n with
    | some r => (r.instr.map isConst).getD false || !(r.instr.map isMerge).getD false &&
        (im.reads r).any (fun pos => missing (slotTarget n pos))
    | none => true
  | .mx input => if input = 0 then !im.mxParams.int && missing (nodeTarget 0 1) else missing (nodeTarget 0 0)
  | .gp input => if input = 0 then (im.gp.map GpParams.readsY).getD false && missing (nodeTarget 2 1) else missing (nodeTarget 2 0)
  | .mn n input => (im.mn n).any (fun p => p.store) && missing (nodeTarget 3 (2 * n + (1 - input)))
  | .an _ _ => true
  | _ => false

/-- A token of stitch k held at a target waits for one from outside its loop (R121): it lacks an operand, or what it makes
has no room behind tokens of its own stitch that wait so. A loop passes a slot once, so that an operand a slot lacks comes
from outside the loop of the one that waits (R128). -/
def Fabric.waitsOutside (f : Fabric) (im : Image) (es : List Edge) (k : Nat) : Nat → Target → Bool
  | 0, t => f.lacks im k t
  | n + 1, t => f.lacks im k t ||
      es.any (fun e => (vertexOf t).any (fun v => e.src == v) && !f.hasRoom e.tgt && !(f.heldAt e.tgt).isEmpty &&
        (f.heldAt e.tgt).all (fun x => x.k == k) && f.waitsOutside im es k n e.tgt)

/-- A token of stitch k that a holder sent has still to reach a holder. What an accumulator node has still to add is such
a token; what would make it send, it holds (R153, R156). -/
def Fabric.looping (f : Fabric) (im : Image) (k : Nat) : Bool :=
  let es := im.holderEdges
  let waits (t : Target) : Bool := f.waitsOutside im es k im.slots.length t
  let bound (t : Target) : Bool := es.any (fun e => e.tgt == t)
  let on (v : Nat) : Bool := es.any (fun e => e.src == v)
  f.flights.any (fun g => g.tok.k == k && bound g.tgt) ||
    f.held.any (fun p => p.2.k == k && bound p.1 && !waits p.1) ||
    im.anNodes.any (fun n => (f.anFirst n k).any (fun m => !(f.anWork m).emits)) ||
    f.eorDue.any (fun e => e.2.k == k && on e.1) ||
    (on (nodeVertex smId) && f.smq.any (fun e => e.1.k == k)) ||
    f.mns.any (fun e => on (nodeVertex (mnId e.1)) &&
      (e.2.pass.any (fun p => p.stitch == k && f.hasRoom p.par.dat) || e.2.dones.any (fun d => d.stitch == k)))

/-- A token of stitch k is on its way to an accumulator node. -/
def Fabric.addendComing (f : Fabric) (k : Nat) : Bool :=
  f.flights.any (fun g => g.tok.k == k && (match placeOf g.tgt with | .an _ _ => true | _ => false))

/-- What a memory node holds of stitch k. -/
def MnState.only (m : MnState) (k : Nat) : MnState :=
  { m with pass := m.pass.filter (fun p => p.stitch == k), dones := m.dones.filter (fun d => d.stitch == k) }

/-- A memory request of stitch k is outstanding. -/
def State.stitchRequests (s : State) (k : Nat) : Bool :=
  s.core.set.fab.mns.any (fun e => s.mnOpen s.core.set.fab (e.2.only k))

/-! ### The round boundary (R145, R147, R153, R157, R158) -/

/-- Every SREG owes stitch k its held value (R148, R153). -/
def Fabric.resume (f : Fabric) (im : Image) (k : Nat) : Fabric :=
  { f with sregs := im.sregSlots.foldl (fun l r =>
      let e := f.sregAt r.num k r.konst
      insert (r.num, k) { e with due := if e.due.contains .held then e.due else e.due ++ [.held] } l) f.sregs }

/-- A pending change is due at this boundary. -/
def PendStitch.due (p : PendStitch) (r : Rounds) (P cycle : Nat) : Bool :=
  decide (p.since < cycle) &&
    match p.op with
    | .lift _ => decide (((lookup p.k r.dropped).getD 0) + P ≤ cycle)
    | _ => true

/-- The stitch takes a status; the operation completes with a value. -/
def State.turn (s : State) (p : PendStitch) (e : Stream) (v : Word) : State := (s.putStream p.k e).settle p.id v .clear

/-- A change that finds its stitch in another status changes nothing: BADSTATE. DESIGN CHOICE (assumption 112): so does
one whose stitch has become FREE by running out. -/
def State.turnFails (s : State) (p : PendStitch) : State := s.settle p.id (statusWord 0x32 p.k) .clear

/-- One pending change takes effect. -/
def State.takeEffect (im : Image) (s : State) (p : PendStitch) : State :=
  let e := s.stream p.k
  let move (s : State) : State := s.mapFab (fun f => f.move s.cycle)
  match p.op with
  | .live => if e.status = .cast then s.turn p { e with status := .live } (BitVec.ofNat 64 p.k) else s.turnFails p
  | .restore st cause =>
    let s := s.putStream p.k { e with status := st, cause := cause }
    if st = .drop then s.mapRounds (fun r => { r with dropped := insert p.k s.cycle r.dropped }) else s
  | .slip => if e.status = .live then s.turn p { e with status := .slip } 0 else s.turnFails p
  | .unslip =>
    if e.status = .slip then move ((s.mapFab (fun f => f.resume im p.k)).turn p { e with status := .live } 0)
    else s.turnFails p
  | .lift reset =>
    if e.status = .drop then
      let s := s.mapFab (fun f => if reset then f.loadHolders im p.k none else f.resume im p.k)
      move (s.turn p { e with status := .live, cause := 0, steps := if reset then 0 else e.steps } 0)
    else s.turnFails p
  | .bindoff save =>
    if e.status.held then
      (s.putStream p.k { e with status := .off }).mapRounds (fun r => { r with
        drains := r.drains ++ [⟨p.k, p.id, save, s.cycle, e.status⟩] })
    else s.turnFails p

/-- The changes of a boundary, the start of RSAVE's drain, the end of RLOAD, and a breakpoint's hold or its release
(R340). -/
def State.boundary (s : State) (im : Image) : State :=
  let r := s.core.set.rounds
  let due := r.pending.filter (fun p => p.due r im.P s.cycle)
  let s := s.mapRounds (fun r => { r with
    pending := r.pending.filter (fun p => !p.due r im.P s.cycle)
    boundary := some s.cycle
    turned := due.map (fun p => (p, (r.at p.k).status))
    save := r.save.map (fun v => if v.since.isNone && decide (v.asked < s.cycle) then { v with since := some s.cycle } else v) })
  let s := due.foldl (State.takeEffect im) s
  let s := match s.core.set.rounds.loading with
    | some (id, n) =>
      (s.mapRounds (fun r => { r with loading := none, saved := 0 })).settle id (BitVec.ofNat 64 n) .clear
    | none => s
  s.mapCore (fun k => { k with hold :=
    match k.hold with
    | .coming => .held
    | .leaving => .none
    | h => h })

/-- This cycle is a round boundary of the running configuration whose changes have not been made. A held fabric takes
only its release; a frozen core none but its thaw (R332, R333). -/
def State.atRoundBoundary (s : State) (im : Image) : Bool :=
  decide (s.cycle % im.P = 0) && s.core.set.rounds.boundary ≠ some s.cycle &&
    (s.core.frost == .thawing ||
      (decide (s.core.set.fab.started ≤ s.cycle) && (s.core.frost == .thawed || s.core.frost == .freezing) &&
        s.core.hold ≠ .held))

/-- The boundary of a core that resumes (R333). -/
def State.thawBoundary (s : State) (im : Image) : State :=
  let s := s.mapCore (fun k => { k with frost := .thawed })
  if s.core.set.fab.started ≤ s.cycle ∧ s.core.hold ≠ .held then s.boundary im
  else s.mapRounds (fun r => { r with boundary := some s.cycle })

def execRoundBoundary (s : State) : Out :=
  match s.core.set.fab.running with
  | some im => when (s.atRoundBoundary im) s (fun s => if s.core.frost = .thawing then s.thawBoundary im else s.boundary im)
  | none => .next s

/-! ### The ends of the drains (R153, R156) -/

/-- Every token of a stitch discarded, those of output ports apart, and those of input ports when they are kept. -/
def Fabric.discard (f : Fabric) (k : Nat) (keepPorts : Bool) (now : Nat) : Fabric :=
  let g := f.purge k false
  Fabric.move { g with inq := if keepPorts then f.inq else g.inq } now

/-- The state image of a stitch written to its area, as that was translated at issue. -/
def State.writeImage (s : State) (im : Image) (k : Nat) (st : Status) (area : Bool × List Span) : State :=
  (s.write .sequencer area.1 area.2 (s.core.set.fab.stateImage im k st (s.stream k))).1

/-- The drain of stitch k is over. -/
def State.bindoffOver (s : State) (im : Image) (d : Drain) : Bool :=
  decide (s.cycle ≥ d.since + im.P) && !s.core.set.fab.looping im d.k

/-- The stitch's tokens are discarded, its image written, and it is FREE. -/
def State.endBindoff (s : State) (im : Image) (d : Drain) : State :=
  let n := min (s.core.set.fab.tokensOf d.k true) 0xFFFF
  let s := s.mapFab (fun f => f.discard d.k false s.cycle)
  let s := match d.save with
    | some area => s.writeImage im d.k d.before area
    | none => s
  ((s.putStream d.k { s.stream d.k with status := .free }).mapRounds (fun r => { r with
    drains := r.drains.erase d })).settle d.id (BitVec.ofNat 64 n) .clear

def execBindoffDrainEnd (k : Nat) (s : State) : Out :=
  match s.core.set.fab.running, s.core.set.rounds.drains.find? (fun d => d.k == k) with
  | some im, some d => when (s.core.fabricRuns s.cycle && s.bindoffOver im d) s (fun s => s.endBindoff im d)
  | _, _ => .next s

/-- RSAVE's drain is over. An addend on its way to an accumulator node is added first (R362). -/
def State.rsaveOver (s : State) (im : Image) (v : Save) : Bool :=
  (match v.since with | some b => decide (s.cycle ≥ b + im.P) | none => false) &&
    v.set.all (fun x => !s.core.set.fab.looping im x.1 && !s.core.set.fab.addendComing x.1 && !s.stitchRequests x.1)

/-- Every stitch saved is FREE. -/
def Rounds.freeSaved (r : Rounds) (l : List Nat) : Rounds :=
  l.foldl (fun r k => r.put k { r.at k with status := .free, reset := false, cause := 0 })
    { r with saved := l.foldl (fun m k => m ||| ((1 : Word) <<< k)) 0 }

/-- The result word of RSAVE. -/
def saveWord (saved dropped n P : Nat) : Word := BitVec.ofNat 64 (saved + dropped * 256 + min n 0xFFFF * 2 ^ 16 + P * 2 ^ 32)

/-- RSAVE's end. DESIGN CHOICE (assumption 112): a stitch that has run out since the issue, and so is FREE, is saved no
more: it has no image, no place in the counts and no bit of the saved mask. -/
def State.endRsave (s : State) (im : Image) (v : Save) : State :=
  let l := v.set.filter (fun x => (s.stream x.1).status.held)
  let ks := l.map (fun x => x.1)
  let n := (ks.map (fun k => s.core.set.fab.tokensOf k false)).foldl (· + ·) 0
  let dropped := (ks.filter (fun k => (s.stream k).status = .drop)).length
  let s := s.mapFab (fun f => ks.foldl (fun f k => f.discard k true s.cycle) f)
  let s := l.foldl (fun s x => s.writeImage im x.1 (s.stream x.1).status x.2) s
  (s.mapRounds (fun r => { r.freeSaved ks with save := none })).settle v.id (saveWord l.length dropped n im.P) .clear

def execRsaveDrainEnd (s : State) : Out :=
  match s.core.set.fab.running, s.core.set.rounds.save with
  | some im, some v => when (s.core.fabricRuns s.cycle && s.rsaveOver im v) s (fun s => s.endRsave im v)
  | _, _ => .next s

end Sys2Proof.Machine
end

