-- ==== Sys2Proof/Machine/Smap.lean ====
section
/-!
DEFINITION. The state-map composer and the SMAP instructions (R283 to R294).
-/

namespace Sys2Proof.Machine

/-! ### Reads and failures (R290) -/

/-- Why a read of the composer gives no bytes. -/
inductive SmErr where
  | fault (f : XFault) (va : Nat)
  | data (cause : BitVec 6) (va : Nat)
  | bad (sym : Nat)
  deriving DecidableEq, Repr

/-- The status completion of a failure. -/
def SmErr.word : SmErr → Word
  | .fault f va => statusWord f.status (va % 2 ^ 48)
  | .data _ va => statusWord 0x44 (va % 2 ^ 48)
  | .bad sym => statusWord 0x82 sym

/-- The cause of the error token that an arrival makes of it (R292). -/
def SmErr.cause : SmErr → BitVec 6
  | .fault _ _ => 0x0C
  | .data c _ => c
  | .bad _ => causeFmtbad

/-- The pieces of a range translated one by one: their spans, and the faults met, each with its address. A range that begins
below the window part has no piece in it. -/
def State.smSpans (below : Bool) : List (Nat × Nat) → State → State × List Span × List (XFault × Nat)
  | [], s => (s, [], [])
  | p :: rest, s =>
    match (if below && inWindowPart p.1 then (s, .error (.access, p.1)) else s.resolve .read p.1 p.2 :
        State × Except (XFault × Nat) (Bool × List Span)) with
    | (s, r) =>
      match State.smSpans below rest s, r with
      | (s, spans, faults), .ok x => (s, x.2 ++ spans, faults)
      | (s, spans, faults), .error f => (s, spans, f :: faults)

/-- What decides of the faults of one read: the first PAGE, else the first ACCESS (R290). -/
def firstFault (l : List (XFault × Nat)) : Option (XFault × Nat) :=
  match l.find? (fun f => f.1 == .page) with
  | some f => some f
  | none => l.head?

/-- What a read of the composer finds: PAGE before ACCESS before MEMERR (R290). -/
def State.smRead (s : State) (va n : Nat) : State × Except SmErr (List Byte) :=
  match State.smSpans (!inWindowPart va) (piecesOf va n) s with
  | (s, spans, faults) =>
    match firstFault faults with
    | some f => (s, .error (.fault f.1 f.2))
    | none =>
      match State.readSpans (inWindowPart va) spans s with
      | (s, bs, none) => (s, .ok bs)
      | (s, _, some e) => (s, .error (.data e.1 e.2.va))

/-- The stitches that took a step on arrival in this cycle (R294). -/
def State.steppedNow (s : State) : List Nat :=
  if s.core.set.comp.stepAt = s.cycle then s.core.set.comp.stepped else []

/-- SMAP instructions execute one at a time, and behind CFG instructions (R290). An instruction's change comes first in
its cycle: behind a step on arrival it issues in a later one (R294). -/
def smapIssue (i : Instr) (n : Needs) (body : State → State) (s : State) : Out :=
  issueUnless (fun s => s.unfinished [.smap] || s.inProgress [.cfg] || !s.steppedNow.isEmpty) i n body s

/-- A failure, and a completion one cycle on. -/
def State.smFails (s : State) (t : Reg) (w : Word) : State := s.later t .smap w .clear 1
def State.smDone (s : State) (t : Reg) (w : Word) : State := s.later t .smap w .clear 1

def smNoCfg : Word := statusWord 0x22 0
def smRange : Word := statusWord 0x27 0
/-- The SHAPE of an SMCOMP: a list that is not 4-byte aligned, at its address; else a count outside its limits. -/
def smShape (va : Word) (n : Nat) : Option Word :=
  if va.toNat % 4 ≠ 0 then some (statusWord 0x45 (va.toNat % 2 ^ 48))
  else if n = 0 ∨ n > 65536 then some (statusWord 0x45 0) else none
def smNoBind : Word := statusWord 0x80 0
def smBadDesc (off : Nat) : Word := statusWord 0x81 off
def smSymBad (i : Nat) : Word := statusWord 0x83 i

/-! ### The binding (R289, R291) -/

def descOf (bs : List Byte) : Desc where
  maps := BitVec.ofNat 64 (field bs 0 8)
  masks := BitVec.ofNat 64 (field bs 8 8)
  buffer := BitVec.ofNat 64 (field bs 16 8)
  V := BitVec.ofNat 32 (field bs 24 4)
  S := BitVec.ofNat 16 (field bs 28 2)
  D := BitVec.ofNat 16 (field bs 30 2)
  wide := field bs 32 1 == 1
  hasId := field bs 33 1 == 1
  idMap := BitVec.ofNat 64 (field bs 40 8)

/-- The offset of the first field outside its limits. -/
def badDesc (bs : List Byte) : Option Nat :=
  let maxS := if field bs 32 1 = 0 then 256 else 4096
  if field bs 0 8 % 16 ≠ 0 then some 0
  else if field bs 8 8 % 16 ≠ 0 then some 8
  else if field bs 16 8 % 16 ≠ 0 then some 16
  else if field bs 24 4 = 0 ∨ field bs 24 4 > 2 ^ 24 then some 24
  else if field bs 28 2 = 0 ∨ field bs 28 2 > maxS then some 28
  else if field bs 30 2 ≥ field bs 28 2 ∧ field bs 30 2 ≠ 0xFFFF then some 30
  else if field bs 32 1 > 1 then some 32
  else if field bs 33 1 > 1 then some 33
  else if field bs 34 6 ≠ 0 then some 34
  else if (if field bs 33 1 = 1 then field bs 40 8 % 16 else field bs 40 8) ≠ 0 then some 40
  else if field bs 48 16 ≠ 0 then some 48
  else none

def Desc.width (d : Desc) : Nat := if d.wide then 2 else 1
/-- The bytes between rows of the token-map table and of the mask table (R284). -/
def Desc.rowPitch (d : Desc) : Nat := (d.S.toNat * d.width + 15) / 16 * 16
def Desc.maskPitch (d : Desc) : Nat := (d.V.toNat + 127) / 128 * 16
/-- The 32-symbol chunks of a mask. -/
def Desc.chunks (d : Desc) : Nat := (d.V.toNat + 31) / 32
/-- A state that is the dead one. -/
def Desc.dead (d : Desc) (q : BitVec 16) : Bool := d.D != 0xFFFF && q == d.D

def State.mapComp (s : State) (f : Composer → Composer) : State := s.mapSet (fun c => { c with comp := f c.comp })

def Composer.state (c : Composer) (k : Nat) : BitVec 16 := c.st[k % 64]'(Nat.mod_lt _ (by decide))
def Composer.setState (c : Composer) (k : Nat) (q : BitVec 16) : Composer :=
  { c with st := c.st.set (k % 64) q (Nat.mod_lt _ (by decide)) }
def Composer.symbol (c : Composer) (k : Nat) : Option (BitVec 24) := c.ls[k % 64]'(Nat.mod_lt _ (by decide))
def Composer.setSymbol (c : Composer) (k : Nat) (v : Option (BitVec 24)) : Composer :=
  { c with ls := c.ls.set (k % 64) v (Nat.mod_lt _ (by decide)) }

/-- A bind: every state 0, every last symbol invalid. -/
def execSmcfgBind (t a : Reg) (s : State) : Out :=
  smapIssue (.smcfgBind t a) ⟨[a], t, 0⟩
    (fun s =>
      let va := s.reg a
      if s.readHeld va then s
      else match s.checked .read va 64 64 with
        | (u, .error c) => u.trap c va
        | (u, .ok (window, spans)) =>
          match State.readSpans window spans u with
          | (u, _, some e) => (u.smFails t (SmErr.data e.1 e.2.va).word).advance
          | (u, bs, none) =>
            match badDesc bs with
            | some off => (u.smFails t (smBadDesc off)).advance
            | none => ((u.mapComp (fun _ => { Composer.start with binding := some (descOf bs) })).smDone t 0).advance) s

/-- The stitches of a mask. -/
def stitchesOf (m : Word) : List Nat := (List.range 64).filter (fun k => m.getLsbD k)

def execSmcfgWriteStates (t a b : Reg) (s : State) : Out :=
  smapIssue (.smcfgWriteStates t a b) ⟨[a, b], t, 0⟩
    (fun s =>
      match s.core.set.comp.binding with
      | none => (s.smFails t smNoBind).advance
      | some d =>
        if (s.reg b).toNat ≥ d.S.toNat then (s.smFails t smRange).advance
        else ((s.mapComp (fun c => (stitchesOf (s.reg a)).foldl (fun c k => c.setState k (BitVec.setWidth 16 (s.reg b))) c)).smDone
          t 0).advance) s

def execSmcfgReadState (t a : Reg) (s : State) : Out :=
  smapIssue (.smcfgReadState t a) ⟨[a], t, 0⟩
    (fun s =>
      let k := (s.reg a).toNat
      if s.core.set.comp.binding.isNone then (s.smFails t smNoBind).advance
      else if k > 63 then (s.smFails t smRange).advance
      else (s.smDone t (BitVec.ofNat 64
        ((s.core.set.comp.state k).toNat + (s.core.set.comp.symbol k).isSome.toNat * 65536))).advance) s

/-! ### Rows (R283, R284) -/

/-- Row v as a map; a bad entry refuses it. A row that the identity bitmap flags is the identity, and is not read. -/
def State.readMap (s : State) (d : Desc) (v : Nat) : State × Except SmErr (List Nat) :=
  match s.smRead (d.maps.toNat + v * d.rowPitch) (d.S.toNat * d.width) with
  | (s, .error e) => (s, .error e)
  | (s, .ok bs) =>
    let m := (List.range d.S.toNat).map (fun q => field bs (q * d.width) d.width)
    if m.any (fun x => decide (x ≥ d.S.toNat)) then (s, .error (.bad v)) else (s, .ok m)

def State.flagged (s : State) (d : Desc) (v : Nat) : State × Except SmErr Bool :=
  if d.hasId then
    match s.smRead (d.idMap.toNat + v / 8) 1 with
    | (s, .ok bs) => (s, .ok (bitAt (field bs 0 1) (v % 8)))
    | (s, .error e) => (s, .error e)
  else (s, .ok false)

def identityMap (d : Desc) : List Nat := List.range d.S.toNat

/-- The map of symbol v, and whether its row was read. -/
def State.mapOf (s : State) (d : Desc) (v : Nat) : State × Except SmErr (List Nat × Nat) :=
  match s.flagged d v with
  | (s, .error e) => (s, .error e)
  | (s, .ok true) => (s, .ok (identityMap d, 0))
  | (s, .ok false) =>
    match s.readMap d v with
    | (s, .ok m) => (s, .ok (m, 1))
    | (s, .error e) => (s, .error e)

/-! ### SMCOMP (R291) -/

def constantMap : List Nat → Bool
  | [] => true
  | x :: xs => xs.all (fun y => y == x)

/-- R ∘ G. -/
def composeMaps (r g : List Nat) : List Nat := g.map (fun q => r.getD q 0)

/-- The composed map of a list of symbols, the right part first, with the rows read; `fuel` bounds the depth. -/
def State.evalMaps (d : Desc) : Nat → List Nat → State → State × Except SmErr (List Nat × Nat)
  | 0, _, s => (s, .ok (identityMap d, 0))
  | _ + 1, [], s => (s, .ok (identityMap d, 0))
  | _ + 1, [v], s => s.mapOf d v
  | fuel + 1, xs, s =>
    let left := 2 ^ Nat.log2 (xs.length - 1)
    match State.evalMaps d fuel (xs.drop left) s with
    | (s, .error e) => (s, .error e)
    | (s, .ok (r, n)) =>
      if constantMap r then (s, .ok (r, n))
      else match State.evalMaps d fuel (xs.take left) s with
        | (s, .error e) => (s, .error e)
        | (s, .ok (g, m)) =>
          (s, .ok (if r = identityMap d then g else if g = identityMap d then r else composeMaps r g, n + m))

/-- The first word of a symbol list that is no symbol. -/
def badSymbol (d : Desc) (words : List Nat) : Option Nat :=
  let i := words.findIdx (fun w => decide (w ≥ d.V.toNat))
  if i < words.length then some i else none

/-- The words of a list of n symbols, or the failure of the first in turn. -/
def State.readSymbols (s : State) (d : Desc) (n : Nat) (window : Bool) (spans : List Span) :
    State × Except Word (List Nat) :=
  match State.readSpans window spans s with
  | (s, bs, err) =>
    let words := (List.range (min n (bs.length / 4))).map (fun i => field bs (4 * i) 4)
    match badSymbol d words, err with
    | some i, _ => (s, .error (smSymBad i))
    | none, some e => (s, .error (SmErr.data e.1 e.2.va).word)
    | none, none => (s, .ok words)

/-- A map's bytes in the buffer: S entries, padded to 16 bytes. -/
def Desc.mapBytes (d : Desc) (m : List Nat) : List Byte :=
  let bs := m.flatMap (fun q => leBytes d.width q)
  bs ++ List.replicate (d.rowPitch - bs.length) 0

/-- Bytes written up to the first 16-byte unit that cannot be: the failure's status and address. -/
def State.writeUnits (bs : List Byte) (va : Nat) : Nat → State → State × Option Word
  | 0, s => (s, none)
  | n + 1, s =>
    match s.resolve .write va 16 with
    | (s, .error f) => (s, some (SmErr.fault f.1 f.2).word)
    | (s, .ok (window, spans)) =>
      State.writeUnits (bs.drop 16) (va + 16) n (s.write .sequencer window spans (bs.take 16)).1

/-- The word of a composed map: the constant, its flag and the rows read. -/
def compWord (m : List Nat) (rows : Nat) : Word :=
  BitVec.ofNat 64 ((if constantMap m then m.headD 0 + 65536 else 0) + rows * 2 ^ 20)

/-- The map composed and perhaps written; applying it waits for the composition's end. -/
def State.compose (s : State) (t : Reg) (d : Desc) (q : BitVec 2) (mask : Word) (words : List Nat) : State :=
  match State.evalMaps d (words.length + 1) words s with
  | (s, .error e) => s.smFails t e.word
  | (s, .ok (m, rows)) =>
    let wrote := if q.getLsbD 0 && d.buffer != 0 then State.writeUnits (d.mapBytes m) d.buffer.toNat (d.rowPitch / 16) s
      else (s, none)
    match wrote with
    | (s, some w) => s.smFails t w
    | (s, none) =>
      if q.getLsbD 1 then s.begin t .smap (.compose (m.map (BitVec.ofNat 16)) mask (compWord m rows))
      else s.smDone t (compWord m rows)

/-- A table of the composer is global and an earlier FENCE or SIGWAIT is open. -/
def State.tablesHeld (s : State) : Bool :=
  match s.core.set.comp.binding with
  | some d => s.readHeld d.maps || s.readHeld d.masks
  | none => false

def execSmcomp (t a b : Reg) (q : BitVec 2) (s : State) : Out :=
  smapIssue (.smcomp t a b q) ⟨[a, b, pairOf b], t, 0⟩
    (fun s =>
      let va := s.reg a
      let n := (s.reg b).toNat
      match smShape va n with
      | some w => (s.smFails t w).advance
      | none =>
        if s.readHeld va || s.tablesHeld then s
        else match s.checked .read va 4 (4 * n) with
          | (u, .error c) => u.trap c va
          | (u, .ok (window, spans)) =>
            match u.core.set.comp.binding with
            | none => (u.smFails t smNoBind).advance
            | some d =>
              match u.readSymbols d n window spans with
              | (u, .error w) => (u.smFails t w).advance
              | (u, .ok words) => (u.compose t d q (s.reg (pairOf b)) words).advance) s

/-! ### Steps and the dead check (R292) -/

/-- A token joins what the composer sends, where an SM block runs; its target is the block's as it stands (R119). -/
def State.smSend (s : State) (t : Token) (op : Option Nat) : State :=
  match s.core.set.fab.running.bind Image.sm with
  | some p => s.mapFab (fun f => { f with smq := f.smq ++ [(t, p.out, op)] })
  | none => s

/-- The state that map `m` leads a state to; a step from the dead state leaves it (R292). -/
def Desc.stepTo (d : Desc) (m : List Nat) (old : BitVec 16) : BitVec 16 :=
  if d.dead old then old else BitVec.ofNat 16 (m.getD old.toNat 0)

/-- The state of stitch k set; entering the dead state sends MASKDEAD. -/
def State.enterState (s : State) (d : Desc) (k : Nat) (q : BitVec 16) : State :=
  let old := s.core.set.comp.state k
  let s := s.mapComp (fun c => c.setState k q)
  if d.dead q && !d.dead old then s.smSend (Token.error k 0x09 false) none else s

/-- Whether setting a state enters the dead one. -/
def State.entersDead (s : State) (d : Desc) (k : Nat) (q : BitVec 16) : Bool := d.dead q && !d.dead (s.core.set.comp.state k)

/-- SMCOMP's map applied to the states as they stand; behind a step on arrival of this cycle, in a later one (R294). -/
def State.endCompose (s : State) (id : Nat) (map : List (BitVec 16)) (mask : Word) (v : Word) : State :=
  match s.core.set.comp.binding with
  | none => s.settle id v .clear
  | some d =>
    if !s.steppedNow.isEmpty then s else
    let new (s : State) (k : Nat) : BitVec 16 := map.getD (s.core.set.comp.state k).toNat 0
    let dead := (stitchesOf mask).any (fun k => s.entersDead d k (new s k))
    ((stitchesOf mask).foldl (fun s k => s.enterState d k (new s k)) s).settle id
      (v + BitVec.ofNat 64 (dead.toNat * 2 ^ 17)) .clear

/-- The states that steps lead to, in turn, up to a failure; each stitch's row is read. -/
def State.stepAll (d : Desc) : List (Nat × Nat) → State → State × Except SmErr (List (Nat × BitVec 16))
  | [], s => (s, .ok [])
  | (k, v) :: rest, s =>
    match s.mapOf d v with
    | (s, .error e) => (s, .error e)
    | (s, .ok (m, _)) =>
      match State.stepAll d rest s with
      | (s, .error e) => (s, .error e)
      | (s, .ok l) => (s, .ok ((k, d.stepTo m (s.core.set.comp.state k)) :: l))

/-- The stitches SMSTEP names, with their symbols. -/
def State.stepList (s : State) (mask : Word) (sym : Option Nat) : List (Nat × Nat) :=
  let ks := if mask = 0 then (List.range 64).filter (fun k => (s.core.set.rounds.at k).status == .live) else stitchesOf mask
  ks.filterMap (fun k =>
    match sym with
    | some v => some (k, v)
    | none => (s.core.set.comp.symbol k).map (fun v => (k, v.toNat)))

def maskOfStitches (l : List Nat) : Word := l.foldl (fun m k => m ||| ((1 : Word) <<< k)) 0

/-- Every stitch named is stepped, its last symbol invalid. -/
def State.smstep (s : State) (t : Reg) (d : Desc) (l : List (Nat × Nat)) : State :=
  match State.stepAll d l s with
  | (s, .error e) => s.smFails t e.word
  | (s, .ok news) =>
    (news.foldl (fun s x => (s.enterState d x.1 x.2).mapComp (fun c => c.setSymbol x.1 none)) s).smDone t
      (maskOfStitches (news.map (·.1)))

def execSmstep (t a b : Reg) (q : BitVec 1) (s : State) : Out :=
  smapIssue (.smstep t a b q) ⟨if q = 1 then [a, b] else [a], t, 0⟩
    (fun s =>
      match s.core.set.comp.binding with
      | none => (s.smFails t smNoBind).advance
      | some d =>
        if s.readHeld d.maps then s
        else if q = 1 ∧ (s.reg b).toNat ≥ d.V.toNat then (s.smFails t (smSymBad 0)).advance
        else (s.smstep t d (s.stepList (s.reg a) (if q = 1 then some (s.reg b).toNat else none))).advance) s

/-! ### Masks (R293) -/

/-- A chunk's mask word: bits at or above V are 0. -/
def Desc.chunkWord (d : Desc) (c : Nat) (bs : List Byte) : Nat :=
  field bs 0 4 % 2 ^ (min 32 (d.V.toNat - 32 * c))

def maskToken (k w : Nat) (last : Bool) : Token := Token.plain k (ofLanes 32 [w]) last

/-- The address of a chunk in a state's mask row. -/
def Desc.chunkAt (d : Desc) (q : BitVec 16) (c : Nat) : Nat := d.masks.toNat + q.toNat * d.maskPitch + 4 * c

/-- The tokens of chunks `first` to `first + n − 1` of stitch k in state q, or the first failure. -/
def State.maskTokens (s : State) (d : Desc) (k : Nat) (q : BitVec 16) (first n : Nat) (last : Bool) :
    State × Except SmErr (List Token) :=
  if d.dead q then (s, .ok ((List.range n).map (fun j => Token.error k 0x09 (last && decide (j + 1 = n)))))
  else
    match s.smRead (d.chunkAt q first) (4 * n) with
    | (s, .error e) => (s, .error e)
    | (s, .ok bs) =>
      (s, .ok ((List.range n).map (fun j =>
        maskToken k (d.chunkWord (first + j) (bs.drop (4 * j))) (last && decide (j + 1 = n)))))

/-- The mask of an arrival step: a chunk that cannot be read is an error token in its place (R292). -/
def State.arrivalMask (d : Desc) (k : Nat) (q : BitVec 16) (last : Bool) : Nat → Nat → State → State × List Token
  | 0, _, s => (s, [])
  | n + 1, c, s =>
    let fin := last && n == 0
    match (match s.maskTokens d k q c 1 fin with
      | (s, .ok l) => (s, l)
      | (s, .error e) => (s, [Token.error k e.cause fin])) with
    | (s, l) =>
      match State.arrivalMask d k q last n (c + 1) s with
      | (s, more) => (s, l ++ more)

/-- The range of an SMMASK: its first chunk and how many. -/
def maskRange (d : Desc) (w : Word) : Nat × Nat :=
  (wspan w 0 19, if wspan w 20 19 = 0 then d.chunks - wspan w 0 19 else wspan w 20 19)

/-- The stitch and the chunks of an SMMASK are in range. -/
def State.maskOk (s : State) (im : Image) (d : Desc) (k : Nat) (w : Word) : Bool :=
  decide (k < 64) && decide (k < im.P) && im.sm.isSome && bitSpan w.toNat 19 1 == 0 && wspan w 39 25 == 0 &&
    decide ((maskRange d w).1 < d.chunks) && decide ((maskRange d w).1 + (maskRange d w).2 ≤ d.chunks)

def execSmmask (t a b : Reg) (q : BitVec 1) (s : State) : Out :=
  smapIssue (.smmask t a b q) ⟨[a, b], t, 0⟩
    (fun s =>
      match s.core.set.fab.running, s.core.set.comp.binding with
      | none, _ => (s.smFails t smNoCfg).advance
      | some _, none => (s.smFails t smNoBind).advance
      | some im, some d =>
        let k := (s.reg a).toNat
        let r := maskRange d (s.reg b)
        if s.readHeld d.masks then s
        else if !s.maskOk im d k (s.reg b) then (s.smFails t smRange).advance
        else match s.maskTokens d k (s.core.set.comp.state k) r.1 r.2 (q == 1) with
          | (u, .error e) => (u.smFails t e.word).advance
          | (u, .ok l) =>
            (l.foldl (fun v x => v.smSend x (some u.net.nextId)) (u.begin t .smap (.masks r.2))).advance) s

/-- An SMMASK completes when its last token has been accepted. -/
def State.endMasks (s : State) (id total : Nat) : State :=
  if s.core.set.fab.smq.any (fun e => e.2.2 == some id) then s else s.settle id (BitVec.ofNat 64 total) .clear

/-! ### Arrivals (R287, R292, R294) -/

def smInput : Target := nodeTarget 5 0

/-- A data token's symbol. -/
def Token.symbol (t : Token) : Nat := lane32 t.payload 0 % 2 ^ 24

/-- A step on arrival: the new state with its mask, or an error token. -/
def State.arrivalStep (s : State) (p : SmParams) (d : Desc) (t : Token) : State :=
  match s.mapOf d t.symbol with
  | (s, .error e) => s.smSend (Token.error t.k e.cause t.tag.last) none
  | (s, .ok (m, _)) =>
    let q := d.stepTo m (s.core.set.comp.state t.k)
    let s := (s.enterState d t.k q).mapComp (fun c => { c with stepAt := s.cycle, stepped := t.k :: s.steppedNow })
    if p.amask then
      match State.arrivalMask d t.k q t.tag.last d.chunks 0 s with
      | (s, l) => l.foldl (fun s x => s.smSend x none) s
    else s

def State.smArrive (s : State) (p : SmParams) (t : Token) : State :=
  let s := s.mapFab (fun f => { f with held := removeHeld smInput t.k f.held }.move s.cycle)
  if !t.isData then s.smSend t none
  else match s.core.set.comp.binding with
    | none => s.smSend (Token.error t.k causeIdxbound t.tag.last) none
    | some d =>
      if t.symbol ≥ d.V.toNat then s.smSend (Token.error t.k causeIdxbound t.tag.last) none
      else if p.astep then s.arrivalStep p d t
      else s.mapComp (fun c => c.setSymbol t.k (some (BitVec.ofNat 24 t.symbol)))

/-- Tokens of arrivals that still have to leave bound what the node takes. -/
def Fabric.smFull (f : Fabric) : Bool := decide ((f.smq.filter (fun e => e.2.2.isNone)).length ≥ Config.nodeOwes)

/-- The first token of the composer's queue leaves. -/
def State.smEmit (s : State) (t : Token) (out : Target) : State :=
  (s.mapFab (fun f => { f with smq := f.smq.tail })).nodeSend smId .sm 0xFFFFFFFF out t

/-- A token at sm.0 would take a step of a stitch that took one in this cycle (R294). -/
def State.steps (s : State) (p : SmParams) (t : Token) : Bool := p.astep && t.isData && s.steppedNow.contains t.k

/-- A token at sm.0 is handled; or the composer's next token leaves. Where both may happen, the next choice says which. -/
def execComposerArrival (s : State) : Out :=
  match s.core.set.fab.running.bind Image.sm with
  | none => .next s
  | some p =>
    when (s.core.fabricRuns s.cycle) s (fun s =>
      let out := s.core.set.fab.smq.head?.filter (fun e => s.core.set.fab.hasRoom e.2.1)
      let arrival := if s.core.set.fab.smFull then none else (s.core.set.fab.heldAt smInput).head?.filter (fun t => !s.steps p t)
      match out, arrival with
      | some e, none => s.smEmit e.1 e.2.1
      | none, some t => s.smArrive p t
      | some e, some t => if s.choose = 1 then s.chosen.smArrive p t else s.chosen.smEmit e.1 e.2.1
      | none, none => s)

end Sys2Proof.Machine
end

