-- ==== Sys2Proof/Machine/Freeze.lean ====
section
/-!
DEFINITION. Freezing and thawing (R332, R333), sets that are not active, and clearing a core (R310, R313, R314, R318).
-/

namespace Sys2Proof.Machine

/-! ### Sets where they stand -/

/-- What stands in a core for its active set. -/
def Core.parking (k : Core) : Parked := ⟨k.frost, k.locked, k.skouted, k.hold, k.breaks, k.trace, []⟩

/-- A set becomes the active one, with what goes with it. -/
def Core.withActive (k : Core) (c : CSet) (p : Parked) : Core :=
  { k with
    set := c, frost := p.frost, locked := p.locked, skouted := p.skouted, hold := p.hold, breaks := p.breaks, trace := p.trace }

/-- Every set of a core with what stands for it. -/
def Core.placed (k : Core) : List (CSet × Parked) := (k.set, k.parking) :: k.shadow.toList.map (fun c => (c, c.parked))

/-- The sets that no core holds. -/
def Disp.away (d : Disp) : List CSet := d.suspended.map (·.2) ++ d.stored.map (·.2.2) ++ d.streaming.map (·.2.2)

def State.placed (s : State) : List (CSet × Parked) :=
  s.cores.flatMap Core.placed ++ s.disp.away.map (fun c => (c, c.parked))

/-- A change of what stands for the sets that `pick` chooses: one of the active sets, one of the others. -/
def Core.mapParked (k : Core) (pick : CSet → Bool) (active parked : Parked → Parked) : Core :=
  let k := if pick k.set then k.withActive k.set (active k.parking) else k
  { k with shadow := k.shadow.map (fun c => if pick c then { c with parked := parked c.parked } else c) }

def State.mapCores (s : State) (f : Core → Core) : State := { s with core := f s.core, others := s.others.map f }

def Disp.mapAway (d : Disp) (f : CSet → CSet) : Disp :=
  { d with
    suspended := d.suspended.map (fun p => (p.1, f p.2))
    stored := d.stored.map (fun p => (p.1, p.2.1, f p.2.2))
    streaming := d.streaming.map (fun p => (p.1, p.2.1, f p.2.2)) }

/-- A set that is to freeze at its next boundary. One that is not active stands still already. -/
def Parked.freeze (p : Parked) : Parked :=
  { p with frost := match p.frost with
    | .thawed => .freezing
    | .thawing => .frozen
    | f => f }

def Parked.still (p : Parked) : Parked := { p with frost := .frozen }

/-- A frozen set resumes: at its next round boundary where a configuration runs on it (R333). -/
def Parked.thaw (runs : Bool) (p : Parked) : Parked :=
  if p.frost = .frozen then { p with frost := if runs then .thawing else .thawed, skouted := false } else p

def Parked.unlock (p : Parked) : Parked := { p with locked := false }

/-- The sets of core n that `pick` chooses freeze (R332). -/
def State.freezeAt (s : State) (n : Nat) (pick : CSet → Bool) : State :=
  s.mapCoreAt n (fun k => k.mapParked pick Parked.freeze Parked.still)

/-- The sets of core n that `pick` chooses resume; trap lock ends with them where `unlock` says so (R327, R333). -/
def State.thawAt (s : State) (n : Nat) (pick : CSet → Bool) (unlock : Bool) : State :=
  let free (p : Parked) : Parked := if unlock then p.unlock else p
  s.mapCoreAt n (fun k => k.mapParked pick (fun p => free (p.thaw k.set.fab.running.isSome))
    (fun p => free (p.thaw false)))

/-! ### Reaching the freeze point (R332) -/

/-- A request of a unit that has not been answered. -/
def Packet.asks (k : Packet) (u : UnitCtx) : Bool :=
  k.lid == u.lid && k.unit == u.index && k.way ≠ .delivered && k.way ≠ .lost && match k.body with
    | .read _ _ => true
    | .write _ _ _ => true
    | .bank _ => true
    | _ => false

/-- Requests of a set that have still to return: memory and block-pool requests, and engine operations in progress. -/
def State.requestsOut (s : State) (c : CSet) : Bool :=
  (match c.unit with | some u => s.net.packets.any (fun k => k.asks u) | none => false) ||
    c.ops.any (fun o => match o.wait with | .blk _ _ => true | _ => false) || c.eng.any (fun e => e.run.isSome)

/-- The freezing core is at its freeze point: a round boundary whose changes have been made, those of a held fabric
waiting, or any cycle where no configuration runs. -/
def State.atFreezePoint (s : State) : Bool :=
  match s.core.set.fab.running with
  | none => true
  | some im =>
    decide (s.cycle % im.P = 0) &&
      (s.core.hold == .held || s.core.set.rounds.boundary == some s.cycle || decide (s.cycle < s.core.set.fab.started))

/-- CORE_FREEZE: the freeze point, then frozen once the requests have returned. -/
def execCoreFreeze (s : State) : Out :=
  match s.core.frost with
  | .freezing => when s.atFreezePoint s (fun s => s.mapCore (fun k => { k with frost := .draining }))
  | .draining => when (!s.requestsOut s.core.set) s (fun s => s.mapCore (fun k => { k with frost := .frozen }))
  | _ => .next s

/-! ### Halves of a scratchpad (R106, R313) -/

def scratchAt (n : Nat) : Nat := scratchBase + n * 0x200000

/-- The half of the banks that a scratchpad offset lies in, and the window offset it has there. -/
def halfOf (o : Nat) : Bool × Nat :=
  (decide (192 ≤ o / 16 % 384), 16 * (o / 16 / 384 * 192 + o / 16 % 384 % 192) + o % 16)

def inScratch (n : Nat) (a : Nat) : Bool := decide (scratchAt n ≤ a) && decide (a < scratchAt n + scratchSize)

/-- The bytes of one half, by window offset. -/
def Memory.takeHalf (m : Memory) (n : Nat) (half : Bool) : Memory :=
  m.filterMap (fun c =>
    if inScratch n c.1 ∧ (halfOf (c.1 - scratchAt n)).1 = half then some ((halfOf (c.1 - scratchAt n)).2, c.2) else none)

/-- One half cleared. -/
def Memory.clearHalf (m : Memory) (n : Nat) (half : Bool) : Memory :=
  m.filter (fun c => !(inScratch n c.1 && (halfOf (c.1 - scratchAt n)).1 == half))

/-- Bytes kept by window offset laid into one half, which is clear. -/
def Memory.putHalf (m : Memory) (n : Nat) (half : Bool) (spad : Memory) : Memory :=
  spad.foldl (fun m c => m.put (windowPa n true half c.1) c.2) m

/-- Lines of a scratchpad; those of one half. -/
def lineOfHalf (n : Nat) (half : Bool) (l : Nat) : Bool :=
  inScratch n (64 * l) && (halfOf (64 * l - scratchAt n)).1 == half

/-- The error and poison marks of some lines are gone. -/
def HostSide.dropLines (h : HostSide) (gone : Nat → Bool) : HostSide :=
  { h with
    errLines := h.errLines.filter (fun l => !gone l)
    poisoned := h.poisoned.filter (fun l => !gone l) }

/-- One half of core n's scratchpad cleared. -/
def State.clearHalf (s : State) (n : Nat) (half : Bool) : State :=
  { s with mem := s.mem.clearHalf n half, host := s.host.dropLines (lineOfHalf n half) }

/-- A core cleared before another partition or set can read it, and whole again (R310). -/
def State.clearCore (s : State) (n : Nat) : State :=
  { s.setCore (Core.idle n) with
    mem := s.mem.clear (scratchAt n) scratchSize
    host := s.host.dropLines (fun l => inScratch n (64 * l)) }

/-! ### Skeins and save areas (R311, R314, R318, R334) -/

/-- The most bytes of a skein: 1.7 MiB. -/
def skeinMax : Nat := 1782579

def skeinMagic : Nat := 0x4E49454B

/-- The skein of a frozen set on core n: its header and identity core map as laid out, its sections and check value
free. -/
def State.skeinBytes (s : State) (n : Nat) (sliced : Bool) (c : CSet) : List Byte :=
  let u := c.unit.getD .none
  let body := (Config.skeinBody s.free).take (skeinMax - 320)
  leBytes 4 skeinMagic ++ leBytes 2 1 ++ leBytes 1 ((c.fab.running.map (fun im => im.P)).getD 0)
    ++ leBytes 1 (sliced.toNat + c.fab.staged.isSome.toNat * 2)
    ++ leBytes 8 ((c.fab.running.map (fun im => im.gid.toNat)).getD 0) ++ leBytes 4 (320 + body.length) ++ leBytes 1 n
    ++ leBytes 1 u.part ++ leBytes 2 u.index ++ leBytes 4 u.lid.toNat ++ leBytes 4 u.phase
    ++ leBytes 8 (Config.skeinCheck s.free).toNat ++ List.replicate 24 0
    ++ (List.range 256).map (fun i => BitVec.ofNat 8 i) ++ body

/-- Where a partition's save area takes n more bytes: at a free 64-byte-aligned place inside its grants, else at the base. -/
def State.saveAt (s : State) (p : Part) (n : Nat) : Nat :=
  let a := p.saveArea + 64 * Config.savePlace s.free
  if (pagesOf a n).all (fun g => s.granted p g.2) then a else p.saveArea

/-- The set of a unit on core n streams to its partition's save area: its skein is written there (R334; assumption 81).
What comes back is the set as it left. -/
def State.streamOut (s : State) (part n : Nat) (c : CSet) : State :=
  match s.partAt part with
  | some p =>
    let bs := s.skeinBytes n true c
    (s.apply (s.saveAt p bs.length) bs).spent
  | none => s

/-! ### Shadow swaps (R314) -/

/-- The other set becomes active. -/
def Core.swap (k : Core) : Core :=
  match k.shadow with
  | none => { k with swapDue := false }
  | some c =>
    { k.withActive { c with parked := .none } c.parked with
      shadow := some { k.set with parked := k.parking }
      half := !k.half
      swapDue := false }

/-- The inactive set of core n leaves the core with its half of the scratchpad. -/
def State.takeShadow (s : State) (n : Nat) : State × Option CSet :=
  let k := s.coreAt n
  match k.shadow with
  | none => (s, none)
  | some c =>
    let c := { c with parked := { c.parked with spad := s.mem.takeHalf n (!k.half) } }
    (((s.setCore { k with shadow := some .empty })).clearHalf n (!k.half), some c)

/-- A set becomes the inactive one of core n, its bytes in its half of the scratchpad. -/
def State.putShadow (s : State) (n : Nat) (c : CSet) : State :=
  let k := s.coreAt n
  let s := s.clearHalf n (!k.half)
  { s.setCore { k with shadow := some { c with parked := { c.parked with spad := [] } } } with
    mem := s.mem.putHalf n (!k.half) c.parked.spad }

end Sys2Proof.Machine
end

