-- ==== Sys2Proof/Machine/Queues.lean ====
section
/-!
DEFINITION. Launch queues, completion counters, halt summaries, admission and the end of units (R86, R110, R296 to R309).
-/

namespace Sys2Proof.Machine

/-! ### Memory as dispatch reads and writes it -/

/-- Where an address of a partition's space leads; dispatch walks the partition's tables, and reaches no remote window
(R350). -/
def State.dispAt (s : State) (p : Part) (kind : AccKind) (va : Nat) : State × Option Nat :=
  if va ≥ windowBase || (p.windowAt va).isSome then (s, none)
  else match s.walk p kind va with
    | (u, .ok l) => (u, some (l.page + va % l.size))
    | (u, .error _) => (u, none)

/-- Bytes within one page, when they can be read. -/
def State.dispRead (s : State) (p : Part) (va n : Nat) : State × Option (List Byte) :=
  match s.dispAt p .read va with
  | (u, none) => (u, none)
  | (u, some pa) =>
    match u.readError pa n with
    | some e => (u.report p.num 0xFF pa n e, none)
    | none => (u, some (u.bytesAt p pa n))

/-- A write that dispatch applies at its home; lost where the address leads nowhere. -/
def State.dispWrite (s : State) (p : Part) (va : Nat) (bs : List Byte) : State :=
  match s.dispAt p .write va with
  | (u, some pa) => u.apply pa bs
  | (u, none) => u

/-! ### Queues (R296 to R298) -/

def State.bindOf (s : State) (queue : Nat) : Option Bind := (s.disp.binds.find? (fun b => b.2.queue == queue)).map (·.2)

def State.mapBind (s : State) (queue : Nat) (f : Bind → Bind) : State :=
  { s with disp := { s.disp with binds := s.disp.binds.map (fun b => (b.1, if b.2.queue = queue then f b.2 else b.2)) } }

def Bind.recordVa (b : Bind) (i : BitVec 32) : Nat := b.ring.toNat + 64 + i.toNat % b.depth * 64

/-- Records that dispatch has seen a tail beyond, and that are neither bound nor refused. -/
def Bind.waiting (b : Bind) : Nat := (b.tail - b.head).toNat

/-- Free entries: what the parent reserves hold is not free, nor anything of a queue whose tail stands beyond its limit
(R298, R303). -/
def Bind.freeEntries (b : Bind) : Nat := if b.stopped then 0 else b.depth - b.waiting - b.reserves

/-- Bytes of the queue header written. -/
def State.writeHeader (s : State) (b : Bind) (off : Nat) (bs : List Byte) : State :=
  s.dispWrite (s.partOf b.part) (b.ring.toNat + off) bs

def State.record (s : State) (b : Bind) (i : BitVec 32) : State × Option (List Byte) :=
  s.dispRead (s.partOf b.part) (b.recordVa i) 64

/-- The bytes of a record as they stand; none where it cannot be read. -/
def State.recordBytes (s : State) (b : Bind) (i : BitVec 32) : List Byte := ((s.record b i).2).getD []

/-- A launch record (R297); an argument count of 0 is read as 48. -/
def launchRec (bs : List Byte) : LaunchRec where
  entry := BitVec.ofNat 48 (field bs 0 6)
  cores := field bs 6 2
  arglen := if field bs 8 1 = 0 then 48 else field bs 8 1
  flags := BitVec.ofNat 8 (field bs 9 1)
  region := BitVec.ofNat 16 (field bs 10 2)
  graph := BitVec.ofNat 16 (field bs 12 2)
  childq := BitVec.ofNat 16 (field bs 14 2)
  args := (bs.drop 16).take 48

def LaunchRec.reserves (r : LaunchRec) : Bool := r.flags.getLsbD 0
def LaunchRec.explicit (r : LaunchRec) : Bool := r.flags.getLsbD 1
def LaunchRec.after (r : LaunchRec) : Bool := r.flags.getLsbD 2
def LaunchRec.graphNum (r : LaunchRec) : BitVec 12 := BitVec.setWidth 12 r.graph

/-- A launch's identifier (R299). -/
def launchId (queue : Nat) (i : BitVec 32) : BitVec 32 := BitVec.ofNat 32 (queue * 65536 + i.toNat % 65536)

/-- A status word with a detail and a value (R302). -/
def lnchStatus (status detail value : Nat) : Word :=
  BitVec.ofNat 64 (2 ^ 63 + value % 2 ^ 32 * 2 ^ 16 + detail % 256 * 256 + status)

/-! ### The checks of a record (R297) -/

/-- The offset of the first field of a record that breaks its limit, or names a core that the configuration record disables
(R22, R297). -/
def State.badRecord (s : State) (p : Nat) (bs : List Byte) : Option Nat :=
  let r := launchRec bs
  let region := regionCores r.region.toNat
  let child := match s.bindOf (r.childq.toNat % 4096) with
    | some b => b.child && b.part == p
    | none => false
  if bs.isEmpty then some 0
  else if r.entry.toNat % 4 ≠ 0 then some 0
  else if r.cores = 0 ∨ r.cores > (maskCores (s.coreMask p)).length then some 6
  else if r.arglen > 48 then some 8
  else if r.flags.toNat ≥ 8 then some 9
  else if r.explicit && (match region with
      | some l => decide (l.length < r.cores) || l.any (fun n => !s.host.enabled.cores.getLsbD n)
      | none => true) then some 10
  else if r.graph.toNat ≥ 4096 then some 12
  else if r.reserves ∧ (r.childq.toNat ≥ 4096 ∨ child = false) then some 14
  else none

/-! ### Completion counters (R300) -/

/-- Work: its level, and its identifier with the partition above it for graphs and jobs. -/
abbrev WorkKey := Nat × Word

def graphKey (p : Nat) (job : BitVec 16) (graph : BitVec 12) : WorkKey :=
  (2, BitVec.ofNat 64 (p * 2 ^ 48 + job.toNat * 65536 + graph.toNat))
def jobKey (p : Nat) (job : BitVec 16) : WorkKey := (3, BitVec.ofNat 64 (p * 2 ^ 48 + job.toNat))
def launchKey (lid : BitVec 32) : WorkKey := (1, BitVec.setWidth 64 lid)
def childKey (lid : BitVec 32) : WorkKey := (0, BitVec.setWidth 64 lid)

/-- A record that waits in a queue. -/
structure Queued where
  bind  : Bind
  index : BitVec 32
  bytes : List Byte
  deriving DecidableEq, Repr

def Queued.lid (q : Queued) : BitVec 32 := launchId q.bind.queue q.index
def Queued.graph (q : Queued) : BitVec 12 := (launchRec q.bytes).graphNum

def State.queuedIn (s : State) (b : Bind) : List Queued :=
  (List.range b.waiting).map (fun i =>
    let j := b.head + BitVec.ofNat 32 i
    ⟨b, j, s.recordBytes b j⟩)

def State.queued (s : State) : List Queued := s.disp.binds.flatMap (fun b => s.queuedIn b.2)

/-- The graphs of launches that are queued, bound or running, one entry each: partition, job and graph. -/
def State.graphs (s : State) : List (Nat × BitVec 16 × BitVec 12) :=
  s.queued.map (fun q => (q.bind.part, q.bind.job, q.graph)) ++
    (s.disp.launches.filter (fun l => l.bound)).map (fun l => (l.part, l.job, l.graph))

def State.launch (s : State) (lid : BitVec 32) : Option Launch := s.disp.launches.find? (fun l => l.lid == lid)

/-- The counter of some work (R300). -/
def State.counterOf (s : State) (k : WorkKey) : Nat :=
  let n := k.2.toNat % 2 ^ 48
  let part := k.2.toNat / 2 ^ 48
  match k.1 with
  | 0 => ((s.launch (BitVec.ofNat 32 n)).map (fun l => l.children)).getD 0
  | 1 =>
    match s.queued.find? (fun q => q.lid == BitVec.ofNat 32 n) with
    | some q => max 1 (launchRec q.bytes).cores
    | none => ((s.launch (BitVec.ofNat 32 n)).map (fun l => l.left)).getD 0
  | 2 => (s.graphs.filter (fun g => g.1 == part && g.2.1.toNat == n / 65536 && g.2.2.toNat == n % 65536)).length
  | _ => ((s.graphs.filter (fun g => g.1 == part && g.2.1.toNat == n)).eraseDups).length

/-! ### Halt summaries (R305) -/

def State.summary (s : State) (k : WorkKey) : Word := (lookup k s.disp.summaries).getD 0

def State.setSummary (s : State) (k : WorkKey) (v : Word) : State :=
  { s with disp := { s.disp with summaries := insert k v s.disp.summaries } }

/-- One more unit or record that did not end normally; `bit` is its bit in [2:0]. -/
def foldSummary (v bit : Word) : Word :=
  BitVec.ofNat 64 ((v ||| bit).toNat % 8 + min (wspan v 16 32 + 1) 0xFFFFFFFF * 2 ^ 16)

def State.foldInto (s : State) (ks : List WorkKey) (bit : Word) : State :=
  ks.foldl (fun s k => s.setSummary k (foldSummary (s.summary k) bit)) s

/-- The work that a launch belongs to, and the parent's children. -/
def workOf (p : Nat) (job : BitVec 16) (graph : BitVec 12) (lid : BitVec 32) (parent : Option (BitVec 32)) : List WorkKey :=
  [launchKey lid, graphKey p job graph, jobKey p job] ++ (parent.map childKey).toList

/-- The graph and the job of a launch. -/
def groupKeys (p : Nat) (job : BitVec 16) (graph : BitVec 12) : List WorkKey := [graphKey p job graph, jobKey p job]

/-- A record enters a queue: where its graph or job had none it is new work, whose summary starts once a launch of it is
bound. -/
def State.openWork (s : State) (p : Nat) (job : BitVec 16) (graph : BitVec 12) : State :=
  let fresh := (groupKeys p job graph).filter (fun k => s.counterOf k == 0)
  { s with disp := { s.disp with newWork := fresh.foldl (fun l k => insert k 0 l) s.disp.newWork } }

/-- A launch is bound: the summaries of its launch and its children start, and those of new work, from the refused records
of that work. -/
def State.startSummaries (s : State) (p : Nat) (job : BitVec 16) (graph : BitVec 12) (lid : BitVec 32) : State :=
  let t := (groupKeys p job graph).foldl (fun s k =>
    match lookup k s.disp.newWork with
    | some v => s.setSummary k v
    | none => s) ((s.setSummary (launchKey lid) 0).setSummary (childKey lid) 0)
  { t with disp := { t.disp with newWork := t.disp.newWork.filter (fun e => !(groupKeys p job graph).contains e.1) } }

/-- A child of a launch is over. -/
def State.childDone (s : State) (parent : Option (BitVec 32)) : State :=
  match parent with
  | none => s
  | some lid =>
    { s with disp := { s.disp with launches := s.disp.launches.map (fun l =>
        if l.lid = lid then { l with children := l.children - 1 } else l) } }

/-! ### Tails (R298) -/

/-- Records up to a tail seen in turn. -/
def State.seeTail : Nat → Nat → State → State
  | 0, _, s => s
  | n + 1, queue, s =>
    match s.bindOf queue with
    | none => s
    | some b =>
      match s.record b b.tail with
      | (u, bs) =>
        State.seeTail n queue ((u.openWork b.part b.job (launchRec (bs.getD [])).graphNum).mapBind queue
          (fun b => { b with tail := b.tail + 1 }))

/-- The tail of a queue that the host writes, read again: beyond its limit the queue is stopped. A tail moved back is
no news. -/
def State.readTail (s : State) (b : Bind) : State :=
  if b.stopped || b.child then s
  else match s.dispRead (s.partOf b.part) b.ring.toNat 4 with
    | (u, none) => u
    | (u, some bs) =>
      let t : BitVec 32 := BitVec.ofNat 32 (leNat bs)
      let ahead := (t - b.head).toNat
      if ahead > b.depth - b.reserves then
        (u.writeHeader b 0x10 (leBytes 8 (lnchStatus 0x95 0 t.toNat).toNat)).mapBind b.queue (fun b => { b with stopped := true })
      else State.seeTail (ahead - b.waiting) b.queue u

def State.readTails (s : State) : State := s.disp.binds.foldl (fun s b => s.readTail b.2) s

/-! ### Refusals and cancelled work (R297, R304) -/

/-- The level of a CANCEL that named a waiting record. -/
def State.cancelLevel (s : State) (q : Queued) : Option Nat :=
  ((workOf q.bind.part q.bind.job q.graph q.lid none).find? (fun k => s.disp.cancelled.contains k)).map (·.1)

/-- Marks of a CANCEL whose work is over are dropped. -/
def State.settleMarks (s : State) : State :=
  { s with disp := { s.disp with cancelled := s.disp.cancelled.filter (fun k => s.counterOf k ≠ 0) } }

/-- The status word of a head record that dispatch refuses. -/
def State.refusal (s : State) (q : Queued) : Option Word :=
  match s.cancelLevel q with
  | some level => some (lnchStatus 0x97 level 0)
  | none => (s.badRecord q.bind.part q.bytes).map (fun off => lnchStatus 0x92 off 0)

def State.parentOf (s : State) (lid : BitVec 32) : Option (BitVec 32) := (s.launch lid).bind (fun l => l.parent)

/-- Head advances past a refused record: its status goes to the queue header and a log record, and its work's
summaries count it. -/
def State.refuse (s : State) (q : Queued) (w : Word) : State :=
  let parent := s.parentOf q.lid
  let s := s.foldInto (workOf q.bind.part q.bind.job q.graph q.lid parent) 4
  let s := { s with disp := { s.disp with newWork := s.disp.newWork.map (fun (e : WorkKey × Word) =>
    if (groupKeys q.bind.part q.bind.job q.graph).contains e.1 then (e.1, foldSummary e.2 4) else e) } }
  let s := (s.writeHeader q.bind 8 (leBytes 4 (q.index + 1).toNat)).writeHeader q.bind 0x10 (leBytes 8 w.toNat)
  let s := s.log q.bind.part (LogRec.plain 0x09 q.bind.part 0xFF (BitVec.setWidth 8 w) w)
  let s := (s.childDone parent).mapBind q.bind.queue (fun b => { b with head := b.head + 1, bypass := 0 })
  State.settleMarks { s with disp := { s.disp with launches := s.disp.launches.filter (fun l => l.bound || l.lid ≠ q.lid) } }

/-- The head records of the queues that have one. -/
def State.heads (s : State) : List Queued :=
  s.disp.binds.filterMap (fun b =>
    if b.2.stopped ∨ b.2.waiting = 0 then none else some ⟨b.2, b.2.head, s.recordBytes b.2 b.2.head⟩)

/-- The first head record that dispatch refuses. -/
def State.toRefuse (s : State) : Option (Queued × Word) :=
  s.heads.findSome? (fun q => (s.refusal q).map (fun w => (q, w)))

/-! ### Candidates and their order (R300, R307, R308) -/

/-- Every earlier record of its graph in the same queue has completed, where the after flag asks for it. -/
def State.afterMet (s : State) (q : Queued) : Bool :=
  !(launchRec q.bytes).after ||
    !s.disp.launches.any (fun l => l.bound && l.queue == q.bind.queue && l.graph == q.graph)

def State.candidates (s : State) : List Queued := s.heads.filter s.afterMet

abbrev Deficits := List ((Nat × BitVec 16) × Int)

def deficitOf (d : Deficits) (p : Nat) (o : BitVec 16) : Int := (lookup (p, o) d).getD 0

/-- The owners that gain at a rank and partition, each with the largest weight of its ready queues. -/
def gains (l : List Queued) (rank p : Nat) : List (BitVec 16 × Nat) :=
  (l.filter (fun q => q.bind.rank == rank && q.bind.part == p)).foldl
    (fun g q => insert q.bind.owner (max ((lookup q.bind.owner g).getD 0) q.bind.weight) g) []

/-- Where no ready owner of a rank has a positive deficit, each with a ready queue at that rank gains (R308). -/
def refill (l : List Queued) (d : Deficits) : Deficits :=
  ((l.map (fun q => (q.bind.rank, q.bind.part))).eraseDups).foldl (fun d rp =>
    let g := gains l rp.1 rp.2
    if g.any (fun o => decide (deficitOf d rp.2 o.1 > 0)) then d
    else g.foldl (fun d o => insert (rp.2, o.1) (deficitOf d rp.2 o.1 + o.2 * 256) d) d) d

/-- The class of a queue within its rank and partition: its owner where that has a positive deficit. -/
def Disp.classOf (d : Disp) (b : Bind) : Nat := if deficitOf d.deficits b.part b.owner > 0 then b.owner.toNat else 65536

/-- The candidates that nothing but the rotating pointer tells apart at the head of the order: those of the highest rank,
and of each partition those of its first class. -/
def Disp.tie (d : Disp) (l : List Queued) : List Queued :=
  l.filter (fun q => l.all (fun x =>
    decide (x.bind.rank < q.bind.rank) ||
      (x.bind.rank == q.bind.rank && (x.bind.part != q.bind.part || decide (d.classOf q.bind ≤ d.classOf x.bind)))))

/-- What names a tie: its rank, and the class of each partition in it. -/
def Disp.tieKey (d : Disp) (t : List Queued) : Nat × List (Nat × Nat) :=
  ((t.head?.map (fun q => q.bind.rank)).getD 0,
    (List.range 32).filterMap (fun p => (t.find? (fun q => q.bind.part == p)).map (fun q => (p, d.classOf q.bind))))

/-- The place of a queue after the one last admitted from a tie. -/
def turnOf (last : Option Nat) (queue : Nat) : Nat :=
  match last with
  | some n => (queue + 4096 - n - 1) % 4096
  | none => queue

/-- The ties of some candidates, in order. -/
def Disp.ties (d : Disp) : Nat → List Queued → List (List Queued)
  | 0, _ => []
  | n + 1, l =>
    if l.isEmpty then []
    else d.tie l :: Disp.ties d n (l.filter (fun x => !(d.tie l).any (fun y => y.bind.queue == x.bind.queue)))

/-- The queues of a tie, as the pointer comes to them. -/
def turnOrder (last : Option Nat) : List Queued → List Queued
  | [] => []
  | q :: rest =>
    let before (x : Queued) : Bool := decide (turnOf last x.bind.queue < turnOf last q.bind.queue)
    let l := turnOrder last rest
    l.takeWhile before ++ q :: l.dropWhile before

/-- The candidates in the order of R307: tie by tie, and within each by its pointer. -/
def Disp.order (d : Disp) (l : List Queued) : List Queued :=
  (d.ties l.length l).flatMap (fun t => turnOrder (lookup (d.tieKey t) d.lastQueues) t)

/-- The tie that an admitted candidate stands in remembers its queue. -/
def Disp.remember (d : Disp) (l : List Queued) (q : Queued) : Disp :=
  match (d.ties l.length l).find? (fun t => t.any (fun x => x.bind.queue == q.bind.queue)) with
  | some t => { d with lastQueues := insert (d.tieKey t) q.bind.queue d.lastQueues }
  | none => d

/-! ### Regions (R309) -/

/-- A lent core whose lend stands. -/
def State.lendOf (s : State) (k : Core) : Option Lend := k.lent.bind (fun n => s.disp.lends.find? (fun l => l.num == n))

/-- A partition's set on a core runs a unit. -/
def CSet.of (c : CSet) (p : Nat) : Bool := match c.unit with | some u => u.part == p | none => false

/-- A set of core n, there or kept for later, runs a unit under a reservation. -/
def State.heldUnder (s : State) (n resv : Nat) : Bool :=
  (s.coreAt n).sets.any (fun c => c.under resv) || (s.disp.stored ++ s.disp.streaming).any (fun e => e.1 == n && e.2.2.under resv)

/-- A core that has a half-scratchpad set free for a partition: borrowed, or sliced under a reservation, each reservation
having a set of its own there (R309, R313, R317; assumption 119). -/
def State.halfFree (s : State) (p : Nat) (resv : Option Reservation) (n : Nat) : Bool :=
  let k := s.coreAt n
  match resv with
  | some r => k.sliced && k.lent.isNone && r.cores.getLsbD n && !s.heldUnder n r.num
  | none =>
    match s.lendOf k with
    | some l => l.borrower == p && k.half && k.set.unit.isNone
    | none => false

/-- A fixed core of a partition that runs no unit. -/
def State.fixedFree (s : State) (p n : Nat) : Bool :=
  let k := s.coreAt n
  (s.partOf p).cores.getLsbD n && k.lent.isNone && !k.sliced && k.set.unit.isNone

def State.resvOf (s : State) (n : Nat) : Option Reservation := s.disp.resvs.find? (fun r => r.num == n)

/-- The cores free for a queue's records, in ascending order. A suspended unit of the partition takes its place on a
half-scratchpad set before any of them (R318). -/
def State.freeCores (s : State) (b : Bind) : List Nat :=
  let waits := s.disp.suspended.any (fun e => e.1 == b.part)
  match b.resv with
  | some n =>
    match s.resvOf n with
    | some r => if r.leaving || waits then [] else (List.range 256).filter (s.halfFree b.part (some r))
    | none => []
  | none => (List.range 256).filter (fun n => s.fixedFree b.part n || (!waits && s.halfFree b.part none n))

/-- The smallest subtree size that holds n cores. -/
def subtreeSize (n : Nat) : Option Nat := [1, 4, 16, 64].find? (fun k => decide (n ≤ k))

/-- The region for n units among the free cores. -/
def chooseRegion (free : List Nat) (n : Nat) : Option (List Nat) :=
  let any := if n ≤ free.length then some (free.take n) else none
  match subtreeSize n with
  | none => any
  | some k =>
    match ((List.range (256 / k)).map (fun i => (List.range k).map (k * i + ·))).find? (fun l => l.all free.contains) with
    | some l => some (l.take n)
    | none => any

def State.regionFor (s : State) (q : Queued) : Option (List Nat) :=
  let r := launchRec q.bytes
  let free := s.freeCores q.bind
  let roomy := !r.reserves || match s.bindOf r.childq.toNat with
    | some b => decide (r.cores ≤ b.freeEntries)
    | none => false
  if roomy = false then none
  else if r.explicit then
    match regionCores r.region.toNat with
    | some l => if l.all free.contains then some (l.take r.cores) else none
    | none => none
  else chooseRegion free r.cores

/-! ### The start of a unit (R86, R106, R112, R146, R191, R285, R310, R357) -/

/-- The sequencer at unit start; a unit of partition 0 runs at device level (R357). -/
def Seq.start (p : Part) (entry : BitVec 48) (arglen : Nat) : Seq :=
  { Seq.zero with
    pc := BitVec.setWidth 64 entry
    level := if p.num = 0 then 2 else 0
    tenant := ⟨0, 0, 0, p.tenantBase⟩
    device := ⟨0, 0, 0, p.deviceBase⟩
    argLen := BitVec.ofNat 7 arglen }

/-- A set at unit start. Tile tags, translations and the planes' memory outlive a unit of the same partition; the rest
starts anew. -/
def CSet.start (c : CSet) (p : Part) (u : UnitCtx) (r : LaunchRec) : CSet :=
  { CSet.empty with seq := Seq.start p r.entry r.arglen, unit := some u, tags := c.tags, tagsSeen := c.tags, tlb := c.tlb }

/-- The argument block: bytes at and above the argument length are zero (R106). -/
def LaunchRec.argBytes (r : LaunchRec) : List Byte := r.args.take r.arglen ++ List.replicate (48 - r.arglen) 0

/-- The argument block copied to the last 48 bytes of a window. -/
def State.copyArgs (s : State) (n : Nat) (sliced half : Bool) (bs : List Byte) : State :=
  (List.range 3).foldl (fun s i =>
    s.apply (windowPa n sliced half (argOffset sliced + 16 * i)) ((bs.drop (16 * i)).take 16)) s

/-- A unit started on core n: on its one set; on a sliced core on the borrower's set, on a resident set that runs no
unit, or on one kept in the save area until its turn. -/
def State.startUnit (s : State) (n : Nat) (p : Part) (u : UnitCtx) (r : LaunchRec) : State :=
  let k := s.coreAt n
  if k.sliced = false then
    (s.setCore { k with set := k.set.start p u r }).copyArgs n false false r.argBytes
  else if k.set.unit.isNone then
    ((s.clearHalf n k.half).setCore { k with set := CSet.empty.start p u r }).copyArgs n true k.half r.argBytes
  else if (k.shadow.bind (fun c => c.unit)).isNone then
    ((s.clearHalf n (!k.half)).setCore { k with shadow := some (CSet.empty.start p u r) }).copyArgs n true (!k.half) r.argBytes
  else
    let spad := Memory.putBytes [] (argOffset true) r.argBytes
    let c : CSet := { CSet.empty.start p u r with parked := { Parked.none with spad := spad } }
    let s := s.streamOut p.num n c
    { s with disp := { s.disp with stored := s.disp.stored ++ [(n, p.num, c)] } }

/-! ### Admission (R299, R303, R305, R307, R309) -/

def newUnit (q : Queued) (r : LaunchRec) (index now : Nat) : UnitCtx :=
  { UnitCtx.none with
    lid := q.lid, index := index, part := q.bind.part, owner := q.bind.owner, started := now, under := q.bind.resv
    reserve := if r.reserves then some r.childq.toNat else none }

/-- A record is bound and its units start on the cores of its region, in ascending order. -/
def State.bindRecord (s : State) (q : Queued) (cores : List Nat) : State :=
  let r := launchRec q.bytes
  let p := s.partOf q.bind.part
  let l : Launch :=
    ⟨q.lid, q.bind.queue, q.bind.part, q.bind.owner, q.bind.job, q.graph, s.parentOf q.lid, true, cores.length, cores, 0, 0, 0,
      q.bind.ring⟩
  let s := s.writeHeader q.bind 8 (leBytes 4 (q.index + 1).toNat)
  let s := s.mapBind q.bind.queue (fun b => { b with head := b.head + 1, bypass := 0 })
  let s := if r.reserves then s.mapBind r.childq.toNat (fun b => { b with reserves := b.reserves + cores.length }) else s
  let s := s.startSummaries q.bind.part q.bind.job q.graph q.lid
  let s := { s with disp := { s.disp with launches := s.disp.launches.filter (fun x => x.lid ≠ q.lid) ++ [l] } }
  (List.zipIdx cores).foldl (fun s c => s.startUnit c.1 p (newUnit q r c.2 s.cycle) r) s

/-- The first candidate in order that fits, unless one with 4 bypasses that does not blocks it; with those ahead. -/
def State.pickRecord (s : State) : List Queued → List Queued → Option (Queued × List Nat × List Queued)
  | _, [] => none
  | ahead, q :: rest =>
    match s.regionFor q with
    | some cores => some (q, cores, ahead)
    | none => if q.bind.bypass ≥ 4 then none else s.pickRecord (q :: ahead) rest

/-- A write of a launch that has not been applied. -/
def Packet.unapplied (k : Packet) (lid : BitVec 32) : Bool :=
  k.lid == lid && k.way ≠ .delivered && k.way ≠ .lost && match k.body with
    | .write source _ _ => source ≠ .outside
    | .bank _ => true
    | _ => false

/-- Writes of a launch are still on their way, or stand in a SIGSET that outlasts its unit (R89). -/
def State.writesOut (s : State) (lid : BitVec 32) : Bool :=
  s.net.packets.any (fun k => k.unapplied lid) ||
    s.disp.orphans.any (fun e => e.2.runs lid && e.2.ops.any (fun o =>
      match o.wait with | .sigset _ _ _ _ _ => true | _ => false))

/-- A launch whose counter is zero has writes on their way: nothing starts before they are applied (R233). -/
def State.writesDue (s : State) : Bool := s.disp.launches.any (fun l => l.bound && l.left == 0 && s.writesOut l.lid)

/-- One cycle of dispatch: tails read, a record refused or admitted. -/
def State.dispatch (s : State) : State :=
  let s := s.readTails.settleMarks
  match s.toRefuse with
  | some (q, w) => s.refuse q w
  | none =>
    let s := { s with disp := { s.disp with deficits := refill s.candidates s.disp.deficits } }
    if s.writesDue then s
    else match s.pickRecord [] (s.disp.order s.candidates) with
      | some (q, cores, ahead) =>
        let s := { s with disp := s.disp.remember s.candidates q }
        (ahead.foldl (fun s x => s.mapBind x.bind.queue (fun b => { b with bypass := b.bypass + 1 })) s).bindRecord q cores
      | none => s

/-! ### The end of a unit (R110, R231, R303, R305) -/

/-- A set whose unit has stopped. -/
def CSet.stopped (c : CSet) : CSet := { CSet.empty with tags := c.tags, tagsSeen := c.tags, tlb := c.tlb }

/-- An operation that acts at other agents, and does so to its end after its unit (R89; assumption 33). -/
def Wait.outlives (w : Wait) : Bool :=
  match w with
  | .sigset _ _ _ _ _ | .blk _ _ | .cancel _ _ _ | .withdraw _ | .recall _ _ | .inval _ _ _ => true
  | _ => false

/-- The operations of a unit's sets that outlive it. -/
def State.outliving (s : State) (lid : BitVec 32) (index : Nat) : List CSet :=
  (((s.placed.map (·.1)).filter (fun c => c.runsUnit lid index)).map (fun c =>
    { CSet.empty with unit := c.unit, ops := c.ops.filter (fun o => o.wait.outlives) })).filter (fun c => !c.ops.isEmpty)

/-- They stand apart, by the core that the unit stood on. -/
def State.orphan (s : State) (lid : BitVec 32) (index : Nat) : State :=
  { s with disp := { s.disp with orphans := s.disp.orphans ++
      (s.outliving lid index).map (fun c => ((s.coreOfUnit lid index).getD 0, c)) } }

/-- The unit leaves whatever set it stands on. -/
def Core.dropUnit (k : Core) (lid : BitVec 32) (index : Nat) : Core :=
  let k := if k.set.runsUnit lid index then
      k.withActive k.set.stopped Parked.none
    else k
  { k with shadow := k.shadow.map (fun c => if c.runsUnit lid index then c.stopped else c) }

def Disp.dropUnit (d : Disp) (lid : BitVec 32) (index : Nat) : Disp :=
  { d with
    suspended := d.suspended.filter (fun e => !e.2.runsUnit lid index)
    stored := d.stored.filter (fun e => !e.2.2.runsUnit lid index)
    streaming := d.streaming.map (fun e => if e.2.2.runsUnit lid index then (e.1, e.2.1, e.2.2.stopped) else e) }

def State.dropUnit (s : State) (lid : BitVec 32) (index : Nat) : State :=
  { s.mapCores (fun k => k.dropUnit lid index) with
    disp := s.disp.dropUnit lid index
    net := { s.net with waits := s.net.waits.filter (fun w => !(w.lid == lid && w.unit == index)) } }

/-- The bit of a summary that a way of ending sets. -/
def haltBit (status : Nat) : Word := if status = 0x0D then 1 else if status = 0x97 then 2 else 0

/-- The work of a launch for its summaries. -/
def Launch.work (l : Launch) : List WorkKey := workOf l.part l.job l.graph l.lid l.parent

/-- A unit ends with a halt status: an unused reserve is released and the launch's counter falls. -/
def State.endUnit (s : State) (u : UnitCtx) (status node : Nat) : State :=
  let w : Word := BitVec.ofNat 64 (status + u.index % 65536 * 2 ^ 16 + node * 2 ^ 32)
  let s := (s.orphan u.lid u.index).dropUnit u.lid u.index
  let s := match u.reserve with
    | some queue => s.mapBind queue (fun b => { b with reserves := b.reserves - 1 })
    | none => s
  let s := match s.launch u.lid with
    | some l => if status = 0 then s else s.foldInto l.work (haltBit status)
    | none => s
  { s with disp := { s.disp with
      halts := insert (u.lid, u.index) w s.disp.halts
      launches := s.disp.launches.map (fun l => if l.lid = u.lid then { l with left := l.left - 1 } else l) } }

/-! ### The completion of a launch (R299, R308) -/

def State.launchDone (s : State) (l : Launch) : Bool := l.bound && l.left == 0 && !s.writesOut l.lid

/-- done in the header of a queue that is bound no more: the count read, and written one higher. -/
def State.countAlone (s : State) (l : Launch) : State :=
  match s.dispRead (s.partOf l.part) (l.ring.toNat + 0x0C) 4 with
  | (u, some bs) => u.dispWrite (u.partOf l.part) (l.ring.toNat + 0x0C) (leBytes 4 (leNat bs + 1))
  | (u, none) => u

/-- done incremented in the header of the queue that the launch came from, bound still or not. -/
def State.countDone (s : State) (l : Launch) : State :=
  match s.bindOf l.queue with
  | some b =>
    if b.ring = l.ring ∧ b.part = l.part then
      (s.writeHeader b 0x0C (leBytes 4 (b.done + 1).toNat)).mapBind l.queue (fun b => { b with done := b.done + 1 })
    else s.countAlone l
  | none => s.countAlone l

/-- The launch completes: done is incremented, the owner is charged, the parent has a child less. -/
def State.completeLaunch (s : State) (l : Launch) : State :=
  let s := s.countDone l
  let s := (s.childDone l.parent).dropEarly l.lid none
  State.settleMarks { s with disp := { s.disp with
      launches := s.disp.launches.filter (fun x => x.lid ≠ l.lid)
      deficits := insert (l.part, l.owner)
        (deficitOf s.disp.deficits l.part l.owner - ((l.cycles + 1899) / 1900 : Nat)) s.disp.deficits } }

def execLaunchCompletion (lid : BitVec 32) (s : State) : Out :=
  match s.launch lid with
  | some l => when (s.launchDone l) s (fun s => s.completeLaunch l)
  | none => .next s

end Sys2Proof.Machine
end

