-- ==== Sys2Proof/Machine/Slice.lean ====
section
/-!
DEFINITION. Time slicing, reservations, lending and recall (R313 to R318, R320).
-/

namespace Sys2Proof.Machine

/-! ### The choice on a sliced core (R316) -/

/-- The sets that a core runs or that wait for it. -/
def State.setsFor (s : State) (n : Nat) : List CSet :=
  (s.coreAt n).sets ++ ((s.disp.stored ++ s.disp.streaming).filter (fun e => e.1 == n)).map (fun e => e.2.2)

/-- A reservation has a running unit on the core or a launch that is ready. -/
def State.resvWork (s : State) (r : Reservation) (n : Nat) : Bool :=
  (s.setsFor n).any (fun c => c.under r.num) || s.candidates.any (fun q => q.bind.resv == some r.num)

/-- Cycles in a number of microseconds. -/
def microseconds (n : Nat) : Nat := 1900 * n

def Reservation.deadline (r : Reservation) : Nat := r.start + microseconds r.period

def Reservation.budgetLeft (r : Reservation) (n : Nat) : Nat := (lookup n r.left).getD 0

/-- The reservation served before: the earlier deadline, on a tie the lower number. -/
def Reservation.before (a b : Reservation) : Bool :=
  if a.deadline = b.deadline then decide (a.num < b.num) else decide (a.deadline < b.deadline)

def earliest : List Reservation → Option Reservation
  | [] => none
  | r :: rest =>
    match earliest rest with
    | some b => if b.before r then some b else some r
    | none => some r

/-- The reservation that runs on core n. -/
def State.elected (s : State) (n : Nat) : Option Reservation :=
  earliest (s.disp.resvs.filter (fun r => r.cores.getLsbD n && decide (r.budgetLeft n > 0) && s.resvWork r n))

/-- The choice on core n made again: a set of another reservation that must become active makes a swap pending. Where
no reservation has both budget and work, the active set stays. -/
def State.elect (s : State) (n : Nat) : State :=
  match s.elected n with
  | none => ({ s with disp := { s.disp with current := erase n s.disp.current } }).mapCoreAt n
      (fun k => if k.lent.isSome then k else { k with swapDue := false })
  | some r =>
    let due := (s.setsFor n).any (fun c => c.under r.num) && !(s.coreAt n).set.under r.num
    ({ s with disp := { s.disp with current := insert n r.num s.disp.current } }).mapCoreAt n
      (fun k => { k with swapDue := due })

/-- The choice made again on every core that a reservation names. -/
def State.electAll (s : State) : State :=
  (maskCores (s.disp.resvs.foldl (fun m r => m ||| r.cores) 0)).foldl State.elect s

/-! ### Shadow swaps (R314, R318) -/

/-- A PRECALL of the lend counts one more suspended unit. -/
def CSet.countRecall (c : CSet) (lend : Nat) : CSet :=
  { c with ops := c.ops.map (fun o =>
      match o.wait with
      | .recall num count => if num = lend then { o with wait := .recall num (count + 1) } else o
      | _ => o) }

/-- The borrower's set that a recall has made inactive: it streams to the save area when it holds a unit; a core without
one leaves sliced mode at once. -/
def State.recallSwap (s : State) (lend : Nat) : State :=
  let n := s.core.num
  let s := s.mapCore Core.swap
  match s.takeShadow n with
  | (u, some c) =>
    match c.unit with
    | some x =>
      State.mapSets { u with disp := { u.disp with streaming := u.disp.streaming ++ [(n, x.part, c)] } }
        (fun c => c.countRecall lend)
    | none => u.clearCore n
  | (u, none) => u.clearCore n

/-- The set of the chosen reservation that waits in the save area. -/
def State.storedFor (s : State) (n : Nat) (r : Reservation) : Option (Nat × Nat × CSet) :=
  s.disp.stored.find? (fun e => e.1 == n && e.2.2.under r.num)

/-- A set streams in to the inactive place of core n, and the one that stood there out. -/
def State.exchange (s : State) (n : Nat) (e : Nat × Nat × CSet) : State :=
  match s.takeShadow n with
  | (u, out) =>
    let unit := out.bind (fun c => c.unit.map (fun x => (c, x)))
    let u := match unit with | some x => u.streamOut x.2.part n x.1 | none => u
    let kept := u.disp.stored.erase e ++ (unit.map (fun x => (n, x.2.part, x.1))).toList
    ({ u with disp := { u.disp with stored := kept } }).putShadow n e.2.2

/-- The pending swap of the current core takes place. -/
def State.swapNow (s : State) : State :=
  let n := s.core.num
  match s.core.lent with
  | some lend => if s.disp.lends.any (fun l => l.num == lend) then s.mapCore Core.swap else s.recallSwap lend
  | none =>
    match (lookup n s.disp.current).bind s.resvOf with
    | none => s.mapCore Core.swap
    | some r =>
      if s.core.shadow.toList.any (fun c => c.under r.num) then s.mapCore Core.swap
      else match s.storedFor n r with
        | some e => (s.exchange n e).mapCore Core.swap
        | none => s.mapCore Core.swap

/-- A swap falls at a round boundary of the active configuration, in any cycle where none is loaded, and wherever the
fabric stands still. -/
def State.maySwap (s : State) : Bool :=
  s.core.swapDue && match s.core.set.fab.running with
    | none => true
    | some im =>
      decide (s.cycle % im.P = 0) || s.core.hold == .held || s.core.frost == .frozen || s.core.frost == .draining

def execShadowSwap (s : State) : Out := when s.maySwap s State.swapNow

/-- YIELD takes a pending swap before the next instruction issues (R109, R314). -/
def execYield (s : State) : Out :=
  issue .yield ⟨[], 0, 0⟩ (fun s => if s.core.swapDue then s.advance.swapNow else s.advance) s

/-! ### Periods and budgets (R316) -/

/-- A reservation's budget full on every core of its set. -/
def Reservation.full (r : Reservation) : Reservation :=
  { r with left := (maskCores r.cores).map (fun n => (n, microseconds r.budget)) }

def State.mapResv (s : State) (n : Nat) (f : Reservation → Reservation) : State :=
  { s with disp := { s.disp with resvs := s.disp.resvs.map (fun r => if r.num = n then f r else r) } }

def execReservationPeriodStart (n : Nat) (s : State) : Out :=
  match s.resvOf n with
  | some r =>
    when (decide (r.deadline ≤ s.cycle)) s
      (fun s => (s.mapResv n (fun r => { r.full with start := r.deadline })).electAll)
  | none => .next s

/-- The reservation runs on a core where it has no budget left. -/
def State.spentOn (s : State) (r : Reservation) : Bool :=
  (maskCores r.cores).any (fun n => r.budgetLeft n == 0 && lookup n s.disp.current == some r.num)

def execReservationBudgetSpent (n : Nat) (s : State) : Out :=
  match s.resvOf n with
  | some r => when (s.spentOn r) s State.electAll
  | none => .next s

/-! ### Failures of device-level LNCH instructions (R302, R358) -/

/-- A device-level LNCH instruction waits for the one before it (R358). -/
def lnchIssue (i : Instr) (n : Needs) (body : State → State) (s : State) : Out :=
  issueUnless (fun s => s.unfinished [.lnch]) i n body s

/-- A failure: the status, its detail and its value. -/
structure Failure where
  status : Nat
  detail : Nat
  value  : Nat
  deriving DecidableEq, Repr

def Failure.word (f : Failure) : Word := lnchStatus f.status f.detail f.value

def badRec (off : Nat) : Failure := ⟨0x92, off, 0⟩
def outOfRange : Failure := ⟨0x27, 0, 0⟩

/-- What a partition instruction makes: the state after it with its value, or a failure that changes nothing. -/
abbrev Outcome := Except Failure (State × Nat)

/-- The instruction completes in the next cycle with its value or its failure. -/
def State.answer (s : State) (t : Reg) (r : Outcome) : State :=
  match r with
  | .ok (u, v) => u.later t .lnch (BitVec.ofNat 64 v) .clear 1
  | .error f => s.later t .lnch f.word .clear 1

/-- An instruction that reads a block: the address checks of R103, then what it makes of the bytes. -/
def blockInstr (i : Instr) (t a : Reg) (regs : List Reg) (align len : Nat) (addr : State → Word)
    (act : State → List Byte → Outcome) (s : State) : Out :=
  lnchIssue i ⟨a :: regs, t, 2⟩
    (fun s =>
      let va := addr s
      if s.readHeld va then s
      else match s.checked .read va align len with
        | (u, .error c) => u.trap c va
        | (u, .ok (window, spans)) =>
          match State.readSpans window spans u with
          | (u, _, some _) => (u.later t .lnch 0 .token 1).advance
          | (u, bs, none) => (u.answer t (act u bs)).advance) s

/-! ### PSLICE (R313, R359) -/

def firstOf (l : List Nat) (bad : Nat → Bool) : Option Nat := l.find? bad

/-- A core on which a unit stands, or that is lent. -/
def State.inUse (s : State) (n : Nat) : Bool :=
  (s.coreAt n).sets.any (fun c => c.unit.isSome) || (s.coreAt n).lent.isSome ||
    (s.disp.stored ++ s.disp.streaming).any (fun e => e.1 == n)

/-- A core put into sliced mode, or out of it; it has been cleared (R310). -/
def Core.slice (on : Bool) (k : Core) : Core :=
  if on then { k with sliced := true, half := false, shadow := some .empty }
  else { k with sliced := false, half := false, shadow := none }

def State.slice (s : State) (on : Bool) (bs : List Byte) : Outcome :=
  let l := maskCores (BitVec.ofNat 256 (leNat bs))
  match firstOf l (fun n => !(s.partOf 0).cores.getLsbD n) with
  | some n => .error ⟨0x94, n, 0⟩
  | none =>
    match firstOf l s.inUse with
    | some n => .error ⟨0x21, n, 0⟩
    | none =>
      let change := l.filter (fun n => (s.coreAt n).sliced ≠ on)
      .ok (change.foldl (fun s n => (s.clearCore n).mapCoreAt n (Core.slice on)) s, change.length)

def execPslice (t a : Reg) (q : BitVec 1) (s : State) : Out :=
  blockInstr (.pslice t a q) t a [] 1 32 (fun s => s.reg a) (fun s bs => s.slice (q == 0) bs) s

/-! ### PRESV (R315) -/

/-- The weight of a budget in a period. -/
def resvWeight (budget period : Nat) : Nat := (65536 * budget + period - 1) / period

/-- The sum that core n would reach. -/
def State.sumOn (s : State) (u n : Nat) : Nat :=
  ((s.disp.resvs.filter (fun r => r.cores.getLsbD n)).map (fun r => resvWeight r.budget r.period)).foldl (· + ·) u

/-- The first offset of a reservation block that a limit rejects. -/
def State.badOffer (s : State) (bs : List Byte) : Option Nat :=
  let part := field bs 0 1
  let budget := field bs 4 4
  let period := field bs 8 4
  if part = 0 ∨ part > 31 ∨ (s.partAt part).isNone then some 0
  else if field bs 1 3 ≠ 0 then some 1
  else if budget = 0 ∨ budget > period then some 4
  else if period < 10 ∨ period > 1000000 then some 8
  else if ((bs.drop 12).take 20).any (fun b => b ≠ 0) then some 12
  else if !(maskCores (BitVec.ofNat 256 (field bs 32 32))).all (fun n => (s.coreAt n).sliced && (s.coreAt n).lent.isNone) then
    some 32
  else none

/-- The lowest reservation number that is free. -/
def State.freeResv (s : State) : Option Nat := (List.range 256).find? (fun n => (s.resvOf n).isNone)

def State.offer (s : State) (bs : List Byte) : Outcome :=
  let budget := field bs 4 4
  let period := field bs 8 4
  let mask : BitVec 256 := BitVec.ofNat 256 (field bs 32 32)
  match s.badOffer bs with
  | some off => .error (badRec off)
  | none =>
    let u := resvWeight budget period
    match firstOf (maskCores mask) (fun n => decide (s.sumOn u n > 65536)) with
    | some n => .error ⟨0x91, n, s.sumOn u n⟩
    | none =>
      match s.freeResv with
      | none => .error outOfRange
      | some num =>
        let r : Reservation := ⟨num, field bs 0 1, budget, period, mask, false, [], s.cycle⟩
        .ok ({ s with disp := { s.disp with resvs := s.disp.resvs ++ [r.full] } }, num)

/-- A withdrawal waits until no unit of the reservation runs. -/
def State.withdraw (s : State) (t : Reg) (n : Nat) : State :=
  match s.resvOf n with
  | none => s.later t .lnch outOfRange.word .clear 1
  | some _ => (s.begin t .lnch (.withdraw n)).mapResv n (fun r => { r with leaving := true })

/-- A unit of the reservation still runs. -/
def State.resvRuns (s : State) (n : Nat) : Bool := s.placed.any (fun c => c.1.under n)

/-- A reservation is no more. -/
def State.dropResv (s : State) (n : Nat) : State :=
  { s with disp := { s.disp with
      resvs := s.disp.resvs.filter (fun r => r.num ≠ n)
      current := s.disp.current.filter (fun c => c.2 ≠ n) } }

def State.endWithdraw (s : State) (id n : Nat) : State :=
  if s.resvRuns n then s else State.electAll ((s.dropResv n).settle id s.openValue .clear).spent

def execPresv (t a : Reg) (q : BitVec 1) (s : State) : Out :=
  if q = 0 then blockInstr (.presv t a q) t a [] 1 64 (fun s => s.reg a) (fun s bs => s.offer bs) s
  else lnchIssue (.presv t a q) ⟨[a], t, 2⟩ (fun s => (s.withdraw t (s.reg a).toNat).advance) s

/-! ### PLEND and PRECALL (R317, R318) -/

def State.freeLend (s : State) : Option Nat :=
  (List.range 64).find? (fun n => !s.disp.lends.any (fun l => l.num == n) && !s.cores.any (fun k => k.lent == some n))

/-- A lent core: the lender's set is set 0 and stays empty, the borrower's is set 1 and active. -/
def Core.lend (num : Nat) (k : Core) : Core :=
  { Core.idle k.num with sliced := true, half := true, shadow := some .empty, lent := some num }

def State.lend (s : State) (bs : List Byte) : Outcome :=
  let lender := field bs 0 1
  let borrower := field bs 1 1
  let mask : BitVec 256 := BitVec.ofNat 256 (field bs 32 32)
  let l := maskCores mask
  if (s.partAt lender).isNone then .error ⟨0x93, lender, 0⟩
  else if (s.partAt borrower).isNone then .error ⟨0x93, borrower, 0⟩
  else if ((bs.drop 2).take 30).any (fun b => b ≠ 0) then .error (badRec 2)
  else if !l.all (fun n => (s.partOf lender).cores.getLsbD n && (!(s.coreAt n).sliced || (s.coreAt n).lent.isSome)) then
    .error (badRec 32)
  else match firstOf l s.inUse with
    | some n => .error ⟨0x21, n, 0⟩
    | none =>
      match s.freeLend with
      | none => .error outOfRange
      | some num =>
        let s := l.foldl (fun s n => (s.clearCore n).mapCoreAt n (Core.lend num)) s
        .ok ({ s with disp := { s.disp with lends := s.disp.lends ++ [⟨num, lender, borrower, mask⟩] } }, num)

def execPlend (t a : Reg) (s : State) : Out :=
  blockInstr (.plend t a) t a [] 64 64 (fun s => s.reg a) (fun s bs => s.lend bs) s

def State.lendNamed (s : State) (n : Nat) : Option Lend := s.disp.lends.find? (fun l => l.num == n)

/-- The lend is over: every core it covers is to swap to the lender's set. -/
def State.endLend (s : State) (l : Lend) : State :=
  let s := { s with disp := { s.disp with lends := s.disp.lends.filter (fun x => x.num ≠ l.num) } }
  (maskCores l.cores).foldl (fun s c => s.mapCoreAt c (fun k => { k with swapDue := true })) s

def State.recall (s : State) (t : Reg) (n : Nat) : State :=
  match s.lendNamed n with
  | none => s.later t .lnch outOfRange.word .clear 1
  | some l => (s.begin t .lnch (.recall n 0)).endLend l

def execPrecall (t a : Reg) (s : State) : Out :=
  lnchIssue (.precall t a) ⟨[a], t, 2⟩ (fun s => (s.recall t (s.reg a).toNat).advance) s

/-- PRECALL completes once no core carries the lend. -/
def State.endRecall (s : State) (id n count : Nat) : State :=
  if s.cores.any (fun k => k.lent == some n) then s else s.settle id (BitVec.ofNat 64 count) .clear

/-- SET_STREAM_END: the stream of the first recalled set ends; the unit is suspended, and the core leaves sliced mode
and is cleared. -/
def State.endStream (s : State) (e : Nat × Nat × CSet) : State :=
  let s := if e.2.2.unit.isSome then s.streamOut e.2.1 e.1 e.2.2 else s
  let s := { s with disp := { s.disp with
    streaming := s.disp.streaming.erase e
    suspended := if e.2.2.unit.isSome then s.disp.suspended ++ [(e.2.1, e.2.2)] else s.disp.suspended } }
  s.clearCore e.1

def execSetStreamEnd (s : State) : Out :=
  match s.disp.streaming with
  | e :: _ => .next (s.endStream e)
  | [] => .next s

/-- Core n has a place in which no unit stands, on the active set or the inactive one. -/
def State.hasPlace (s : State) (n : Nat) : Bool :=
  (s.coreAt n).set.unit.isNone || (s.coreAt n).shadow.any (fun c => c.unit.isNone)

/-- A reservation of partition p that has its set of core n free. -/
def State.resumeResv (s : State) (p n : Nat) : Option Reservation :=
  s.disp.resvs.find? (fun r => r.part == p && !r.leaving && s.halfFree p (some r) n)

/-- A core with a half-scratchpad set free for a suspended unit: the lowest. -/
def State.resumeCore (s : State) (p : Nat) : Option Nat :=
  (List.range 256).find? (fun n => s.halfFree p none n || (s.resumeResv p n).isSome)

/-- The unit's launch names its new core. -/
def State.moveUnit (s : State) (u : UnitCtx) (n : Nat) : State :=
  { s with
    disp := { s.disp with launches := s.disp.launches.map (fun l =>
      if l.lid = u.lid then { l with units := l.units.set u.index n } else l) }
    net := { s.net with waits := s.net.waits.map (fun w =>
      if w.lid = u.lid ∧ w.unit = u.index then { w with core := n } else w) } }

/-- A set takes its place on sliced core n, with what stands for it: the active place where no unit stands there, else the
inactive one, else it is kept in the save area until its turn (R309). -/
def State.standOn (s : State) (n : Nat) (c : CSet) (p : Parked) : State :=
  let k := s.coreAt n
  if k.set.unit.isNone then
    let t := s.clearHalf n k.half
    { t.setCore (k.withActive { c with parked := .none } { p with spad := [] }) with mem := t.mem.putHalf n k.half p.spad }
  else if (k.shadow.bind (fun c => c.unit)).isNone then s.putShadow n { c with parked := p }
  else { s with disp := { s.disp with stored := s.disp.stored ++ [(n, (c.unit.getD .none).part, { c with parked := p })] } }

/-- A suspended set resumes on core n. -/
def State.resumeOn (s : State) (i n : Nat) (c : CSet) : State :=
  let resv : Option Nat := match c.unit with
    | some u => if s.halfFree u.part none n then none else (s.resumeResv u.part n).map (fun (r : Reservation) => r.num)
    | none => none
  let c := { c with unit := c.unit.map (fun (u : UnitCtx) => { u with under := resv }) }
  let s := { s with disp := { s.disp with suspended := s.disp.suspended.eraseIdx i } }
  let s := match c.unit with | some u => s.moveUnit u n | none => s
  s.standOn n c c.parked

/-- A recalled unit resumes on the next free core of its partition with a half-scratchpad set. -/
def execSuspendedUnitResume (i : Nat) (s : State) : Out :=
  match s.disp.suspended[i]? with
  | some e =>
    match s.resumeCore e.1 with
    | some n => .next (s.resumeOn i n e.2).electAll
    | none => .next s
  | none => .next s

/-! ### The tension limiter (R320) -/

/-- The power controller changes a partition's rate, to at most its record's, and logs the change. -/
def State.setRate (s : State) (part rate : Nat) : State :=
  match s.partAt part with
  | some p =>
    let r := min rate p.rate
    if r = p.rateNow then s
    else ((s.settleBuckets p).mapPart part (fun p => { p with rateNow := r })).log part (LogRec.plain 0x0B part 0xFF 0 (BitVec.ofNat 64 r))
  | none => s

def execTensionRateChange (part rate : Nat) (s : State) : Out := .next (s.setRate part rate)

end Sys2Proof.Machine
end

