-- ==== Sys2Proof/Machine/Launch.lean ====
section
/-!
DEFINITION. HALT, the LNCH instructions other than those of time slicing, and dispatch (R110, R299 to R312, R369).
-/

namespace Sys2Proof.Machine

/-! ### HALT (R110) -/

/-- HALT waits: for a pending bit, for an operation of an engine queue, and for an MXW that waits (R110, R207). Nothing
else that only s0 names holds it back (R89). -/
def CSet.haltWaits (c : CSet) : Bool :=
  c.seq.pend ≠ 0 || !c.eng.isEmpty || c.ops.any (fun o => match o.wait with | .latch _ _ _ _ _ => true | _ => false)

/-- The unit stops; a deadlock is recorded in its halt status and in a record of type 0x0D. -/
def State.halt (s : State) (report : Option Word) : State :=
  match report with
  | some w =>
    if wspan w 0 2 = 2 then
      ((s.log s.unit.part (LogRec.plain 0x0D s.unit.part s.core.num 0 w)).endUnit s.unit 0x0D (wspan w 32 32)).electAll
    else (s.endUnit s.unit 0 0).electAll
  | none => (s.endUnit s.unit 0 0).electAll

def execHalt (s : State) : Out :=
  issue .halt ⟨[], 0, 0⟩
    (fun s =>
      if s.core.set.haltWaits then s
      else match s.core.set.fab.running with
        | none => s.halt none
        | some _ =>
          match s.standing with
          | some w => s.halt (some w)
          | none => s.mapSet (fun c => { c with halting := true })) s

/-! ### Naming work (R300, R302) -/

/-- The own launch. -/
def State.ownLaunch (s : State) : Launch :=
  (s.launch s.unit.lid).getD
    ⟨s.unit.lid, 0, s.unit.part, s.unit.owner, 0, 0, none, true, 0, [], 0, 0, 0, 0⟩

/-- A queue in a partition's range; partition 0 has those of no other. -/
def State.queueIn (s : State) (p queue : Nat) : Bool :=
  let has (q : Part) : Bool := decide (q.firstQ ≤ queue) && decide (queue < q.firstQ + q.qCount)
  if p = 0 then decide (queue < 4096) && s.parts.all (fun q => q.num == 0 || !has q)
  else match s.partAt p with
    | some q => has q
    | none => false

/-- The work an identifier names in partition p: one that is queued, bound or running, or whose summary is kept. -/
def State.namedIn (s : State) (level : Nat) (a : Word) (p : Nat) : Option WorkKey :=
  let kept (k : WorkKey) : Option WorkKey := if s.counterOf k ≠ 0 ∨ (lookup k s.disp.summaries).isSome then some k else none
  match level with
  | 1 => if a.toNat < 2 ^ 32 && s.queueIn p (a.toNat / 65536) then kept (launchKey (BitVec.setWidth 32 a)) else none
  | 2 =>
    if a.toNat < 2 ^ 32 ∧ wspan a 12 4 = 0 then
      kept (graphKey p (BitVec.ofNat 16 (wspan a 16 16)) (BitVec.ofNat 12 (wspan a 0 12)))
    else none
  | _ => if a.toNat < 65536 then kept (jobKey p (BitVec.setWidth 16 a)) else none

/-- The work of a level that an operand names for the current unit; at device level also that of other partitions. -/
def State.workKey (s : State) (level : Nat) (a : Word) : Option WorkKey :=
  let l := s.ownLaunch
  if level = 0 then some (childKey l.lid)
  else if a = BitVec.allOnes 64 then
    some (match level with
      | 1 => launchKey l.lid
      | 2 => graphKey l.part l.job l.graph
      | _ => jobKey l.part l.job)
  else (s.unit.part :: (if s.seq.level.toNat = 2 then s.parts.map (fun p => p.num) else [])).findSome? (s.namedIn level a)

/-- A failure of a unit-level LNCH instruction. -/
def State.lnchFails (s : State) (t : Reg) (f : Failure) : State := s.later t .other f.word .clear 1

/-! ### LAUNCH (R303) -/

def State.addChild (s : State) (lid : BitVec 32) : State :=
  { s with disp := { s.disp with launches := s.disp.launches.map (fun l =>
      if l.lid = lid then { l with children := l.children + 1 } else l) } }

/-- The unit's reserve in a queue is used, so released. -/
def State.useReserve (s : State) (b : Bind) : State :=
  (s.mapBind b.queue (fun b => { b with reserves := b.reserves - 1 })).mapUnit (fun u => { u with reserve := none })

/-- The record written at the tail of a child queue. -/
def State.enqueue (s : State) (b : Bind) (bs : List Byte) : State :=
  let r := launchRec bs
  let lid := launchId b.queue b.tail
  let s := s.openWork b.part b.job r.graphNum
  let s := (s.dispWrite (s.partOf b.part) (b.recordVa b.tail) bs).writeHeader b 0 (leBytes 4 (b.tail + 1).toNat)
  let s := (s.mapBind b.queue (fun b => { b with tail := b.tail + 1 })).addChild s.unit.lid
  { s with disp := { s.disp with launches := s.disp.launches.filter (fun l => l.lid ≠ lid) ++
      [⟨lid, b.queue, b.part, b.owner, b.job, r.graphNum, some s.unit.lid, false, 0, [], 0, 0, 0, b.ring⟩] } }

/-- LAUNCH once its record has been read. -/
def State.launchRecord (s : State) (t : Reg) (queue : Nat) (bs : List Byte) : State :=
  match s.bindOf queue with
  | none => s.lnchFails t ⟨0x90, 0, queue⟩
  | some b =>
    if !b.child || b.part != s.unit.part || (s.dispAt (s.partOf b.part) .write (b.recordVa b.tail)).2.isNone then
      s.lnchFails t ⟨0x90, 0, queue⟩
    else match s.badRecord b.part bs with
      | some off => s.lnchFails t (badRec off)
      | none =>
        let id : Word := BitVec.setWidth 64 (launchId b.queue b.tail)
        if b.freeEntries > 0 then (s.enqueue b bs).later t .other id .clear 1
        else if s.unit.reserve = some queue ∧ b.stopped = false then ((s.useReserve b).enqueue b bs).later t .other id .clear 1
        else s.lnchFails t ⟨0x02, 0, queue⟩

def execLaunch (t a b : Reg) (s : State) : Out :=
  issue (.launch t a b) ⟨[a, b], t, 0⟩
    (fun s =>
      let va := s.reg a
      if s.readHeld va then s
      else match s.checked .read va 64 64 with
        | (u, .error c) => u.trap c va
        | (u, .ok (window, spans)) =>
          match State.readSpans window spans u with
          | (u, _, some _) => (u.later t .other 0 .token 1).advance
          | (u, bs, none) => (u.launchRecord t (s.reg b).toNat bs).advance) s

/-! ### LWAIT and CNTRD (R304, R319) -/

def execLwait (t a : Reg) (q : BitVec 2) (s : State) : Out :=
  issue (.lwait t a q) ⟨[a], t, 0⟩
    (fun s =>
      match s.workKey q.toNat (s.reg a) with
      | none => (s.lnchFails t outOfRange).advance
      | some k => (s.begin t .other (.counter k.1 k.2)).advance) s

/-- The wait is over when the counter is zero: the summary of the work. -/
def State.endCounter (s : State) (id level : Nat) (n : Word) : State :=
  if s.counterOf (level, n) = 0 then s.settle id (s.summary (level, n)) .clear else s

/-- The usage counter q of a partition and owner. -/
def State.usageOf (s : State) (p : Nat) (o : BitVec 16) (q : Nat) : Word :=
  ((lookup (p, o) s.disp.usage).getD (Vector.replicate 4 0))[q % 4]'(Nat.mod_lt _ (by decide))

/-- The partition whose usage is read: named at device level, else the own one. -/
def State.usagePart (s : State) (a : Word) : Nat := if s.seq.level.toNat = 2 then wspan a 16 5 else s.unit.part

def execCntrd (t a : Reg) (q : BitVec 3) (s : State) : Out :=
  issue (.cntrd t a q) ⟨[a], t, 0⟩
    (fun s =>
      let v := s.reg a
      if q.toNat < 4 then
        match s.workKey q.toNat v with
        | none => (s.lnchFails t outOfRange).advance
        | some k => (s.later t .other (BitVec.ofNat 64 (s.counterOf k)) .clear 8).advance
      else if (s.partAt (s.usagePart v)).isNone && s.usagePart v != s.unit.part then (s.lnchFails t outOfRange).advance
      else (s.later t .other (s.usageOf (s.usagePart v) (BitVec.ofNat 16 (wspan v 0 16)) (q.toNat - 4)) .clear 8).advance) s

/-! ### CANCEL (R304) -/

/-- The running units of some work. -/
def State.unitsOf (s : State) (k : WorkKey) : List UnitCtx :=
  s.placed.filterMap (fun c => c.1.unit.filter (fun u => (s.launch u.lid).any (fun l => l.work.contains k)))

/-- A unit's set freezes, wherever it stands. -/
def State.freezeUnit (s : State) (lid : BitVec 32) (index : Nat) : State :=
  let s := s.mapCores (fun k => k.mapParked (fun c => c.runsUnit lid index) Parked.freeze Parked.still)
  { s with disp := s.disp.mapAway (fun c => if c.runsUnit lid index then { c with parked := c.parked.still } else c) }

/-- The trap lock of a unit ends (R327). -/
def State.unlockUnit (s : State) (lid : BitVec 32) (index : Nat) : State :=
  let s := s.mapCores (fun k => k.mapParked (fun c => c.runsUnit lid index) Parked.unlock Parked.unlock)
  { s with disp := s.disp.mapAway (fun c => if c.runsUnit lid index then { c with parked := c.parked.unlock } else c) }

/-- The record that names a cancelled unit with the PC that it is frozen at. Its type is free (assumption 9), and it says
nothing else of the unit: not which engine operation waits there, nor for which tag (assumption 132). -/
def State.logCancel (s : State) (u : UnitCtx) (pc : Word) : State :=
  s.logOpen u.part (LogRec.plain 0 u.part ((s.coreOfUnit u.lid u.index).getD 0xFF) 0x97 pc)

/-- Waiting records are marked, running units freeze. -/
def State.cancel (s : State) (t : Reg) (k : WorkKey) (ending : Bool) : State :=
  let s := s.readTails
  let l := s.unitsOf k
  let s := if s.counterOf k = 0 then s else { s with disp := { s.disp with cancelled := k :: s.disp.cancelled.erase k } }
  let s := l.foldl (fun s u => s.freezeUnit u.lid u.index) s
  s.begin t .other (.cancel (l.map (fun u => (u.lid, u.index))) ending (s.seq.level == 2))

def execCancel (t a : Reg) (q : BitVec 4) (s : State) : Out :=
  issue (.cancel t a q) ⟨[a], t, 0⟩
    (fun s =>
      match s.workKey (q.toNat % 8) (s.reg a) with
      | none => (s.lnchFails t outOfRange).advance
      | some k => (s.cancel t k (q.getLsbD 3)).advance) s

/-- The sets of some units with what stands for them. -/
def State.setsOf (s : State) (l : List (BitVec 32 × Nat)) : List (CSet × Parked) :=
  s.placed.filter (fun c => l.any (fun u => c.1.runsUnit u.1 u.2))

/-- What a CANCEL does to a unit that is frozen: it is logged with its PC; a device-level CANCEL ends its trap lock; and it
ends where the CANCEL asks for that, one in trap lock only for a device-level CANCEL (R304, R327). -/
def State.cancelUnit (ending device : Bool) (s : State) (c : CSet × Parked) : State :=
  match c.1.unit with
  | none => s
  | some u =>
    let s := s.logCancel u c.1.seq.pc
    let s := if device then s.unlockUnit u.lid u.index else s
    if ending && (device || !c.2.locked) then s.endUnit u 0x97 0 else s

/-- CANCEL completes once every unit that still runs is frozen, with their number. -/
def State.endCancel (s : State) (id : Nat) (l : List (BitVec 32 × Nat)) (ending device : Bool) : State :=
  let sets := s.setsOf l
  if sets.all (fun c => c.2.frost == .frozen) then
    ((sets.foldl (State.cancelUnit ending device) s).settle id (BitVec.ofNat 64 sets.length) .clear).electAll
  else s

/-! ### QBIND (R306) -/

/-- The bind table entry of a block, but for what the queue header holds. -/
def bindOfBlock (bs : List Byte) : Bind where
  queue := field bs 0 2
  rank := field bs 2 1
  part := field bs 3 1
  owner := BitVec.ofNat 16 (field bs 4 2)
  weight := field bs 6 1
  child := bitAt (field bs 7 1) 1
  ring := BitVec.ofNat 48 (field bs 8 8)
  depth := if field bs 0x10 4 = 0 then 65536 else field bs 0x10 4
  resv := if field bs 0x14 2 = 0xFFFF then none else some (field bs 0x14 2)
  job := BitVec.ofNat 16 (field bs 0x16 2)
  tail := 0
  head := 0
  done := 0
  stopped := false
  reserves := 0
  bypass := 0

/-- The first offset of a bind block that a limit rejects. -/
def State.badBind (s : State) (bs : List Byte) : Option Nat :=
  let b := bindOfBlock bs
  let resvOk := match b.resv with
    | none => true
    | some n => (s.resvOf n).any (fun r => r.part == b.part)
  if !s.queueIn b.part b.queue && (s.partAt b.part).isSome || decide (b.queue > 4095) then some 0
  else if (s.partAt b.part).isNone then some 3
  else if b.weight = 0 then some 6
  else if field bs 7 1 ≥ 4 then some 7
  else if field bs 8 8 % 64 ≠ 0 ∨ field bs 8 8 ≥ windowBase then some 8
  else if resvOk = false then some 0x14
  else if field bs 0x18 8 ≠ 0 then some 0x18
  else none

/-- The parent reserves that running units hold in a queue. -/
def State.reservesIn (s : State) (queue : Nat) : Nat :=
  (s.placed.filter (fun c => match c.1.unit with | some u => u.reserve == some queue | none => false)).length

/-- A queue bound: head, done and tail are taken from its header as they stand. A tail beyond its limit stops the queue
(R298). -/
def State.bind (s : State) (i : Nat) (b : Bind) : State :=
  match s.dispRead (s.partOf b.part) b.ring.toNat 16 with
  | (u, bs) =>
    let h := bs.getD (List.replicate 16 0)
    let head : BitVec 32 := BitVec.ofNat 32 (field h 8 4)
    let new := { b with
      head := head, done := BitVec.ofNat 32 (field h 12 4), reserves := u.reservesIn b.queue, tail := head }
    let v := { u with disp := { u.disp with binds := insert i new u.disp.binds } }
    let ahead := (BitVec.ofNat 32 (field h 0 4) - head).toNat
    if !b.child then v
    else if ahead > new.depth - new.reserves then
      (v.writeHeader new 0x10 (leBytes 8 (lnchStatus 0x95 0 (field h 0 4)).toNat)).mapBind b.queue (fun b => { b with stopped := true })
    else State.seeTail ahead b.queue v

def State.qbind (s : State) (i : Nat) (bs : List Byte) : Outcome :=
  let b := bindOfBlock bs
  if i > 511 then .error outOfRange
  else match s.badBind bs with
    | some off => .error (badRec off)
    | none =>
      if s.disp.binds.any (fun x => x.1 ≠ i && x.2.queue == b.queue) then .error ⟨0x94, 0, 0⟩
      else
        let u := { s with disp := { s.disp with binds := erase i s.disp.binds } }
        .ok ((if bitAt (field bs 7 1) 0 then u.bind i b else u).spent, s.openValue.toNat)

def State.qunbind (s : State) (i : Nat) : Outcome :=
  if (lookup i s.disp.binds).isNone then .error outOfRange
  else .ok ({ s with disp := { s.disp with binds := erase i s.disp.binds } }.spent, s.openValue.toNat)

def execQbind (t a b : Reg) (q : BitVec 1) (s : State) : Out :=
  if q = 0 then
    blockInstr (.qbind t a b q) t a [b] 1 32 (fun s => s.reg a) (fun u bs => u.qbind (s.reg b).toNat bs) s
  else
    lnchIssue (.qbind t a b q) ⟨[a, b], t, 2⟩ (fun s => (s.answer t (s.qunbind (s.reg b).toNat)).advance) s

/-! ### Partition records (R311) -/

/-- The fields at 0x01 to 0x3F. -/
def Part.withHead (p : Part) (bs : List Byte) : Part :=
  { p with
    flags := BitVec.ofNat 8 (field bs 1 1)
    firstQ := field bs 2 2
    qCount := field bs 4 2
    places := field bs 6 2
    root := field bs 8 8
    counters := field bs 0x10 8
    saveArea := field bs 0x18 8
    dram := BitVec.ofNat 64 (field bs 0x20 8)
    shares := BitVec.ofNat 64 (field bs 0x28 8)
    lpBase := field bs 0x30 2
    lpSize := field bs 0x32 2
    pages := BitVec.ofNat 32 (field bs 0x34 4)
    pool := BitVec.ofNat 32 (field bs 0x38 4)
    rate := field bs 0x3C 2
    burst := field bs 0x3E 2
    rateNow := field bs 0x3C 2 }

/-- A class table of 64 bytes. -/
def classTable (bs : List Byte) : Vector (BitVec 32) 16 := Vector.ofFn (fun i => BitVec.ofNat 32 (field bs (4 * i.val) 4))

/-- A partition as its record makes it. DESIGN CHOICE (assumption 108): its endpoint table starts empty. -/
def partOfRecord (bs : List Byte) : Part :=
  Part.withHead { Part.device with
    num := field bs 0 1
    ends := []
    cores := BitVec.ofNat 256 (field bs 0x40 32)
    classes := classTable (bs.drop 0x80)
    tenantBase := BitVec.ofNat 64 (field bs 0xC8 8)
    deviceBase := BitVec.ofNat 64 (field bs 0xD0 8) } bs

/-- Whole groups of four channels. -/
def wholeGroups (m : BitVec 64) : Bool := (List.range 16).all (fun i => bitSpan m.toNat (4 * i) 4 == 0 || bitSpan m.toNat (4 * i) 4 == 15)

def State.placesOthers (s : State) (num : Nat) : Nat :=
  ((s.parts.filter (fun p => p.num ≠ 0 && p.num ≠ num)).map (fun p => p.places)).foldl (· + ·) 0

/-- The first offset at 0x01 to 0x3F that a limit rejects; an LPDDR-6 channel that the configuration record disables is
beyond the limit (R22; assumption 120). -/
def State.badHead (s : State) (p : Part) : Option Nat :=
  if p.flags.toNat > 1 then some 1
  else if p.firstQ + p.qCount > 4096 then some 4
  else if p.places + s.placesOthers p.num > Config.portPool then some 6
  else if p.root % 0x4000 ≠ 0 then some 8
  else if p.counters % 0x10000 ≠ 0 then some 0x10
  else if p.saveArea % 0x200000 ≠ 0 ∨ p.holds p.saveArea = false then some 0x18
  else if wholeGroups p.dram = false then some 0x20
  else if p.shares.toNat ≥ 2 ^ 48 ∨ p.shares &&& ~~~(BitVec.setWidth 64 s.host.enabled.lpddr) ≠ 0 then some 0x28
  else if p.lpBase + p.lpSize > 768 then some 0x32
  else if p.rate = 0 then some 0x3C
  else if p.burst < 9 then some 0x3E
  else none

/-- The first offset of a whole record that a limit rejects; a partition that the configuration record disables is no
number for one (R22; assumption 120). -/
def State.badPart (s : State) (bs : List Byte) : Option Nat :=
  let p := partOfRecord bs
  if p.num = 0 ∨ p.num > 31 ∨ s.host.enabled.parts.getLsbD p.num = false then some 0
  else match s.badHead p with
    | some off => some off
    | none =>
      if field bs 0x60 32 ≠ 0 then some 0x60
      else if p.tenantBase.toNat % 64 ≠ 0 then some 0xC8
      else if p.deviceBase.toNat % 64 ≠ 0 then some 0xD0
      else if (bs.drop 0xD8).any (fun b => b ≠ 0) then some 0xD8
      else none

def rangesMeet (a n b m : Nat) : Bool := n ≠ 0 && m ≠ 0 && decide (a < b + m) && decide (b < a + n)

/-- A channel that a grant may not name: another partition of 1 to 31 has it, or the configuration record disables it
(R22). -/
def State.channelTaken (s : State) (others : List Part) (c : Nat) : Bool :=
  others.any (fun o => o.dram.getLsbD c) || !s.host.enabled.channels.getLsbD c

/-- What a grant names that partition 0 does not have to give: the lowest channel, or 0 for a range or queues. -/
def State.grantConflict (s : State) (p : Part) : Option Nat :=
  let others := s.parts.filter (fun o => o.num ≠ 0 && o.num ≠ p.num)
  match (List.range 64).find? (fun c => p.dram.getLsbD c && s.channelTaken others c) with
  | some c => some c
  | none =>
    if others.any (fun o => rangesMeet p.lpBase p.lpSize o.lpBase o.lpSize || rangesMeet p.firstQ p.qCount o.firstQ o.qCount)
    then some 0 else none

/-- A core that partition 0 does not hold, or holds in sliced mode. -/
def State.notSpare (s : State) (n : Nat) : Bool :=
  !(s.partOf 0).cores.getLsbD n || ((s.coreAt n).sliced && (s.coreAt n).lent.isNone)

/-- Cores pass between partition 0 and another, cleared. -/
def State.passCores (s : State) (p : Nat) (mask : BitVec 256) : State :=
  let old := (s.partOf p).cores
  let s := (maskCores (old ^^^ mask)).foldl State.clearCore s
  (s.mapPart 0 (fun q => { q with cores := (q.cores ||| old) &&& ~~~mask })).mapPart p (fun q => { q with cores := mask })

/-! ### PCREATE and PGRANT (R312) -/

def State.pcreate (s : State) (bs : List Byte) : Outcome :=
  let p := partOfRecord bs
  let l := maskCores p.cores
  match s.badPart bs with
  | some off => .error (badRec off)
  | none =>
    if (s.partAt p.num).isSome then .error ⟨0x93, p.num, 0⟩
    else match firstOf l s.notSpare, s.grantConflict p with
      | some n, _ => .error ⟨0x94, n, 0⟩
      | none, some c => .error ⟨0x94, c, 0⟩
      | none, none =>
        match firstOf l s.inUse with
        | some n => .error ⟨0x21, n, 0⟩
        | none => .ok (({ s with parts := s.parts ++ [{ p with cores := 0 }] }).passCores p.num p.cores, p.num)

def execPcreate (t a : Reg) (s : State) : Out :=
  blockInstr (.pcreate t a) t a [] 64 256 (fun s => s.reg a) (fun s bs => s.pcreate bs) s

def State.grantHead (s : State) (p : Part) (bs : List Byte) : Outcome :=
  let q := p.withHead bs
  match s.badHead q with
  | some off => .error (badRec off)
  | none =>
    match s.grantConflict q with
    | some c => .error ⟨0x94, c, 0⟩
    | none => .ok ((s.settleBuckets p).mapPart p.num (fun _ => { q with rateNow := min p.rateNow q.rate }), 0)

def State.grantCores (s : State) (p : Part) (bs : List Byte) : Outcome :=
  let mask : BitVec 256 := BitVec.ofNat 256 (leNat (bs.take 32))
  match firstOf (maskCores (mask &&& ~~~p.cores)) s.notSpare with
  | some n => .error ⟨0x94, n, 0⟩
  | none =>
    match firstOf (maskCores (mask ^^^ p.cores)) s.inUse with
    | some n => .error ⟨0x21, n, 0⟩
    | none => .ok (s.passCores p.num mask, 0)

/-- The lowest core with a unit, lend or reservation of a partition; a suspended unit stands on none and answers 0. -/
def State.outstanding (s : State) (p : Part) : Option Nat :=
  let unit (n : Nat) : Bool := (s.setsFor n).any (fun c => c.of p.num)
  let lend (n : Nat) : Bool := s.disp.lends.any (fun l => (l.lender == p.num || l.borrower == p.num) && l.cores.getLsbD n) ||
    (p.cores.getLsbD n && (s.coreAt n).lent.isSome)
  let resv (n : Nat) : Bool := s.disp.resvs.any (fun r => r.part == p.num && r.cores.getLsbD n)
  match (List.range 256).find? (fun n => unit n || lend n || resv n) with
  | some n => some n
  | none => if s.disp.suspended.any (fun e => e.1 == p.num) || s.disp.resvs.any (fun r => r.part == p.num) then some 0 else none

def State.release (s : State) (p : Part) : Outcome :=
  match s.outstanding p with
  | some n => .error ⟨0x21, n, 0⟩
  | none =>
    let s := s.passCores p.num 0
    .ok ({ s with
      parts := s.parts.filter (fun q => q.num ≠ p.num)
      pools := s.pools.filter (fun g => g.part ≠ p.num)
      host := { s.host with pins := s.host.pins.filter (fun x => x.part ≠ p.num) }
      disp := { s.disp with binds := s.disp.binds.filter (fun b => b.2.part ≠ p.num) } }, 0)

/-- The usage counters of the owner b[15:0] cleared, or of every owner when b is 0xFFFF. -/
def State.clearUsage (s : State) (p : Nat) (b : Word) : State :=
  { s with disp := { s.disp with
      usage := s.disp.usage.filter (fun e => !(e.1.1 == p && (b == 0xFFFF || e.1.2 == BitVec.setWidth 16 b))) } }

def State.grantBases (s : State) (p : Part) (bs : List Byte) : Outcome :=
  let a := field bs 0 8
  let b := field bs 8 8
  if a % 64 ≠ 0 then .error (badRec 0xC8)
  else if b % 64 ≠ 0 then .error (badRec 0xD0)
  else .ok (s.mapPart p.num (fun q => { q with tenantBase := BitVec.ofNat 64 a, deviceBase := BitVec.ofNat 64 b }), 0)

/-- The sliced cores with a reservation of a partition. -/
def Disp.slicedMask (d : Disp) (p : Nat) : BitVec 256 :=
  ((d.resvs.filter (fun r => r.part == p)).map (fun r => r.cores)).foldl (fun a b => a ||| b) 0

/-- The 256 bytes of a partition record. -/
def State.partRecord (s : State) (p : Part) : List Byte :=
  leBytes 1 p.num ++ [p.flags] ++ leBytes 2 p.firstQ ++ leBytes 2 p.qCount ++ leBytes 2 p.places ++ leBytes 8 p.root
    ++ leBytes 8 p.counters ++ leBytes 8 p.saveArea ++ leBytes 8 p.dram.toNat ++ leBytes 8 p.shares.toNat
    ++ leBytes 2 p.lpBase ++ leBytes 2 p.lpSize ++ leBytes 4 p.pages.toNat ++ leBytes 4 p.pool.toNat ++ leBytes 2 p.rate
    ++ leBytes 2 p.burst ++ leBytes 32 p.cores.toNat ++ leBytes 32 (s.disp.slicedMask p.num).toNat
    ++ p.classes.toList.flatMap (fun w => leBytes 4 w.toNat) ++ leBytes 8 p.narrow.toNat ++ leBytes 8 p.tenantBase.toNat
    ++ leBytes 8 p.deviceBase.toNat ++ List.replicate 40 0

/-- The bytes of the block at b for each q that has one. -/
def grantBlock (q : Nat) : Nat :=
  match q with
  | 0 => 64
  | 1 => 32
  | 2 => 64
  | 3 => 8
  | 6 => 16
  | 7 => 256
  | _ => 0

/-- PGRANT of a partition that exists, but for q = 7. -/
def State.grant (s : State) (p : Part) (q : Nat) (b : Word) (bs : List Byte) : Outcome :=
  match q with
  | 0 => s.grantHead p bs
  | 1 => s.grantCores p bs
  | 2 => .ok (s.mapPart p.num (fun r => { r with classes := classTable bs }), 0)
  | 3 =>
    if field bs 0 1 > 1 then .error (badRec 1)
    else .ok (s.mapPart p.num (fun r => { r with flags := BitVec.ofNat 8 (field bs 0 1) }), 0)
  | 4 => s.release p
  | 5 => .ok (s.clearUsage p.num b, 0)
  | _ => s.grantBases p bs

/-- The partition that PGRANT names: 1 to 31, or 0 for q = 6. -/
def State.granted1 (s : State) (a : Word) (q : Nat) : Except Failure Part :=
  match (if a = 0 ∧ q ≠ 6 then none else s.partAt a.toNat) with
  | some p => .ok p
  | none => .error ⟨0x93, a.toNat, 0⟩

def State.pgrant (s : State) (a b : Word) (q : Nat) (bs : List Byte) : Outcome :=
  match s.granted1 a q with
  | .ok p => s.grant p q b bs
  | .error f => .error f

/-- PGRANT q = 7 writes the record at b. -/
def grantWrite (i : Instr) (t a b : Reg) (s : State) : Out :=
  lnchIssue i ⟨[a, b], t, 2⟩
    (fun s =>
      let va := s.reg b
      if s.globalHeld va then s
      else match s.checked .write va 1 256 with
        | (u, .error c) => u.trap c va
        | (u, .ok (window, spans)) =>
          match u.granted1 (s.reg a) 7 with
          | .error f => (u.answer t (.error f)).advance
          | .ok p => (u.answer t (.ok ((u.write .sequencer window spans (u.partRecord p)).1, 0))).advance) s

def execPgrant (t a b : Reg) (q : BitVec 3) (s : State) : Out :=
  if q = 7 then grantWrite (.pgrant t a b q) t a b s
  else if q = 4 ∨ q = 5 then
    lnchIssue (.pgrant t a b q) ⟨[a, b], t, 2⟩ (fun s => (s.answer t (s.pgrant (s.reg a) (s.reg b) q.toNat [])).advance) s
  else
    blockInstr (.pgrant t a b q) t b [a] 1 (grantBlock q.toNat) (fun s => s.reg b)
      (fun u bs => u.pgrant (s.reg a) (s.reg b) q.toNat bs) s

/-! ### Dispatch (R307) -/

/-- DISPATCH_ADMIT: one cycle of dispatch. -/
def execDispatchAdmit (s : State) : Out := .next s.dispatch.electAll

end Sys2Proof.Machine
end

