-- ==== Sys2Proof/Machine/Matrix.lean ====
section
/-!
DEFINITION. The matrix array, the accumulator nodes, the gate pipeline and the MAT instructions (R71 to R81, R191 to
R208).
-/

namespace Sys2Proof.Machine

/-! ### The exact sums of a block (R69, R71, R72, R77, R192) -/

/-- What a pairing of formats makes of a block. -/
inductive MxMode where
  | byte | int | wide | bad
  deriving DecidableEq, Repr

def isByteFmt (c : Nat) : Bool := c == 3 || c == 5 || c == 6

def mxMode (int : Bool) (fw fa : Nat) : MxMode :=
  if int then (if (fw == 5 || fw == 6) && (fa == 5 || fa == 6) then .int else .bad)
  else if isByteFmt fw && isByteFmt fa then .byte
  else if fw == fa && (fw == 1 || fw == 2) then .wide
  else .bad

/-- The activation format of a stitch (R193). -/
def MxParams.format (p : MxParams) (k : Nat) : Nat :=
  let own := p.sfmt.toNat / 16 ^ k % 16
  if own ≠ 0 then own else if p.afmt = 0 then 3 else p.afmt.toNat

/-- An 8-bit element in units of 2^−9; none for a NaN. FTZ-in reads an E4M3 subnormal as zero. -/
def byteUnits (ftz : Bool) (c n : Nat) : Option Int :=
  match fmtValue c (if c = 3 then e4m3.flush ftz n else n) with
  | .fin s m e => some ((if s then -1 else 1) * ((m : Int) * 2 ^ (e + 9).toNat))
  | .nan => none
  | _ => some 0

/-- The exact sum of products, in units of 2^−18; none where one is a NaN. -/
def chainSum : List (Option Int) → List (Option Int) → Option Int
  | x :: xs, y :: ys =>
    match x, y, chainSum xs ys with
    | some a, some b, some r => some (a * b + r)
    | _, _, _ => none
  | _, _ => some 0

/-- The rows of weights that a block uses; rows a plane was never given are zero. -/
def Plane.row (p : Plane) (r : Nat) : Payload := p.rows.getD r 0

/-- The exact column sums of an 8-bit block over `rows` rows. -/
def byteSums (ftz : Bool) (fa : Nat) (plane : Plane) (a : Payload) (rows : Nat) : List (Option Int) :=
  let xs := ((lanes 8 a).take rows).map (byteUnits ftz fa)
  let ws := (List.range rows).map (fun r => (lanes 8 (plane.row r)).map (byteUnits ftz plane.fmt.toNat))
  (List.range 128).map (fun c => chainSum xs (ws.map (fun w => w.getD c (some 0))))

/-- The weight scale of column c. -/
def Plane.scaleAt (p : Plane) (c : Nat) : Nat := if p.group then (p.scales.getD c 0).toNat * 65536 else p.scale.toNat

/-- A column's sum promoted to FP32 (R73). -/
def promote (sum : Option Int) (sa swc : Nat) : Nat :=
  let p := match sum with
    | some i => fp32.rne (.ofDyadic i (-18))
    | none => fp32.nan
  fp32.mul (fp32.mul p sa) swc

/-- A column of a 16-bit block: rows in ascending order, each step rounded once (R77). -/
def wideColumn (f : FFmt) (xs : List Nat) (ws : List Nat) : Nat :=
  (xs.zip ws).foldl (fun acc p => fp32.rne (.sum [fp32.decode acc, (f.decode p.1).mul (f.decode p.2)])) 0

def wideSums (f : FFmt) (plane : Plane) (a : Payload) : List Nat :=
  let ws := (List.range 64).map (fun r => lanes 16 (plane.row r))
  (List.range 128).map (fun c => if c < 64 then wideColumn f (lanes 16 a) (ws.map (fun w => w.getD c 0)) else 0)

def lanes128 (l : BitVec 4096) : List Nat := (List.range 128).map (fun i => l.toNat / 2 ^ (32 * i) % 2 ^ 32)
def ofLanes128 (l : List Nat) : BitVec 4096 := BitVec.ofNat 4096 (joinLanes 32 l)

def Planes.plane (p : Planes) (one : Bool) : Plane := if one then p.plane1 else p.plane0

/-- The rows that HALF takes of an 8-bit block (R201). -/
def MxParams.rows (p : MxParams) : Nat := if p.split = 1 then 64 else 128

/-- What an A token of stitch k becomes: the block of a plane, with the scale token and its lane where one is used. -/
def MxParams.block (p : MxParams) (plane : Plane) (k : Nat) (a : Payload) (scale : Option (Token × Nat)) : AnWork :=
  let fa := p.format k
  match mxMode p.int plane.fmt.toNat fa with
  | .bad => .badBlock causeFmtbad
  | .int =>
    .intBlock (ofLanes128 ((byteSums p.ftzIn fa plane a p.rows).map (fun x => bitsOf 32 ((x.getD 0) / 2 ^ 18))))
  | .wide => .wideBlock (ofLanes128 (wideSums (if fa = 1 then bf16 else fp16) plane a))
  | .byte =>
    match scale with
    | none => .badBlock causeFmtbad
    | some (t, lane) =>
      if t.isError then .badBlock t.tag.cause
      else
        .block (ofLanes128 ((List.zipIdx (byteSums p.ftzIn fa plane a p.rows)).map (fun x =>
          promote x.1 (lane32 t.payload lane) (plane.scaleAt x.2))))

/-! ### Scales (R81, R195) -/

def mxInput (i : Nat) : Target := nodeTarget 0 i

/-- Blocks of a pairing that consume a scale. -/
def MxParams.scaled (p : MxParams) (plane : Plane) (k : Nat) : Bool :=
  !p.int && mxMode p.int plane.fmt.toNat (p.format k) != .wide

/-- The scale token of stitch k that the next A token uses, and its lane. -/
def Fabric.scaleOf (f : Fabric) (p : MxParams) (k : Nat) : Option (Token × Nat) :=
  (f.oldest (mxInput 1) k).map (fun t => (t, if p.packed then (lookup k f.scales).getD 0 else 0))

/-- The scale used: a packed token stays until its 32nd lane. -/
def Fabric.useScale (f : Fabric) (p : MxParams) (k : Nat) : Fabric :=
  match f.scaleOf p k with
  | none => f
  | some (t, lane) =>
    if p.packed && !t.isError && decide (lane < 31) then { f with scales := insert k (lane + 1) f.scales }
    else { f with held := removeHeld (mxInput 1) k f.held, scales := erase k f.scales }

/-- The bound node has room for a stitch. -/
def Fabric.anRoom (f : Fabric) (n k : Nat) : Bool :=
  decide ((f.anq.filter (fun m => m.node == n && m.stitch == k && m.work.fromMx)).length < Config.nodeInputPlaces)

/-- Work reaches an accumulator node. -/
def Fabric.toAn (f : Fabric) (n k : Nat) (w : AnWork) : Fabric := { f with anq := f.anq ++ [⟨n, k, w⟩] }

/-! ### Entry (R195, R196) -/

/-- The plane a block uses: the active one, or in two-plane mode the one its predicate bit names. -/
def Planes.forToken (q : Planes) (p : MxParams) (pred : Bool) : Plane := q.plane (if p.planes then pred else q.active)

/-- The oldest token of stitch k at mx.a may enter or pass. -/
def CSet.mayEnter (c : CSet) (p : MxParams) (k : Nat) : Bool :=
  match c.fab.oldest (mxInput 0) k with
  | none => false
  | some t =>
    c.fab.anRoom p.an k && (!t.isData || !p.scaled (c.planes.forToken p t.tag.pred) k || (c.fab.scaleOf p k).isSome)

/-- Among the tokens that can enter, the one of stitch k arrived first. -/
def CSet.entersFirst (c : CSet) (p : MxParams) (k : Nat) : Bool :=
  match (c.fab.heldAt (mxInput 0)).find? (fun t => c.mayEnter p t.k) with
  | some t => t.k == k
  | none => false

/-- A token of stitch k enters the array. DESIGN CHOICE (assumption 133): its block reaches the bound node in the step in
which it enters, before whatever reaches the node later. -/
def CSet.enterMx (c : CSet) (p : MxParams) (k now : Nat) : CSet :=
  match c.fab.oldest (mxInput 0) k with
  | none => c
  | some t =>
    let f := { c.fab with held := removeHeld (mxInput 0) k c.fab.held }
    if t.isData then
      let plane := c.planes.forToken p t.tag.pred
      let scaled := p.scaled plane k
      let w := p.block plane k t.payload (if scaled then c.fab.scaleOf p k else none)
      { c with fab := ((if scaled then Fabric.useScale f p k else f).toAn p.an k w).move now }
    else { c with fab := (Fabric.toAn f p.an k (.token 2 t)).move now }

/-- A block enters, or a token of another kind is passed to the bound node. -/
def execMxBlockEntry (k : Nat) (s : State) : Out :=
  match s.core.set.fab.running with
  | none => .next s
  | some im =>
    let p := im.mxParams
    when (s.core.fabricRuns s.cycle && !p.tile && !s.core.set.planes.swapDue && s.core.set.entersFirst p k) s
      (fun s => s.mapSet (fun c => c.enterMx p k s.cycle))

/-- The planes change roles at a block boundary (R196): between two entries, each a step. -/
def execPlaneSwap (s : State) : Out :=
  when s.core.set.planes.swapDue s (fun s =>
    s.mapSet (fun c => { c with planes := { c.planes with active := !c.planes.active, swapDue := false } }))

/-! ### Tile source (R197) -/

/-- The destination ring is used where its odd word is not zero. -/
def MxParams.toTile (p : MxParams) : Bool := p.tile && p.tdo != 0

/-- A tile reference that fails the rule of the rows: 8 units an A row, and in the destination 2·G units and a row for
each A row; or an A tile of key blocks, which only a PAGED node reads (R58), or of a reserved format (R59). DESIGN CHOICE
(assumption 133): a destination tile with fewer rows than the A tile fails it too. -/
def MxParams.tileBad (p : MxParams) (g : Nat) : Bool :=
  let a := tileOf p.ta p.tao
  let d := tileOf p.td p.tdo
  a.units != 8 || decide (a.format ≥ 9) || (p.toTile && (decide (d.units < 2 * g) || decide (d.rows < a.rows)))

/-- The plane that a row uses: its A token's predicate bit is not stated, and a free value (R82). -/
def State.rowPlane (s : State) (p : MxParams) : Plane :=
  let at0 := s.core.set.fab.tileRow
  s.core.set.planes.forToken p (openPred mxId [Token.plain 0 (payloadOf (s.tileRow (tileOf p.ta p.tao) at0.1 at0.2)) false])

/-- The end of the reduction that MX sends behind a row; its predicate and last bits are not stated: free values. -/
def rowEnd (r : Nat) (row : Payload) : Token :=
  ⟨⟨BitVec.ofNat 6 r, .endOfReduction, openPred mxId [Token.plain 0 row true], Config.openLast row, 0⟩, 0⟩

/-- The ring moves past row r of tile j; after the last row the tag becomes EMPTY. -/
def State.passRow (s : State) (t : Tile) (j r : Nat) : State :=
  let done := decide (r + 1 ≥ t.rows)
  let s := s.mapFab (fun f => { f with tileRow := if done then ((j + 1) % t.depth, 0) else (j, r + 1) }.move s.cycle)
  if done then s.setTag (t.tag + j) false else s

/-- Row r of the ring's tile j enters as an A token of the stitch of its number, with the end of the reduction behind
it. -/
def State.takeRow (s : State) (p : MxParams) (g j r : Nat) : State :=
  let t := tileOf p.ta p.tao
  let plane := s.rowPlane p
  let scaled := p.scaled plane r
  let scale := if scaled then s.core.set.fab.scaleOf p r else none
  match State.readSpans true (s.rowSpans t j r) s with
  | (s, bs, err) =>
    let work := match err with
      | some e => AnWork.badBlock e.1
      | none => if p.tileBad g then .badBlock causeFmtbad else p.block plane r (payloadOf bs) scale
    s.mapFab (fun f =>
      ((if scaled then f.useScale p r else f).toAn p.an r work).toAn p.an r (.token 2 (rowEnd r (payloadOf bs))))

/-- The ring's next row enters, or is discarded where its stitch is in DROP, as every token of it is (R125). -/
def State.enterRow (s : State) (p : MxParams) (g : Nat) : State :=
  let j := s.core.set.fab.tileRow.1
  let r := s.core.set.fab.tileRow.2
  (if s.core.set.isDrop r then s else s.takeRow p g j r).passRow (tileOf p.ta p.tao) j r

/-- The row's tag is FULL, its scale stands at mx.s where its pairing needs one, and the bound node has room; a row that
will be discarded needs neither. -/
def State.rowReady (s : State) (p : MxParams) : Bool :=
  let f := s.core.set.fab
  let r := f.tileRow.2
  s.core.set.tagFull ((tileOf p.ta p.tao).tag + f.tileRow.1) && (s.core.set.isDrop r ||
    f.anRoom p.an r && (!p.scaled (s.rowPlane p) r || (f.scaleOf p r).isSome))

def execTileSourceRow (s : State) : Out :=
  match s.core.set.fab.running with
  | none => .next s
  | some im =>
    let p := im.mxParams
    match im.an p.an with
    | none => .next s
    | some a =>
      when (s.core.fabricRuns s.cycle && p.tile && !s.core.set.planes.swapDue && s.rowReady p) s
        (fun s => s.enterRow p a.cols)

/-! ### What an accumulator node does next (R199) -/

/-- Work that stands first of its stitch in the order in which a node's work reached it. -/
structure AnCand where
  msg  : AnMsg
  work : AnWork
  deriving DecidableEq, Repr

def AnCand.stitch (c : AnCand) : Nat := c.msg.stitch

/-- The first message of each stitch. -/
def firstOfEach : List Nat → List AnMsg → List AnMsg
  | _, [] => []
  | seen, m :: rest => if seen.contains m.stitch then firstOfEach seen rest else m :: firstOfEach (m.stitch :: seen) rest

/-- The work that stands first of its stitch at a node. -/
def Fabric.anCands (f : Fabric) (n : Nat) : List AnCand :=
  (firstOfEach [] (f.anq.filter (fun m => m.node == n))).map (fun m => ⟨m, f.anWork m⟩)

/-- A release of the stitch has still tokens to send. -/
def Fabric.releasing (f : Fabric) (n k : Nat) : Bool := f.rels.any (fun e => e.node == n && e.toks.any (fun t => t.k == k))

/-- What an accumulator node holds of a stitch may leave it: not while the stitch is in SLIP, DROP or OFF, nor while RSAVE
drains it (R153, R156, R159). -/
def CSet.anSends (c : CSet) (k : Nat) : Bool := c.maySend k (.pass (Token.order k false))

/-- An order token goes to release target A, behind the releases of its stitch. -/
def CSet.mayAdd (c : CSet) (n : Nat) (p : AnParams) (x : AnCand) : Bool :=
  !x.work.emits || (c.anSends x.stitch && !c.fab.releasing n x.stitch && c.fab.hasRoom p.out)

/-- The place of an accumulator node's input among the elements that have fired in a cycle. -/
def anElement (n i : Nat) : Nat := 33 + 2 * n + i

/-- The node may take the work in this cycle: one token per cycle at each input, and an addend at input 0 from the cycle
after its arrival on (R362). -/
def Fabric.mayTake (f : Fabric) (now n : Nat) (x : AnCand) : Bool :=
  match x.msg.work with
  | .arrived i since => !f.fired.contains (anElement n i) && (x.work.emits || decide (since < now))
  | _ => true

/-- The addition to be made next: the first in the order of arrival. -/
def CSet.addition (c : CSet) (now n : Nat) (p : AnParams) : Option AnCand :=
  (c.fab.anCands n).find? (fun x => !x.work.releases && c.fab.mayTake now n x && c.mayAdd n p x)

/-- The work leaves the place where it stands. -/
def Fabric.takeAn (f : Fabric) (n : Nat) (c : AnCand) : Fabric :=
  match c.msg.work with
  | .arrived i _ =>
    { f with
      anq := f.anq.erase c.msg
      held := removeHeld (anInput n i) c.stitch f.held
      fired := anElement n i :: f.fired }
  | _ => { f with anq := f.anq.erase c.msg }

/-! ### Additions (R73, R76, R77, R199) -/

def AnEntry.marked (e : AnEntry) (cause : BitVec 6) : AnEntry := if e.mark.isNone then { e with mark := some cause } else e

def inInt32 (i : Int) : Bool := decide (-(2 ^ 31) ≤ i) && decide (i < 2 ^ 31)

/-- The lanes with addends; none where trap mode finds an exact result out of range. -/
def addLanes (p : AnParams) (ls xs : List Nat) : Option (List Nat) :=
  if p.int then
    if p.trap && (List.zipWith (fun a b => inInt32 (sintOf 32 a + sintOf 32 b)) ls xs).any (fun ok => !ok) then none
    else some (List.zipWith (fun a b => (a + b) % 2 ^ 32) ls xs)
  else some (List.zipWith (fun a b => fp32.add a b) ls xs)

/-- The lanes of an addend token: group g = addend counter mod G. -/
def addGroup (p : AnParams) (e : AnEntry) (t : Token) : Option (List Nat) :=
  let g := e.addend.toNat % p.cols
  let ls := lanes128 e.lanes
  (addLanes p ((ls.drop (32 * g)).take 32) (lanes 32 t.payload)).map (fun x =>
    ls.take (32 * g) ++ x ++ ls.drop (32 * g + 32))

/-- The addend counter's byte goes round at 252, a multiple of every G, so that the group is as R199 says. -/
def nextAddend (a : BitVec 8) : BitVec 8 := if a.toNat + 1 ≥ 252 then 0 else a + 1

/-- An entry after one addition, and whether trap mode refused it. MXCLR brings the stitch no token (R147, R208). -/
def AnEntry.add (e : AnEntry) (p : AnParams) (w : AnWork) : Bool × AnEntry :=
  let old := e
  let e := { e with touched := true }
  let put (r : Option (List Nat)) (e : AnEntry) : Bool × AnEntry :=
    match r with
    | some l => (false, { e with lanes := ofLanes128 l })
    | none => (true, e)
  match w with
  | .block l | .intBlock l | .wideBlock l =>
    put (addLanes p (lanes128 e.lanes) (lanes128 l)) { e with blocks := e.blocks + 1 }
  | .badBlock c => (false, { e with blocks := e.blocks + 1 }.marked c)
  | .token _ t =>
    if t.isError then (false, e.marked t.tag.cause)
    else if t.isData then put (addGroup p e t) { e with addend := nextAddend e.addend }
    else (false, e)
  | .arrived _ _ => (false, e)
  | .clear _ => (false, { AnEntry.zero with gotLast := old.gotLast, touched := old.touched })

/-- ACCOVF: a LIVE or SLIP stitch drops; the sum of one in FREE, CAST or OFF is marked (R159, R199). -/
def State.accOverflow (s : State) (n k : Nat) (p : AnParams) : State :=
  let r := s.nodeRecord 0x05 k (anId n) p.gnode 0x06 0x06
  let s := match s.faultStatus k with
    | .free | .cast | .off => s.mapFab (fun f => f.setAn n k ((f.anAt n k).marked 0x06))
    | .live | .slip | .drop => s
  s.stitchFault k 0x06 r

/-- One piece of work added. -/
def State.addAn (s : State) (n : Nat) (p : AnParams) (c : AnCand) : State :=
  let s := s.mapFab (fun f => (f.takeAn n c).move s.cycle)
  let out : Option Token := match c.work with
    | .token _ t => if t.tag.kind = .order then some t else none
    | _ => none
  match out with
  | some t =>
    (s.mapFab (fun f => f.setAn n c.stitch { f.anAt n c.stitch with touched := true })).nodeSend (anId n) (.an n 0) p.gnode p.out t
  | none =>
    match (s.core.set.fab.anAt n c.stitch).add p c.work with
    | (ovf, e) =>
      let s := s.mapFab (fun f => f.setAn n c.stitch e)
      if ovf then s.accOverflow n c.stitch p else s

/-- The accumulator node of the running configuration, while its fabric runs. -/
def State.liveAn (s : State) (n : Nat) : Option (Image × AnParams) :=
  if s.core.fabricRuns s.cycle then
    match s.core.set.fab.running with
    | some im => (im.an n).map (fun p => (im, p))
    | none => none
  else none

def execAccumulatorAddition (n : Nat) (s : State) : Out :=
  match s.liveAn n with
  | none => .next s
  | some (_, p) =>
    match s.core.set.addition s.cycle n p with
    | none => .next s
    | some c => .next (s.addAn n p c)

/-- The additions that are due at a node and have not been made, in their order. -/
def State.addDue (n : Nat) : Nat → State → State
  | 0, s => s
  | fuel + 1, s =>
    match s.liveAn n with
    | none => s
    | some (_, p) =>
      match s.core.set.addition s.cycle n p with
      | none => s
      | some c => State.addDue n fuel (s.addAn n p c)

/-! ### Releases (R200, R202) -/

/-- The mark a release carries: the sum's own, else SCALECNT where the block count is not the one expected. -/
def AnEntry.verdict (e : AnEntry) (p : AnParams) : Option (BitVec 6) :=
  match e.mark with
  | some c => some c
  | none => if p.kblk ≠ 0 && e.blocks ≠ p.kblk then some 0x04 else none

/-- The entry with what the releasing token does first: an error at input 1 marks the sum. -/
def AnEntry.closing (e : AnEntry) (w : AnWork) : AnEntry :=
  match w with
  | .token _ t => if t.isError then e.marked t.tag.cause else e
  | _ => e

def AnWork.last : AnWork → Bool
  | .token _ t => t.tag.last
  | _ => false

/-- A sum's lanes as tokens, for the predicate bits that depend on them. -/
def laneTokens (lanes : BitVec 4096) : List Token :=
  (List.range 4).map (fun j => Token.plain 0 (ofLanes 32 (((lanes128 lanes).drop (32 * j)).take 32)) false)

/-- The tokens of the work that releases. -/
def AnWork.tokens : AnWork → List Token
  | .token _ t => [t]
  | _ => []

/-- The G tokens of a release. Their predicate bit is not stated: a free value, which depends on the sum and on the token
that releases it (R82). -/
def releaseTokens (p : AnParams) (n k : Nat) (lanes : BitVec 4096) (mark : Option (BitVec 6)) (w : AnWork) : List Token :=
  (List.range p.cols).map (fun j =>
    let fin := w.last && decide (j + 1 = p.cols)
    let pred := openPred (anId n) (w.tokens ++ laneTokens lanes)
    match mark with
    | some c => (Token.error k c fin).withPred pred
    | none => (Token.plain k (ofLanes 32 (((lanes128 lanes).drop (32 * j)).take 32)) fin).withPred pred)

/-- The releasing token is taken and the sum cleared. -/
def State.clearAn (s : State) (n : Nat) (c : AnCand) : State :=
  s.mapFab (fun f =>
    ((f.takeAn n c).setAn n c.stitch
      { AnEntry.zero with gotLast := (f.anAt n c.stitch).gotLast || c.work.last, touched := true }).move s.cycle)

/-- The bound node of an MX in a split or source mode of its own. -/
def Image.boundTo (im : Image) (n : Nat) : Option MxParams :=
  if im.usesMx && im.mxParams.an == n then some im.mxParams else none

def Image.pairs (im : Image) (n : Nat) : Bool := ((im.boundTo n).map (fun p => p.split == 2)).getD false
def Image.toTile (im : Image) (n : Nat) : Option MxParams := (im.boundTo n).filter MxParams.toTile

/-- A set that runs the configuration of a graph. -/
def CSet.runsGraph (c : CSet) (gid : Word) : Bool := (c.fab.running.map (fun im => im.gid == gid)).getD false

/-- A pair link's message to the even core, where a set runs the same graph; that of a stitch in DROP there is discarded
(R125). -/
def Core.takePair (k : Core) (gid : Word) (m : Nat × Nat × BitVec 4096 × Option (BitVec 6)) : Core :=
  let put (c : CSet) : CSet := if c.isDrop m.2.1 then c else { c with fab := { c.fab with pair := c.fab.pair ++ [m] } }
  if k.set.runsGraph gid then { k with set := put k.set } else { k with shadow := k.shadow.map put }

/-- The partner of the current core in PAIR mode: the core whose number differs only in bit 0, or the one that an edited core
map has put in its place (R202, R335). -/
def State.pairCore (s : State) : Nat := s.core.set.partner.getD (s.core.num ^^^ 1)

def Core.hasGraph (k : Core) (gid : Word) : Bool := k.sets.any (fun c => c.runsGraph gid)

/-- The current tile of a destination ring, and the rows of it that are written. -/
def Fabric.ringAt (f : Fabric) (n : Nat) : Nat × List Nat := (lookup n f.tileOut).getD (0, [])

/-- A release of stitch k may go into the ring's current tile: its row is not yet written, and the tile's tag is EMPTY
before the first write. -/
def CSet.ringReady (c : CSet) (p : MxParams) (n k : Nat) : Bool :=
  let at0 := c.fab.ringAt n
  !at0.2.contains k && (!at0.2.isEmpty || !c.tagFull ((tileOf p.td p.tdo).tag + at0.1))

/-- Every row of the ring's current tile is written. DESIGN CHOICE (assumption 134): the row of a stitch in DROP, whose
release never comes, is not waited for, so that the others go on. -/
def CSet.ringDone (c : CSet) (p : MxParams) (n : Nat) : Bool :=
  let written := (c.fab.ringAt n).2
  !written.isEmpty && (List.range (tileOf p.ta p.tao).rows).all (fun k => written.contains k || c.isDrop k)

/-- The ring moves to its next tile once the last row is written, and the tag becomes FULL. -/
def State.closeTile (s : State) (p : MxParams) (n : Nat) : State :=
  let d := tileOf p.td p.tdo
  let j := (s.core.set.fab.ringAt n).1
  if s.core.set.ringDone p n then
    (s.mapFab (fun f => { f with tileOut := insert n ((j + 1) % d.depth, []) f.tileOut })).setTag (d.tag + j) true
  else s

/-- A release written into row k of the ring's tile: 32·G bytes, whose values the manual does not state: free. -/
def State.writeRow (s : State) (p : MxParams) (n k g : Nat) (lanes : BitVec 4096) (mark : Option (BitVec 6)) : State :=
  let d := tileOf p.td p.tdo
  let at0 := s.core.set.fab.ringAt n
  let written := if k < (tileOf p.ta p.tao).rows then k :: at0.2 else at0.2
  let bs := (payloadBytes (Config.rowBytes d.format lanes mark)).take (32 * g)
  let s := if k < d.rows ∧ d.units ≥ 2 * g then (s.write (.node n) true ((s.rowSpans d at0.1 k).take (2 * g)) bs).1 else s
  (s.mapFab (fun f => { f with tileOut := insert n (at0.1, written) f.tileOut })).closeTile p n

/-- The ring of a node is ready for a release of stitch k, where it has one. -/
def State.ringFree (s : State) (im : Image) (n k : Nat) : Bool :=
  match im.toTile n with
  | some p => s.core.set.ringReady p n k
  | none => true

/-- The releases that may begin at a node by itself: no other is leaving, its stitch may send, the odd core of a pair has
its partner, and a ring is ready. The even core of a pair releases by PAIR_RELEASE. -/
def State.releases (s : State) (im : Image) (n : Nat) : List AnCand :=
  if s.core.set.fab.rels.any (fun e => e.node == n) then []
  else (s.core.set.fab.anCands n).filter (fun c => c.work.releases && s.core.set.fab.mayTake s.cycle n c &&
    s.core.set.anSends c.stitch &&
    (if im.pairs n then s.core.num % 2 == 1 && (s.coreAt s.pairCore).hasGraph im.gid else s.ringFree im n c.stitch))

/-- A release of a sum: into the ring, or as G tokens that leave one by one. -/
def State.startRelease (s : State) (im : Image) (n : Nat) (p : AnParams) (k : Nat) (lanes : BitVec 4096)
    (mark : Option (BitVec 6)) (w : AnWork) : State :=
  match im.toTile n with
  | some q => s.writeRow q n k p.cols lanes mark
  | none => s.mapFab (fun f => { f with rels := f.rels ++ [⟨n, p, releaseTokens p n k lanes mark w⟩] })

/-- Of several, the one the next choice names. -/
def State.pickOf {α : Type} (s : State) (l : List α) : Option α := l[s.choose % max 1 l.length]?
def State.pickedOf {α : Type} (s : State) (l : List α) : State := if l.length > 1 then s.chosen else s

/-- A release begins: over the pair link on the odd core of a pair, else by this core's own. -/
def State.beginRelease (s : State) (im : Image) (n : Nat) (p : AnParams) (c : AnCand) : State :=
  let e := (s.core.set.fab.anAt n c.stitch).closing c.work
  let s := s.clearAn n c
  if im.pairs n then
    s.mapCoreAt s.pairCore (fun k => k.takePair im.gid (n, c.stitch, e.lanes, e.verdict p))
  else s.startRelease im n p c.stitch e.lanes (e.verdict p) c.work

/-- The next token of a release leaves for both targets. -/
def State.sendRelease (s : State) (n : Nat) (r : Release) : State :=
  match r.toks with
  | [] => s.mapFab (fun f => { f with rels := f.rels.filter (fun e => e.node ≠ n) })
  | t :: rest =>
    let s := s.mapFab (fun f => { f with
      rels := if rest.isEmpty then f.rels.filter (fun e => e.node ≠ n)
        else f.rels.map (fun e => if e.node = n then { e with toks := rest } else e) })
    let s := s.nodeSend (anId n) (.an n 0) r.par.gnode r.par.out t
    if r.par.out2 = noTarget then s else s.nodeSend (anId n) (.an n 0) r.par.gnode r.par.out2 t

/-- A release's next token may leave: its targets have room, and its stitch may send. -/
def CSet.maySendRelease (c : CSet) (r : Release) : Bool :=
  c.fab.hasRoom r.par.out && c.fab.hasRoom r.par.out2 && r.toks.all (fun t => c.anSends t.k)

def execAccumulatorRelease (n : Nat) (s : State) : Out :=
  match s.liveAn n with
  | none => .next s
  | some (im, p) =>
    match s.core.set.fab.rels.find? (fun e => e.node == n) with
    | some r => when (s.core.set.maySendRelease r) s (fun s => s.sendRelease n r)
    | none =>
      match s.pickOf (s.releases im n) with
      | none => .next s
      | some c => .next ((s.pickedOf (s.releases im n)).beginRelease im n p c)

/-- The even core's release of stitch k that waits for its partner's. -/
def State.pairCand (s : State) (im : Image) (n k : Nat) : Option AnCand :=
  if im.pairs n && s.core.num % 2 == 0 && !s.core.set.fab.rels.any (fun e => e.node == n) && s.core.set.anSends k
      && s.ringFree im n k then
    (s.core.set.fab.anCands n).find? (fun c => c.stitch == k && c.work.releases && s.core.set.fab.mayTake s.cycle n c)
  else none

/-- The even core combines its release with the partner's, taken in order, and releases the sum (R202). -/
def execPairRelease (n k : Nat) (s : State) : Out :=
  match s.liveAn n with
  | none => .next s
  | some (im, p) =>
    match s.pairCand im n k, s.core.set.fab.pair.find? (fun m => m.1 == n && m.2.1 == k) with
    | some c, some m =>
      let e := (s.core.set.fab.anAt n k).closing c.work
      let mark := match e.verdict p with
        | some x => some x
        | none => m.2.2.2
      let sum := ofLanes128 (List.zipWith
        (fun a b => if p.int then (a + b) % 2 ^ 32 else fp32.add a b) (lanes128 e.lanes) (lanes128 m.2.2.1))
      .next (((s.clearAn n c).mapFab (fun f => { f with pair := f.pair.erase m })).startRelease im n p k sum mark c.work)
    | _, _ => .next s

/-- What the matrix nodes of the current core do at the end of a cycle at the latest: the addends that reached a node in an
earlier cycle are added (R362), and a ring whose last row is written moves on (R197). -/
def State.endNodes (s : State) : State :=
  let s := (List.range 8).foldl (fun s n => State.addDue n s.core.set.fab.anq.length s) s
  match s.core.set.fab.running with
  | some im =>
    if im.mxParams.toTile && im.usesMx && s.core.fabricRuns s.cycle then s.closeTile im.mxParams im.mxParams.an else s
  | none => s

/-! ### The gate pipeline (R79, R80, R203, R204) -/

/-- One stage on one lane: x, y and the constant. -/
def gpStage (code k x y : Nat) : Nat :=
  match code with
  | 1 => fp32.mul x k
  | 2 => fp32.add x k
  | 3 => fp32.mul x y
  | 4 => fp32.add x y
  | 5 => gpSig x
  | 6 => gpTanh x
  | 7 => gpSilu x
  | 8 => gpGelu x
  | 9 => gpExp x
  | 10 => fp32.exp2 x
  | 11 => fp32.rcp x
  | 12 => gpExpQ8 x
  | 13 => cvtElement 0 (bitSpan k 4 4) (Mode.ofCode (bitSpan k 8 2)) (!bitAt k 10) x
  | _ => x

def GpParams.lane (p : GpParams) (x y : Nat) : Nat := p.stages.foldl (fun v st => gpStage st.1.toNat st.2.toNat v y) x

/-- The bits of one result element. -/
def GpParams.bits (p : GpParams) : Nat := stagesBits p.stages

/-- The elements of a firing, from byte 0 up. -/
def GpParams.apply (p : GpParams) (x y : Payload) : Payload :=
  ofLanes p.bits (List.zipWith p.lane (lanes 32 x) (lanes 32 y))

def gpInput (i : Nat) : Target := nodeTarget 2 i

/-- The place of the pipeline among the elements that have fired in a cycle. -/
def gpElement : Nat := 32

/-- The firings that fill one packed token. -/
def GpParams.parts (p : GpParams) : Nat := 32 / p.bits

/-- A result accepted under the parameters p joins the fill of its stitch. -/
def GpFill.join (g : GpFill) (p : GpParams) (t : Token) : GpFill where
  bytes := if t.isError then g.bytes else g.bytes ||| (t.payload <<< (32 * p.bits * g.count))
  count := g.count + 1
  last := g.last || t.tag.last
  cause := match g.cause with
    | some c => some c
    | none => if t.isError then some t.tag.cause else none
  tag   := t.tag
  par   := p

/-- An empty fill. -/
def GpFill.fresh (p : GpParams) (t : Token) : GpFill := ⟨0, 0, false, none, t.tag, p⟩

/-- The packed token, with the tag of its last result. -/
def GpFill.token (g : GpFill) : Token :=
  match g.cause with
  | some c => ⟨{ g.tag with kind := .error, cause := c, last := g.last }, 0⟩
  | none => ⟨{ g.tag with last := g.last, kind := .data, cause := 0 }, g.bytes⟩

/-- Results accepted under the parameters p fill the same token: it is packed alike and leaves for the same targets. -/
def GpFill.goesOn (g : GpFill) (p : GpParams) : Bool :=
  p.pack && g.par.bits == p.bits && g.par.out == p.out && g.par.out2 == p.out2

/-- What a firing of stitch k takes: the token at gp.0, and that at gp.1 where a stage reads it. -/
def Fabric.gpTaken (f : Fabric) (p : GpParams) (k : Nat) : Option Taken :=
  match f.oldest (gpInput 0) k with
  | none => none
  | some t =>
    if t.tag.kind = .endOfReduction ∨ t.tag.kind = .order ∨ !p.readsY then some ⟨t, none, none⟩
    else (f.oldest (gpInput 1) k).map (fun y => ⟨t, some y, none⟩)

/-- What a firing sends, and the fill it leaves. -/
def Fabric.gpResult (f : Fabric) (p : GpParams) (t : Taken) : Option Token × Option GpFill :=
  if t.l.tag.kind = .endOfReduction ∨ t.l.tag.kind = .order then (some t.l, lookup t.l.k f.gpFill)
  else
    let r := t.result (fun t => t.data (p.apply t.l.payload t.rp))
    if p.pack then
      let g := ((lookup t.l.k f.gpFill).getD (.fresh p r)).join p r
      if g.count ≥ p.parts ∨ r.tag.last then (some g.token, none) else (none, some g)
    else (some r, none)

/-- A fill of the stitch that a firing's result cannot join, since the parameters it was accepted under are no longer in
force. -/
def Fabric.gpOver (f : Fabric) (p : GpParams) (t : Taken) : Option GpFill :=
  if t.l.tag.kind = .endOfReduction ∨ t.l.tag.kind = .order then none
  else (lookup t.l.k f.gpFill).filter (fun g => !g.goesOn p)

/-- A token of the pipeline leaves for both targets of the parameters it was made under. -/
def Fabric.gpSend (f : Fabric) (p : GpParams) (now : Nat) (out : Option Token) : Fabric :=
  let send (f : Fabric) (g : Target) (r : Token) : Fabric := f.send (boxOf (.gp 0)) now p.latency g r
  match out with
  | some r => send (send f p.out r) p.out2 r
  | none => f

/-- The pipeline may fire in this cycle, with room for what it sends. -/
def CSet.gpMay (c : CSet) (p : GpParams) (sends : Bool) : Bool :=
  !c.fab.fired.contains gpElement && (!sends || (c.fab.hasRoom p.out && c.fab.hasRoom p.out2))

/-- A firing of stitch k. Work accepted under earlier parameters completes under them (R118, R119): DESIGN CHOICE
(assumption 134): a packed token that was not full when they changed leaves by itself before the next result, in a cycle of
its own. -/
def execGpFiring (k : Nat) (s : State) : Out :=
  match s.core.set.fab.running.bind Image.gp with
  | none => .next s
  | some p =>
    match s.core.set.fab.gpTaken p k with
    | none => .next s
    | some t =>
      match s.core.set.fab.gpOver p t with
      | some g =>
        when (s.core.fabricRuns s.cycle && s.core.set.gpMay g.par true) s (fun s =>
          s.mapFab (fun f =>
            (Fabric.gpSend { f with gpFill := erase k f.gpFill, fired := gpElement :: f.fired } g.par s.cycle
              (some g.token)).move s.cycle))
      | none =>
        match s.core.set.fab.gpResult p t with
        | (out, fill) =>
          when (s.core.fabricRuns s.cycle && s.core.set.gpMay p out.isSome) s (fun s =>
            s.mapFab (fun f =>
              let f := { f with
                held := (if t.r.isSome then removeHeld (gpInput 1) k else id) (removeHeld (gpInput 0) k f.held)
                gpFill := match fill with
                  | some g => insert k g f.gpFill
                  | none => erase k f.gpFill
                fired := gpElement :: f.fired }
              (f.gpSend p s.cycle out).move s.cycle))

/-! ### MXW (R205 to R207) -/

/-- The status of a weight tile (R206). -/
def mxwStatus (t : Tile) (size : Nat) (group : Bool) : Option Nat :=
  if !t.valid size then some 0x40
  else if t.badFormat then some 0x41
  else if isByteFmt t.format then (if t.rows = 128 ∧ t.units = 8 then none else some 0x50)
  else if t.format = 1 ∨ t.format = 2 then (if t.rows = 64 ∧ t.units = 8 ∧ !group then none else some 0x50)
  else some 0x50

/-- An explicit plane is named in two-plane mode, and only there; without a running configuration nothing is asked. -/
def State.planeModeBad (s : State) (explicit : Bool) : Bool :=
  match s.core.set.fab.running with
  | some im => im.mxParams.planes != explicit
  | none => false

/-- A status with the faulting address in [55:8]. -/
def memStatus (va : Nat) : Word := statusWord 0x44 (va % 2 ^ 48)

/-- The group scales read at issue, then the wait for the tile. -/
def State.beginMxw (s : State) (t : Reg) (even odd b : Word) (q : BitVec 3) : State :=
  let plane : Option Bool := if q.getLsbD 1 then some (q.getLsbD 2) else none
  if q.getLsbD 0 then
    match s.checked .read b 16 256 with
    | (u, .error c) => u.trap c b
    | (u, .ok (window, spans)) =>
      match State.readSpans window spans u with
      | (u, _, some e) => (u.later t .mxw (memStatus e.2.va) .clear 1).advance
      | (u, bs, none) =>
        (u.begin t .mxw (.latch even odd 0
          (some ((List.range 128).map (fun i => BitVec.ofNat 16 (field bs (2 * i) 2)))) plane)).advance
  else (s.begin t .mxw (.latch even odd (BitVec.setWidth 32 b) none plane)).advance

/-- The registers MXW reads: in 16-bit formats not b. -/
def State.mxwReads (s : State) (a b : Reg) : List Reg :=
  let f := (tileOf (s.reg a) (s.reg (pairOf a))).format
  if f = 1 ∨ f = 2 then [a, pairOf a] else [a, pairOf a, b]

def execMxw (t a b : Reg) (q : BitVec 3) (s : State) : Out :=
  issueUnless (fun s => s.unfinished [.mxw]) (.mxw t a b q) ⟨s.mxwReads a b, t, 0⟩
    (fun s =>
      let even := s.reg a
      let odd := s.reg (pairOf a)
      if q.getLsbD 0 && s.readHeld (s.reg b) then s
      else match mxwStatus (tileOf even odd) (windowSize s.core.sliced) (q.getLsbD 0) with
        | some n => (s.fails t n).advance
        | none =>
          if s.planeModeBad (q.getLsbD 1) then (s.fails t 0x51).advance
          else s.beginMxw t even odd (s.reg b) q) s

def Planes.put (p : Planes) (one : Bool) (x : Plane) : Planes := if one then { p with plane1 := x } else { p with plane0 := x }

/-- The bytes of every row of a tile, up to an error. -/
def State.readRows (t : Tile) (j : Nat) : List Nat → State → State × Except Nat (List Payload)
  | [], s => (s, .ok [])
  | r :: rest, s =>
    match State.readSpans true (s.rowSpans t j r) s with
    | (s, _, some e) => (s, .error e.2.va)
    | (s, bs, none) =>
      match State.readRows t j rest s with
      | (s, .ok l) => (s, .ok (payloadOf bs :: l))
      | (s, .error va) => (s, .error va)

/-- The latch: tile 0's tag is FULL, and no swap of an earlier latch is due. -/
def State.endLatch (s : State) (id : Nat) (even odd : Word) (scale : BitVec 32) (group : Option (List (BitVec 16)))
    (plane : Option Bool) : State :=
  let t := tileOf even odd
  if !s.core.set.tagFull t.tag || s.core.set.planes.swapDue then s
  else match State.readRows t 0 (List.range t.rows) s with
    | (s, .error va) => s.settle id (memStatus va) .clear
    | (s, .ok rows) =>
      let p := plane.getD (!s.core.set.planes.active)
      let x : Plane := ⟨BitVec.ofNat 4 t.format, group.isSome, scale, group.getD [], rows⟩
      ((s.mapSet (fun c => { c with
        planes := { c.planes.put p x with swapDue := plane.isNone } })).setTag t.tag false).settle
          id (BitVec.ofNat 64 p.toNat) .clear

/-! ### MXCLR, ACCRD and GPLD (R206, R208) -/

/-- MXCLR, ACCRD and GPLD wait for earlier CFG and RND instructions. -/
def matIssue (i : Instr) (n : Needs) (body : State → State) (s : State) : Out :=
  issueUnless (fun s => s.inProgress [.cfg, .rnd, .cast, .move]) i n body s

/-- The accumulator node's block in the running configuration: NOCFG or RANGE where there is none. -/
def State.anArg (s : State) (n : Nat) : Except Nat AnParams :=
  match s.core.set.fab.running with
  | none => .error 0x22
  | some im =>
    match im.an n with
    | some p => .ok p
    | none => .error 0x27

/-- The clears enter the node's order behind the blocks that entered before. DESIGN CHOICE (assumption 133): so do they
behind the releasing tokens, addends and order tokens that reached the node before the issue. -/
def State.beginClear (s : State) (t : Reg) (n : Nat) (mask : Word) : State :=
  let ks := (List.range 64).filter (fun k => mask.getLsbD k)
  if ks.isEmpty then s.later t .mat 0 .clear 1
  else
    (s.begin t .mat .clear).mapFab (fun f => ks.foldl (fun f k => f.toAn n k (.clear s.net.nextId)) f)

def execMxclr (t a : Reg) (q : BitVec 3) (s : State) : Out :=
  matIssue (.mxclr t a q) ⟨[a], t, 0⟩
    (fun s =>
      match s.anArg q.toNat with
      | .error n => (s.fails t n).advance
      | .ok _ => (s.beginClear t q.toNat (s.reg a)).advance) s

/-- An MXCLR completes when no clear of it is left. -/
def State.endClear (s : State) (id : Nat) : State :=
  if s.core.set.fab.anq.any (fun m => m.work == .clear id) then s else s.settle id 0 .clear

def execAccrd (t a b : Reg) (q : BitVec 3) (s : State) : Out :=
  matIssue (.accrd t a b q) ⟨[a, b], t, 0⟩
    (fun s =>
      let va := s.reg b
      if s.globalHeld va then s
      else match s.checked .write va 8 520 with
        | (u, .error c) => u.trap c va
        | (u, .ok (window, spans)) =>
          match u.anArg q.toNat with
          | .error n => (u.fails t n).advance
          | .ok _ =>
            if (s.reg a).toNat > 63 then (u.fails t 0x27).advance
            else (u.begin t .mat (.accrd q.toNat (s.reg a).toNat window spans)).advance) s

/-- The record data written at the node's token boundary: each addition is one step, and no release is under way
(R119). -/
def State.endAccrd (s : State) (id n k : Nat) (window : Bool) (spans : List Span) : State :=
  if (!window && s.retentionFull) || s.core.set.fab.rels.any (fun e => e.node == n) then s
  else
    let e := s.core.set.fab.anAt n k
    let g := match s.core.set.fab.running with | some im => im.groups n | none => 4
    (s.write .sequencer window spans (e.bytes g)).1.settle id (BitVec.setWidth 64 e.blocks) .clear

/-- The last stage other than PASS, or 0xFD. -/
def lastStage (l : List (BitVec 4 × BitVec 32)) : Nat :=
  (((List.zipIdx l).filter (fun x => x.1.1 ≠ 0)).getLast?.map (fun x => x.2)).getD 0xFD

/-- GPBAD's detail for a new program (R206). -/
def gpldDetail (old : GpParams) (bs : List Byte) : Option Nat :=
  let new := { old with stages := stagesOf bs 0 }
  match lowest (badStages bs 0) with
  | some i => some i
  | none =>
    if old.pack && new.bits == 32 then some (lastStage new.stages)
    else if new.latency ≠ old.latency then some 0xFF
    else if new.readsY != old.readsY then some 0xFE
    else none

def State.beginGpld (s : State) (t : Reg) (bs : List Byte) (err : Option (BitVec 6 × Span)) : State :=
  match s.core.set.fab.running with
  | none => s.fails t 0x22
  | some im =>
    match im.gp with
    | none => s.fails t 0x27
    | some p =>
      match err with
      | some e => s.later t .mat (memStatus e.2.va) .clear 1
      | none =>
        match gpldDetail p bs with
        | some d => s.later t .mat (statusWord 0x52 d) .clear 1
        | none =>
          let new := { p with stages := stagesOf bs 0 }
          s.begin t .mat (.parm (.gp new) (BitVec.ofNat 64 new.latency))

def execGpld (t a : Reg) (s : State) : Out :=
  matIssue (.gpld t a) ⟨[a], t, 0⟩
    (fun s =>
      let va := s.reg a
      if s.readHeld va then s
      else match s.checked .read va 8 64 with
        | (u, .error c) => u.trap c va
        | (u, .ok (window, spans)) =>
          match State.readSpans window spans u with
          | (u, bs, err) => (u.beginGpld t bs err).advance) s

end Sys2Proof.Machine
end

