-- ==== Sys2Proof/Machine/Debug.lean ====
section
/-!
DEFINITION. The DBG instructions (R334 to R343).
-/

namespace Sys2Proof.Machine

/-! ### Issue and failures (R336, R337) -/

/-- A failure: the status, and the core concerned or 0xFF. -/
def State.dbgFails (s : State) (t : Reg) (status core : Nat) : State := s.later t .other (statusWord status core) .clear 1

def noCore : Nat := 0xFF

/-- A core that the current unit may name: one of its partition, any at device level, and none that the configuration record
disables (R22). -/
def State.mayName (s : State) (n : Nat) : Bool :=
  s.host.enabled.cores.getLsbD n && (s.seq.level == 2 || (s.coreMask s.unit.part).getLsbD n)

/-- A set is in use by the caller's partition; at device level, by any. -/
def State.callers (s : State) (c : CSet) : Bool :=
  match c.unit with
  | some u => s.seq.level == 2 || u.part == s.unit.part
  | none => false

/-- The sets of core k that an instruction of the current unit acts on: those that run the launch; of a core that it names,
those that its partition uses, at device level all in use, and where there is none the empty ones. -/
def State.acts (s : State) (lid : Option (BitVec 32)) (k : Core) (c : CSet) : Bool :=
  match lid with
  | some l => c.runs l
  | none => s.callers c || (c.unit.isNone && !k.sets.any s.callers)

/-- What FREEZE and THAW name: cores, with the launch where it is one; or the failure. -/
abbrev Named := Except (Nat × Nat) (List Nat × Option (BitVec 32))

/-- The cores of a region word. -/
def State.namedRegion (s : State) (v : Word) : Named :=
  match (if v.toNat < 65536 then regionCores v.toNat else none) with
  | none => .error (0x27, noCore)
  | some l =>
    match l.find? (fun n => !s.mayName n) with
    | some n => .error (0x43, n)
    | none => if l.contains s.core.num then .error (0xA0, s.core.num) else .ok (l, none)

/-- The cores that run units of a launch of the partition. -/
def State.namedLaunch (s : State) (v : Word) : Named :=
  let lid : BitVec 32 := BitVec.setWidth 32 v
  let runs (c : CSet) : Bool := c.runs lid && (s.seq.level == 2 || c.of s.unit.part)
  let l := (List.range 256).filter (fun n => (s.coreAt n).sets.any runs)
  if v.toNat ≥ 2 ^ 32 ∨ l.isEmpty then .error (0x27, noCore)
  else if l.contains s.core.num then .error (0xA0, s.core.num)
  else .ok (l, some lid)

def State.named (s : State) (launch : Bool) (v : Word) : Named := if launch then s.namedLaunch v else s.namedRegion v

/-- The sets an instruction acts on, on one core. -/
def State.actsOn (s : State) (lid : Option (BitVec 32)) (n : Nat) : List (CSet × Parked) :=
  (s.coreAt n).placed.filter (fun c => s.acts lid (s.coreAt n) c.1)

def State.frozenAt (s : State) (lid : Option (BitVec 32)) (n : Nat) : Bool :=
  (s.actsOn lid n).all (fun c => c.2.frost == .frozen) && !(s.actsOn lid n).isEmpty

/-! ### FREEZE and THAW (R338) -/

def execFreeze (t a : Reg) (q : BitVec 1) (s : State) : Out :=
  issue (.freeze t a q) ⟨[a], t, 1⟩
    (fun s =>
      match s.named (q == 1) (s.reg a) with
      | .error e => (s.dbgFails t e.1 e.2).advance
      | .ok (l, lid) =>
        ((l.foldl (fun u n => u.freezeAt n (s.acts lid (s.coreAt n))) s).begin t .other (.frost l lid false)).advance) s

/-- FREEZE completes once every core is frozen, but for one whose unit has ended meanwhile; THAW once each has resumed. -/
def State.endFrost (s : State) (id : Nat) (l : List Nat) (lid : Option (BitVec 32)) (thaw : Bool) : State :=
  let done (n : Nat) : Bool :=
    if thaw then (s.actsOn lid n).all (fun c => c.2.frost ≠ .thawing)
    else (s.actsOn lid n).all (fun c => c.2.frost == .frozen || c.1.unit.isNone && c.2.frost == .thawed)
  if l.all done then s.settle id (BitVec.ofNat 64 l.length) .clear else s

/-- A core in trap lock stays as it is below device level (R327). -/
def State.lockedAt (s : State) (lid : Option (BitVec 32)) (n : Nat) : Bool :=
  s.seq.level ≠ 2 && (s.actsOn lid n).any (fun c => c.2.locked)

def execThawResume (t a : Reg) (q : BitVec 1) (s : State) : Out :=
  issue (.thawResume t a q) ⟨[a], t, 1⟩
    (fun s =>
      match s.named (q == 1) (s.reg a) with
      | .error e => (s.dbgFails t e.1 e.2).advance
      | .ok (l, lid) =>
        match l.find? (fun n => !s.frozenAt lid n) with
        | some n => (s.dbgFails t 0xA1 n).advance
        | none =>
          let go := l.filter (fun n => !s.lockedAt lid n)
          ((go.foldl (fun u n => u.thawAt n (s.acts lid (s.coreAt n)) (s.seq.level == 2)) s).begin t .other (.frost go lid true)).advance) s

/-- The own hold is to end at the next boundary; one that has not begun does not begin. -/
def State.releaseHold (s : State) : State :=
  s.mapCore (fun k => { k with hold :=
    match k.hold with
    | .held => if k.set.fab.running.isSome then .leaving else .none
    | .coming => .none
    | h => h })

def execThawReleaseHold (t : Reg) (s : State) : Out :=
  issue (.thawReleaseHold t) ⟨[], t, 1⟩
    (fun s =>
      if s.core.hold = .none then (s.dbgFails t 0xA5 noCore).advance
      else (s.releaseHold.begin t .other .unhold).advance) s

def State.endUnhold (s : State) (id : Nat) : State := if s.core.hold = .leaving then s else s.settle id 1 .clear

/-- The unit leaves a core without halting, and the core, or its half, is cleared (R310). -/
def State.vacate (s : State) (acts : CSet → Bool) (n : Nat) : State :=
  let k := s.coreAt n
  if k.sliced = false then s.clearCore n
  else
    let s := if acts k.set then s.clearHalf n k.half else s
    let s := if k.shadow.toList.any acts then s.clearHalf n (!k.half) else s
    let k := if acts k.set then k.withActive .empty Parked.none else k
    s.setCore { k with shadow := k.shadow.map (fun c => if acts c then .empty else c) }

def execThawVacate (t a : Reg) (q : BitVec 1) (s : State) : Out :=
  issue (.thawVacate t a q) ⟨[a], t, 1⟩
    (fun s =>
      match s.named (q == 1) (s.reg a) with
      | .error e => (s.dbgFails t e.1 e.2).advance
      | .ok (l, lid) =>
        match l.find? (fun n => !s.frozenAt lid n) with
        | some n => (s.dbgFails t 0xA1 n).advance
        | none =>
          match l.find? (fun n => (s.actsOn lid n).any (fun c => !c.2.skouted)) with
          | some n => (s.dbgFails t 0xA2 n).advance
          | none =>
            ((l.foldl (fun u n => u.vacate (s.acts lid (s.coreAt n)) n) s).later t .other (BitVec.ofNat 64 l.length) .clear 1).advance) s

/-! ### Skeins (R334, R335, R339) -/

/-- The bytes of a whole scratchpad, by offset. -/
def Memory.takeWhole (m : Memory) (n : Nat) : Memory :=
  m.filterMap (fun c => if inScratch n c.1 then some (c.1 - scratchAt n, c.2) else none)

/-- A core as a skein keeps it: the set with its bytes, and what stands for it, its hold, breakpoints and trace. -/
def State.skeinCore (s : State) (n : Nat) (half : Bool) (c : CSet) (p : Parked) : Core :=
  let k := s.coreAt n
  let spad := if k.sliced then s.mem.takeHalf n half else s.mem.takeWhole n
  { k.withActive { c with parked := { p with spad := spad } } p with shadow := none }

/-- The set that SKOUT writes, the one that the caller acts on, with what stands for it; and whether it lies in the upper
half. -/
def State.skeinSet (s : State) (n : Nat) : Option (CSet × Parked × Bool) :=
  let k := s.coreAt n
  if s.acts none k k.set then some (k.set, k.parking, k.half)
  else (k.shadow.filter (s.acts none k)).map (fun c => (c, c.parked, !k.half))

/-- The status and core of a failure that names a core: outside the partition, or the own one. -/
def State.coreArg (s : State) (v : Word) : Except (Nat × Nat) Nat :=
  if v.toNat > 255 then .error (0x43, noCore)
  else if !s.mayName v.toNat then .error (0x43, v.toNat)
  else if v.toNat = s.core.num then .error (0xA0, v.toNat)
  else .ok v.toNat

/-- A set whose skein is written: it may be vacated, and its trap lock ends (R327). -/
def Parked.saved (p : Parked) : Parked := { p with skouted := true, locked := false }

/-- SKOUT past its checks. -/
def State.skout (s : State) (t : Reg) (n : Nat) (va : Word) : State :=
  match s.coreArg (BitVec.ofNat 64 n) with
  | .error e => s.dbgFails t e.1 e.2
  | .ok n =>
    if !s.frozenAt none n then s.dbgFails t 0xA1 n
    else match s.skeinSet n with
      | none => s.dbgFails t 0xA1 n
      | some (c, p, half) =>
        let bs := s.skeinBytes n (s.coreAt n).sliced c
        match s.resolve .write va.toNat bs.length with
        | (u, .error f) => u.dbgFails t f.1.status n
        | (u, .ok (window, spans)) =>
          let u := { u with host := { u.host with skeins := ⟨bs, u.skeinCore n half c p⟩ :: u.host.skeins } }
          let u := u.mapCoreAt n (fun k => k.mapParked (s.acts none (s.coreAt n)) Parked.saved Parked.saved)
          ((u.write .sequencer window spans bs).1.later t .other (BitVec.ofNat 64 bs.length) .clear 1).spent

def execSkout (t a b : Reg) (s : State) : Out :=
  issue (.skout t a b) ⟨[a, b], t, 1⟩
    (fun s =>
      let va := s.reg b
      if s.globalHeld va then s
      else match s.checked .write va 64 320 with
        | (u, .error c) => u.trap c va
        | (u, .ok _) => (u.skout t (s.reg a).toNat va).advance) s

/-- A destination word's core rewritten, where its kind is 1 (R276). -/
def remapDest (f : Nat → Nat) (w : Nat) : Nat :=
  if bitSpan w 16 2 = 1 ∧ bitSpan w 8 8 = 0 then w - w % 256 + f (w % 256) % 256 else w

/-- The destination word of a token at a route-class port, its lane 31 (R272). -/
def Token.remapDest (f : Nat → Nat) (t : Token) : Token :=
  let w := lane32 t.payload 31
  { t with payload := BitVec.ofNat 1024 (t.payload.toNat % 2 ^ 992 + Sys2Proof.Machine.remapDest f w * 2 ^ 992) }

/-- A place is the input of a port that sends to destinations. -/
def CSet.routes (c : CSet) (t : Target) : Bool :=
  match placeOf t with
  | .np p => (c.port p).any (fun q => q.mode == 1)
  | _ => false

/-- Core numbers rewritten through a core map: yarn ends, the partner in PAIR mode, the destinations of the tokens at the
inputs of route-class ports, and ACOPYB subtrees; `n` is the core that the set left (R335). -/
def CSet.remap (f : Nat → Nat) (n : Nat) (c : CSet) : CSet :=
  let token (t : Target) (x : Token) : Token := if c.routes t then x.remapDest f else x
  { c with
    partner := some (f (c.partner.getD (n ^^^ 1)))
    fab := { c.fab with
      held := c.fab.held.map (fun e => (e.1, token e.1 e.2))
      flights := c.fab.flights.map (fun e => { e with tok := token e.tgt e.tok })
      inq := c.fab.inq.map (fun e => { e with tok := token e.tgt e.tok })
      nps := c.fab.nps.map (fun e =>
        (e.1, { e.2 with yarn := e.2.yarn.map (fun y => (BitVec.ofNat 8 (f y.1.toNat), y.2)) })) }
    eng := c.eng.map (fun e => { e with work :=
      match e.work with
      | .spread even odd mem stride j cores => .spread even odd mem stride j (cores.map f)
      | w => w }) }

/-- The kept skein whose bytes these are, but for the core map. -/
def State.skeinOf (s : State) (bs : List Byte) : Option Skein :=
  s.host.skeins.find? (fun k => k.bytes.take 64 == bs.take 64 && k.bytes.drop 320 == bs.drop 320)

/-- Core n is free for a skeined set of the caller's partition: it is not frozen, and no unit runs on it, or on a sliced
core one of its sets is free for the partition; at device level any set. -/
def State.skinFree (s : State) (n : Nat) : Bool :=
  let k := s.coreAt n
  k.frost == .thawed &&
    if k.sliced then
      s.halfFree s.unit.part none n || (s.resumeResv s.unit.part n).isSome || (s.seq.level == 2 && s.hasPlace n)
    else k.set.unit.isNone

/-- The reservation under which a unit of partition p stands on core n, where it is sliced and not borrowed. -/
def State.resvFor (s : State) (p n : Nat) : Option Nat :=
  if s.halfFree p none n then none else (s.resumeResv p n).map (fun (r : Reservation) => r.num)

/-- The set of a skein stands on core n, frozen, with its bytes and what stands for it: the hold, the breakpoints and the
trace that came with it (R340, R341). -/
def State.install (s : State) (n : Nat) (sk : Skein) (f : Nat → Nat) : State :=
  let k := s.coreAt n
  let c := sk.core.set.remap f sk.core.num
  let c := if k.sliced then { c with unit := c.unit.map (fun (u : UnitCtx) => { u with under := s.resvFor u.part n }) } else c
  let p : Parked := { c.parked with frost := .frozen, locked := false, skouted := false }
  let s := match c.unit with | some u => s.moveUnit u n | none => s
  if k.sliced then s.standOn n c p
  else
    { s.setCore (k.withActive { c with parked := .none } p) with
      mem := p.spad.foldl (fun m x => m.put (scratchAt n + x.1) x.2) (s.mem.clear (scratchAt n) scratchSize) }

/-- SKIN once the skein's header has been read: its mode, then the whole of it. -/
def State.skinFrom (s : State) (t : Reg) (n : Nat) (va : Word) (head : List Byte) : State :=
  let len := field head 0x10 4
  if bitAt (field head 7 1) 0 ≠ (s.coreAt n).sliced then s.dbgFails t 0xA4 n
  else if len < 320 ∨ len > skeinMax then s.dbgFails t 0xA3 n
  else match s.resolve .read va.toNat len with
    | (u, .error f) => u.dbgFails t f.1.status n
    | (u, .ok (window, spans)) =>
      match State.readSpans window spans u with
      | (u, _, some _) => u.dbgFails t 0x44 n
      | (u, bs, none) =>
        match u.skeinOf bs with
        | none => u.dbgFails t 0xA3 n
        | some sk => (u.install n sk (fun c => field bs (64 + c) 1)).later t .other (BitVec.ofNat 64 len) .clear 1

/-- The core that SKIN names, free for the skein. -/
def State.skinCore (s : State) (v : Word) : Except (Nat × Nat) Nat :=
  match s.coreArg v with
  | .error e => .error e
  | .ok n => if s.skinFree n then .ok n else .error (0x21, n)

def execSkin (t a b : Reg) (s : State) : Out :=
  issue (.skin t a b) ⟨[a, b], t, 1⟩
    (fun s =>
      let va := s.reg b
      if s.readHeld va then s
      else match s.checked .read va 64 320 with
        | (u, .error c) => u.trap c va
        | (u, .ok (window, spans)) =>
          match u.skinCore (s.reg a) with
          | .error e => (u.dbgFails t e.1 e.2).advance
          | .ok n =>
            match State.readSpans window spans u with
            | (u, _, some _) => (u.dbgFails t 0x44 n).advance
            | (u, head, none) => (u.skinFrom t n va head).advance) s

/-! ### BRKN, TRCON and TRCOFF (R340, R341) -/

def State.setBreak (s : State) (q : BitVec 2) (b : Option Breakpoint) : State :=
  s.mapCore (fun k => { k with breaks := k.breaks.set q.toNat b (by have := q.isLt; omega) })

def execBrkn (t a b : Reg) (q : BitVec 2) (s : State) : Out :=
  issue (.brkn t a b q) ⟨[a, b], t, 1⟩
    (fun s =>
      let w := s.reg b
      let g : BitVec 32 := BitVec.setWidth 32 (s.reg a)
      if wspan w 48 16 ≠ 0 then (s.dbgFails t 0x27 noCore).advance
      else
        (((s.setBreak q (if g = 0xFFFFFFFF then none else some ⟨g, w, BitVec.ofNat 8 (wspan w 8 8)⟩)).later t .other
          s.openValue .clear 1).spent).advance) s

/-- A trace control block within its limits. -/
def traceOf (bs : List Byte) : Option Trace :=
  let buf := field bs 0 8
  let cap := field bs 8 4
  let flags := field bs 0x18 1
  if buf % 32 ≠ 0 ∨ cap = 0 ∨ cap > 2 ^ 24 ∨ flags ≥ 8 ∨ field bs 0x19 7 ≠ 0 then none
  else some ⟨BitVec.ofNat 64 buf, BitVec.ofNat 32 cap, BitVec.ofNat 32 (field bs 12 4), BitVec.ofNat 64 (field bs 0x10 8),
    bitAt flags 0, bitAt flags 1, bitAt flags 2, 0, 0, []⟩

def execTrcon (t a : Reg) (s : State) : Out :=
  issue (.trcon t a) ⟨[a], t, 1⟩
    (fun s =>
      let va := s.reg a
      if s.readHeld va then s
      else match s.checked .read va 1 32 with
        | (u, .error c) => u.trap c va
        | (u, .ok (window, spans)) =>
          match State.readSpans window spans u with
          | (u, _, some _) => (u.dbgFails t 0x44 noCore).advance
          | (u, bs, none) =>
            match traceOf bs with
            | none => (u.dbgFails t 0x27 noCore).advance
            | some x =>
              (((u.mapCore (fun k => { k with trace := some x })).later t .other u.openValue .clear 1).spent).advance) s

/-- Records written and dropped; nothing was traced without a block. -/
def Trace.counts (t : Trace) : Word :=
  BitVec.ofNat 64 (min t.written 0xFFFFFFFF + min t.dropped 0xFFFFFFFF * 2 ^ 32)

/-- TRCOFF stalls while a staged record finds no place in the retention buffer (R264). -/
def execTrcoff (t : Reg) (s : State) : Out :=
  issue (.trcoff t) ⟨[], t, 1⟩
    (fun s =>
      let u := State.traceFlush (s.cycle + 1) 64 s
      match u.core.trace with
      | some x =>
        if x.staged.isEmpty then
          ((u.mapCore (fun k => { k with trace := none })).later t .other x.counts .clear 1).advance
        else s
      | none => (s.later t .other 0 .clear 1).advance) s

/-! ### WALK (R342) -/

/-- A target that stands for a slot or node: its first position or input. -/
def vertexTarget (v : Nat) : Target :=
  if v < 512 then slotTarget v 0
  else
    let id := v - 1024
    if id < 32 then nodeTarget 0 0
    else if id < 64 then nodeTarget 1 (2 * (id - 32))
    else if id < 96 then nodeTarget 2 0
    else if id < 128 then nodeTarget 3 (2 * (id - 96))
    else if id < 160 then nodeTarget 4 (id - 128)
    else nodeTarget 5 0

/-- The inputs that a node takes a token from whatever feeds them: of the matrix node without a tile source, of the gate
pipeline, of a composer that steps on arrival, and a memory node's requests, with the data of a store. -/
def Image.mustHave (im : Image) (v : Nat) : List Target :=
  match placeOf (vertexTarget v) with
  | .mx _ => if im.mx.any (fun p => !p.tile) then [vertexTarget v] else []
  | .gp _ => [vertexTarget v]
  | .mn n _ => vertexTarget v :: (if (im.mn n).any (fun p => p.store) then [nodeTarget 3 (2 * n + 1)] else [])
  | .sm => if im.sm.any (fun p => p.astep) then [vertexTarget v] else []
  | _ => []

/-- The positions or inputs that x reads. -/
def Image.inputsOf (im : Image) (v : Nat) : List Target :=
  if v < 512 then
    match im.slot v with
    | some r => (im.reads r).map (fun pos => slotTarget v pos)
    | none => []
  else (im.mustHave v ++ ((im.parsed 1024).producers.map (fun p => p.tgt)).filter (fun t => vertexOf t == some v)).eraseDups

/-- The targets that x sends to. -/
def Image.outputsOf (im : Image) (v : Nat) : List Target :=
  ((im.parsed 1024).producers.filter (fun p => p.vertex == v)).map (fun p => p.tgt)

/-- The stitch that waits at x: that of the oldest token at an input, else the one that waited before. -/
def Fabric.waiting (f : Fabric) (ins : List Target) (before : Option Nat) : Option Nat :=
  match ins.findSome? (fun t => (f.heldAt t).head?) with
  | some k => some k.k
  | none => before

/-- The input lacks a token of the waiting stitch. -/
def Fabric.lackedAt (f : Fabric) (k : Option Nat) (t : Target) : Bool :=
  match k with
  | some n => !(f.heldAt t).any (fun x => x.k == n)
  | none => (f.heldAt t).isEmpty

/-- A node waits for its own memory request, a page fault, a tile tag, or the network; `back` says that the walk came to
it from a token it is to bring. -/
def State.nodeWaits (s : State) (im : Image) (back : Bool) (t : Target) : Bool :=
  let c := s.core.set
  match placeOf t with
  | .mx _ => c.tagWait im
  | .mn n _ => (c.fab.mnAt n).stop.isSome || s.mnOpen c.fab (c.fab.mnAt n)
  | .an n _ => (c.fab.anCands n).any (fun x => x.work.releases && !s.ringFree im n x.stitch)
  | .np p => back || (!(c.fab.heldAt (npInput p)).isEmpty && !(s.portMaySend p &&
      (c.port p).any (fun q => q.mode == 1 || (c.fab.npAt p).yarn.isSome)))
  | _ => false

/-- A position's producers are the sequencer's input ports: an open one is empty, and none has a token for it. -/
def Fabric.portLacks (f : Fabric) (t : Target) : Bool :=
  !f.inq.any (fun e => e.tgt == t) && (List.range 16).any (fun q => (f.inPort q).isEmpty && !f.portClosed q)

/-- Where the steps end at a place that is no slot and no processing node: a full output port is reason 2. -/
def Fabric.endReason (f : Fabric) (t : Target) : Nat :=
  match placeOf t with
  | .seq _ => if f.hasRoom t then 0 else 2
  | _ => 0

/-- Where a walk stops: x, the reason, and the steps taken. -/
abbrev Stop := Target × Nat × Nat

/-- The walk from x; `back` says that the last step went to a producer, `seen` are the slots and nodes behind it, and `out`
is the reason where a step past the 64th would be needed. A node that holds work is followed to a full target first. -/
def State.walkOn (s : State) (im : Image) (out : Nat) : Nat → Bool → Target → Option Nat → List Nat → Nat → Stop
  | 0, _, x, _, _, steps => (x, out, steps)
  | n + 1, back, x, k, seen, steps =>
    let f := s.core.set.fab
    match vertexOf x with
    | none => (x, f.endReason x, steps)
    | some v =>
      let ins := im.inputsOf v
      let k := f.waiting ins k
      let full := (im.outputsOf v).find? (fun t => !f.hasRoom t)
      if seen.contains v then (x, 3, steps)
      else if s.nodeWaits im back x then (x, 1, steps)
      else
        let lacked := ins.find? (f.lackedAt k)
        if lacked.isNone && full.isNone then (x, 0, steps)
        else if n = 0 then (x, out, steps)
        else match full, decide (1024 ≤ v) && f.nodesBusy.contains (v - 1024), lacked with
          | some t, true, _ => s.walkOn im out n false t k (v :: seen) (steps + 1)
          | _, _, some t =>
            match (im.parsed 1024).producers.find? (fun p => p.tgt == t) with
            | some p => s.walkOn im out n true (vertexTarget p.vertex) k (v :: seen) (steps + 1)
            | none => (t, if f.portLacks t then 2 else 0, steps + 1)
          | some t, false, none => s.walkOn im out n false t k (v :: seen) (steps + 1)
          | none, _, none => (x, 0, steps)

/-- The graph node of x. -/
def Image.nodeOfTarget (im : Image) (x : Target) : BitVec 32 :=
  match vertexOf x with
  | some v => if v < 512 then im.gnode v else im.nodeGraph (v - 1024)
  | none => 0xFFFFFFFF

def Image.stopWord (im : Image) (r : Stop) : Word :=
  BitVec.ofNat 64 (r.1.toNat + r.2.1 % 4 * 2 ^ 11 + r.2.2 * 2 ^ 13 + (im.nodeOfTarget r.1).toNat * 2 ^ 32)

def execWalk (t a : Reg) (s : State) : Out :=
  issue (.walk t a) ⟨[a], t, 1⟩
    (fun s =>
      match s.core.set.fab.running with
      | none => (s.dbgFails t 0x22 noCore).advance
      | some im =>
        let start := wspan (s.reg a) 0 11
        let go (x : Target) : State :=
          ((s.later t .other (im.stopWord (s.walkOn im (Config.freeWord s.free).toNat 65 false x none [] 0)) .clear 1).spent).advance
        if start = 0x7FF then
          match (s.core.set.blocked im).head? with
          | some r => go (slotTarget r.num 0)
          | none => (s.later t .other 0x7FF .clear 1).advance
        else go (BitVec.ofNat 11 start)) s

/-! ### TSRD (R343) -/

/-- A slot position or a node input. -/
def channelTarget (t : Target) : Bool := (vertexOf t).isSome

/-- A channel counter: 48 bits, saturating. -/
def Fabric.channel (f : Fabric) (t : Target) (kind : Nat) : Nat :=
  let c := (lookup t f.chan).getD .zero
  min (2 ^ 48 - 1) (match kind with
    | 0 => c.full
    | 1 => f.age - c.busy
    | _ => c.moving)

def State.channelWord (s : State) (t : Reg) (v : Word) : State :=
  let x : Target := BitVec.ofNat 11 (wspan v 0 11)
  if wspan v 13 51 ≠ 0 ∨ wspan v 11 2 = 3 ∨ channelTarget x = false then s.dbgFails t 0x27 noCore
  else if s.core.set.fab.running.isNone then s.dbgFails t 0x22 noCore
  else s.later t .other (BitVec.ofNat 64 (s.core.set.fab.channel x (wspan v 11 2))) .clear 2

def execTsrd (t a : Reg) (q : BitVec 2) (s : State) : Out :=
  issue (.tsrd t a q) ⟨if q = 3 then [a] else [], t, 0⟩
    (fun s =>
      match q.toNat with
      | 0 => (s.later t .other (s.time s.part) .clear 2).advance
      | 1 => (s.later t .other (BitVec.ofNat 64 (s.unit.activeCyc * s.part.tscale.toNat / 2 ^ 32)) .clear 2).advance
      | 2 => (s.later t .other s.core.set.errCount .clear 2).advance
      | _ => (s.channelWord t (s.reg a)).advance) s

end Sys2Proof.Machine
end

