-- ==== Sys2Proof/Machine/Complete.lean ====
section
/-!
DEFINITION. TOKEN_COMPLETION: what an asynchronous instruction still waits for, looked at again (R87, R88).
-/

namespace Sys2Proof.Machine

def CSet.op (c : CSet) (id : Nat) : Option Op := c.ops.find? (fun o => o.id == id)

/-- The fence part of SIGSET, or a FENCE, is over. -/
def State.endFence (s : State) (id : Nat) : State := if s.fenceDone s.core.set id then s.settle id 0 .clear else s

def State.endSigset (s : State) (id pa : Nat) (va : BitVec 48) (v : Word) (scope : Nat) (peer : Option (Nat × Nat)) :
    State :=
  if s.fenceDone s.core.set id then s.setFlag id pa va v scope peer else s

/-- A load that a phase boundary held back performs once the boundary has come (R232). -/
def State.endLoad (s : State) (id pa size : Nat) (home : Bool) (sent : Option Nat) : State :=
  if sent.isSome || s.core.set.boundaryBefore id then s else s.performLoad id pa size home

/-- Work that goes on while its set is not active, or frozen: requests already made (R313, R332), and a completion that
is due, which writes its register (R88). -/
def State.completeAway (s : State) (id : Nat) (w : Wait) : State :=
  match w with
  | .ready v e due => if due ≤ s.cycle then s.finish id v e else s
  | .load pa size _ home sent => s.endLoad id pa size home sent
  | .fence => s.endFence id
  | .sigset pa va v scope peer => s.endSigset id pa va v scope peer
  | .engine e => s.endEngine e
  | .queues ids => s.endQueues id ids
  | .inval every first count => s.endInval id every first count
  | .blk ctrl req => s.endBlk id ctrl req
  | .counter level n => s.endCounter id level n
  | .frost cores lid thaw => s.endFrost id cores lid thaw
  | .cancel units ending device => s.endCancel id units ending device
  | .withdraw n => s.endWithdraw id n
  | .recall n count => s.endRecall id n count
  | _ => s

/-- Work of the active set of a core that runs. -/
def State.completeHere (s : State) (id : Nat) (w : Wait) : State :=
  match w with
  | .cfgsw => s.endCfgsw id
  | .cfgrel => s.endCfgrel id
  | .drain => s.endWithReport id
  | .qwait => s.endWithReport id
  | .feed port window spans tag tgt phase home => s.endFeed id port window spans tag tgt phase home
  | .feedTile port even odd tag tgt part => s.endFeedTile id port even odd tag tgt part
  | .draw port window spans => s.endDraw id port window spans
  | .latch even odd scale group plane => s.endLatch id even odd scale group plane
  | .parm b v => s.endParm id b v
  | .clear => s.endClear id
  | .accrd n k window spans => s.endAccrd id n k window spans
  | .compose map mask v => s.endCompose id map mask v
  | .receive cls window spans => s.endReceive id cls window spans
  | .masks total => s.endMasks id total
  | .unhold => s.endUnhold id
  | w => s.completeAway id w

/-- The other set in the place of the active one, and back. -/
def State.flip (s : State) : State :=
  s.mapCore (fun k =>
    match k.shadow with
    | some c => { k with set := c, shadow := some k.set, half := !k.half }
    | none => k)

/-- Operation `id` of a core's active or other set. -/
def State.completeOn (s : State) (id : Nat) : State :=
  match s.core.set.op id with
  | some o =>
    if s.core.frost = .thawed ∨ s.core.frost = .freezing then s.completeHere id o.wait else s.completeAway id o.wait
  | none =>
    match s.core.shadow.bind (fun c => c.op id) with
    | some o => (s.flip.completeAway id o.wait).flip
    | none => s

/-- An act on orphan i, which stands on its core for it in the place of the active set (assumption 33). -/
def State.asOrphan (s : State) (i : Nat) (act : State → State) : State :=
  let swap (n : Nat) (s : State) : State :=
    match s.disp.orphans[i]? with
    | some e => { s.mapSet (fun _ => e.2) with disp := { s.disp with orphans := s.disp.orphans.set i (n, s.core.set) } }
    | none => s
  match s.disp.orphans[i]? with
  | some e => s.onCore e.1 (fun s => swap e.1 (act (swap e.1 s)))
  | none => s

/-- What an operation of an ended unit still waits for, looked at again (R89). -/
def State.completeOrphan (s : State) (id : Nat) : State :=
  match s.disp.orphans.findIdx? (fun e => (e.2.op id).isSome) with
  | none => s
  | some i =>
    let found : Option ((Nat × CSet) × Wait) := (s.disp.orphans[i]?).bind (fun e => (e.2.op id).map (fun o => (e, o.wait)))
    match found with
    | none => s
    | some (_, .cancel units ending device) => s.endCancel id units ending device
    | some (_, .withdraw n) => s.endWithdraw id n
    | some (_, .recall n count) => s.endRecall id n count
    | some (e, .inval every first count) =>
      let part := (e.2.unit.map (fun u => u.part)).getD 0
      if every && s.cores.any (fun k => k.set.mayCache part && k.within s.cycle first count) then s
      else s.asOrphan i (fun s => s.completeAway id (.inval every first count))
    | some (_, w) => s.asOrphan i (fun s => s.completeAway id w)

/-- The core one of whose sets holds an operation. -/
def State.coreOfOp (s : State) (id : Nat) : Option Nat :=
  (s.cores.find? (fun k => k.sets.any (fun c => (c.op id).isSome))).map (fun k => k.num)

/-- TOKEN_COMPLETION of operation `id`: what it waits for is looked at, and it completes when that has come. -/
def execTokenCompletion (id : Nat) (s : State) : Out :=
  match s.coreOfOp id with
  | some n => .next (s.onCore n (fun s => s.completeOn id))
  | none => .next (s.completeOrphan id)

end Sys2Proof.Machine
end

