-- ==== Sys2Proof/Machine/HostSide.lean ====
section
/-!
DEFINITION. Host commands, log messages, memory errors, reset and the power controller (R329, R343, R346 to R356).
-/

namespace Sys2Proof.Machine

/-! ### The command path (R346, R347) -/

def statusDone : Byte := 0x00
def statusPriv : Byte := 0x02
def statusMemerr : Byte := 0x44
def statusShape : Byte := 0x45
def statusBadrec : Byte := 0x92
def statusConflict : Byte := 0x94
def statusKeyspent : Byte := 0xA6

def XFault.reply (f : XFault) : Byte := BitVec.ofNat 8 f.status

/-- The command source of a partition at a transport address. -/
def Part.sourceAt (p : Part) (address : Nat) : Option Endpoint :=
  (p.ends.find? (fun e => e.2.kind == .command && e.2.address == address)).map (·.2)

def State.reply (s : State) (c : HostCmd) (status : Byte) (data : List Byte) : State :=
  { s with host := { s.host with replies := s.host.replies ++ [⟨c.seq, status, data⟩] } }

/-- What a command does: the state after it, its status and its data. -/
abbrev Effect := State × Byte × List Byte

def State.replies (c : HostCmd) (e : Effect) : State := e.1.reply c e.2.1 e.2.2

/-- A command from an address that no entry names as a command source is dropped and logged. -/
def State.dropCommand (s : State) (p : Nat) (c : HostCmd) : State :=
  s.log p (LogRec.plain 0x09 p 0xFF 0 (BitVec.ofNat 64 c.source))

/-- Writes of an earlier command of the same ordered flow are still to be applied; flow 0 is the unordered service. -/
def State.behindWrites (s : State) (c : HostCmd) : Bool :=
  c.flow ≠ 0 && s.host.pending.any (fun w => w.source == c.source && w.flow == c.flow)

/-- A command: its source, its level, its reserved fields, then its effect; every command of a source is answered. -/
def hostAct (c : HostCmd) (level : Nat) (unused : Bool) (act : Part → State → State) (s : State) : Out :=
  match s.partAt c.part.toNat with
  | none => .next (s.dropCommand 0 c)
  | some p =>
    match p.sourceAt c.source with
    | none => .next (s.dropCommand p.num c)
    | some e =>
      if e.level < level then .next (s.reply c statusPriv [])
      else if c.reserved ≠ 0 ∨ unused = false then .next (s.reply c statusBadrec [])
      else .next (act p s)

/-- A command that is carried out and answered at once, behind the writes of its ordered flow (R348). -/
def hostCommand (c : HostCmd) (level : Nat) (unused : Bool) (act : Part → State → Effect) (s : State) : Out :=
  if s.behindWrites c then .next s else hostAct c level unused (fun p s => State.replies c (act p s)) s

/-! ### WRITE and READ -/

/-- The tail of a child queue stands at a physical address: host writes to it are ignored (R306). -/
def State.childTail (s : State) (pa : Nat) : Bool :=
  s.disp.binds.any (fun b => b.2.child && match (s.dispAt (s.partOf b.2.part) .look b.2.ring.toNat).2 with
    | some t => decide (t ≤ pa) && decide (pa < t + 4)
    | none => false)

/-- A host write applied at its home; ignored bytes are logged, in a record of a free type. -/
def State.hostApply (s : State) (p : Nat) (pa : Nat) (bs : List Byte) : State :=
  let ignored := (List.range bs.length).filter (fun i => s.childTail (pa + i))
  let kept := (List.range bs.length).map (fun i => if s.childTail (pa + i) then s.mem.get (pa + i) else bs.getD i 0)
  let u := s.apply pa kept
  if ignored.isEmpty then u else u.logOpen p (LogRec.plain 0 p 0xFF 0 (BitVec.ofNat 64 pa))

/-- A write is applied at its home, and counted as arrived; one that left for a peer module changes nothing here. -/
def execWriteArrival (i : Nat) (s : State) : Out :=
  match s.packet i with
  | some k =>
    match k.body with
    | .write source pa _ =>
      when (s.mayApply k) s (fun s =>
        ((if k.dst ≥ remoteEnd then s
          else if source = .outside then s.hostApply k.part pa k.bytes
          else s.applyPhase k pa k.bytes).handOver k).settleHost)
    | _ => .next s
  | none => .next s

/-- Where a host's address leads, through the partition's tables; neither the scratchpad window nor a remote one. -/
def State.hostAt (s : State) (p : Part) (kind : AccKind) (va : Nat) : State × Except XFault Nat :=
  if va ≥ windowBase ∨ (p.windowAt va).isSome then (s, .error .access)
  else match s.walk p kind va with
    | (u, .ok l) => (u, .ok (l.page + va % l.size))
    | (u, .error f) => (u, .error f)

/-- The units of a host write in ascending order, up to a fault: where they lead. -/
def State.hostSpans (p : Part) : List (Nat × Nat) → State → State × List Span × Byte
  | [], s => (s, [], statusDone)
  | (va, n) :: rest, s =>
    match s.hostAt p .write va with
    | (u, .error f) => (u, [], f.reply)
    | (u, .ok pa) =>
      match State.hostSpans p rest u with
      | (w, spans, status) => (w, ⟨va, pa, n⟩ :: spans, status)

/-- A packet of a host write: no unit sends it. -/
def State.hostPacket (s : State) (p : Nat) (c : HostCmd) (sp : Span) (bs : List Byte) : Packet :=
  ⟨0, remoteEnd + s.host.enabled.port (Config.hostPort c.source c.flow).toNat, homeOf s.host.pins sp.pa, p, 0, 0, BitVec.ofNat 32 c.source, 0xFFFF,
    BitVec.ofNat 16 c.flow, 4, 0, 0, false, bs, .write .outside sp.pa (BitVec.ofNat 48 sp.va), .sent, none, none, none⟩

/-- The packets of a host write leave for their homes; with their numbers. -/
def State.sendHost (p : Nat) (c : HostCmd) : List Span → List Byte → State → State × List Nat
  | [], _, s => (s, [])
  | sp :: rest, bs, s =>
    match State.sendHost p c rest (bs.drop sp.n) (s.inject (s.hostPacket p c sp (bs.take sp.n))) with
    | (u, ids) => (u, s.net.nextId :: ids)

/-- The units of a host write up to a fault leave for their homes; the reply follows once they are applied (R348). -/
def State.hostWrite (s : State) (p : Part) (c : HostCmd) : State :=
  match State.hostSpans p (piecesOf c.operand.toNat c.payload.length) s with
  | (u, spans, status) =>
    match State.sendHost p.num c (joinSpans spans) c.payload u with
    | (w, ids) =>
      if ids.isEmpty then w.reply c status []
      else { w with host := { w.host with pending := w.host.pending ++ [⟨ids, c.source, c.flow, ⟨c.seq, status, []⟩⟩] } }

/-- A physical address lies in the ring of a queue, its header among it. -/
def State.inRing (s : State) (b : Bind) (pa : Nat) : Bool :=
  let last := b.ring.toNat + 64 + 64 * b.depth
  (pagesOf b.ring.toNat (64 + 64 * b.depth)).any (fun g =>
    match (s.dispAt (s.partOf b.part) .look g.2).2 with
    | some t => decide (t ≤ pa) && decide (pa < t + (min last (65536 * (g.1 + 1)) - g.2))
    | none => false)

/-- A WRITE reaches a queue of partition 0. -/
def State.writesDeviceQueue (s : State) (c : HostCmd) : Bool :=
  c.part = 0 && (piecesOf c.operand.toNat c.payload.length).any (fun x =>
    match (s.hostAt (s.partOf 0) .look x.1).2 with
    | .ok pa => s.disp.binds.any (fun b => b.2.part == 0 && s.inRing b.2 pa)
    | .error _ => false)

/-- The level that a WRITE takes: that of the device for the queues of partition 0 (R357). -/
def State.writeLevel (s : State) (c : HostCmd) : Nat := if s.writesDeviceQueue c then 2 else 1

/-- WRITE: a length that is not the payload's is SHAPE. -/
def execWrite (c : HostCmd) (s : State) : Out :=
  hostAct c (s.writeLevel c) (c.operands == 0)
    (fun p s => if c.length.toNat ≠ c.payload.length then s.reply c statusShape [] else s.hostWrite p c) s

/-- The bytes of a host read, or the status of what stops it. -/
def State.hostRead (p : Part) : List (Nat × Nat) → State → State × Except Byte (List Byte)
  | [], s => (s, .ok [])
  | (va, n) :: rest, s =>
    match s.hostAt p .read va with
    | (u, .error f) => (u, .error f.reply)
    | (u, .ok pa) =>
      match u.readError pa n with
      | some e => (u.report p.num 0xFF pa n e, .error statusMemerr)
      | none =>
        match State.hostRead p rest u with
        | (w, .ok bs) => (w, .ok (u.bytesAt p pa n ++ bs))
        | (w, .error st) => (w, .error st)

/-- READ: a length above 1 MiB is SHAPE. -/
def execRead (c : HostCmd) (s : State) : Out :=
  hostCommand c 1 (c.operands == 0 && c.payload.isEmpty)
    (fun p s =>
      if c.length.toNat > 0x100000 then (s, statusShape, [])
      else match State.hostRead p (piecesOf c.operand.toNat c.length.toNat) s with
        | (u, .ok bs) => (u, statusDone, bs)
        | (u, .error st) => (u, st, [])) s

/-! ### LOGEP, TIMEBASE and WINMAP -/

/-- LOGEP: the endpoint entry that byte 0x14 numbers must be an error sink. -/
def execLogep (c : HostCmd) (s : State) : Out :=
  let n := c.operands.toNat % 256
  hostCommand c 1 (c.operand == 0 && c.length == 0 && decide (c.operands.toNat < 256))
    (fun p s =>
      match lookup n p.ends with
      | some e =>
        if e.kind = .errorSink then (s.mapPart p.num (fun q => { q with sink := some n }), statusDone, [])
        else (s, statusBadrec, [])
      | none => (s, statusBadrec, [])) s

def execTimebase (c : HostCmd) (s : State) : Out :=
  hostCommand c 2 (c.length == 0 && decide (c.operands.toNat < 2 ^ 64))
    (fun p s =>
      (s.mapPart p.num (fun q => { q with toff := c.operand, tscale := BitVec.setWidth 64 c.operands }), statusDone, [])) s

/-- WINMAP: the window's virtual address stands at 0x08; how the command gives its number, size, base and peer is
free (assumption 14). -/
def execWinmap (c : HostCmd) (s : State) : Out :=
  hostCommand c 2 true
    (fun p s =>
      let w := Config.winmapFields c.length c.operands c.payload
      let gib := 2 ^ 30
      let peer := (lookup w.peer p.ends).any (fun e => e.kind == .peer)
      if c.operand.toNat % gib ≠ 0 ∨ peer = false then (s, statusBadrec, [])
      else (s.mapPart p.num (fun q => { q with
        windows := insert w.number.toNat ⟨c.operand.toNat, w.gib * gib, w.base, w.peer⟩ q.windows }), statusDone, [])) s

/-! ### Dirty logs (R352) -/

/-- A DIRTY whose operand chooses the action: 1 starts the log, 2 reads it (R351). DESIGN CHOICE (assumption 121): any
other stops it. -/
def dirtyCommand (c : HostCmd) (mine : Bool) (act : Part → State → Effect) (s : State) : Out :=
  if mine then hostCommand c 2 (c.length == 0 && c.operands == 0) act s else .next s

def execDirtyStart (c : HostCmd) (s : State) : Out :=
  dirtyCommand c (c.operand == 1) (fun p s => (s.mapPart p.num (fun q => { q with dirty := some [] }), statusDone, [])) s

/-- Some byte of a 64 KiB page is granted to a partition: channels change every 256 bytes, and of LPDDR-6 there are 48 (R165). -/
def State.grantedPage (s : State) (p : Part) (g : Nat) : Bool :=
  (List.range 48).any (fun i => s.granted p (g * 65536 + 256 * i))

/-- The 64 KiB pages of a run of the physical space in which a partition is granted bytes, in ascending order. -/
def State.grantedPages (s : State) (p : Part) (first count : Nat) : List Nat :=
  ((List.range count).map (first + ·)).filter (s.grantedPage p)

/-- Every page of a partition's grants: stacked DRAM, LPDDR-6, scratchpads. -/
def State.pagesOf (s : State) (p : Part) : List Nat :=
  s.grantedPages p 0 0x100000 ++ s.grantedPages p (lpddrBase / 65536) 0xC00000 ++ s.grantedPages p (scratchBase / 65536) 0x2000

/-- Bits packed into bytes, the first in bit 0. -/
def packBits : Nat → List Bool → List Byte
  | 0, _ => []
  | n + 1, l =>
    BitVec.ofNat 8 (((List.zipIdx (l.take 8)).map (fun b => b.1.toNat * 2 ^ b.2)).foldl (· + ·) 0) :: packBits n (l.drop 8)

/-- The bitmap of a dirty log: a bit for each page of the grants. -/
def State.dirtyMap (s : State) (p : Part) : List Byte :=
  let l := (s.pagesOf p).map (fun g => (p.dirty.getD []).contains g)
  packBits ((l.length + 7) / 8) l

/-- The bitmap is read and cleared in one action. -/
def execDirtyRead (c : HostCmd) (s : State) : Out :=
  dirtyCommand c (c.operand == 2)
    (fun p s => (s.mapPart p.num (fun q => { q with dirty := q.dirty.map (fun _ => []) }), statusDone, s.dirtyMap p)) s

def execDirtyStop (c : HostCmd) (s : State) : Out :=
  dirtyCommand c (c.operand ≠ 1 && c.operand ≠ 2)
    (fun p s => (s.mapPart p.num (fun q => { q with dirty := none }), statusDone, [])) s

/-! ### Signed reports (R354, R355) -/

/-- A report made and signed under the next index of the key, which is written to flash first; the bytes in which it is
sent are free. No report once the 2^16 indices are spent. -/
def State.sign (s : State) (c : HostCmd) (report : Nat → List Byte → Report) : Effect :=
  if s.host.index ≥ 65536 then (s, statusKeyspent, [])
  else
    ({ s with
      host := { s.host with
        index := s.host.index + 1
        storedIndex := s.host.index + 1
        signed := s.host.signed ++ [(c.seq, report s.host.index (Config.signedBytes s.free))] }
      free := s.free + 2 }, statusDone, Config.signedBytes (s.free + 1))

/-- The four counters of R319 for a partition and owner. -/
def State.countersOf (s : State) (key : Nat × BitVec 16) : (Nat × BitVec 16) × Vector Word 4 :=
  (key, (lookup key s.disp.usage).getD (Vector.replicate 4 0))

/-- SNAPSHOT: the counters asked for, TIME and the report's sequence number; which counters are asked for is free. -/
def execSnapshot (c : HostCmd) (s : State) : Out :=
  hostCommand c 2 true
    (fun p s =>
      let asked := Config.snapshotAsks c.operand c.length c.operands c.payload
      match s.sign c (.usage (asked.map s.countersOf) (s.time p) s.host.reports) with
      | (u, status, data) =>
        (if status = statusDone then { u with host := { u.host with reports := u.host.reports + 1 } } else u, status, data)) s

/-- The fields of a configuration record, as its digest takes them. -/
def BootRecord.fields (r : BootRecord) : List Nat :=
  [r.enabled.cores.toNat, r.enabled.channels.toNat, r.enabled.lpddr.toNat, r.enabled.ports.toNat, r.enabled.parts.toNat,
    r.operator, r.root, r.counters, r.saveArea, r.rate, r.burst, r.tenantBase.toNat, r.deviceBase.toNat]

/-- ATTEST: the nonce is 32 bytes; the digests, the enabled counts, the nonce and the index are signed. -/
def execAttest (c : HostCmd) (s : State) : Out :=
  hostCommand c 1 (c.operand == 0 && c.operands == 0)
    (fun _ s =>
      if c.payload.length = 32 then
        s.sign c (.attestation Config.firmwareDigest (Config.recordDigest s.host.running.fields) s.host.enabled c.payload)
      else (s, statusShape, [])) s

/-! ### ADOPT (R353) -/

/-- The pools that the copied metadata describes (R353) become the partition's, each under its number and on its controller. -/
def execAdopt (c : HostCmd) (s : State) : Out :=
  hostCommand c 2 true
    (fun p s =>
      if s.host.copied.any (fun g => s.pools.any (fun h => h.num == g.num)) then (s, statusConflict, [])
      else ({ s with
        pools := s.pools ++ s.host.copied.map (fun g => { g with part := p.num })
        host := { s.host with copied := [] } }, statusDone, [])) s

/-! ### Command codes (R347) -/

/-- A command that arrives with its code; an unknown code is BADREC. -/
def execCommand (code : Byte) (c : HostCmd) (s : State) : Out :=
  match code.toNat with
  | 1 => execWrite c s
  | 2 => execRead c s
  | 3 => execLogep c s
  | 4 => execTimebase c s
  | 5 => execWinmap c s
  | 6 => if c.operand = 1 then execDirtyStart c s else if c.operand = 2 then execDirtyRead c s else execDirtyStop c s
  | 7 => execSnapshot c s
  | 8 => execAttest c s
  | 9 => execAdopt c s
  | _ => hostCommand c 0 false (fun _ s => (s, statusBadrec, [])) s

/-! ### Error reports (R349) -/

/-- Up to 16 records of a partition leave for its error sink, with the count of those overwritten. -/
def State.sendRecords (s : State) (p : Part) (sink : Nat) : State :=
  { s.mapPart p.num (fun q => { q with ring := q.ring.drop 16, lostRecs := 0 }) with
    host := { s.host with outbox := s.host.outbox ++ [⟨p.num, sink, p.lostRecs, p.ring.take 16⟩] } }

/-- The number by which LOG_MESSAGE names the operator's endpoint, entry 0 of partition 0. -/
def operatorSink : Nat := 32

/-- Up to 16 records leave for the operator's endpoint. -/
def State.sendOperator (s : State) : State :=
  { s with host := { s.host with
      opRing := s.host.opRing.drop 16
      opLost := 0
      outbox := s.host.outbox ++ [⟨operatorSink, 0, s.host.opLost, s.host.opRing.take 16⟩] } }

/-- LOG_MESSAGE: without a sink that acknowledges, a partition's records stay in the ring. -/
def execLogMessage (part : Nat) (s : State) : Out :=
  if part = operatorSink then when (!s.host.opRing.isEmpty) s State.sendOperator
  else match s.partAt part with
    | some p =>
      match p.sink with
      | some n => when (p.sinkUp && !p.ring.isEmpty) s (fun s => s.sendRecords p n)
      | none => .next s
    | none => .next s

/-- A partition's error sink stops acknowledging, or acknowledges again. -/
def State.setSink (s : State) (part : Nat) (up : Bool) : State := s.mapPart part (fun p => { p with sinkUp := up })

/-! ### The steward core (R5, R9, R346, R357, R358) -/

/-- An entry of an endpoint table of 64 written or cleared; entry 0 of partition 0 stays as the configuration record set it. -/
def State.setEndpoint (s : State) (part entry : Nat) (e : Option Endpoint) : State :=
  if entry > 63 ∨ (part = 0 ∧ entry = 0) then s
  else s.mapPart part (fun p => { p with ends :=
    match e with
    | some x => insert entry x p.ends
    | none => erase entry p.ends })

/-- What an act makes; one that the instruction of its kind would refuse changes nothing. -/
def State.made (s : State) (r : Outcome) : State :=
  match r with
  | .ok x => x.1
  | .error _ => s

/-- An act that reads a block of so many bytes. -/
def State.byBlock (s : State) (len : Nat) (block : List Byte) (act : State → List Byte → Outcome) : State :=
  if block.length = len then s.made (act s block) else s

/-- A reservation is on its way out, and is gone once no unit of it runs. -/
def State.letGo (s : State) (n : Nat) : State :=
  let s := s.mapResv n (fun r => { r with leaving := true })
  if s.resvRuns n then s else (s.dropResv n).electAll

/-- What the steward core does at device level: endpoint entries, and what QBIND, PCREATE, PGRANT, PSLICE, PRESV, PLEND and
PRECALL make of a block. -/
def State.steward (s : State) (a : StewardAct) : State :=
  match a with
  | .endpoint part entry e => s.setEndpoint part entry e
  | .bind i block => s.byBlock 32 block (fun s bs => s.qbind i bs)
  | .unbind i => s.made (s.qunbind i)
  | .create block => s.byBlock 256 block State.pcreate
  | .grant part owner kind block =>
    if kind < 7 then
      s.byBlock (grantBlock kind) block (fun s bs => s.pgrant (BitVec.ofNat 64 part) owner kind bs)
    else s
  | .slice on block => s.byBlock 32 block (fun s bs => s.slice on bs)
  | .offer block => s.byBlock 64 block State.offer
  | .withdraw n => s.letGo n
  | .lend block => s.byBlock 64 block State.lend
  | .recall n => (s.lendNamed n).elim s s.endLend

/-! ### Other events of the module (R22, R26, R268, R329, R351, R353) -/

/-- A single-bit error is corrected in place and counted, in 32 bits, where it stands. -/
def State.correct (s : State) (pa : Nat) : State :=
  if s.host.enabled.backs pa then
    let key := counterKey s.host.pins pa
    { s with host := { s.host with corrected := insert key (s.host.correctedAt pa + 1) s.host.corrected } }
  else s

/-- The host has copied here the pages of pools and skeins of another module. -/
def State.bring (s : State) (pools : List Pool) (skeins : List Skein) : State :=
  { s with host := { s.host with copied := s.host.copied ++ pools, skeins := s.host.skeins ++ skeins } }

/-- A packet of a host flow is trimmed, re-asked or lost at an Ethernet port of the L4 switch. -/
def State.hostTrim (s : State) (port vc part : Nat) : State :=
  if s.host.enabled.ports.getLsbD port ∧ vc < 8 ∧ (s.partAt part).isSome then s.countAt 84 (8 + port) vc part else s

/-! ### Memory errors (R329) -/

/-- MEMORY_ERROR at a physical address: the line meets an uncorrectable error, and where it already has one a read of
the home finds it: it is reported with ECCUE and poisoned. -/
def execMemoryError (pa : Nat) (s : State) : Out :=
  if regionOf pa = .none then .next s
  else if s.host.errLines.contains (pa / 64) then .next (s.report 0 0xFF (pa / 64 * 64) 64 0x03)
  else if s.host.poisoned.contains (pa / 64) then .next s
  else .next { s with host := { s.host with errLines := s.host.errLines ++ [pa / 64] } }

/-! ### Reset and the power controller (R354, R356) -/

/-- RESET: the module leaves reset only if both signatures hold and the stored index is not below the last one written;
the flash keeps the index, the configuration record sets the options and partition 0 (R22, R369), and the model keeps its
schedule. -/
def execReset (s : State) : Out :=
  let h := s.host
  .next { State.reset with
    parts := [Part.ofRecord h.record]
    host := { HostSide.start with
      enabled := h.record.enabled
      record := h.record
      running := h.record
      index := h.index
      storedIndex := h.storedIndex
      firmwareGood := h.firmwareGood
      configGood := h.configGood
      inReset := !(h.firmwareGood && h.configGood && decide (h.index ≤ h.storedIndex)) }
    sched := s.sched
    choice := s.choice
    free := s.free }

/-- Above 65 °C the power controller lowers a partition's tension rate and logs the change. -/
def execCoolantOver65 (part rate : Nat) (s : State) : Out :=
  .next (s.setRate part (min rate (((s.partAt part).map (fun p => p.rateNow)).getD 0)))

/-- At 75 °C every core freezes, and a record of type 0x0C, whose value is free, is reported. -/
def execCoolantOver75 (s : State) : Out :=
  let s := (List.range 256).foldl (fun s n => s.freezeAt n (fun _ => true)) s
  .next (s.log 0 (LogRec.plain 0x0C 0 0xFF 0 (Config.freeWord s.free))).spent

end Sys2Proof.Machine
end

