-- ==== Sys2Proof/Machine/System.lean ====
section
/-!
DEFINITION. SYS instructions and the special registers (R92 to R94, R109, R326). HALT and YIELD stand with the work
they wait for.
-/

namespace Sys2Proof.Machine

def execNop (s : State) : Out := issue .nop ⟨[], 0, 0⟩ (fun s => s.advance) s

/-- TRAP raises cause 0x11 with the code in TRAPVAL and its own address in TRAPPC (R109). -/
def execTrap (a : Reg) (s : State) : Out :=
  issue (.trap a) ⟨[], 0, 0⟩ (fun s => s.trap causeTrap (BitVec.setWidth 64 a)) s

/-- ERET requires tenant level (R109, R326). -/
def execEret (s : State) : Out := issue .eret ⟨[], 0, 1⟩ (fun s => s.returnFromTrap) s

/-- TOKWAIT stalls until the pending bit of a is clear and reads no value (R87, R109). -/
def execTokwait (a : Reg) (s : State) : Out :=
  issue (.tokwait a) ⟨[], a, 0⟩ (fun s => s.advance) s

/-- MFS: a number that R92 does not list is no instruction (R94). -/
def execMfs (d : Reg) (i : BitVec 14) (s : State) : Out :=
  issue (.mfs d i) ⟨[], d, 0⟩ (fun s => (s.setReg d (s.special i)).advance) s

/-- MTS: a register that no level may write is no instruction (R92, R94). -/
def execMts (a : Reg) (i : BitVec 14) (s : State) : Out :=
  issue (.mts a i) ⟨[a], 0, mtsLevel i⟩ (fun s => (s.mapSeq (fun q => q.writeSpecial i (s.reg a))).advance) s

/-- The asynchronous cause that is due leaves the pending ones and is taken; a HALT that waited issues afresh
(R111, R322, R323). -/
def State.enterAsync (s : State) (a : Async) : State :=
  (s.mapSet (fun c => { c with asyncs := c.asyncs.erase a, halting := false })).takeTrap a.cause a.val true

/-- A trap is taken: the pending asynchronous cause, between two instructions (R322, R325). -/
def execTrapEntry (s : State) : Out :=
  match s.nextAsync with
  | some a => .next (s.enterAsync a)
  | none => .next s

end Sys2Proof.Machine
end

