-- ==== Sys2Proof/Machine/Dispatch.lean ====
section
/-!
DEFINITION. The dispatch: one arm per constructor, each a call of that instruction's own meaning.
-/

namespace Sys2Proof.Machine

def exec (i : Instr) (s : State) : Host.Outcome State Fault Refusal :=
  match i with
  | .add d a b => Sys2Proof.Machine.execAdd d a b s
  | .sub d a b => Sys2Proof.Machine.execSub d a b s
  | .mul d a b => Sys2Proof.Machine.execMul d a b s
  | .mulh d a b => Sys2Proof.Machine.execMulh d a b s
  | .mulhu d a b => Sys2Proof.Machine.execMulhu d a b s
  | .divs d a b => Sys2Proof.Machine.execDivs d a b s
  | .divu d a b => Sys2Proof.Machine.execDivu d a b s
  | .rems d a b => Sys2Proof.Machine.execRems d a b s
  | .remu d a b => Sys2Proof.Machine.execRemu d a b s
  | .and d a b => Sys2Proof.Machine.execAnd d a b s
  | .or d a b => Sys2Proof.Machine.execOr d a b s
  | .xor d a b => Sys2Proof.Machine.execXor d a b s
  | .andn d a b => Sys2Proof.Machine.execAndn d a b s
  | .shl d a b => Sys2Proof.Machine.execShl d a b s
  | .shr d a b => Sys2Proof.Machine.execShr d a b s
  | .sra d a b => Sys2Proof.Machine.execSra d a b s
  | .min d a b => Sys2Proof.Machine.execMin d a b s
  | .max d a b => Sys2Proof.Machine.execMax d a b s
  | .minu d a b => Sys2Proof.Machine.execMinu d a b s
  | .maxu d a b => Sys2Proof.Machine.execMaxu d a b s
  | .cmpeq d a b => Sys2Proof.Machine.execCmpeq d a b s
  | .cmpne d a b => Sys2Proof.Machine.execCmpne d a b s
  | .cmplt d a b => Sys2Proof.Machine.execCmplt d a b s
  | .cmpltu d a b => Sys2Proof.Machine.execCmpltu d a b s
  | .cmple d a b => Sys2Proof.Machine.execCmple d a b s
  | .cmpleu d a b => Sys2Proof.Machine.execCmpleu d a b s
  | .clz d a => Sys2Proof.Machine.execClz d a s
  | .popc d a => Sys2Proof.Machine.execPopc d a s
  | .addi d a k => Sys2Proof.Machine.execAddi d a k s
  | .andi d a k => Sys2Proof.Machine.execAndi d a k s
  | .ori d a k => Sys2Proof.Machine.execOri d a k s
  | .xori d a k => Sys2Proof.Machine.execXori d a k s
  | .shli d a n => Sys2Proof.Machine.execShli d a n s
  | .shri d a n => Sys2Proof.Machine.execShri d a n s
  | .srai d a n => Sys2Proof.Machine.execSrai d a n s
  | .cmplti d a k => Sys2Proof.Machine.execCmplti d a k s
  | .cmpeqi d a k => Sys2Proof.Machine.execCmpeqi d a k s
  | .sext d a n => Sys2Proof.Machine.execSext d a n s
  | .zext d a n => Sys2Proof.Machine.execZext d a n s
  | .lui d k => Sys2Proof.Machine.execLui d k s
  | .addpc d k => Sys2Proof.Machine.execAddpc d k s
  | .lih d k => Sys2Proof.Machine.execLih d k s
  | .beq a b o => Sys2Proof.Machine.execBeq a b o s
  | .bne a b o => Sys2Proof.Machine.execBne a b o s
  | .blt a b o => Sys2Proof.Machine.execBlt a b o s
  | .bge a b o => Sys2Proof.Machine.execBge a b o s
  | .bltu a b o => Sys2Proof.Machine.execBltu a b o s
  | .bgeu a b o => Sys2Proof.Machine.execBgeu a b o s
  | .btr a o => Sys2Proof.Machine.execBtr a o s
  | .jal d k => Sys2Proof.Machine.execJal d k s
  | .jalr d a k => Sys2Proof.Machine.execJalr d a k s
  | .ldw d a k => Sys2Proof.Machine.execLdw d a k s
  | .ldd d a k => Sys2Proof.Machine.execLdd d a k s
  | .stw d a k => Sys2Proof.Machine.execStw d a k s
  | .std d a k => Sys2Proof.Machine.execStd d a k s
  | .nop => Sys2Proof.Machine.execNop s
  | .halt => Sys2Proof.Machine.execHalt s
  | .yield => Sys2Proof.Machine.execYield s
  | .trap a => Sys2Proof.Machine.execTrap a s
  | .eret => Sys2Proof.Machine.execEret s
  | .tokwait a => Sys2Proof.Machine.execTokwait a s
  | .mfs d k => Sys2Proof.Machine.execMfs d k s
  | .mts a k => Sys2Proof.Machine.execMts a k s
  | .cfgld t a => Sys2Proof.Machine.execCfgld t a s
  | .cfgsw t => Sys2Proof.Machine.execCfgsw t s
  | .cfgparm t a q => Sys2Proof.Machine.execCfgparm t a q s
  | .cfgrel t => Sys2Proof.Machine.execCfgrel t s
  | .drain t => Sys2Proof.Machine.execDrain t s
  | .qwait t => Sys2Proof.Machine.execQwait t s
  | .sfeed t a b q => Sys2Proof.Machine.execSfeed t a b q s
  | .sfeedt t a b q => Sys2Proof.Machine.execSfeedt t a b q s
  | .sdraw t a q => Sys2Proof.Machine.execSdraw t a q s
  | .sclose t q => Sys2Proof.Machine.execSclose t q s
  | .sstat t a => Sys2Proof.Machine.execSstat t a s
  | .tagset t a b => Sys2Proof.Machine.execTagset t a b s
  | .tagclr t a b => Sys2Proof.Machine.execTagclr t a b s
  | .caston t a b => Sys2Proof.Machine.execCaston t a b s
  | .bindoff t a q => Sys2Proof.Machine.execBindoff t a q s
  | .slip t a => Sys2Proof.Machine.execSlip t a s
  | .unslip t a => Sys2Proof.Machine.execUnslip t a s
  | .lift t a q => Sys2Proof.Machine.execLift t a q s
  | .rsave t => Sys2Proof.Machine.execRsave t s
  | .rload t a b => Sys2Proof.Machine.execRload t a b s
  | .strd t a q => Sys2Proof.Machine.execStrd t a q s
  | .stwr t a b q => Sys2Proof.Machine.execStwr t a b q s
  | .acopy t a b q => Sys2Proof.Machine.execAcopy t a b q s
  | .acopy2 t a b q => Sys2Proof.Machine.execAcopy2 t a b q s
  | .afill t a b q => Sys2Proof.Machine.execAfill t a b q s
  | .qfence t a => Sys2Proof.Machine.execQfence t a s
  | .acopyb t a b q => Sys2Proof.Machine.execAcopyb t a b q s
  | .tinval t a b q => Sys2Proof.Machine.execTinval t a b q s
  | .tlook t a q => Sys2Proof.Machine.execTlook t a q s
  | .genres t a q => Sys2Proof.Machine.execGenres t a q s
  | .mxw t a b q => Sys2Proof.Machine.execMxw t a b q s
  | .mxclr t a q => Sys2Proof.Machine.execMxclr t a q s
  | .accrd t a b q => Sys2Proof.Machine.execAccrd t a b q s
  | .gpld t a => Sys2Proof.Machine.execGpld t a s
  | .balloc t a => Sys2Proof.Machine.execBalloc t a s
  | .bfree t a b => Sys2Proof.Machine.execBfree t a b s
  | .btapp t a q => Sys2Proof.Machine.execBtapp t a q s
  | .bttrim t a b => Sys2Proof.Machine.execBttrim t a b s
  | .btlook t a b => Sys2Proof.Machine.execBtlook t a b s
  | .btfork t a b => Sys2Proof.Machine.execBtfork t a b s
  | .btdrop t a => Sys2Proof.Machine.execBtdrop t a s
  | .bpstat t a q => Sys2Proof.Machine.execBpstat t a q s
  | .bpmake t a => Sys2Proof.Machine.execBpmake t a s
  | .phb t => Sys2Proof.Machine.execPhb t s
  | .bar t => Sys2Proof.Machine.execBar t s
  | .fence t q => Sys2Proof.Machine.execFence t q s
  | .sigset t a b q => Sys2Proof.Machine.execSigset t a b q s
  | .sigwait t a b q => Sys2Proof.Machine.execSigwait t a b q s
  | .aadd t a b q => Sys2Proof.Machine.execAadd t a b q s
  | .aand t a b q => Sys2Proof.Machine.execAand t a b q s
  | .aor t a b q => Sys2Proof.Machine.execAor t a b q s
  | .axor t a b q => Sys2Proof.Machine.execAxor t a b q s
  | .amin t a b q => Sys2Proof.Machine.execAmin t a b q s
  | .amax t a b q => Sys2Proof.Machine.execAmax t a b q s
  | .aminu t a b q => Sys2Proof.Machine.execAminu t a b q s
  | .amaxu t a b q => Sys2Proof.Machine.execAmaxu t a b q s
  | .axchg t a b q => Sys2Proof.Machine.execAxchg t a b q s
  | .acas t a b q => Sys2Proof.Machine.execAcas t a b q s
  | .aaddf t a b q => Sys2Proof.Machine.execAaddf t a b q s
  | .ald t a q => Sys2Proof.Machine.execAld t a q s
  | .radd t a b q => Sys2Proof.Machine.execRadd t a b q s
  | .rmin t a b q => Sys2Proof.Machine.execRmin t a b q s
  | .rmax t a b q => Sys2Proof.Machine.execRmax t a b q s
  | .raddf t a b q => Sys2Proof.Machine.execRaddf t a b q s
  | .sendrc t a b q => Sys2Proof.Machine.execSendrc t a b q s
  | .rcmask t a => Sys2Proof.Machine.execRcmask t a s
  | .rcumask t a => Sys2Proof.Machine.execRcumask t a s
  | .rcrecv t a q => Sys2Proof.Machine.execRcrecv t a q s
  | .ybind t a q => Sys2Proof.Machine.execYbind t a q s
  | .smcfgBind t a => Sys2Proof.Machine.execSmcfgBind t a s
  | .smcfgWriteStates t a b => Sys2Proof.Machine.execSmcfgWriteStates t a b s
  | .smcfgReadState t a => Sys2Proof.Machine.execSmcfgReadState t a s
  | .smcomp t a b q => Sys2Proof.Machine.execSmcomp t a b q s
  | .smstep t a b q => Sys2Proof.Machine.execSmstep t a b q s
  | .smmask t a b q => Sys2Proof.Machine.execSmmask t a b q s
  | .launch t a b => Sys2Proof.Machine.execLaunch t a b s
  | .lwait t a q => Sys2Proof.Machine.execLwait t a q s
  | .cancel t a q => Sys2Proof.Machine.execCancel t a q s
  | .cntrd t a q => Sys2Proof.Machine.execCntrd t a q s
  | .pcreate t a => Sys2Proof.Machine.execPcreate t a s
  | .pgrant t a b q => Sys2Proof.Machine.execPgrant t a b q s
  | .presv t a q => Sys2Proof.Machine.execPresv t a q s
  | .qbind t a b q => Sys2Proof.Machine.execQbind t a b q s
  | .plend t a => Sys2Proof.Machine.execPlend t a s
  | .precall t a => Sys2Proof.Machine.execPrecall t a s
  | .pslice t a q => Sys2Proof.Machine.execPslice t a q s
  | .freeze t a q => Sys2Proof.Machine.execFreeze t a q s
  | .thawResume t a q => Sys2Proof.Machine.execThawResume t a q s
  | .thawReleaseHold t => Sys2Proof.Machine.execThawReleaseHold t s
  | .thawVacate t a q => Sys2Proof.Machine.execThawVacate t a q s
  | .skout t a b => Sys2Proof.Machine.execSkout t a b s
  | .skin t a b => Sys2Proof.Machine.execSkin t a b s
  | .brkn t a b q => Sys2Proof.Machine.execBrkn t a b q s
  | .trcon t a => Sys2Proof.Machine.execTrcon t a s
  | .trcoff t => Sys2Proof.Machine.execTrcoff t s
  | .walk t a => Sys2Proof.Machine.execWalk t a s
  | .tsrd t a q => Sys2Proof.Machine.execTsrd t a q s
  | .vadd m x y => Sys2Proof.Machine.execVadd m x y s
  | .vsub m x y => Sys2Proof.Machine.execVsub m x y s
  | .vmul m x y => Sys2Proof.Machine.execVmul m x y s
  | .vmad m x y => Sys2Proof.Machine.execVmad m x y s
  | .vmin m x y => Sys2Proof.Machine.execVmin m x y s
  | .vmax m x y => Sys2Proof.Machine.execVmax m x y s
  | .vminu m x y => Sys2Proof.Machine.execVminu m x y s
  | .vmaxu m x y => Sys2Proof.Machine.execVmaxu m x y s
  | .vand m x y => Sys2Proof.Machine.execVand m x y s
  | .vor m x y => Sys2Proof.Machine.execVor m x y s
  | .vxor m x y => Sys2Proof.Machine.execVxor m x y s
  | .vshl m x y => Sys2Proof.Machine.execVshl m x y s
  | .vshr m x y => Sys2Proof.Machine.execVshr m x y s
  | .vsra m x y => Sys2Proof.Machine.execVsra m x y s
  | .vabs m x y => Sys2Proof.Machine.execVabs m x y s
  | .vneg m x y => Sys2Proof.Machine.execVneg m x y s
  | .vaddk m x y => Sys2Proof.Machine.execVaddk m x y s
  | .vmulk m x y => Sys2Proof.Machine.execVmulk m x y s
  | .vsgadd m x y => Sys2Proof.Machine.execVsgadd m x y s
  | .vadds m x y => Sys2Proof.Machine.execVadds m x y s
  | .vsubs m x y => Sys2Proof.Machine.execVsubs m x y s
  | .vdot4 x y => Sys2Proof.Machine.execVdot4 x y s
  | .fadd m x y => Sys2Proof.Machine.execFadd m x y s
  | .fsub m x y => Sys2Proof.Machine.execFsub m x y s
  | .fmul m x y => Sys2Proof.Machine.execFmul m x y s
  | .fma m x y => Sys2Proof.Machine.execFma m x y s
  | .fmax m x y => Sys2Proof.Machine.execFmax m x y s
  | .fmin m x y => Sys2Proof.Machine.execFmin m x y s
  | .frcp m x y => Sys2Proof.Machine.execFrcp m x y s
  | .frsq m x y => Sys2Proof.Machine.execFrsq m x y s
  | .fexp2 m x y => Sys2Proof.Machine.execFexp2 m x y s
  | .flog2 m x y => Sys2Proof.Machine.execFlog2 m x y s
  | .faddk m x y => Sys2Proof.Machine.execFaddk m x y s
  | .fmulk m x y => Sys2Proof.Machine.execFmulk m x y s
  | .fmac m x y => Sys2Proof.Machine.execFmac m x y s
  | .fabs m x y => Sys2Proof.Machine.execFabs m x y s
  | .fneg m x y => Sys2Proof.Machine.execFneg m x y s
  | .cvt x y => Sys2Proof.Machine.execCvt x y s
  | .bperm x y => Sys2Proof.Machine.execBperm x y s
  | .b3dec x y => Sys2Proof.Machine.execB3dec x y s
  | .nibx m x y => Sys2Proof.Machine.execNibx m x y s
  | .pack x y => Sys2Proof.Machine.execPack x y s
  | .unpk x y => Sys2Proof.Machine.execUnpk x y s
  | .vcmp x y => Sys2Proof.Machine.execVcmp x y s
  | .sel x y => Sys2Proof.Machine.execSel x y s
  | .steer x y => Sys2Proof.Machine.execSteer x y s
  | .gate x y => Sys2Proof.Machine.execGate x y s
  | .merge x y => Sys2Proof.Machine.execMerge x y s
  | .masksel x y => Sys2Proof.Machine.execMasksel x y s
  | .pnot x y => Sys2Proof.Machine.execPnot x y s
  | .lsum x y => Sys2Proof.Machine.execLsum x y s
  | .lmax x y => Sys2Proof.Machine.execLmax x y s
  | .largmax x y => Sys2Proof.Machine.execLargmax x y s
  | .lbcast x y => Sys2Proof.Machine.execLbcast x y s
  | .lrot x y => Sys2Proof.Machine.execLrot x y s
  | .lscan x y => Sys2Proof.Machine.execLscan x y s
  | .onehot x y => Sys2Proof.Machine.execOnehot x y s
  | .lextr x y => Sys2Proof.Machine.execLextr x y s
  | .sreg x y => Sys2Proof.Machine.execSreg x y s
  | .cnt x y => Sys2Proof.Machine.execCnt x y s
  | .eor x y => Sys2Proof.Machine.execEor x y s
  | .ordj x y => Sys2Proof.Machine.execOrdj x y s
  | .dup x y => Sys2Proof.Machine.execDup x y s
  | .const x y => Sys2Proof.Machine.execConst x y s
  | .sink x y => Sys2Proof.Machine.execSink x y s
  | .stitch x y => Sys2Proof.Machine.execStitch x y s
  | .delay x y => Sys2Proof.Machine.execDelay x y s
  | .idx x y => Sys2Proof.Machine.execIdx x y s
  | .sregEmission slot k => Sys2Proof.Machine.execSregEmission slot k s
  | .roundBoundary => Sys2Proof.Machine.execRoundBoundary s
  | .bindoffDrainEnd k => Sys2Proof.Machine.execBindoffDrainEnd k s
  | .rsaveDrainEnd => Sys2Proof.Machine.execRsaveDrainEnd s
  | .mxBlockEntry k => Sys2Proof.Machine.execMxBlockEntry k s
  | .planeSwap => Sys2Proof.Machine.execPlaneSwap s
  | .tileSourceRow => Sys2Proof.Machine.execTileSourceRow s
  | .accumulatorAddition n => Sys2Proof.Machine.execAccumulatorAddition n s
  | .accumulatorRelease n => Sys2Proof.Machine.execAccumulatorRelease n s
  | .pairRelease n k => Sys2Proof.Machine.execPairRelease n k s
  | .gpFiring k => Sys2Proof.Machine.execGpFiring k s
  | .memoryNodeRequest n => Sys2Proof.Machine.execMemoryNodeRequest n s
  | .memoryNodeCompletion n => Sys2Proof.Machine.execMemoryNodeCompletion n s
  | .pagedRequest n => Sys2Proof.Machine.execPagedRequest n s
  | .generatorFault n => Sys2Proof.Machine.execGeneratorFault n s
  | .networkPortSend p => Sys2Proof.Machine.execNetworkPortSend p s
  | .yarnTokenArrival k => Sys2Proof.Machine.execYarnTokenArrival k s
  | .composerArrival => Sys2Proof.Machine.execComposerArrival s
  | .completionReport => Sys2Proof.Machine.execCompletionReport s
  | .deadlockReport => Sys2Proof.Machine.execDeadlockReport s
  | .tokenCompletion k => Sys2Proof.Machine.execTokenCompletion k s
  | .engineOperationStart q => Sys2Proof.Machine.execEngineOperationStart q s
  | .trapEntry => Sys2Proof.Machine.execTrapEntry s
  | .coreFreeze => Sys2Proof.Machine.execCoreFreeze s
  | .writeArrival k => Sys2Proof.Machine.execWriteArrival k s
  | .phaseBoundary lid => Sys2Proof.Machine.execPhaseBoundary lid s
  | .homeBankAccess k => Sys2Proof.Machine.execHomeBankAccess k s
  | .sigwaitTest k => Sys2Proof.Machine.execSigwaitTest k s
  | .sigwaitTimeout k => Sys2Proof.Machine.execSigwaitTimeout k s
  | .packetAtSwitch k sw port => Sys2Proof.Machine.execPacketAtSwitch k sw port s
  | .packetDelivery k => Sys2Proof.Machine.execPacketDelivery k s
  | .trimNotice k => Sys2Proof.Machine.execTrimNotice k s
  | .reask k => Sys2Proof.Machine.execReask k s
  | .retransmission k => Sys2Proof.Machine.execRetransmission k s
  | .acknowledgement src dst => Sys2Proof.Machine.execAcknowledgement src dst s
  | .ackReceived k => Sys2Proof.Machine.execAckReceived k s
  | .lossNotice k => Sys2Proof.Machine.execLossNotice k s
  | .routeClassArrival k => Sys2Proof.Machine.execRouteClassArrival k s
  | .handler1Arrival k => Sys2Proof.Machine.execHandler1Arrival k s
  | .dispatchAdmit => Sys2Proof.Machine.execDispatchAdmit s
  | .launchCompletion lid => Sys2Proof.Machine.execLaunchCompletion lid s
  | .shadowSwap => Sys2Proof.Machine.execShadowSwap s
  | .reservationPeriodStart r => Sys2Proof.Machine.execReservationPeriodStart r s
  | .suspendedUnitResume k => Sys2Proof.Machine.execSuspendedUnitResume k s
  | .tensionRateChange part rate => Sys2Proof.Machine.execTensionRateChange part rate s
  | .memoryError pa => Sys2Proof.Machine.execMemoryError pa s
  | .logMessage part => Sys2Proof.Machine.execLogMessage part s
  | .write c => Sys2Proof.Machine.execWrite c s
  | .read c => Sys2Proof.Machine.execRead c s
  | .logep c => Sys2Proof.Machine.execLogep c s
  | .timebase c => Sys2Proof.Machine.execTimebase c s
  | .winmap c => Sys2Proof.Machine.execWinmap c s
  | .dirtyStart c => Sys2Proof.Machine.execDirtyStart c s
  | .dirtyRead c => Sys2Proof.Machine.execDirtyRead c s
  | .dirtyStop c => Sys2Proof.Machine.execDirtyStop c s
  | .snapshot c => Sys2Proof.Machine.execSnapshot c s
  | .attest c => Sys2Proof.Machine.execAttest c s
  | .adopt c => Sys2Proof.Machine.execAdopt c s
  | .reset => Sys2Proof.Machine.execReset s
  | .coolantOver65 part rate => Sys2Proof.Machine.execCoolantOver65 part rate s
  | .coolantOver75 => Sys2Proof.Machine.execCoolantOver75 s
  | .setStreamEnd => Sys2Proof.Machine.execSetStreamEnd s
  | .reservationBudgetSpent r => Sys2Proof.Machine.execReservationBudgetSpent r s

end Sys2Proof.Machine
end

