-- ==== Sys2Proof/Machine/Clock.lean ====
section
/-!
DEFINITION. One cycle of the module (R13, R147, R308, R316, R319, R328, R332): every fabric moves, completions that only
waited for their latency are written, and the counters of time move.
-/

namespace Sys2Proof.Machine

/-! ### A stitch that has run out (R147) -/

/-- The LIVE stitches that have run out become FREE. -/
def CSet.freeRunOut (c : CSet) : CSet :=
  { c with rounds := (List.range 64).foldl (fun r k =>
      if c.runsOut k then r.put k { r.at k with status := .free } else r) c.rounds }

/-! ### Cores -/

/-- The error tokens that reach sink nodes in a cycle (R328). -/
def Core.sinkErrors (k : Core) (now : Nat) : List (Nat × Token) :=
  if k.fabricRuns now then
    (k.set.fab.flights.filter (fun g => decide (g.due ≤ now) && g.tok.isError && !k.set.isDrop g.tok.k)).filterMap
      (fun g => match placeOf g.tgt with | .sink n => some (n, g.tok) | _ => none)
  else []

/-- A cycle of a core: its active set's fabric runs or waits, its inactive set's waits, completions are written. -/
def Core.tick (k : Core) (now : Nat) : Core :=
  let runs := k.fabricRuns now
  let active (c : CSet) : CSet :=
    let c := (CSet.deliver now c.ops c).passTags
    { c with
      fab := if runs then (c.fab.cycle c.isDrop now).feedAll c.isSlip c.isDrop now else c.fab.wait
      unit := c.unit.map (fun u => { u with activeCyc := u.activeCyc + 1 }) }
  let idle (c : CSet) : CSet :=
    let c := (CSet.deliver now c.ops c).passTags
    { c with fab := c.fab.wait }
  { k with set := if runs then (active k.set).freeRunOut else active k.set, shadow := k.shadow.map idle }

/-- The 16 KiB units that a partition's pools hold (R319). -/
def State.pooled (s : State) (p : Nat) : Nat :=
  ((s.pools.filter (fun g => g.part == p)).map (fun g => g.size * g.refs.length / 16384)).foldl (· + ·) 0

/-- The units running on active sets: partition, owner, launch and core. -/
def State.running (s : State) : List (Nat × BitVec 16 × BitVec 32 × Nat) :=
  s.cores.filterMap (fun k => k.set.unit.map (fun u => (u.part, u.owner, u.lid, k.num)))

/-- What dispatch counts in a cycle: core-cycles of owners, launches and reservations, and each microsecond (1900
cycles) the pool blocks held (R308, R316, R319). -/
def State.charge (s : State) : State :=
  let run := s.running
  let usage := run.foldl (fun l r => addUsage r.1 r.2.1 0 1 l) s.disp.usage
  let usage := if s.cycle % 1900 = 0 then
      s.parts.foldl (fun l p => if s.pooled p.num = 0 then l else addUsage p.num 0 2 (s.pooled p.num) l) usage
    else usage
  { s with disp := { s.disp with
      usage := usage
      launches := s.disp.launches.map (fun l =>
        { l with cycles := l.cycles + (run.filter (fun r => r.2.2.1 == l.lid)).length })
      resvs := s.disp.resvs.map (fun r =>
        { r with left := r.left.map (fun e =>
            if (s.coreAt e.1).set.under r.num then (e.1, e.2 - 1) else e) }) } }

/-- The error tokens that reach the sink nodes of core n are counted and logged. -/
def State.logSinks (s : State) (n : Nat) : State :=
  let here := s.core.num
  let es := (s.coreAt n).sinkErrors s.cycle
  if es.isEmpty then s
  else
    (es.foldl (fun s e =>
      s.errToken (s.fabRecord 0x03 e.2.k 0xFFFF 0xFFFFFFFF 0 (BitVec.setWidth 8 e.2.tag.cause) e.2.tagWord))
      (s.select n)).select here

/-- The trace records of a core's earlier cycles are written, as far as they may be (R341). -/
def State.flushTrace (s : State) (n : Nat) : State :=
  if (s.coreAt n).trace.any (fun t => !t.staged.isEmpty) then s.onCore n (fun s => State.traceFlush s.cycle 64 s) else s

/-- The matrix nodes of a core at the end of a cycle. -/
def State.endNodesOf (s : State) (n : Nat) : State :=
  let f := (s.coreAt n).set.fab
  if f.anq.isEmpty && f.tileOut.isEmpty then s else s.onCore n State.endNodes

/-- One cycle of the module. -/
def State.tick (s : State) : State :=
  let s := (s.cores.map (fun k => k.num)).foldl State.endNodesOf s
  let s := { s with cycle := s.cycle + 1 }
  let s := (s.cores.map (fun k => k.num)).foldl State.logSinks s
  let s := (s.cores.map (fun k => k.num)).foldl State.flushTrace s
  let idle (c : CSet) : CSet :=
    let c := (CSet.deliver s.cycle c.ops c).passTags
    { c with fab := c.fab.wait }
  State.charge { s with
    core := s.postpone (s.core.tick s.cycle)
    others := s.others.map (fun k => s.postpone (k.tick s.cycle))
    disp := { s.disp with
      suspended := s.disp.suspended.map (fun p => (p.1, idle p.2))
      stored := s.disp.stored.map (fun p => (p.1, p.2.1, idle p.2.2))
      streaming := s.disp.streaming.map (fun p => (p.1, p.2.1, idle p.2.2))
      orphans := (s.disp.orphans.map (fun p => (p.1, idle p.2))).filter (fun p => !p.2.ops.isEmpty) } }

/-- n cycles pass. -/
def State.pass : Nat → State → State
  | 0, s => s
  | n + 1, s => State.pass n s.tick

end Sys2Proof.Machine
end

