-- ==== Sys2Proof/Machine/Schedule.lean ====
section
/-!
DEFINITION. The turn that follows when the schedule lists none: every event that is due, core by core, then the
sequencers in rotation, then a cycle.
-/

namespace Sys2Proof.Machine

/-- What an event, or a firing, does to the machine. -/
abbrev Act : Type := State → Host.Outcome State Fault Refusal

/-- An act leads to another state: an event that is not due changes nothing (assumption 6). -/
def State.isDue (s : State) (f : Act) : Bool :=
  match f s with
  | .next t => t ≠ s
  | _ => false

/-- The operations of a set that wait for more than their latency. -/
def CSet.openOps (c : CSet) : List Nat :=
  c.ops.filterMap (fun o =>
    match o.wait with
    | .ready _ _ _ => none
    | _ => some o.id)

/-- The events of the current core that may be due, state holders first (R121). -/
def State.coreEvents (s : State) : List Act :=
  let stitches := match s.core.set.fab.running with | some im => List.range im.P | none => []
  let eight := List.range 8
  let sixteen := List.range 16
  let ops := s.core.sets.flatMap CSet.openOps
  [execRoundBoundary, execCoreFreeze, execShadowSwap] ++
    (match s.core.set.fab.running with
      | some im => im.slots.flatMap (fun r => stitches.map (fun k => execSregEmission r.num k))
      | none => []) ++
    s.core.set.rounds.drains.map (fun d => execBindoffDrainEnd d.k) ++ [execRsaveDrainEnd] ++
    ops.map (fun i => execTokenCompletion i) ++ sixteen.map (fun q => execEngineOperationStart q) ++
    [execPlaneSwap, execTileSourceRow] ++ (List.range 64).map (fun k => execMxBlockEntry k) ++
    eight.map (fun n => execAccumulatorAddition n) ++ eight.map (fun n => execAccumulatorRelease n) ++
    eight.flatMap (fun n => (List.range 64).map (fun k => execPairRelease n k)) ++
    (List.range 64).map (fun k => execGpFiring k) ++
    sixteen.flatMap (fun n =>
      [execMemoryNodeCompletion n, execMemoryNodeRequest n, execWalkAhead n, execPagedRequest n, execGeneratorFault n]) ++
    [execNetworkPortSend 0, execNetworkPortSend 1, execCompletionReport, execDeadlockReport]

/-- The events of packets, launches, reservations and partitions that may be due. -/
def State.moduleEvents (s : State) : List Act :=
  s.net.control.flatMap (fun c =>
      (match c.nextHop with | some h => [execPacketAtSwitch c.id h.1 h.2] | none => []) ++
      [execAckReceived c.id, execLossNotice c.id]) ++
    s.net.packets.flatMap (fun k =>
      (match k.nextHop with | some h => [execPacketAtSwitch k.id h.1 h.2] | none => []) ++
      [execPacketDelivery k.id, execTrimNotice k.id, execWriteArrival k.id, execHomeBankAccess k.id, execRouteClassArrival k.id,
        execHandler1Arrival k.id, execYarnTokenArrival k.id, execReask k.id, execRetransmission k.id]) ++
    s.net.unacked.map (fun u => execAcknowledgement u.1.1 u.1.2) ++
    s.net.waits.flatMap (fun w => [execSigwaitTest w.op, execSigwaitTimeout w.op]) ++
    [execHandler1Arrival s.net.nextId] ++
    s.disp.launches.flatMap (fun l => [execPhaseBoundary l.lid, execLaunchCompletion l.lid]) ++
    s.disp.resvs.flatMap (fun r => [execReservationPeriodStart r.num, execReservationBudgetSpent r.num]) ++
    [execSetStreamEnd] ++ (List.range s.disp.suspended.length).map (fun i => execSuspendedUnitResume i) ++ [execDispatchAdmit] ++
    (s.disp.orphans.flatMap (fun e => e.2.openOps)).map (fun i => execTokenCompletion i) ++
    s.parts.map (fun p => execLogMessage p.num) ++ [execLogMessage operatorSink]

/-- The slots of the current core whose words act now: the SREG slots that have a token to store (R148), the CONST slots
without an input that owe their initial token (R149), and the slots that fire, one of each element. -/
def State.firingSlots (s : State) : List Nat :=
  match s.core.set.fab.running with
  | some im =>
    if s.core.fabricRuns s.cycle then
      ((im.sregSlots.filter (fun r => !(s.core.set.fab.heldAt (slotTarget r.num 0)).isEmpty)) ++
        im.freeConsts.filter (fun r => s.core.set.fab.consts.contains (r.num, s.cycle % im.P)) ++
        im.slots.filter (fun r => s.core.set.mayFire im s.cycle r)).map (fun r => r.num)
    else []
  | none => []

/-- The operation word of a slot of the running configuration fires (R120). -/
def stepFire (slot : Nat) (s : State) : Host.Outcome State Fault Refusal :=
  match s.slotInstr slot with
  | some i => exec i { s with firing := slot }
  | none => .next s

/-- What is due on the current core: an event, else a firing. -/
def State.coreTurn (s : State) : Option Act :=
  (s.coreEvents ++ s.firingSlots.map stepFire).find? s.isDue

/-- A core other than the current one on which something is due. -/
def State.dueCore (s : State) : Option Nat :=
  (s.others.find? (fun k => (s.select k.num).coreTurn.isSome)).map (fun k => k.num)

/-- The cores whose sequencers may issue, the current one first. -/
def State.issuers (s : State) : List Nat :=
  (if s.canIssue then [s.core.num] else []) ++ (s.others.filter (fun k => (s.select k.num).canIssue)).map (fun k => k.num)

/-- An instruction issued on the current core, with the cycles its issue takes (R87, R91). -/
def issueInstr (i : Instr) (s : State) : Host.Outcome State Fault Refusal :=
  match exec i s with
  | .next t => .next (t.occupy (occupancy i s t))
  | .fault f => .fault f
  | .refused r => .refused r

/-- The current core's sequencer issues. -/
def stepIssue (s : State) : Host.Outcome State Fault Refusal :=
  match s.front with
  | (t, some i) => issueInstr i t
  | (t, none) => .next (t.occupy 1)

/-- A core on which a token is due at the composer or leaves it: these come behind the cycle's instructions (R294). -/
def State.composerCore (s : State) : Option Nat :=
  if s.isDue execComposerArrival then some s.core.num
  else (s.others.find? (fun k => (s.select k.num).isDue execComposerArrival)).map (fun k => k.num)

/-- The turn when the schedule lists none. A sequencer that has issued is busy until its issue is over, so each issues in
turn within a cycle. -/
def stepDefault (s : State) : Host.Outcome State Fault Refusal :=
  match s.coreTurn with
  | some f => f s
  | none =>
    match s.moduleEvents.find? s.isDue with
    | some f => f s
    | none =>
      match s.dueCore with
      | some n => .next (s.select n)
      | none =>
        match s.issuers with
        | n :: _ => if n = s.core.num then stepIssue s else .next (s.select n)
        | [] =>
          match s.composerCore with
          | some n => if n = s.core.num then execComposerArrival s else .next (s.select n)
          | none => .next (s.pass 1)

end Sys2Proof.Machine
end

