-- ==== Sys2Proof/Machine/Step.lean ====
section
/-!
DEFINITION. One step of the module: the next turn of the schedule, or of the default order when it lists none.
-/

namespace Sys2Proof.Machine

/-- One turn. -/
def stepTurn (t : Turn) (s : State) : Host.Outcome State Fault Refusal :=
  match t with
  | .core c => .next (s.select c)
  | .tick n => .next (s.pass n)
  | .fire slot => stepFire slot s
  | .issue => stepIssue s
  | .event e => exec e s
  | .ahead n k m => .next (s.walkAhead n k m)
  | .command code c => if s.host.enabled.ports = 0 then .next s else execCommand code c s
  | .steward a => .next (s.steward a)
  | .record r => .next { s with host := { s.host with record := r } }
  | .corrected pa => .next (s.correct pa)
  | .brought pools skeins => .next (s.bring pools skeins)
  | .sink part up => .next (s.setSink part up)
  | .hostFlow port vc part => .next (s.hostTrim port vc part)

/-- One step (R23, R24: the schedule is any interleaving of the agents' steps). -/
def step (s : State) : Host.Outcome State Fault Refusal :=
  if s.host.inReset then
    match s.sched with
    | .event .reset :: rest => exec .reset { s with sched := rest }
    | _ => .fault .heldInReset
  else
    match s.sched with
    | t :: rest => stepTurn t { s with sched := rest }
    | [] => stepDefault s

/-! ### An instruction placed where the next step takes it -/

/-- A sequencer's word placed at the PC of the current core: a unit that may issue, the code page mapped in the unit's
tables, and the turn to issue (assumption 10). -/
def State.placeCode (s : State) (w : BitVec 32) : State :=
  let u := s.core.set.unit.getD { UnitCtx.none with started := s.cycle }
  let root := ((s.partAt u.part).getD Part.device).root
  { s with
    core := { s.core with
      frost := .thawed
      locked := false
      set := { s.core.set with
        unit := some u
        seq := { s.core.set.seq with pc := 0x200000, level := if s.core.set.unit.isSome then s.core.set.seq.level else 2 }
        asyncs := []
        busy := 0
        ops := []
        tlb := []
        icache := [] } }
    mem := ((s.mem.putBytes root (leBytes 8 0x80001)).putBytes 0x80008 (leBytes 8 0x20007F)).putBytes 0x200000
      (bytesOfWord w)
    host := { s.host with inReset := false }
    sched := [.issue] }

/-- The operands of a fabric word placed at slot 0: a data token of stitch 0 at each position it reads. -/
def placedTokens (i : Instr) : List (Target × Token) :=
  (fabReads i 0).map (fun pos => (slotTarget 0 pos, Token.plain 0 0 false))

/-- A fabric word placed in slot 0 of a running configuration of P = 1, its operands standing before it, and the turn to
fire it (assumption 10). -/
def State.placeSlot (s : State) (w : BitVec 32) (i : Instr) : State :=
  let u := s.core.set.unit.getD { UnitCtx.none with started := s.cycle }
  { s with
    core := { s.core with
      frost := .thawed
      hold := .none
      set := { s.core.set with
        unit := some u
        fab := { Fabric.empty with
          running := some ⟨1, 0, [⟨0, w, 0⟩], [], [], [], []⟩
          started := s.cycle
          held := placedTokens i } } }
    host := { s.host with inReset := false }
    sched := [.fire 0] }

/-- The instruction of the table's bits placed where the next step runs it. -/
def State.withFetchWord (s : State) (nbits w : Nat) : State :=
  let v : BitVec 32 := BitVec.ofNat 32 (w % 2 ^ nbits)
  match decodeWord v with
  | .ok _ => s.placeCode v
  | .error _ =>
    match decodeFabric v with
    | .ok i => s.placeSlot v i
    | .error _ => s.placeCode v

end Sys2Proof.Machine
end

