-- ==== Sys2Proof/Safety.lean ====
section
/-!
DEFINITION. What counts as a safe step, and the terms in which claims say when an instruction issues and what it leaves.
-/

namespace Sys2Proof.Machine

/-- A step that answers a next state: the machine neither stops nor meets an instruction without a meaning. -/
def goesOn (s : State) : Prop := ∃ t, step s = .next t

/-- A property that every step keeps, from every state that has it. -/
def kept (inv : State → Prop) : Prop := ∀ s t, inv s → step s = .next t → inv t

/-! ### Issue -/

/-- An instruction that reads some registers and writes one may issue: no register it names is pending, none it reads
has its error bit set, no BAR holds the unit, and the level is enough (R6, R87, R88, R236). -/
def State.mayIssue (s : State) (reads : List Reg) (dest : Reg) (level : Nat) : Prop :=
  (∀ r ∈ reads, s.seq.pending r = false ∧ s.seq.err r = .clear) ∧ s.seq.pending dest = false ∧
    s.core.set.barred = false ∧ level ≤ s.seq.level.toNat

/-- No CFG, STRM or MAT instruction of the unit is in progress, and no RLOAD or RSAVE (R113, R151, R206). -/
def State.cfgFree (s : State) : Prop := s.inProgress [.cfg, .strm, .mat] = false ∧ s.cfgOwed = false ∧ s.moving = false

/-- No CFG instruction of the unit is in progress, and no RLOAD or RSAVE (R113, R151). -/
def State.strmFree (s : State) : Prop := s.inProgress [.cfg] = false ∧ s.moving = false

/-! ### What a step leaves -/

/-- From `s` to `t` an instruction begins asynchronous work: the PC moves on, register r is pending, and an operation
stands that waits for w; memory is as it was (R87, R89). -/
def State.began (s t : State) (r : Reg) (cls : OpClass) (w : Wait) : Prop :=
  t.core.set.seq = { s.core.set.seq.setPending r with pc := s.core.set.seq.pc + 4 } ∧
    t.core.set.ops = s.core.set.ops ++ [⟨s.net.nextId, r, cls, w⟩] ∧ t.mem = s.mem

/-- A token is on its way to a target in the current core's fabric. -/
def State.sends (s : State) (g : Target) (tok : Token) : Prop :=
  ∃ f ∈ s.core.set.fab.flights, f.tgt = g ∧ f.tok = tok

/-- The operation of number id stands in the current core's set, and waits for w. -/
def State.waitsFor (s : State) (id : Nat) (w : Wait) : Prop :=
  (∃ o ∈ s.core.set.ops, o.id = id ∧ o.wait = w) ∧ ∀ o ∈ s.core.set.ops, o.id = id → o.wait = w

/-- The slot r of the running image holds the word i, may fire, and takes the tokens x (R120, R121). -/
def State.fires (s : State) (i : Instr) (im : Image) (r : SlotRec) (x : Taken) : Prop :=
  s.firingSlot i = some (im, r) ∧ s.core.set.fab.pick r.num (im.reads r) = some x ∧
    s.core.set.mayFire im s.cycle r = true ∧ s.core.set.fab.eorDue.any (fun e => e.1 == r.num) = false

/-- The firing consumes its tokens, and sends those of `outs` to their targets; the sequencer is as it was, and memory
too where nothing is traced (R123). -/
def State.firesWith (s : State) (i : Instr) (im : Image) (r : SlotRec) (x : Taken) (outs : List (Target × Token)) : Prop :=
  ∃ u, exec i s = .next u ∧ u.core.set.fab.held = (s.core.set.fab.consume r.num (im.reads r) x.l.k).held ∧
    (∀ o ∈ outs, o.1 ≠ noTarget → u.sends o.1 o.2) ∧ (outs = [] → u.core.set.fab.flights = s.core.set.fab.flights) ∧
    u.core.set.seq = s.core.set.seq ∧ (s.core.trace = none → u.mem = s.mem)

/-- `t` is `s` but for the current core's sequencer. -/
def State.sameButSeq (s t : State) : Prop :=
  t = { s with core := { s.core with set := { s.core.set with seq := t.core.set.seq } } }

/-- Two sequencers differ only in the PC, the registers, their pending and their error bits. -/
def Seq.sameFlags (p q : Seq) : Prop :=
  q.level = p.level ∧ q.te = p.te ∧ q.dz = p.dz ∧ q.tenant = p.tenant ∧ q.device = p.device ∧ q.argLen = p.argLen

end Sys2Proof.Machine
end

