-- ==== Sys2Proof/Certificates/Slice0/Obligations.lean ====
section
/-!
DEFINITION. The statements for the provers.
-/

open Sys2Proof Sys2Proof.Machine

/-! ### The sequencer: ALU, immediates, branches (R85 to R101) -/

/-- R95: the ALU instructions but the divisions. -/
def Obligations.AluResults : Prop :=
  ∀ (s : State) (d a b : Reg), s.mayIssue [a, b] d 0 →
    let x := s.reg a
    let y := s.reg b
    let answers (i : Instr) (v : Word) : Prop := exec i s = .next ((s.setReg d v).advance)
    answers (.add d a b) (x + y) ∧ answers (.sub d a b) (x - y) ∧
    answers (.and d a b) (x &&& y) ∧ answers (.or d a b) (x ||| y) ∧ answers (.xor d a b) (x ^^^ y) ∧
    answers (.andn d a b) (x &&& ~~~y) ∧
    answers (.shl d a b) (x <<< (y.toNat % 64)) ∧ answers (.shr d a b) (x >>> (y.toNat % 64)) ∧
    answers (.sra d a b) (x.sshiftRight (y.toNat % 64)) ∧
    answers (.min d a b) (if x.toInt < y.toInt then x else y) ∧
    answers (.max d a b) (if x.toInt > y.toInt then x else y) ∧
    answers (.minu d a b) (if x.toNat < y.toNat then x else y) ∧
    answers (.maxu d a b) (if x.toNat > y.toNat then x else y) ∧
    answers (.cmpeq d a b) (if x = y then 1 else 0) ∧ answers (.cmpne d a b) (if x ≠ y then 1 else 0) ∧
    answers (.cmplt d a b) (if x.toInt < y.toInt then 1 else 0) ∧
    answers (.cmpltu d a b) (if x.toNat < y.toNat then 1 else 0) ∧
    answers (.cmple d a b) (if x.toInt ≤ y.toInt then 1 else 0) ∧
    answers (.cmpleu d a b) (if x.toNat ≤ y.toNat then 1 else 0) ∧
    (∀ i v, (i, v) ∈ [(Instr.mul d a b, x * y), (.mulh d a b, BitVec.ofInt 64 (x.toInt * y.toInt / 2 ^ 64)),
        (.mulhu d a b, BitVec.ofNat 64 (x.toNat * y.toNat / 2 ^ 64))] →
      exec i s = .next ((s.later d .other v .clear 3).advance)) ∧
    (∃ v, answers (.clz d a) v ∧ (x = 0 → v = 64) ∧
      (x ≠ 0 → v.toNat < 64 ∧ 2 ^ (63 - v.toNat) ≤ x.toNat ∧ x.toNat < 2 ^ (64 - v.toNat))) ∧
    answers (.popc d a) (BitVec.ofNat 64 ((List.range 64).filter (fun i => x.getLsbD i)).length)

/-- R96: the value that completes d, and when. -/
def Obligations.DivisionResults : Prop :=
  ∀ (s : State) (d a b : Reg), s.mayIssue [a, b] d 0 →
    let x := s.reg a
    let y := s.reg b
    let z := s.mapSeq (fun q => { q with dz := true })
    let answers (i : Instr) (u : State) (v : Word) (n : Nat) : Prop :=
      exec i s = .next ((u.later d .other v .clear n).advance)
    (y = 0 → answers (.divs d a b) z (BitVec.allOnes 64) 34 ∧ answers (.divu d a b) z (BitVec.allOnes 64) 34 ∧
      answers (.rems d a b) z (BitVec.allOnes 64) 34 ∧ answers (.remu d a b) z (BitVec.allOnes 64) 34) ∧
    (y ≠ 0 → answers (.divs d a b) s (BitVec.ofInt 64 (x.toInt.tdiv y.toInt)) 34 ∧
      answers (.divu d a b) s (x / y) 34 ∧
      answers (.rems d a b) s (BitVec.ofInt 64 (x.toInt - x.toInt.tdiv y.toInt * y.toInt)) 34 ∧
      answers (.remu d a b) s (x % y) 34) ∧
    (x.toInt = -2 ^ 63 → y = BitVec.allOnes 64 → answers (.divs d a b) s x 34 ∧ answers (.rems d a b) s 0 34)

/-- R97 and R99: the immediate forms. -/
def Obligations.ImmediateResults : Prop :=
  ∀ (s : State) (d a : Reg) (i : BitVec 14) (n : BitVec 6) (u : BitVec 20),
    let answers (i : Instr) (v : Word) : Prop := exec i s = .next ((s.setReg d v).advance)
    let x := s.reg a
    let k : Word := BitVec.signExtend 64 i
    (s.mayIssue [a] d 0 →
      answers (.addi d a i) (x + k) ∧ answers (.andi d a i) (x &&& k) ∧ answers (.ori d a i) (x ||| k) ∧
      answers (.xori d a i) (x ^^^ k) ∧ answers (.shli d a n) (x <<< n.toNat) ∧ answers (.shri d a n) (x >>> n.toNat) ∧
      answers (.srai d a n) (x.sshiftRight n.toNat) ∧
      answers (.cmplti d a i) (if x.toInt < k.toInt then 1 else 0) ∧ answers (.cmpeqi d a i) (if x = k then 1 else 0) ∧
      (∃ v, answers (.sext d a n) v ∧ ∀ j < 64, v.getLsbD j = x.getLsbD (min j n.toNat)) ∧
      (∃ v, answers (.zext d a n) v ∧ ∀ j < 64, v.getLsbD j = (decide (j ≤ n.toNat) && x.getLsbD j))) ∧
    (s.mayIssue [] d 0 →
      answers (.lui d u) (BitVec.signExtend 64 u <<< 12) ∧
      answers (.addpc d u) (s.seq.pc + (BitVec.signExtend 64 u <<< 12))) ∧
    (s.mayIssue [d] d 0 →
      answers (.lih d u) ((s.reg d &&& 0x00000FFFFFFFFFFF) ||| (BitVec.setWidth 64 u <<< 44)))

/-- The frame of the instructions that only write a register. -/
def Obligations.RegisterInstructionsFrame : Prop :=
  ∀ (s t : State) (d a b : Reg) (k : BitVec 14) (n : BitVec 6) (u : BitVec 20), s.mayIssue [a, b, d] d 0 →
    ∀ i ∈ [Instr.add d a b, .sub d a b, .and d a b, .or d a b, .xor d a b, .andn d a b, .shl d a b, .shr d a b,
        .sra d a b, .min d a b, .max d a b, .minu d a b, .maxu d a b, .cmpeq d a b, .cmpne d a b, .cmplt d a b,
        .cmpltu d a b, .cmple d a b, .cmpleu d a b, .clz d a, .popc d a, .addi d a k, .andi d a k, .ori d a k,
        .xori d a k, .shli d a n, .shri d a n, .srai d a n, .cmplti d a k, .cmpeqi d a k, .sext d a n, .zext d a n,
        .lui d u, .addpc d u, .lih d u, .mfs d k],
      i.wellFormed = true → exec i s = .next t →
        (∀ r, r ≠ d → t.reg r = s.reg r ∧ t.seq.err r = s.seq.err r) ∧ t.reg 0 = 0 ∧ t.seq.pend = s.seq.pend ∧
        s.seq.sameFlags t.seq ∧ (∀ pa, t.mem.get pa = s.mem.get pa) ∧ s.sameButSeq t

/-- R100: branches. -/
def Obligations.BranchResults : Prop :=
  ∀ (s : State) (a b : Reg) (o : BitVec 11),
    let answers (i : Instr) (taken : Prop) : Prop :=
      (taken → exec i s = .next (s.setPc (s.seq.pc + 4 * BitVec.signExtend 64 o))) ∧
      (¬ taken → exec i s = .next (s.setPc (s.seq.pc + 4)))
    let x := s.reg a
    let y := s.reg b
    (s.mayIssue [a, b] 0 0 →
      answers (.beq a b o) (x = y) ∧ answers (.bne a b o) (x ≠ y) ∧
      answers (.blt a b o) (x.toInt < y.toInt) ∧ answers (.bge a b o) (x.toInt ≥ y.toInt) ∧
      answers (.bltu a b o) (x.toNat < y.toNat) ∧ answers (.bgeu a b o) (x.toNat ≥ y.toNat)) ∧
    (s.mayIssue [] 0 0 → answers (.btr a o) (s.seq.pending a = false))

/-- R101: jumps, and the fetch at a target with any of bits [63:48] set. -/
def Obligations.JumpResults : Prop :=
  ∀ (s : State) (d a : Reg) (i : BitVec 20) (k : BitVec 14),
    (s.mayIssue [] d 0 →
      exec (.jal d i) s = .next ((s.setReg d (s.seq.pc + 4)).setPc (s.seq.pc + 4 * BitVec.signExtend 64 i))) ∧
    (s.mayIssue [a] d 0 →
      let target := s.reg a + BitVec.signExtend 64 k
      (target.toNat % 4 = 0 → exec (.jalr d a k) s = .next ((s.setReg d (s.seq.pc + 4)).setPc target)) ∧
      (target.toNat % 4 ≠ 0 → exec (.jalr d a k) s = .next (s.trap 0x03 target))) ∧
    (∀ va : Nat, 2 ^ 48 ≤ va → s.seq.pc = BitVec.ofNat 64 va → va < 2 ^ 64 → (s.fetch).2 = .error 0x05)

/-! ### Loads, stores, special registers, traps (R92 to R109, R322 to R326) -/

/-- R102, R105, R106: scalar accesses to the scratchpad window. -/
def Obligations.WindowLoadsAndStores : Prop :=
  ∀ (s : State) (d a : Reg) (i : BitVec 14) (n : Nat),
    let va := (s.reg a + BitVec.signExtend 64 i).toNat
    let pa := windowPa s.core.num s.core.sliced s.core.half (va - 0xFFFF00000000)
    0xFFFF00000000 ≤ va → va + n ≤ 0xFFFF00000000 + windowSize s.core.sliced → va % n = 0 →
    (n = 4 → s.mayIssue [a] d 0 → s.readError pa 4 = none → exec (.ldw d a i) s =
      .next ((s.later d .other (BitVec.signExtend 64 (BitVec.ofNat 32 (s.mem.nat pa 4))) .clear 4).advance)) ∧
    (n = 8 → s.mayIssue [a] d 0 → s.readError pa 8 = none → exec (.ldd d a i) s =
      .next ((s.later d .other (BitVec.ofNat 64 (s.mem.nat pa 8)) .clear 4).advance)) ∧
    (s.mem.wf → s.mayIssue [a, d] 0 0 → ∀ j, (n = 4 ∧ j = Instr.stw d a i) ∨ (n = 8 ∧ j = Instr.std d a i) →
      ∃ t, exec j s = .next t ∧ t.mem.nat pa n = (s.reg d).toNat % 2 ^ (8 * n) ∧
        (∀ x, x < pa ∨ pa + n ≤ x → t.mem.get x = s.mem.get x) ∧
        t.seq = { s.seq with pc := s.seq.pc + 4 } ∧ t.core.set.ops = s.core.set.ops)

/-- R102, R229: scalar accesses to global addresses. -/
def Obligations.GlobalLoadsAndStores : Prop :=
  ∀ (s u : State) (d a : Reg) (i : BitVec 14) (n pa : Nat),
    let va := s.reg a + BitVec.signExtend 64 i
    n = 4 ∨ n = 8 → va.toNat + n ≤ 0xFFFF00000000 → va.toNat % n = 0 → s.part.windowAt va.toNat = none →
    s.core.set.fenced = false → s.retentionFull = false →
    (s.mayIssue [a, d] 0 0 → s.translate .write va.toNat = (u, .ok pa) →
      ∃ t k, exec (if n = 4 then .stw d a i else .std d a i) s = .next t ∧ t.net.packets = u.net.packets ++ [k] ∧
        k.body = .write .sequencer pa (BitVec.ofNat 48 va.toNat) ∧ k.bytes = leBytes n (s.reg d).toNat ∧
        k.dst = homeOf u.host.pins pa ∧ k.way = .sent ∧ k.phase = u.unit.phase ∧ t.mem = u.mem ∧
        t.seq = { u.seq with pc := u.seq.pc + 4 }) ∧
    (s.mayIssue [a] d 0 → s.translate .read va.toNat = (u, .ok pa) →
      ∃ t, exec (if n = 4 then .ldw d a i else .ldd d a i) s = .next t ∧
        t.seq = { u.seq.setPending d with pc := u.seq.pc + 4 } ∧ t.mem = u.mem ∧
        (u.core.set.boundaryBefore u.net.nextId = false → lookup (pa / 8 * 8) u.core.set.snaps = none →
          ⟨u.net.nextId, d, .other, .load pa n (u.ownCells u.net.nextId pa n) u.unit.bypass (some (u.net.nextId + 1))⟩
            ∈ t.core.set.ops ∧
          ∃ k, t.net.packets = u.net.packets ++ [k] ∧ k.body = .read pa u.unit.bypass ∧ k.op = some u.net.nextId ∧
            k.dst = homeOf u.host.pins pa))

/-- R103: the order of the address checks. -/
def Obligations.AddressChecksInOrder : Prop :=
  ∀ (s : State) (d a : Reg) (i : BitVec 14),
    let va := s.reg a + BitVec.signExtend 64 i
    s.globalHeld va = false →
    ∀ (j : Instr) (n : Nat) (kind : AccKind),
      (j, n, kind) ∈ [(Instr.ldw d a i, 4, AccKind.read), (.ldd d a i, 8, .read), (.stw d a i, 4, .write),
        (.std d a i, 8, .write)] →
      s.mayIssue [a, d] d 0 →
      (va.toNat % n ≠ 0 → exec j s = .next (s.trap 0x03 va)) ∧
      (va.toNat % n = 0 →
        (va.toNat ≥ 0xFFFF00000000 + windowSize s.core.sliced → exec j s = .next (s.trap 0x05 va)) ∧
        (va.toNat + n ≤ 0xFFFF00000000 →
          ((s.part.windowAt va.toNat).isSome → exec j s = .next (s.trap 0x05 va)) ∧
          (∀ u f, s.part.windowAt va.toNat = none → s.translate kind va.toNat = (u, .error f) →
            exec j s = .next (u.trap (match f with | .page => 0x04 | .access => 0x05) va))))

/-- R103, R162 to R164: what a translation answers. -/
def Obligations.TranslationFaults : Prop :=
  ∀ (s : State) (kind : AccKind) (va : Nat), (∀ e ∈ s.core.set.tlb, e.vpn ≠ va / 65536) →
    (walkTables s.mem s.part.root va = none → s.translate kind va = (s, .error .page)) ∧
    (∀ l, walkTables s.mem s.part.root va = some l →
      (pteAllows kind l.pte = false → s.translate kind va = (s, .error .access)) ∧
      (pteAllows kind l.pte = true → s.granted s.part (l.page + va % l.size) = true →
        (kind = .write → s.part.inCounters (l.page + va % l.size) = false) → kind ≠ .look → pinFits s.host.pins l = true →
        ∃ u, s.translate kind va = (u, .ok (l.page + va % l.size)) ∧
          u.mem = s.mem.putBytes l.slot (leBytes 8 (markPte kind l.pte)) ∧
          (markPte kind l.pte).testBit 5 = true ∧ (kind = .write → (markPte kind l.pte).testBit 6 = true)))

/-- R92, R93, R94: MFS. -/
def Obligations.SpecialRegisterReads : Prop :=
  ∀ (s : State) (d : Reg), s.mayIssue [] d 0 →
    let copy (f : TrapRegs → Word) : Word :=
      if s.seq.level = 0 then 0 else if s.seq.level = 1 then f s.seq.tenant else f s.seq.device
    ∀ n v, (n, v) ∈ [(0x000, BitVec.ofNat 64 s.cycle),
        (0x001, s.part.toff + BitVec.ofNat 64 (s.cycle * s.part.tscale.toNat / 2 ^ 32)),
        (0x002, BitVec.ofNat 64 s.unit.index), (0x003, BitVec.setWidth 64 s.unit.lid),
        (0x004, BitVec.ofNat 64 s.unit.part), (0x005, BitVec.ofNat 64 s.core.num),
        (0x006, match s.core.set.fab.running with | some im => BitVec.ofNat 64 im.P | none => 0),
        (0x007, BitVec.setWidth 64 s.unit.owner), (0x010, copy (fun r => r.cause)), (0x011, copy (fun r => r.pc)),
        (0x012, copy (fun r => r.val)), (0x013, copy (fun r => r.base)),
        (0x014, BitVec.ofNat 64 (s.seq.level.toNat + (if s.seq.te then 4 else 0) + (if s.seq.dz then 8 else 0)
          + (if s.part.narrow then 16 else 0))),
        (0x020, if s.core.sliced then 0xFFFF000BFFD0 else 0xFFFF0017FFD0),
        (0x021, BitVec.setWidth 64 s.seq.argLen)] →
      exec (.mfs d n) s = .next ((s.setReg d v).advance)

/-- R92, R93, R94: MTS. -/
def Obligations.SpecialRegisterWrites : Prop :=
  ∀ (s : State) (a : Reg),
    (s.mayIssue [a] 0 0 →
      exec (.mts a 0x014) s = .next ((s.mapSeq (fun q =>
        { q with te := if s.seq.level = 0 then q.te else (s.reg a).getLsbD 2, dz := (s.reg a).getLsbD 3 })).advance)) ∧
    (∀ n (f : TrapRegs → TrapRegs), (n, f) ∈ [(0x010, fun r => { r with cause := s.reg a }),
        (0x011, fun r => { r with pc := s.reg a }), (0x012, fun r => { r with val := s.reg a }),
        (0x013, fun r => { r with base := s.reg a &&& 0xFFFFFFFFFFFFFFC0 })] →
      (s.mayIssue [a] 0 1 → s.seq.level = 1 →
        exec (.mts a n) s = .next ((s.mapSeq (fun q => { q with tenant := f q.tenant })).advance)) ∧
      (s.mayIssue [a] 0 1 → s.seq.level = 2 →
        exec (.mts a n) s = .next ((s.mapSeq (fun q => { q with device := f q.device })).advance)) ∧
      (s.mayIssue [a] 0 0 → s.seq.level = 0 →
        exec (.mts a n) s = .next (s.trap 0x02 (BitVec.setWidth 64 ((0x1A : BitVec 6) ++ (0 : Reg) ++ a ++ n))))) ∧
    (∀ n : BitVec 14, n.toNat < 0x010 ∨ 0x014 < n.toNat →
      decodeWord ((0x1A : BitVec 6) ++ (0 : Reg) ++ a ++ n) = .error .illFormed)

/-- R109, R110, R326: the SYS instructions. -/
def Obligations.SysInstructions : Prop :=
  ∀ (s : State) (a : Reg) (u : UnitCtx),
    let halts (status node : Nat) : Prop := ∃ t, exec .halt s = .next t ∧ t.core.set.unit = none ∧
      lookup (u.lid, u.index) t.disp.halts = some (BitVec.ofNat 64 (status + u.index % 65536 * 2 ^ 16 + node * 2 ^ 32))
    (s.mayIssue [] 0 0 → exec .nop s = .next s.advance) ∧
    (s.mayIssue [] 0 0 → s.core.swapDue = false → exec .yield s = .next s.advance) ∧
    (s.mayIssue [] 0 0 → s.core.swapDue = true → exec .yield s = .next s.advance.swapNow) ∧
    (s.mayIssue [] a 0 → exec (.tokwait a) s = .next s.advance) ∧
    (s.seq.pending a = true → exec (.tokwait a) s = .next s) ∧
    (s.mayIssue [] 0 0 → exec (.trap a) s = .next (s.trap 0x11 (BitVec.setWidth 64 a))) ∧
    (s.mayIssue [] 0 1 →
      let r := if s.seq.level = 1 then s.seq.tenant else s.seq.device
      let before := r.cause.toNat / 256 % 4
      (r.pc.toNat % 4 ≠ 0 → exec .eret s = .next (s.trap 0x03 r.pc)) ∧
      (r.pc.toNat % 4 = 0 → ∃ t, exec .eret s = .next t ∧ s.sameButSeq t ∧
        t.seq = { s.seq with
          te := r.cause.getLsbD 10
          level := if before < s.seq.level.toNat then BitVec.ofNat 2 before else s.seq.level
          pc := r.pc })) ∧
    (s.mayIssue [] 0 0 → s.core.set.unit = some u → s.core.set.seq.pend = 0 → s.core.set.eng = [] →
      (∀ o ∈ s.core.set.ops, ∀ x y v g p, o.wait ≠ .latch x y v g p) →
      (s.core.set.fab.running = none → halts 0 0) ∧
      (s.core.set.fab.running ≠ none → ∀ w, s.standing = some w →
        if w.toNat % 4 = 2 then halts 0x0D (w.toNat / 2 ^ 32) else halts 0 0) ∧
      (s.core.set.fab.running ≠ none → s.standing = none →
        exec .halt s = .next (s.mapSet (fun c => { c with halting := true }))))

/-- R323: trap entry. -/
def Obligations.TrapEntrySavesAndJumps : Prop :=
  ∀ (s : State) (cause : BitVec 8) (v : Word) (async : Bool),
    let word : Word := BitVec.ofNat 64 (cause.toNat + s.seq.level.toNat * 2 ^ 8 + (if s.seq.te then 2 ^ 10 else 0)
      + (if async then 2 ^ 11 else 0))
    let step64 : Word := if async then 64 else 0
    (s.seq.trapTarget async = .tenant → s.takeTrap cause v async = s.mapSeq (fun q => { q with
      tenant := ⟨word, q.pc, v, q.tenant.base⟩, level := 1, te := false, pc := q.tenant.base + step64 })) ∧
    (s.seq.trapTarget async = .device → s.takeTrap cause v async = s.mapSeq (fun q => { q with
      device := ⟨word, q.pc, v, q.device.base⟩, level := 2, te := false, pc := q.device.base + step64 }))

/-- R322: the target of a trap, and the causes that are held. -/
def Obligations.TrapTargets : Prop :=
  ∀ (s : State) (async : Bool),
    let q := s.seq
    let higher : TrapTarget := if q.device.base = 0 then .lock else .device
    (q.level = 0 → q.trapTarget async = if q.tenant.base = 0 then higher else .tenant) ∧
    (q.level = 1 → q.trapTarget async =
      if q.tenant.base = 0 ∨ (q.te = false ∧ async = false) then higher else .tenant) ∧
    (q.level = 2 → q.trapTarget async = if q.te = false then .lock else higher) ∧
    (q.trapTarget async = .lock → ∀ cause v, (s.takeTrap cause v async).core.locked = true ∧
      (s.takeTrap cause v async).seq = q) ∧
    (q.level ≠ 0 → q.te = false → s.nextAsync = none) ∧
    (q.level = 0 ∨ q.te = true → s.core.set.asyncs ≠ [] → ∃ c, s.nextAsync = some c ∧ c ∈ s.core.set.asyncs ∧
      (∀ g ∈ s.core.set.asyncs, g.cause ≠ 0x10 → c.cause ≠ 0x10) ∧
      exec .trapEntry s = .next ((s.mapSet (fun k =>
        { k with asyncs := k.asyncs.erase c, halting := false })).takeTrap c.cause c.val true))

/-- R6: privilege. -/
def Obligations.PrivilegedInstructionsTrap : Prop :=
  ∀ (s : State) (t a b : Reg) (q1 : BitVec 1) (q2 : BitVec 2) (q3 : BitVec 3) (q4 : BitVec 4),
    s.seq.pending t = false → s.seq.pending a = false → s.seq.pending b = false → s.seq.pending 0 = false →
    s.core.set.barred = false → s.unfinished [.lnch] = false →
    ∀ i level, (i, level) ∈ [(Instr.eret, 1), (.mts a 0x010, 1), (.mts a 0x011, 1), (.mts a 0x012, 1),
        (.mts a 0x013, 1), (.tinval t a b q1, 1), (.genres t a q4, 1), (.bpmake t a, 1), (.freeze t a q1, 1),
        (.thawResume t a q1, 1), (.thawReleaseHold t, 1), (.thawVacate t a q1, 1), (.skout t a b, 1), (.skin t a b, 1),
        (.brkn t a b q2, 1), (.trcon t a, 1), (.trcoff t, 1), (.walk t a, 1), (.pcreate t a, 2), (.pgrant t a b q3, 2),
        (.presv t a q1, 2), (.qbind t a b q1, 2), (.plend t a, 2), (.precall t a, 2), (.pslice t a q1, 2)] →
      s.seq.level.toNat < level →
      ∃ w, encode i = some w ∧ exec i s = .next (s.trap 0x02 (BitVec.setWidth 64 w))

/-- R88, R325: the first read of a register whose error bit is set. -/
def Obligations.TokenTrapClearsItsErrorBit : Prop :=
  ∀ (s : State) (d a b r : Reg) (k : BitVec 14), s.seq.pending a = false → s.seq.pending b = false →
    s.seq.pending d = false → s.core.set.barred = false → r ≠ 0 → s.seq.err r ≠ .clear →
    let u := if s.seq.trapTarget false = .lock then s
      else s.mapSeq (fun q => { q with errs := q.errs.set r.toNat .clear (by have := r.isLt; omega) })
    let trapped : State := match s.seq.err r with
      | .cfgbad => u.trap 0x08 (s.reg r)
      | .fabric p => u.trap 0x09 (BitVec.ofNat 64 ((s.reg r).toNat % 65536 + p.toNat * 65536))
      | _ => u.trap 0x07 (BitVec.setWidth 64 r)
    (r = a → exec (.addi d a k) s = .next trapped) ∧
    ((r = a ∧ (s.seq.err b = .clear ∨ a.toNat ≤ b.toNat)) ∨ (r = b ∧ (s.seq.err a = .clear ∨ b.toNat ≤ a.toNat)) →
      exec (.add d a b) s = .next trapped)

/-- R87, R88, R89: a completion. -/
def Obligations.CompletionWritesTheRegister : Prop :=
  (∀ (s : State) (o : Op) (v : Word) (e : ErrKind) (due : Nat), s.core.set.op o.id = some o → o.wait = .ready v e due →
    (due ≤ s.cycle → ∃ t, exec (.tokenCompletion o.id) s = .next t ∧ t.core.set = s.core.set.finish o.id v e ∧
      t.mem = s.mem ∧ t.net = s.net) ∧
    (s.cycle < due → exec (.tokenCompletion o.id) s = .next s)) ∧
  ∀ (c : CSet) (o : Op) (v : Word) (e : ErrKind), c.op o.id = some o →
    let d := c.finish o.id v e
    d.ops = c.ops.filter (fun p => p.id ≠ o.id) ∧ d.seq.pc = c.seq.pc ∧
    (∀ r, r ≠ o.t → d.seq.read r = c.seq.read r ∧ d.seq.err r = c.seq.err r ∧ d.seq.pending r = c.seq.pending r) ∧
    (o.t ≠ 0 → d.seq.read o.t = v ∧ d.seq.err o.t = e ∧ d.seq.pending o.t = false) ∧
    (o.t = 0 → d.seq.read 0 = 0 ∧ d.seq.err 0 = .clear ∧ d.seq.regs = c.seq.regs)

/-! ### Configurations, ports and rounds (R112 to R119, R129 to R133, R145 to R157) -/

/-- R112, R116 to R118: CFG instructions. -/
def Obligations.CfgInstructionsComplete : Prop :=
  ∀ (s : State) (t a : Reg) (q : BitVec 1), s.cfgFree →
    let f := s.core.set.fab
    let fails (i : Instr) (n : Nat) : Prop :=
      ∃ u, exec i s = .next u ∧ s.began u t .cfg (.ready (BitVec.ofNat 64 (2 ^ 63 + n)) .clear (s.cycle + 1))
    (s.mayIssue [a] t 0 → s.readHeld (s.reg a) = false →
      (∀ u v r x w sp head rest limit pages, s.checked .read (s.reg a) 64 64 = (u, .ok (w, sp)) →
        State.readSpans w sp u = (v, head, none) →
        v.readUpTo ((s.reg a).toNat + 64) (imageLen head - 64) = (r, rest, limit) →
        r.translateNodes (head ++ rest) (limit.map (fun n => n - (s.reg a).toNat)) = (x, pages) →
        ∃ y, exec (.cfgld t a) s = .next y ∧
          match x.loadImage (head ++ rest) (limit.map (fun n => n - (s.reg a).toNat)) with
          | .ok im => y.core.set.fab.staged = some im ∧ y.core.set.fab.pages = pages ∧ y.core.set.fab.mark = none ∧
              x.began y t .cfg (.ready im.gid .clear (x.cycle + 1))
          | .error e => y.core.set.fab.staged = x.core.set.fab.staged ∧ y.core.set.fab.mark = some e ∧
              x.began y t .cfg (.ready e .cfgbad (x.cycle + 1))) ∧
      (∀ u v x w sp head rest limit, s.checked .read (s.reg a) 8 8 = (u, .ok (w, sp)) →
        State.readSpans w sp u = (v, head, none) →
        v.readUpTo ((s.reg a).toNat + 8) (blockRest head) = (x, rest, limit) →
        firstBad Bad.field (blockBads (head ++ rest)) = none → limit = none →
        let block := nodeOf (field (head ++ rest) 0 2) (head ++ rest)
        (∀ im new z pages, q = 0 → x.core.set.fab.staged = some im → x.walkFirst im.P block = (z, pages) →
          z.loadBlock im (head ++ rest) false = .ok new →
          ∃ y, exec (.cfgparm t a q) s = .next y ∧ y.core.set.fab.staged = some new ∧
            z.began y t .cfg (.ready 0 .clear (z.cycle + 1))) ∧
        (∀ im new z pages, q = 1 → x.core.set.fab.running = some im → x.walkFirst im.P block = (z, pages) →
          z.loadBlock im (head ++ rest) true = .ok new →
          ∃ y, exec (.cfgparm t a q) s = .next y ∧ y.core.set.fab.running = some im ∧
            z.began y t .cfg (.parm block 0)))) ∧
    (s.mayIssue [] t 0 →
      (f.mark = none → f.staged = none → fails (.cfgsw t) 0x20) ∧
      (∀ im, f.mark = none → f.staged = some im →
        (f.running = none → ∃ u, exec (.cfgsw t) s = .next u ∧ u.core.set.fab.running = some im ∧
          u.core.set.fab.started = (s.cycle / im.P + 1) * im.P ∧ u.core.set.fab.staged = none ∧
          s.began u t .cfg (.ready (BitVec.ofNat 64 im.P) .clear (s.cycle + 1))) ∧
        (f.running.isSome → ∃ u, exec (.cfgsw t) s = .next u ∧ u.core.set.fab = f ∧ s.began u t .cfg .cfgsw)) ∧
      (∀ w, f.mark = some w → exec (.cfgsw t) s = .next ((s.mapFab (fun f => { f with mark := none })).trap 0x08 w)) ∧
      (f.running = none → fails (.cfgrel t) 0x22 ∧ fails (.drain t) 0x22 ∧
        ∃ u, exec (.qwait t) s = .next u ∧ s.began u t .cfg (.ready 1 .clear (s.cycle + 1))) ∧
      (f.running.isSome →
        (∃ u, exec (.cfgrel t) s = .next u ∧ u.core.set.fab = f ∧ s.began u t .cfg .cfgrel) ∧
        (∃ u, exec (.qwait t) s = .next u ∧ u.core.set.fab = f ∧ s.began u t .cfg .qwait) ∧
        (∃ u, exec (.drain t) s = .next u ∧ s.began u t .cfg .drain ∧
          ∀ p < 16, u.core.set.fab.portClosed p = true)))

/-- R130, R132, R133: STRM instructions. -/
def Obligations.StreamInstructionsComplete : Prop :=
  ∀ (s : State) (t a b : Reg) (q : BitVec 4), s.strmFree →
    let f := s.core.set.fab
    let fails (i : Instr) (u : State) (n : Nat) : Prop :=
      ∃ y, exec i s = .next y ∧ u.began y t .strm (.ready (BitVec.ofNat 64 (2 ^ 63 + n)) .clear (u.cycle + 1))
    let va := s.reg a
    let tag := Tag.ofBits (wspan (s.reg b) 0 16)
    let tgt : Target := (s.reg b).extractLsb' 16 11
    (s.mayIssue [a, b] t 0 → s.readHeld va = false → ∀ u w sp, s.checked .read va 16 128 = (u, .ok (w, sp)) →
      (∀ n, s.feedStatus q.toNat (s.reg b) = some n → fails (.sfeed t a b q) u n) ∧
      (s.feedStatus q.toNat (s.reg b) = none →
        ∃ y, exec (.sfeed t a b q) s = .next y ∧ u.began y t .strm (.feed q.toNat w sp tag tgt s.unit.phase s.unit.bypass))) ∧
    (s.mayIssue [a, a + 1, b] t 0 → a.isEven = true →
      (∀ n, s.feedStatus q.toNat (s.reg b) = some n → fails (.sfeedt t a b q) s n) ∧
      (s.feedStatus q.toNat (s.reg b) = none →
        let tl := tileOf va (s.reg (a + 1))
        let size := windowSize s.core.sliced
        (tl.valid size = false → fails (.sfeedt t a b q) s 0x40) ∧
        (tl.valid size = true → tl.units > 8 → tl.badFormat = false → fails (.sfeedt t a b q) s 0x45) ∧
        (tl.valid size = true → tl.units ≤ 8 → tl.badFormat = true → fails (.sfeedt t a b q) s 0x41)) ∧
      (s.feedStatus q.toNat (s.reg b) = none →
        (tileOf va (s.reg (a + 1))).feedStatus (windowSize s.core.sliced) = none →
        ∃ y, exec (.sfeedt t a b q) s = .next y ∧
          s.began y t .strm (.feedTile q.toNat va (s.reg (a + 1)) tag tgt 0))) ∧
    (s.mayIssue [a] t 0 → s.globalHeld va = false → ∀ u w sp, s.checked .write va 16 128 = (u, .ok (w, sp)) →
      (f.running = none → fails (.sdraw t a q) u 0x22) ∧
      (f.running.isSome → ∃ y, exec (.sdraw t a q) s = .next y ∧ u.began y t .strm (.draw q.toNat w sp))) ∧
    (s.mayIssue [] t 0 → f.running = none → fails (.sclose t q) s 0x22) ∧
    (s.mayIssue [] t 0 → f.running.isSome → ∃ y, exec (.sclose t q) s = .next y ∧
      y.core.set.fab.portClosed q.toNat = true ∧ s.began y t .strm (.ready 0 .clear (s.cycle + 2))) ∧
    (s.mayIssue [a] t 0 →
      (va.toNat ≤ 63 → ∃ y, exec (.sstat t a) s = .next y ∧ y.core.set.fab = f ∧
        s.began y t .strm (.ready (f.statusOf va.toNat) .clear (s.cycle + 2))) ∧
      (va.toNat > 63 → fails (.sstat t a) s 0x27)) ∧
    (s.mayIssue [a, b] t 0 → ∀ full i, (full, i) ∈ [(true, Instr.tagset t a b), (false, .tagclr t a b)] →
      ((s.reg b).toNat > 64 ∨ va.toNat + (s.reg b).toNat > 1024 → fails i s 0x27) ∧
      ((s.reg b).toNat ≤ 64 → va.toNat + (s.reg b).toNat ≤ 1024 →
        ∃ y v, exec i s = .next y ∧ s.began y t .strm (.ready v .clear (s.cycle + 2)) ∧
          (∀ k < 64, v.getLsbD k = s.core.set.tags.getLsbD (va.toNat + k)) ∧
          ∀ k < 1024, y.core.set.tags.getLsbD k =
            if va.toNat ≤ k ∧ k < va.toNat + (s.reg b).toNat then full else s.core.set.tags.getLsbD k))

/-- R152 to R157, R146: RND instructions. -/
def Obligations.RoundInstructionsComplete : Prop :=
  ∀ (s : State) (t a b : Reg) (q : BitVec 1) (p : BitVec 2) (im : Image),
    s.unfinished [.rnd, .cast, .move, .cfg, .strm] = false → s.inProgress [.mat] = false → s.core.set.fab.running = some im →
    let n := (s.reg a).toNat
    let asks (i : Instr) (cls : OpClass) (k : Nat) (op : StitchOp) : Prop :=
      ∃ y, exec i s = .next y ∧ s.began y t cls .round ∧
        y.core.set.rounds.pending = s.core.set.rounds.pending ++ [⟨k, op, s.net.nextId, s.cycle⟩]
    let fails (i : Instr) (st k : Nat) : Prop :=
      ∃ y, exec i s = .next y ∧
        s.began y t .rnd (.ready (BitVec.ofNat 64 (2 ^ 63 + k * 256 + st)) .clear (s.cycle + 1))
    (s.mayIssue [a, b] t 0 → ∀ u record k, u.core.set.fab.running = some im →
      ((a = 0 ∧ record = none ∧ u = s) ∨ (a ≠ 0 ∧ s.readHeld (s.reg a) = false ∧ ∃ v w sp bs,
        s.checked .read (s.reg a) 8 32 = (v, .ok (w, sp)) ∧ State.readSpans w sp v = (u, bs, none) ∧ record = some bs)) →
      k < 64 → k < im.P → (u.stream k).status = .free → (b = 0 → ∀ j < k, (u.stream j).status ≠ .free) →
      (b ≠ 0 → (s.reg b).toNat = k ∧ (u.reg b).toNat = k) → s.castHeld b record = false →
      let e : Stream := match record with
        | none => u.stream k
        | some bs => { u.stream k with
            state := BitVec.ofNat 64 (field bs 0 8)
            reset := (BitVec.ofNat 64 (field bs 8 8)).getLsbD 0
            steps := (BitVec.ofNat 64 (field bs 8 8)).extractLsb' 16 32
            user := BitVec.ofNat 64 (field bs 16 8)
            handle := BitVec.ofNat 64 (field bs 24 8) }
      let casts (v : State) (steps : BitVec 32) : Prop := ∃ y, exec (.caston t a b) s = .next y ∧
        y.stream k = { e with status := .cast, cause := 0, steps := steps } ∧ v.began y t .cast .round ∧
        y.core.set.rounds.pending = v.core.set.rounds.pending ++ [⟨k, .live, v.net.nextId, v.cycle⟩]
      let undone (v : State) (st : Nat) : Prop := ∃ y, exec (.caston t a b) s = .next y ∧ y.stream k = v.stream k ∧
        v.began y t .cast (.ready (BitVec.ofNat 64 (2 ^ 63 + k * 256 + st)) .clear (v.cycle + 1))
      (e.reset = true → casts u e.steps) ∧
      (e.reset = false →
        (∀ v, u.readArea e.state im.areaLen = (v, none) → undone v 0x33) ∧
        (∀ v bs, u.readArea e.state im.areaLen = (v, some bs) →
          (im.readState bs = none → undone v 0x34) ∧ (∀ x, im.readState bs = some x → casts v x.steps)))) ∧
    (s.mayIssue [a] t 0 → n < 64 → n < im.P →
      let st := (s.stream n).status
      (st = .live ∨ st = .slip ∨ st = .drop → asks (.bindoff t a 0) .rnd n (.bindoff none)) ∧
      (st = .live ∨ st = .slip ∨ st = .drop → ∀ u r, s.areaToWrite (s.stream n).state im.areaLen = (u, some r) →
        ∃ y, exec (.bindoff t a 1) s = .next y ∧ u.began y t .rnd .round ∧
          y.core.set.rounds.pending = u.core.set.rounds.pending ++ [⟨n, .bindoff (some r), u.net.nextId, u.cycle⟩]) ∧
      (st = .live → asks (.slip t a) .rnd n .slip) ∧ (st = .slip → asks (.unslip t a) .rnd n .unslip) ∧
      (st = .drop → asks (.lift t a q) .rnd n (.lift (q == 1))) ∧
      (st ≠ .live → fails (.slip t a) 0x32 n) ∧ (st ≠ .slip → fails (.unslip t a) 0x32 n) ∧
      (st ≠ .drop → fails (.lift t a q) 0x32 n) ∧
      (st = .free ∨ st = .cast ∨ st = .off → fails (.bindoff t a q) 0x32 n)) ∧
    (s.mayIssue [a] t 0 → n < 64 → im.P ≤ n → fails (.slip t a) 0x31 n ∧ fails (.bindoff t a q) 0x31 n) ∧
    (s.mayIssue [] t 0 → ∀ u areas, State.areasToWrite im.areaLen
        ((List.range 64).filter (fun k => (s.stream k).status.held)) s = (u, .ok areas) →
      areas.map (fun e => e.1) = (List.range 64).filter (fun k => (s.stream k).status.held) ∧
      ∃ y, exec (.rsave t) s = .next y ∧ u.began y t .move .round ∧ y.core.set.rounds.save =
        some ⟨areas, u.net.nextId, u.cycle, none⟩) ∧
    (s.mayIssue [a, b] t 0 → s.readHeld (s.reg a) = false →
      ∀ u' u m v r x w sp head rest limit pages new z l, s.checked .read (s.reg a) 64 64 = (u', .ok (w, sp)) →
        ((b = 0 ∧ u = u' ∧ u.core.set.stitchBusy = false ∧ m = u.core.set.rounds.savedMap) ∨
          (b ≠ 0 ∧ s.readHeld (s.reg b) = false ∧ ∃ c w' sp' bs, u'.checked .read (s.reg b) 64 576 = (c, .ok (w', sp')) ∧
            c.core.set.stitchBusy = false ∧ State.readSpans w' sp' c = (u, bs, none) ∧ m = resumeMap bs)) →
        (∀ e ∈ m, s.readHeld e.2.2 = false) → State.readSpans w sp u = (v, head, none) →
        v.readUpTo ((s.reg a).toNat + 64) (imageLen head - 64) = (r, rest, limit) →
        r.translateNodes (head ++ rest) (limit.map (fun n => n - (s.reg a).toNat)) = (x, pages) →
        x.loadImage (head ++ rest) (limit.map (fun n => n - (s.reg a).toNat)) = .ok new →
        State.restored new m [] x = (z, .ok l) →
        ∃ y, exec (.rload t a b) s = .next y ∧ z.began y t .move .round ∧ y.core.set.fab.running = some new ∧
          y.core.set.rounds.saved = z.core.set.rounds.saved ∧ y.core.set.rounds.loading = some (z.net.nextId, l.length)) ∧
    (s.mayIssue [a] t 0 → n < 64 → ∃ y v, exec (.strd t a p) s = .next y ∧
      s.began y t .rnd (.ready v .clear (s.cycle + 2)) ∧
      (p = 0 → v = (s.stream n).state) ∧ (p = 2 → v = (s.stream n).user) ∧ (p = 3 → v = (s.stream n).handle) ∧
      (p = 1 → v = BitVec.ofNat 64 ((s.stream n).reset.toNat + (match (s.stream n).status with
        | .free => 0 | .cast => 1 | .live => 2 | .slip => 3 | .drop => 4 | .off => 5) * 2 +
          (s.stream n).cause.toNat * 2 ^ 8 + (s.stream n).steps.toNat * 2 ^ 16))) ∧
    (s.mayIssue [a] t 0 → n ≥ 64 →
      (∀ st, (n, st) ∈ [(64, Status.drop), (65, .slip), (66, .live)] → p = 0 → ∃ y v, exec (.strd t a p) s = .next y ∧
        s.began y t .rnd (.ready v .clear (s.cycle + 2)) ∧ ∀ k < 64, v.getLsbD k = ((s.stream k).status == st)) ∧
      (n = 67 → p = 0 → ∃ y, exec (.strd t a p) s = .next y ∧
        s.began y t .rnd (.ready s.core.set.rounds.saved .clear (s.cycle + 2))) ∧
      (n > 67 ∨ p ≠ 0 → fails (.strd t a p) 0x27 0xFF)) ∧
    (s.mayIssue [a, b] t 0 → n < 64 → n < im.P →
      (s.stream n).status = .free ∨ (s.stream n).status = .slip ∨ (s.stream n).status = .drop →
      ∃ y, exec (.stwr t a b p) s = .next y ∧ s.began y t .rnd (.ready 0 .clear (s.cycle + 2)) ∧
        y.stream n = match p.toNat with
          | 0 => { s.stream n with state := s.reg b }
          | 1 => { s.stream n with reset := (s.reg b).getLsbD 0, steps := (s.reg b).extractLsb' 16 32 }
          | 2 => { s.stream n with user := s.reg b }
          | _ => { s.stream n with handle := s.reg b })

/-- R145, R153: what a boundary does with a pending change. -/
def Obligations.RoundBoundaryChangesStitches : Prop :=
  ∀ (s : State) (im : Image) (k id since : Nat) (op : StitchOp), s.core.set.fab.running = some im → k < 64 →
    s.atRoundBoundary im = true → s.core.frost = .thawed → s.core.set.rounds.pending = [⟨k, op, id, since⟩] →
    s.core.set.rounds.save = none → s.core.set.rounds.loading = none → since < s.cycle →
    (lookup k s.core.set.rounds.dropped).getD 0 + im.P ≤ s.cycle →
    let st := (s.stream k).status
    let turns (new : Status) (v : Word) : Prop :=
      ∃ t, exec .roundBoundary s = .next t ∧ (t.stream k).status = new ∧ t.core.set.rounds.pending = [] ∧
        t.core.set.rounds.boundary = some s.cycle ∧
        (s.core.set.op id ≠ none → t.waitsFor id (.ready v .clear (s.cycle + 1))) ∧
        (∀ j < 64, j ≠ k → t.stream j = s.stream j)
    (op = .live → st = .cast → turns .live (BitVec.ofNat 64 k)) ∧
    (op = .slip → st = .live → turns .slip 0) ∧
    (op = .unslip → st = .slip → turns .live 0) ∧
    (∀ r, op = .lift r → st = .drop → turns .live 0) ∧
    (op = .slip → st ≠ .live → turns st (BitVec.ofNat 64 (2 ^ 63 + k * 256 + 0x32))) ∧
    (∀ save, op = .bindoff save → st = .live ∨ st = .slip ∨ st = .drop →
      ∃ t, exec .roundBoundary s = .next t ∧ (t.stream k).status = .off ∧
        t.core.set.rounds.drains = s.core.set.rounds.drains ++ [⟨k, id, save, s.cycle, st⟩] ∧ t.core.set.ops = s.core.set.ops)

/-- R153, R155, R156: the ends of the two drains; of the stitches of an RSAVE that ran out, log entry 112. -/
def Obligations.DrainsEnd : Prop :=
  ∀ (s : State) (im : Image), s.core.set.fab.running = some im → s.core.fabricRuns s.cycle = true →
    let image (g : Fabric) (k : Nat) (st : Status) (bytes : List Byte) : Prop :=
      let e := s.stream k
      field bytes 0 8 = im.gid.toNat ∧ field bytes 8 1 = im.P % 256 ∧ field bytes 9 1 = k % 256 ∧
        field bytes 0x0A 1 = (match st with | .free => 0 | .cast => 1 | .live => 2 | .slip => 3 | .drop => 4 | .off => 5) ∧
        field bytes 0x0B 1 = (if st = .drop then e.cause.toNat else 0) ∧ field bytes 0x0C 4 = e.steps.toNat ∧
        field bytes 0x10 8 = e.user.toNat ∧ field bytes 0x18 8 = e.handle.toNat ∧
        bytes.drop 64 = im.holders.flatMap (im.record g k)
    (∀ k d, k < 64 → s.core.set.rounds.drains.find? (fun d => d.k == k) = some d → s.bindoffOver im d = true →
      ∃ t, exec (.bindoffDrainEnd k) s = .next t ∧ (t.stream k).status = .free ∧
        t.core.set.rounds.drains = s.core.set.rounds.drains.erase d ∧
        (d.save = none → t.mem = s.mem ∧ t.net = s.net) ∧
        (∀ area, d.save = some area →
          let u := s.mapFab (fun f => f.discard k false s.cycle)
          ∃ bytes, image u.core.set.fab k d.before bytes ∧ t.mem = (u.write .sequencer area.1 area.2 bytes).1.mem ∧
            t.net = (u.write .sequencer area.1 area.2 bytes).1.net) ∧
        (s.core.set.op d.id ≠ none → t.waitsFor d.id
          (.ready (BitVec.ofNat 64 (min (s.core.set.fab.tokensOf k true) 0xFFFF)) .clear (s.cycle + 1)))) ∧
    (∀ v, s.core.set.rounds.save = some v → s.rsaveOver im v = true → (∀ x ∈ v.set, x.1 < 64) →
      let l := v.set.filter (fun x => (s.stream x.1).status.held)
      let ks := l.map (fun x => x.1)
      let n := (ks.map (fun k => s.core.set.fab.tokensOf k false)).sum
      let dropped := (ks.filter (fun k => (s.stream k).status = .drop)).length
      let u := s.mapFab (fun f => ks.foldl (fun f k => f.discard k true s.cycle) f)
      ∃ (t : State) (bytes : Nat → List Byte), exec .rsaveDrainEnd s = .next t ∧ t.core.set.rounds.save = none ∧ (∀ k ∈ ks, (t.stream k).status = .free) ∧
        (∀ k < 64, t.core.set.rounds.saved.getLsbD k = ks.contains k) ∧
        (∀ k ∈ ks, image u.core.set.fab k (s.stream k).status (bytes k)) ∧
        (let w := l.foldl (fun w x => (w.write .sequencer x.2.1 x.2.2 (bytes x.1)).1) u
         t.mem = w.mem ∧ t.net = w.net) ∧
        (s.core.set.op v.id ≠ none → t.waitsFor v.id (.ready
          (BitVec.ofNat 64 (l.length + dropped * 2 ^ 8 + min n 0xFFFF * 2 ^ 16 + im.P * 2 ^ 32)) .clear (s.cycle + 1))))

/-! ### The matrix array, accumulator nodes and the gate pipeline (R190 to R208) -/

/-- R195 to R197: entry into the matrix array. -/
def Obligations.MatrixEventsHappen : Prop :=
  ∀ (s : State) (im : Image) (k : Nat),
    (s.core.set.planes.swapDue = true → ∃ t, exec .planeSwap s = .next t ∧
      t.core.set.planes.active = (!s.core.set.planes.active) ∧ t.core.set.planes.swapDue = false ∧
      t.core.set.planes.plane0 = s.core.set.planes.plane0 ∧ t.core.set.planes.plane1 = s.core.set.planes.plane1) ∧
    (s.core.set.fab.running = some im → s.core.fabricRuns s.cycle = true → s.core.set.planes.swapDue = false →
      let p := im.mxParams
      let f := s.core.set.fab
      (∀ tok, p.tile = false → s.core.set.entersFirst p k = true → f.oldest (mxInput 0) k = some tok →
        ∃ t w, exec (.mxBlockEntry k) s = .next t ∧ t.core.set.fab.anq = f.anq ++ [⟨p.an, k, w⟩] ∧
          (tok.tag.kind ≠ .data → w = .token 2 tok ∧ t.core.set.fab.held = removeHeld (mxInput 0) k f.held) ∧
          (tok.tag.kind = .data →
            let plane := s.core.set.planes.forToken p tok.tag.pred
            w = p.block plane k tok.payload (if p.scaled plane k then f.scaleOf p k else none))) ∧
      (∀ a u bs, p.tile = true → im.an p.an = some a → s.rowReady p = true →
        let r := f.tileRow.2
        let ring := tileOf p.ta p.tao
        State.readSpans true (s.rowSpans ring f.tileRow.1 r) s = (u, bs, none) →
        ∃ t w fin, exec .tileSourceRow s = .next t ∧
          t.core.set.fab.anq = u.core.set.fab.anq ++ [⟨p.an, r, w⟩, ⟨p.an, r, .token 2 fin⟩] ∧
          fin.tag.kind = .endOfReduction ∧ fin.k = r % 64 ∧
          (r + 1 < ring.rows → t.core.set.fab.tileRow = (f.tileRow.1, r + 1)) ∧
          (r + 1 ≥ ring.rows → t.core.set.fab.tileRow = ((f.tileRow.1 + 1) % ring.depth, 0) ∧
            t.core.set.tagFull (ring.tag + f.tileRow.1) = false)))

/-- R199: additions. -/
def Obligations.AccumulatorAdditions : Prop :=
  ∀ (s : State) (im : Image) (p : AnParams) (n : Nat) (c : AnCand), s.liveAn n = some (im, p) →
    s.core.set.addition s.cycle n p = some c →
    let e := s.core.set.fab.anAt n c.stitch
    let lane (e : AnEntry) (i : Nat) : BitVec 32 := e.lanes.extractLsb' (32 * i) 32
    (∀ (lo hi b d : Nat) (a : Nat → BitVec 32),
      ((∃ l, (c.work = .block l ∨ c.work = .intBlock l ∨ c.work = .wideBlock l) ∧ lo = 0 ∧ hi = 128 ∧ b = 1 ∧ d = 0 ∧
          a = fun i => l.extractLsb' (32 * i) 32) ∨
        (∃ tok, c.work = .token 0 tok ∧ tok.tag.kind = .data ∧ 0 < p.cols ∧ p.cols ≤ 4 ∧ e.addend.toNat < 252 ∧
          lo = 32 * (e.addend.toNat % p.cols) ∧ hi = lo + 32 ∧ b = 0 ∧ d = 1 ∧
          a = fun i => tok.payload.extractLsb' (32 * (i - lo)) 32)) →
      let past : Prop := ∃ i, lo ≤ i ∧ i < hi ∧
        ((lane e i).toInt + (a i).toInt < -2 ^ 31 ∨ 2 ^ 31 ≤ (lane e i).toInt + (a i).toInt)
      (¬ (p.int = true ∧ p.trap = true ∧ past) → ∃ t, exec (.accumulatorAddition n) s = .next t ∧
        let e' := t.core.set.fab.anAt n c.stitch
        e'.blocks = e.blocks + BitVec.ofNat 32 b ∧ e'.mark = e.mark ∧
        (0 < p.cols → p.cols ≤ 4 → e.addend.toNat < 252 →
          e'.addend.toNat % p.cols = (e.addend.toNat + d) % p.cols) ∧
        ∀ i < 128, lane e' i = if lo ≤ i ∧ i < hi then
          (if p.int then lane e i + a i else BitVec.ofNat 32 (fp32.add (lane e i).toNat (a i).toNat)) else lane e i) ∧
      (p.int = true → p.trap = true → past → ∃ t, exec (.accumulatorAddition n) s = .next t ∧
        (t.core.set.fab.anAt n c.stitch).lanes = e.lanes ∧
        (c.stitch < 64 → s.core.set.rounds.turned = [] →
          let st := (s.stream c.stitch).status
          (st = .live ∨ st = .slip → (t.stream c.stitch).status = .drop) ∧
          (st = .free ∨ st = .cast ∨ st = .off → (t.stream c.stitch).status = st ∧
            (t.core.set.fab.anAt n c.stitch).mark = (match e.mark with | some x => some x | none => some 0x06))))) ∧
    (∀ m, (c.work = .badBlock m ∨ ∃ i tok, c.work = .token i tok ∧ tok.tag.kind = .error ∧ tok.tag.cause = m) →
      ∃ t, exec (.accumulatorAddition n) s = .next t ∧
        (t.core.set.fab.anAt n c.stitch).mark = (match e.mark with | some x => some x | none => some m) ∧
        (t.core.set.fab.anAt n c.stitch).lanes = e.lanes) ∧
    (∀ i tok, c.work = .token i tok → tok.tag.kind = .order → p.out ≠ noTarget →
      ∃ t, exec (.accumulatorAddition n) s = .next t ∧ t.sends p.out tok)

/-- R200, R202: releases. -/
def Obligations.AccumulatorReleases : Prop :=
  ∀ (s : State) (im : Image) (p : AnParams) (n : Nat), s.liveAn n = some (im, p) →
    let f := s.core.set.fab
    (∀ c, (∀ r ∈ f.rels, r.node ≠ n) → s.releases im n = [c] → im.pairs n = false → im.toTile n = none →
      let e := (f.anAt n c.stitch).closing c.work
      ∃ t ts, exec (.accumulatorRelease n) s = .next t ∧ t.core.set.fab.rels = f.rels ++ [⟨n, p, ts⟩] ∧ ts.length = p.cols ∧
        (t.core.set.fab.anAt n c.stitch).lanes = 0 ∧ (t.core.set.fab.anAt n c.stitch).blocks = 0 ∧
        (t.core.set.fab.anAt n c.stitch).mark = none ∧
        (∀ j tok, ts[j]? = some tok → tok.tag.last = (c.work.last && decide (j + 1 = p.cols)) ∧
          (e.mark = none → p.kblk = 0 ∨ e.blocks = p.kblk → tok.tag.kind = .data ∧
            tok.payload = ofLanes 32 (((lanes128 e.lanes).drop (32 * j)).take 32)) ∧
          (e.mark = none → p.kblk ≠ 0 → e.blocks ≠ p.kblk → tok.tag.kind = .error ∧ tok.tag.cause = 0x04) ∧
          (∀ m, e.mark = some m → tok.tag.kind = .error ∧ tok.tag.cause = m))) ∧
    (∀ r tok rest, f.rels.find? (fun e => e.node == n) = some r → r.toks = tok :: rest →
      f.hasRoom r.par.out = true → f.hasRoom r.par.out2 = true → (∀ x ∈ r.toks, s.core.set.anSends x.k = true) →
      ∃ t, exec (.accumulatorRelease n) s = .next t ∧ (r.par.out ≠ noTarget → t.sends r.par.out tok) ∧
        (r.par.out2 ≠ noTarget → t.sends r.par.out2 tok) ∧
        (rest ≠ [] → t.core.set.fab.rels.find? (fun e => e.node == n) = some { r with toks := rest }) ∧
        (rest = [] → ∀ x ∈ t.core.set.fab.rels, x.node ≠ n)) ∧
    (∀ k c m, s.pairCand im n k = some c → f.pair.find? (fun m => m.1 == n && m.2.1 == k) = some m → im.toTile n = none →
      let e := (f.anAt n k).closing c.work
      let mark : Option (BitVec 6) := match e.mark with
        | some x => some x
        | none => if p.kblk ≠ 0 ∧ e.blocks ≠ p.kblk then some 0x04 else m.2.2.2
      ∃ t ts, exec (.pairRelease n k) s = .next t ∧ t.core.set.fab.rels = f.rels ++ [⟨n, p, ts⟩] ∧ ts.length = p.cols ∧
        t.core.set.fab.pair = f.pair.erase m ∧ (t.core.set.fab.anAt n k).lanes = 0 ∧
        ∀ j tok, ts[j]? = some tok → tok.tag.last = (c.work.last && decide (j + 1 = p.cols)) ∧
          (∀ x, mark = some x → tok.tag.kind = .error ∧ tok.tag.cause = x ∧ tok.payload = 0) ∧
          (mark = none → tok.tag.kind = .data ∧ tok.payload = ofLanes 32 (((lanes128 (ofLanes128
            (List.zipWith (fun a b => if p.int then (a + b) % 2 ^ 32 else fp32.add a b)
              (lanes128 e.lanes) (lanes128 m.2.2.1)))).drop (32 * j)).take 32)))

/-- R203, R204: a firing of the gate pipeline. -/
def Obligations.GatePipelineFires : Prop :=
  ∀ (s : State) (p : GpParams) (k : Nat) (x : Taken), s.core.set.fab.running.bind Image.gp = some p →
    s.core.fabricRuns s.cycle = true → s.core.set.fab.fired.contains gpElement = false →
    s.core.set.fab.gpTaken p k = some x →
    let f := s.core.set.fab
    let room : Prop := f.hasRoom p.out = true ∧ f.hasRoom p.out2 = true
    let elements : Payload := ofLanes p.bits (List.zipWith (fun a b =>
      p.stages.foldl (fun v st => gpStage st.1.toNat st.2.toNat v b) a) (lanes 32 x.l.payload) (lanes 32 x.rp))
    let fires (t : State) : Prop := exec (.gpFiring k) s = .next t ∧ gpElement ∈ t.core.set.fab.fired ∧
      t.core.set.fab.held = (if x.r.isSome then removeHeld (gpInput 1) k else id) (removeHeld (gpInput 0) k f.held)
    let sends (t : State) (tok : Token) : Prop :=
      (p.out ≠ noTarget → t.sends p.out tok) ∧ (p.out2 ≠ noTarget → t.sends p.out2 tok)
    let bad := x.list.find? Token.isError
    (x.l.tag.kind = .endOfReduction ∨ x.l.tag.kind = .order → room → ∃ t, fires t ∧ sends t x.l) ∧
    (x.l.tag.kind = .data ∨ x.l.tag.kind = .error →
      (p.pack = false → room → lookup x.l.k f.gpFill = none → ∃ t tok, fires t ∧ sends t tok ∧
        (∀ e, bad = some e → tok.tag.kind = .error ∧ tok.tag.cause = e.tag.cause ∧ tok.payload = 0) ∧
        (bad = none → tok.tag.kind = .data ∧ tok.tag.stitch = x.l.tag.stitch ∧ tok.payload = elements)) ∧
      (p.pack = true → ∀ g : GpFill, x.l.k = k →
        ((lookup k f.gpFill = some g ∧ g.goesOn p = true) ∨
          (lookup k f.gpFill = none ∧ g.bytes = 0 ∧ g.count = 0 ∧ g.last = false ∧ g.cause = none)) →
        let part : Payload := if bad = none then elements else 0
        let bytes := g.bytes ||| (part <<< (32 * p.bits * g.count))
        let cause : Option (BitVec 6) := match g.cause with
          | some c => some c
          | none => bad.map (fun e => e.tag.cause)
        let full : Prop := g.count + 1 ≥ 32 / p.bits ∨ x.last = true
        (¬ full → ∃ t h, fires t ∧ t.core.set.fab.flights = f.flights ∧ lookup k t.core.set.fab.gpFill = some h ∧
          h.bytes = bytes ∧ h.count = g.count + 1 ∧ h.cause = cause ∧ h.last = g.last ∧ h.par = p) ∧
        (full → room → ∃ t tok, fires t ∧ sends t tok ∧ lookup k t.core.set.fab.gpFill = none ∧
          tok.tag.stitch = x.l.tag.stitch ∧ tok.tag.last = (g.last || x.last) ∧
          (∀ c, cause = some c → tok.tag.kind = .error ∧ tok.tag.cause = c ∧ tok.payload = 0) ∧
          (cause = none → tok.tag.kind = .data ∧ tok.payload = bytes))))

/-- R206 to R208: MAT instructions. -/
def Obligations.MatrixInstructionsComplete : Prop :=
  ∀ (s : State) (t a b : Reg) (q : BitVec 3),
    let fails (i : Instr) (n : Nat) : Prop :=
      ∃ y, exec i s = .next y ∧ s.began y t .other (.ready (BitVec.ofNat 64 (2 ^ 63 + n)) .clear (s.cycle + 1))
    (s.unfinished [.mxw] = false → s.mayIssue (s.mxwReads a b) t 0 → a.isEven = true → q.getLsbD 0 = false →
      mxwStatus (tileOf (s.reg a) (s.reg (a + 1))) (windowSize s.core.sliced) false = none →
      s.planeModeBad (q.getLsbD 1) = false →
      ∃ y, exec (.mxw t a b q) s = .next y ∧ s.began y t .mxw (.latch (s.reg a) (s.reg (a + 1))
        ((s.reg b).setWidth 32) none (if q.getLsbD 1 then some (q.getLsbD 2) else none))) ∧
    (s.inProgress [.cfg, .rnd, .cast, .move] = false → s.mayIssue [a] t 0 →
      (s.core.set.fab.running = none → fails (.mxclr t a q) 0x22) ∧
      (∀ im, s.core.set.fab.running = some im → im.an q.toNat = none → fails (.mxclr t a q) 0x27) ∧
      (∀ im p, s.core.set.fab.running = some im → im.an q.toNat = some p →
        (s.reg a = 0 → ∃ y, exec (.mxclr t a q) s = .next y ∧ s.began y t .mat (.ready 0 .clear (s.cycle + 1))) ∧
        (s.reg a ≠ 0 → ∃ y, exec (.mxclr t a q) s = .next y ∧ s.began y t .mat .clear ∧
          y.core.set.fab.anq = s.core.set.fab.anq ++
            ((List.range 64).filter (fun k => (s.reg a).getLsbD k)).map (fun k => ⟨q.toNat, k, .clear s.net.nextId⟩)))) ∧
    (s.inProgress [.cfg, .rnd, .cast, .move] = false → s.mayIssue [a, b] t 0 → s.globalHeld (s.reg b) = false →
      (s.reg a).toNat ≤ 63 → ∀ u w sp im p, s.checked .write (s.reg b) 8 520 = (u, .ok (w, sp)) →
      u.core.set.fab.running = some im → im.an q.toNat = some p →
      ∃ y, exec (.accrd t a b q) s = .next y ∧ u.began y t .mat (.accrd q.toNat (s.reg a).toNat w sp)) ∧
    (s.inProgress [.cfg, .rnd, .cast, .move] = false → s.mayIssue [a] t 0 → s.readHeld (s.reg a) = false →
      ∀ u v w sp bs im p, s.checked .read (s.reg a) 8 64 = (u, .ok (w, sp)) → State.readSpans w sp u = (v, bs, none) →
      v.core.set.fab.running = some im → im.gp = some p → gpldDetail p bs = none →
      let new := { p with stages := stagesOf bs 0 }
      ∃ y, exec (.gpld t a) s = .next y ∧ v.began y t .mat (.parm (.gp new) (BitVec.ofNat 64 new.latency)))

/-! ### Copy engines, translation instructions and memory nodes (R164 to R189, R223 to R227) -/

/-- R182 to R186: ENG instructions. -/
def Obligations.EngineInstructionsEnterTheirQueue : Prop :=
  ∀ (s : State) (t a b : Reg) (q : BitVec 4),
    let enters (i : Instr) (w : EngWork) : Prop :=
      ∃ y, exec i s = .next y ∧ s.began y t .other (.engine s.net.nextId) ∧
        y.core.set.eng = s.core.set.eng ++ [⟨s.net.nextId, q.toNat, t, w, s.core.set.fencedBy q.toNat, s.unit.phase, s.unit.bypass, none⟩]
    let fails (i : Instr) (status va : Nat) : Prop :=
      exec i s = .next ((s.later t .other (BitVec.ofNat 64 (2 ^ 63 + va * 256 + status)) .clear 1).advance)
    let dst := (s.reg a).toNat
    let src := (s.reg b).toNat
    let len := (s.reg (b + 1)).toNat
    let good (n : Nat) : Prop := n ≠ 0 ∧ n % 16 = 0 ∧ n ≤ 2 ^ 32
    let w := s.reg (b + 1)
    let tile := tileOf (s.reg a) (s.reg (a + 1))
    let size := windowSize s.core.sliced
    let stride : BitVec 32 := w.setWidth 32
    let j := w.toNat / 2 ^ 32 % 16
    s.mayIssue [a, a + 1, b, b + 1] t 0 → b.isEven = true →
    ((s.core.set.queueOps q.toNat).length ≥ 16 → ∀ i ∈ [Instr.acopy t a b q, .acopy2 t a b q, .afill t a b q,
      .acopyb t a b q], i.wellFormed = true → exec i s = .next s) ∧
    ((s.core.set.queueOps q.toNat).length < 16 →
      (dst % 16 = 0 → src % 16 = 0 → good len →
        (dst ≥ src + len ∨ src ≥ dst + len → enters (.acopy t a b q) (.copy dst src len)) ∧
        (dst < src + len → src < dst + len → dst < 2 ^ 48 → fails (.acopy t a b q) 0x47 dst)) ∧
      (dst % 16 ≠ 0 → dst < 2 ^ 48 → fails (.acopy t a b q) 0x45 dst ∧ fails (.afill t a b q) 0x45 dst) ∧
      (dst % 16 = 0 → good len → enters (.afill t a b q) (.fill dst len (s.reg b))) ∧
      (a.isEven = true → tileCheck tile size j src stride (w.toNat / 2 ^ 37 % 2 ^ 27) = none →
        enters (.acopy2 t a b q) (.tile (s.reg a) (s.reg (a + 1)) (s.reg b) stride j (w.getLsbD 36))) ∧
      (∀ n va, a.isEven = true → va < 2 ^ 48 → tileCheck tile size j src stride (w.toNat / 2 ^ 37 % 2 ^ 27) = some (n, va) →
        fails (.acopy2 t a b q) n va) ∧
      (a.isEven = true →
        let level := w.toNat / 2 ^ 37 % 4
        let high := w.toNat / 2 ^ 36 % 2 + w.toNat / 2 ^ 39 % 2 ^ 25
        (s.regionBad level = true → fails (.acopyb t a b q) 0x46 0) ∧
        (s.regionBad level = false →
          (tileCheck tile size j src stride high = none → enters (.acopyb t a b q)
            (.spread (s.reg a) (s.reg (a + 1)) (s.reg b) stride j (subtreeCores s.core.num level))) ∧
          (∀ n va, va < 2 ^ 48 → tileCheck tile size j src stride high = some (n, va) →
            fails (.acopyb t a b q) n va)))) ∧
    (let ids := (s.core.set.eng.filter (fun e => (s.reg a).getLsbD e.queue && decide (e.queue < 16))).map (fun e => e.id)
     (ids = [] → exec (.qfence t a) s = .next ((s.later t .other 0 .clear 1).advance)) ∧
     (ids ≠ [] → ∃ y, exec (.qfence t a) s = .next y ∧ s.began y t .other (.queues ids) ∧
        y.core.set.fences = s.core.set.fences ++ [⟨(s.reg a).setWidth 16, ids⟩]))

/-- R182, R183, R185: an engine operation from its start to its completion; its read requests, log entry 118. -/
def Obligations.EngineOperationsStart : Prop :=
  ∀ (s : State) (e : EngOp),
    let goes (i : Instr) (r : EngRun) : Prop :=
      let us := e.work.next r.done
      (∀ v asked u units fault w ids, s.requestUnits e us = (v, asked) →
        v.readAs e.phase e.home (State.gather e.work.usesPeers us) = (u, units, fault) →
        u.engWrite e.queue (match e.work with
          | .spread _ _ _ _ _ cores => units.flatMap (u.spreadUnit cores)
          | _ => units) = (w, ids) →
        ∃ t, exec i s = .next t ∧ t.mem = w.mem ∧ t.net = w.net ∧ ∀ x ∈ t.core.set.eng, x.id = e.id →
          ∃ r', x.run = some r' ∧ r'.writes = r.writes ++ asked ++ ids ∧
            (fault = none → r'.value = r.value ∧ r'.tags = r.tags ∧ r'.done = r.done + us.length) ∧
            (∀ f, fault = some f → r'.value = engStatus f.1 f.2 ∧ r'.tags = [] ∧ r'.done = e.work.units.length)) ∧
      (∀ dst len pattern, e.work = .fill dst len pattern → s.mem.wf → 0xFFFF00000000 ≤ dst → dst % 16 = 0 →
        len % 16 = 0 → dst + len ≤ 0xFFFF00000000 + windowSize s.core.sliced → 16 * r.done < len →
        let pa (i : Nat) := windowPa s.core.num s.core.sliced s.core.half (dst - 0xFFFF00000000 + i)
        let first := 16 * r.done
        let stop := min len ((dst + first) / 256 * 256 + 256 - dst)
        ∃ t, exec i s = .next t ∧
          (∀ i, first ≤ i → i < stop → t.mem.get (pa i) = BitVec.ofNat 8 (pattern.toNat / 256 ^ (i % 8))) ∧
          (∀ x, (∀ i, first ≤ i → i < stop → pa i ≠ x) → t.mem.get x = s.mem.get x))
    (∀ q, (s.core.set.queueOps q).head? = some e → s.mayStart e = true →
      goes (.engineOperationStart q) ⟨[], BitVec.ofNat 64 e.work.value, e.work.tagChanges s.core.num, 0⟩) ∧
    (∀ id o r, s.core.set.op id = some o → o.wait = .engine e.id → s.core.set.eng.find? (fun x => x.id == e.id) = some e →
      e.run = some r →
      (r.done < e.work.units.length → s.engRoom e r.done = true → goes (.tokenCompletion id) r) ∧
      (r.done ≥ e.work.units.length → r.writes.all s.arrivedId = true → id = e.id →
        ∃ t, exec (.tokenCompletion id) s = .next t ∧ (∀ x ∈ t.core.set.eng, x.id ≠ e.id) ∧ t.mem = s.mem ∧
          t.waitsFor id (.ready r.value .clear (s.cycle + 1))))

/-- R164, R166, R176 to R180: XLAT instructions and the generator's fault. -/
def Obligations.TranslationInstructions : Prop :=
  ∀ (s : State) (t a b : Reg) (q : BitVec 4) (n : Nat) (u : UnitCtx),
    let fails (i : Instr) (status va : Nat) : Prop :=
      exec i s = .next ((s.later t .other (BitVec.ofNat 64 (2 ^ 63 + va * 256 + status)) .clear 1).advance)
    let va := (s.reg a).toNat
    let count := (s.reg b).toNat
    (s.mayIssue [a] t 0 →
      (0xFFFF00000000 ≤ va → va < 0xFFFF00000000 + windowSize s.core.sliced →
        exec (.tlook t a 0) s = .next ((s.later t .other
          (BitVec.ofNat 64 (windowPa s.core.num s.core.sliced s.core.half (va - 0xFFFF00000000) + 2 ^ 52 + 2 ^ 53))
          .clear 6).advance)) ∧
      (va < 0xFFFF00000000 → s.part.windowAt va = none →
        (∀ y l, s.walk s.part .look va = (y, .ok l) →
          exec (.tlook t a 0) s = .next ((y.later t .other (lookWord l va) .clear 6).advance)) ∧
        (∀ y f, s.walk s.part .look va = (y, .error f) →
          exec (.tlook t a 0) s = .next ((y.engFails t f.status va).advance))) ∧
      exec (.tlook t a 1) s = .next ((s.later t .other (BitVec.ofNat 64 (s.lowestTail va)) .clear 6).advance)) ∧
    (s.mayIssue [a, b] t 1 → ∀ every : BitVec 1,
      (va % 65536 ≠ 0 → va < 2 ^ 48 → fails (.tinval t a b every) 0x45 va) ∧
      (va % 65536 = 0 → count > 65536 → fails (.tinval t a b every) 0x27 0) ∧
      (va % 65536 = 0 → count ≤ 65536 → ∃ y, exec (.tinval t a b every) s = .next y ∧
        s.began y t .other (.inval (every == 1) (if count = 0 then 0 else va / 65536)
          (if count = 0 then 0xFFFF0000 else count)))) ∧
    (∀ id every first pages, s.core.set.unit = some u → s.coreOfOp id = some s.core.num → s.core.frost = .thawed →
      s.core.set.op id = some ⟨id, t, .other, .inval every first pages⟩ →
      (if every then s.cores.filter (fun k => k.set.mayCache u.part) else [s.core]).all
        (fun k => !k.within s.cycle first pages) = true →
      ∃ y, exec (.tokenCompletion id) s = .next y ∧ y.waitsFor id (.ready 0 .clear (s.cycle + 1)) ∧
        (∀ e ∈ y.core.set.tlb, e ∈ s.core.set.tlb ∧ (e.vpn < first ∨ first + pages ≤ e.vpn))) ∧
    (s.mayIssue [a] t 1 →
      (va ≥ 256 ∨ (s.coreMask s.unit.part).getLsbD va = false → fails (.genres t a q) 0x43 0) ∧
      (va < 256 → (s.coreMask s.unit.part).getLsbD va = true → va = s.core.num → s.core.set.hasMn s.unit.part q.toNat = true →
        ((s.core.set.fab.mnAt q.toNat).stop = none → fails (.genres t a q) 0x48 0) ∧
        (∀ st, (s.core.set.fab.mnAt q.toNat).stop = some st →
          ∃ y, exec (.genres t a q) s = .next y ∧ s.began y t .other (.ready 0 .clear (s.cycle + 1)) ∧
            (y.core.set.fab.mnAt q.toNat).stop = none))) ∧
    (∀ st, (s.core.set.fab.mnAt n).stop = some st → st.told = false → s.core.set.unit = some u →
      ∃ y, exec (.generatorFault n) s = .next y ∧ (y.core.set.fab.mnAt n).stop = some { st with told := true } ∧
        y.core.set.asyncs = s.core.set.asyncs ++ [⟨st.cause, BitVec.ofNat 64 (st.va.toNat + n * 2 ^ 48 + 2 ^ 52
          + (if st.store then 2 ^ 53 else 0))⟩])

/-- R119, R171 to R174, R179, R224 to R226: memory nodes. -/
def Obligations.MemoryNodeEventsHappen : Prop :=
  ∀ (s : State) (n : Nat) (im : Image) (p : MnParams), s.liveMn n = some (im, p) →
    let f := s.core.set.fab
    let m := f.mnAt n
    let ev (q : MnParams) : Instr := if q.mode = 3 then .pagedRequest n else .memoryNodeRequest n
    (∀ a, m.pass = some a → f.hasRoom a.par.dat = true → s.mayAsk n a = true → a.idx + 1 < a.total →
      let q := a.par
      let v := if a.asks = true then s.spend s.part.num s.core.num (mnIngress n) 1 else s
      (∀ u pl, v.readPass n q a = (u, .ok pl) → ∃ t, exec (ev q) s = .next t ∧
        (q.dat ≠ noTarget → t.sends q.dat (Token.plain a.stitch pl false)) ∧
        (t.core.set.fab.mnAt n).pass = some { a with idx := a.idx + 1 }) ∧
      (∀ u c, v.readPass n q a = (u, .error (.data c)) → ∃ t, exec (ev q) s = .next t ∧
        (q.dat ≠ noTarget → t.sends q.dat (Token.error a.stitch c false)) ∧
        (t.core.set.fab.mnAt n).pass = some { a with idx := a.idx + 1 }) ∧
      (∀ u g va, v.readPass n q a = (u, .error (.fault g va)) → ∃ t, exec (ev q) s = .next t ∧
        (t.core.set.fab.mnAt n).stop = some ⟨BitVec.ofNat 48 va, false, g.cause, false⟩)) ∧
    (m.pass = none → m.dones.length < Config.nodeOwes → s.pausedMn im p = false →
      (∀ y, m.pickNext f n p = some (.stash y) → ∃ t, exec (ev p) s = .next t ∧
        (t.core.set.fab.mnAt n).reorder = m.reorder ++ [y]) ∧
      (∀ x d, m.pickNext f n p = some (.issue x d) → x.isData = true → s.sigHolds p = false →
        let begins (a : MnPass) : Prop := ∃ t, exec (ev p) s = .next t ∧ (t.core.set.fab.mnAt n).pass = some a
        let k := x.k
        let last := x.tag.last
        (p.store = false →
          (p.mode = 0 → m.refuses p k (p.stepAddr k 0) = false → p.passLen ≠ 0 →
            begins ⟨k, 0, p.passLen, last, x, 0, 0, p⟩) ∧
          (p.mode = 1 → lane32 x.payload 0 < p.bound → begins ⟨k, 0, 1, last, x, 0, 0, p⟩) ∧
          (p.mode = 1 → lane32 x.payload 0 ≥ p.bound → begins ⟨k, 0, 1, last, x.failed 0x01, 0, 0, p⟩) ∧
          (p.mode = 2 → p.oh * p.ow ≠ 0 → begins ⟨k, 0, p.oh * p.ow, last, x, 0, 0, p⟩) ∧
          (p.mode = 3 → p.rpp ≠ 0 →
            (∀ u va size, s.pagedBlock n p k (lane32 x.payload 0) = (u, .ok (va, size)) →
              (p.overflows size = false → begins ⟨k, 0, p.rpp, last, x, va, size, p⟩) ∧
              (p.overflows size = true → begins ⟨k, 0, p.rpp, last, x.failed p.layoutCause, 0, 0, p⟩)) ∧
            (∀ u n', s.pagedBlock n p k (lane32 x.payload 0) = (u, .error n') →
              begins ⟨k, 0, p.rpp, last, x.failed 0x01, 0, 0, p⟩))) ∧
        (p.store = true →
          let stores (va : Nat) (pl : Payload) (last : Bool) : Prop := ∀ u window spans,
            s.resolveMn n .write va 128 = (u, .ok (window, spans)) →
            (∀ w ids, u.storeError spans = none →
              (window = false → s.retentionFull = false ∧ s.portWaits s.core.num (mnIngress n) = false) →
              (u.consumeMn n p (.issue x d)).write (.node n) window spans (payloadBytes pl) = (w, ids) →
              ∃ t, exec (ev p) s = .next t ∧ t.mem = w.mem ∧ t.net = w.net ∧ (t.core.set.fab.mnAt n).dones = m.dones ++
                [⟨k, Token.order k last, p.done, some va, ids⟩]) ∧
            (∀ e, u.storeError spans = some e → ∃ t, exec (ev p) s = .next t ∧ t.net = u.net ∧
              (t.core.set.fab.mnAt n).dones = m.dones ++ [⟨k, Token.error k e.1 last, p.done, none, []⟩])
          (p.mode = 0 → d = none → m.refuses p k (p.stepAddr k (m.stepOf k)) = false →
            stores (p.stepAddr k (m.stepOf k)).toNat x.payload last) ∧
          (∀ y, p.mode = 1 → d = some y → y.isError = false → lane32 x.payload 0 < p.bound →
            stores (p.base.toNat + lane32 x.payload 0 * p.istr) y.payload (last || y.tag.last))))) ∧
    (∀ d, s.doneReady m.dones = some d → f.hasRoom d.tgt = true →
      ∃ t, exec (.memoryNodeCompletion n) s = .next t ∧ (t.core.set.fab.mnAt n).dones = m.dones.erase d ∧
        (d.tgt ≠ noTarget → t.sends d.tgt d.tok))

/-! ### Block pools, synchronisation, atomics (R211 to R221, R229 to R244) -/

/-- R214, R216 to R218: BLK instructions and their requests. -/
def Obligations.PoolInstructionsAskTheirController : Prop :=
  ∀ (s : State) (t a b : Reg) (q : BitVec 3),
    let ctrl := (s.reg a).toNat / 2 ^ 29 % 8
    (s.mayIssue [a, b] t 0 →
      ∀ i r, (i, r) ∈ [(Instr.balloc t a, BlkReq.balloc (s.reg a)), (.bfree t a b, .bfree (s.reg a) (s.reg b)),
          (.btapp t a 0, .btapp (s.reg a) false), (.btapp t a 1, .btapp (s.reg a) true),
          (.bttrim t a b, .bttrim (s.reg a) (s.reg b)), (.btlook t a b, .btlook (s.reg a) (s.reg b)),
          (.btfork t a b, .btfork (s.reg a) (s.reg b)), (.btdrop t a, .btdrop (s.reg a)),
          (.bpstat t a q, .bpstat (s.reg a) q.toNat)] → i.wellFormed = true →
        ∃ y, exec i s = .next y ∧ s.began y t .other (.blk ctrl r)) ∧
    (s.mayIssue [a] t 1 → s.readHeld (s.reg a) = false →
      ∀ u v w sp bs, s.checked .read (s.reg a) 8 64 = (u, .ok (w, sp)) → State.readSpans w sp u = (v, bs, none) →
        ∃ y, exec (.bpmake t a) s = .next y ∧
          v.began y t .other (.blk ((bs.drop 13).headD 0).toNat (.bpmake bs))) ∧
    (∀ id o c r, s.core.set.op id = some o → o.wait = .blk c r → s.core.set.firstOf id (Wait.asks c) = true →
      ∃ y v, exec (.tokenCompletion id) s = .next y ∧ y.waitsFor id (.ready v .clear (s.cycle + 1)) ∧
        (∀ bs, r = .bpmake bs →
          (∀ e, s.makePool bs = .error e → v = BitVec.ofNat 64 (2 ^ 63 + e.2 * 256 + e.1) ∧ y.pools = s.pools) ∧
          (∀ p, s.makePool bs = .ok p → y.pools = s.pools ++ [p] ∧
            v = BitVec.ofNat 64 (p.ctrl * 2 ^ 29 + p.num * 2 ^ 21 + 0x1FFFFF))) ∧
        ((∀ bs, r ≠ .bpmake bs) → s.poolOf s.part.num r.handle = none →
          v = 0x8000000000000003 ∧ y.pools = s.pools) ∧
        (∀ p, (∀ bs, r ≠ .bpmake bs) → s.poolOf s.part.num r.handle = some p →
          (∀ e, p.perform r = .error e → v = BitVec.ofNat 64 (2 ^ 63 + e.2 * 256 + e.1) ∧ y.pools = s.pools) ∧
          (∀ p' n, p.perform r = .ok (p', n) → v = BitVec.ofNat 64 n ∧
            y.pools = s.pools.map (fun x => if x.num = p'.num then p' else x))))

/-- R211, R212, R215, R219, R220: what requests do to a pool. -/
def Obligations.PoolRequestResults : Prop :=
  ∀ (p : Pool) (h b : Word),
    let full : Prop := p.refs.length * (p.size / 16384) + p.size / 16384 > 4 * p.quota
    let table := h.toNat % 2 ^ 21
    let releases (r : BlkReq) (es : List Nat) (keeps : Option (List Nat)) : Prop := ∃ p' n, p.perform r = .ok (p', n) ∧
      p'.mark = p.mark ∧ p'.table table = keeps ∧ (∀ x, x ≠ table → p'.table x = p.table x) ∧
      (es.Nodup → (∀ e ∈ es, 0 < p.count e ∧ p.count e < 65536) →
        let freed := es.filter (fun e => p.count e == 1)
        n = freed.length ∧ p'.stack = freed.reverse ++ p.stack ∧
        ∀ e, p'.count e = if e ∈ es then p.count e - 1 else p.count e)
    (full → p.perform (.balloc h) = .error (0x02, 0)) ∧
    (¬ full →
      (p.stack = [] → p.mark ≥ p.n → p.perform (.balloc h) = .error (0x01, 0)) ∧
      (p.stack = [] → p.mark < p.n → ∃ p', p.perform (.balloc h) = .ok (p', p.mark) ∧ p'.mark = p.mark + 1 ∧
        p'.stack = [] ∧ p'.count p.mark = 1) ∧
      (∀ x rest, p.stack = x :: rest → ∃ p', p.perform (.balloc h) = .ok (p', x) ∧ p'.mark = p.mark ∧
        p'.stack = rest ∧ p'.count x = 1)) ∧
    (b.toNat ≥ p.n ∨ p.count b.toNat = 0 → p.perform (.bfree h b) = .error (0x07, 0)) ∧
    (b.toNat < p.n → 0 < p.count b.toNat → p.count b.toNat < 65536 → ∃ p',
      p.perform (.bfree h b) = .ok (p', p.count b.toNat - 1) ∧ p'.mark = p.mark ∧ p'.tables = p.tables ∧
      (p.count b.toNat = 1 → p'.stack = b.toNat :: p.stack) ∧
      (p.count b.toNat > 1 → p'.stack = p.stack ∧ p'.count b.toNat = p.count b.toNat - 1)) ∧
    (p.table table = none → ∀ r ∈ [BlkReq.btapp h false, .bttrim h b, .btlook h b, .btfork h b, .btdrop h, .bpstat h 6],
      p.perform r = .error (0x04, 0)) ∧
    (∀ l, p.table table = some l →
      (∀ e, l[b.toNat / p.size]? = some e →
        p.perform (.btlook h b) = .ok (p, p.base + e * p.size + b.toNat % p.size)) ∧
      (l[b.toNat / p.size]? = none → p.perform (.btlook h b) = .error (0x04, 0)) ∧
      (l.length < 65536 → ¬ full → p.lacksChunks 1 = false → ∀ x, (p.stack = [] ∧ p.mark < p.n ∧ x = p.mark ∨
          ∃ rest, p.stack = x :: rest) →
        ∃ p', p.perform (.btapp h false) = .ok (p', x + l.length * 2 ^ 32) ∧ p'.table table = some (l ++ [x])) ∧
      (b.toNat ≤ l.length → releases (.bttrim h b) (l.drop b.toNat) (some (l.take b.toNat))) ∧
      (b.toNat > l.length → p.perform (.bttrim h b) = .error (0x04, 0)) ∧
      releases (.btdrop h) l none ∧
      (∀ x, b.toNat ≤ l.length → p.freeTable = some x → x ≠ 0x1FFFFF →
        p.lacksChunks (chunksFor (if b = 0 then l.length else b.toNat)) = false →
        (∀ e ∈ l.take (if b = 0 then l.length else b.toNat), p.count e ≠ 65535) →
        ∃ p', p.perform (.btfork h b) = .ok (p', p.ctrl * 2 ^ 29 + p.num * 2 ^ 21 + x) ∧
          p'.table x = some (l.take (if b = 0 then l.length else b.toNat)))) ∧
    p.perform (.bpstat h 0) = .ok (p, p.n - p.mark + p.stack.length) ∧
    p.perform (.bpstat h 1) = .ok (p, p.refs.length) ∧ p.perform (.bpstat h 2) = .ok (p, p.quota) ∧
    p.perform (.bpstat h 3) = .ok (p, p.refs.length * (p.size / 16384)) ∧
    p.perform (.bpstat h 5) = .ok (p, p.tables.length + p.limit * 2 ^ 32)

/-- R232, R235 to R238: SYNC instructions. -/
def Obligations.SynchronisationInstructionsComplete : Prop :=
  ∀ (s u : State) (t a b : Reg) (q : BitVec 3) (pa : Nat) (c : UnitCtx),
    (s.mayIssue [] t 0 → s.core.set.unit = some c →
      (∀ i bar, (i = Instr.phb t ∧ bar = false) ∨ (i = Instr.bar t ∧ bar = true) →
        (s.core.set.openBoundaries ≥ 2 → exec i s = .next s) ∧
        (s.core.set.openBoundaries < 2 → ∃ y, exec i s = .next y ∧ s.began y t .other (.boundary c.phase bar) ∧
          y.core.set.unit = some { c with phase := c.phase + 1 })) ∧
      (q.toNat ≤ 5 → ∃ y, exec (.fence t q) s = .next y ∧ s.began y t .other .fence)) ∧
    (∀ id o, s.core.set.op id = some o → o.wait = .fence → s.fenceDone s.core.set id = true →
      ∃ y, exec (.tokenCompletion id) s = .next y ∧ y.waitsFor id (.ready 0 .clear (s.cycle + 1))) ∧
    (s.mayIssue [a, b, b + 1] t 0 → q.toNat ≤ 5 → s.globalHeld (s.reg a) = false →
      let va := s.reg a
      let w := (s.reg (b + 1)).toNat
      (va.toNat % 8 ≠ 0 → exec (.sigset t a b q) s = .next (s.trap 0x03 va) ∧
        (b.isEven = true → exec (.sigwait t a b q) s = .next (s.trap 0x03 va))) ∧
      (va.toNat % 8 = 0 → va.toNat ≥ 0xFFFF00000000 → exec (.sigset t a b q) s = .next (s.trap 0x05 va) ∧
        (b.isEven = true → exec (.sigwait t a b q) s = .next (s.trap 0x05 va))) ∧
      (va.toNat % 8 = 0 → va.toNat < 0xFFFF00000000 → s.part.windowAt va.toNat = none →
        (∀ x y, regionOf pa ≠ .scratch x y) →
        (s.translate .write va.toNat = (u, .ok pa) →
          ∃ y, exec (.sigset t a b q) s = .next y ∧ u.began y t .other (.sigset pa (va.setWidth 48) (s.reg b) (s.scope q.toNat) none)) ∧
        (b.isEven = true → s.translate .read va.toNat = (u, .ok pa) →
          (w / 4 % 2 ^ 14 ≠ 0 ∨ w / 2 ^ 48 ≠ 0 →
            ∃ y, exec (.sigwait t a b q) s = .next y ∧
              u.began y t .other (.ready 0x8000000000000061 .clear (u.cycle + 1))) ∧
          (w / 4 % 2 ^ 14 = 0 → w / 2 ^ 48 = 0 →
            ∃ y, exec (.sigwait t a b q) s = .next y ∧ u.began y t .other .sigwait ∧
              y.net.waits = u.net.waits ++ [⟨u.core.num, u.unit.lid, u.unit.index, u.net.nextId, pa, s.reg b,
                BitVec.ofNat 2 (w % 4), if w / 2 ^ 16 % 2 ^ 32 = 0 then none else
                  some (w / 2 ^ 16 % 2 ^ 32 * 1024), none, true, none⟩]))))

/-- R230, R231, R238: SIGWAIT tests, and phase boundaries. -/
def Obligations.SignalsAndBoundaries : Prop :=
  ∀ (s : State) (n : Nat),
    let meets (cond : BitVec 2) (v x : Word) : Prop :=
      (cond = 0 ∧ v = x) ∨ (cond = 1 ∧ v ≠ x) ∨ (cond = 2 ∧ v.toNat ≥ x.toNat) ∨ (cond = 3 ∧ v &&& x ≠ 0)
    (∀ w, s.waitAt n = some w → w.fresh = true → s.performs w.op = true → w.pa ≠ 2 ^ 52 →
      let v := s.mem.word w.pa
      let holds := meets w.cond v w.x
      ∃ t, exec (.sigwaitTest n) s = .next t ∧ t.mem = s.mem ∧
        (holds → (s.core.set.op w.op ≠ none → t.waitsFor w.op (.ready v .clear (s.cycle + 1))) ∧ t.waitAt w.op = none) ∧
        (¬ holds → t.core.set = s.core.set ∧ ∀ y ∈ t.net.waits, y.op = w.op → y.fresh = false)) ∧
    (∀ w l c, s.waitAt n = some w → w.fresh = false → w.limit = some l → w.since = some c → c + l ≤ s.cycle →
      ∃ t, exec (.sigwaitTimeout n) s = .next t ∧ t.waitAt n = none ∧
        (s.core.set.op n ≠ none → t.waitsFor n (.ready 0x8000000000000060 .clear (s.cycle + 1)))) ∧
    (∀ w k src pa va, s.net.waits = [w] → w.since.isSome → w.pa % 8 = 0 → w.pa ≠ 2 ^ 52 → s.packet n = some k →
      k.dst < 352 → k.body = .write src pa va → src ≠ .outside → s.mayApply k = true → pa ≤ w.pa →
      w.pa < pa + k.bytes.length →
      ∃ t, exec (.writeArrival n) s = .next t ∧
        (meets w.cond (t.mem.word w.pa) w.x → t.waitAt w.op = none ∧
          (s.core.set.op w.op ≠ none → t.waitsFor w.op (.ready (t.mem.word w.pa) .clear (s.cycle + 1)))) ∧
        (¬ meets w.cond (t.mem.word w.pa) w.x → ∃ y, t.waitAt w.op = some y ∧ y.since = w.since ∧ y.fresh = false)) ∧
    (∀ lid l u, s.disp.launches.find? (fun l => l.lid == lid && l.bound) = some l → l.left > 0 → s.released l = true →
      s.core.set.unit = some u → s.core.set.runs lid = true →
      ∃ t, exec (.phaseBoundary lid) s = .next t ∧ t.core.set.snaps = [] ∧ t.mem = s.mem ∧
        t.disp.launches = s.disp.launches.map (fun m => if m.lid = lid then { m with phase := m.phase + 1 } else m) ∧
        ∀ o ∈ s.core.set.ops, ∀ bar, o.wait = .boundary l.phase bar →
          (lookup l.phase u.lost = none →
            { o with wait := .ready (BitVec.ofNat 64 (l.phase + 1)) .clear (s.cycle + 1) } ∈ t.core.set.ops) ∧
          (∀ va, lookup l.phase u.lost = some va →
            { o with wait := .ready (BitVec.ofNat 64 (8 + va.toNat * 256)) .token (s.cycle + 1) } ∈ t.core.set.ops))

/-- R240, R242, R243: ATOM and RED instructions. -/
def Obligations.AtomicsGoToTheirBank : Prop :=
  ∀ (s u : State) (t a b : Reg) (c : BitVec 3) (narrow : BitVec 1) (pa : Nat), s.mayIssue [a, b, b + 1] t 0 →
    s.globalHeld (s.reg a) = false →
    let q : BitVec 4 := narrow ++ c
    let va := s.reg a
    let x := s.reg b
    let y := s.reg (b + 1)
    let low (v : Word) : Word := v &&& 0xFFFFFFFF
    let v (z : Word) : Word := if narrow = 0 then z else low z
    let wide := decide (narrow = 0)
    ∀ (i : Instr) (acc : BankAcc), (i, acc) ∈
        [(Instr.aadd t a b q, ⟨.add, wide, pa, va.setWidth 48, v x, 0, false⟩),
         (.aand t a b q, ⟨.and, wide, pa, va.setWidth 48, v x, 0, false⟩),
         (.aor t a b q, ⟨.or, wide, pa, va.setWidth 48, v x, 0, false⟩),
         (.axor t a b q, ⟨.xor, wide, pa, va.setWidth 48, v x, 0, false⟩),
         (.amin t a b q, ⟨.min, wide, pa, va.setWidth 48, v x, 0, false⟩),
         (.amax t a b q, ⟨.max, wide, pa, va.setWidth 48, v x, 0, false⟩),
         (.aminu t a b q, ⟨.minu, wide, pa, va.setWidth 48, v x, 0, false⟩),
         (.amaxu t a b q, ⟨.maxu, wide, pa, va.setWidth 48, v x, 0, false⟩),
         (.axchg t a b q, ⟨.xchg, wide, pa, va.setWidth 48, v x, 0, false⟩),
         (.acas t a b q, ⟨.cas, wide, pa, va.setWidth 48, v x, v y, false⟩),
         (.aaddf t a b c, ⟨.addf, false, pa, va.setWidth 48, low x, 0, false⟩),
         (.ald t a q, ⟨.load, wide, pa, va.setWidth 48, 0, 0, false⟩),
         (.radd t a b q, ⟨.add, wide, pa, va.setWidth 48, v x, 0, true⟩),
         (.rmin t a b q, ⟨.min, wide, pa, va.setWidth 48, v x, 0, true⟩),
         (.rmax t a b q, ⟨.max, wide, pa, va.setWidth 48, v x, 0, true⟩),
         (.raddf t a b c, ⟨.addf, false, pa, va.setWidth 48, low x, 0, true⟩)] → i.wellFormed = true →
      let n := if acc.wide then 8 else 4
      (va.toNat % n ≠ 0 → exec i s = .next (s.trap 0x03 va)) ∧
      (va.toNat % n = 0 → va.toNat ≥ 0xFFFF00000000 → exec i s = .next (s.trap 0x05 va)) ∧
      (va.toNat % n = 0 → va.toNat < 0xFFFF00000000 → s.part.windowAt va.toNat = none →
        s.translate (if acc.kind = .load then .read else .write) va.toNat = (u, .ok pa) →
        (∀ r o, regionOf pa ≠ .scratch r o) →
        ∃ z k, exec i s = .next z ∧ u.began z t .other .bank ∧ z.net.packets = u.net.packets ++ [k] ∧
          k.body = .bank acc ∧ k.dst = homeOf u.host.pins pa ∧ k.op = some u.net.nextId ∧ z.mem = u.mem)

/-- R242 to R244: accesses at the home bank. R230, R244, R251: the arrival of a write. -/
def Obligations.BankAccessesPerform : Prop :=
  ∀ (s : State) (n : Nat) (k : Packet), s.packet n = some k → k.dst < 352 → s.mem.wf →
    (∀ (src : Source) (pa : Nat) (va : BitVec 48), k.body = .write src pa va → s.mayApply k = true →
      ∃ t, exec (.writeArrival n) s = .next t ∧
        (∀ j < k.bytes.length, t.mem.get (pa + j) =
          if src = .outside ∧ s.childTail (pa + j) = true then s.mem.get (pa + j) else k.bytes.getD j 0) ∧
        (∀ x, x < pa ∨ pa + k.bytes.length ≤ x → t.mem.get x = s.mem.get x) ∧ t.arrivedId n = true) ∧
    ∀ (acc : BankAcc), k.body = .bank acc → s.mayBank k acc = true →
    let w := if acc.wide then 8 else 4
    let m := s.mem.nat acc.pa w
    let x := acc.x.toNat
    let y := acc.y.toNat
    let sx (v : Nat) : Int := (BitVec.ofNat (8 * w) v).toInt
    (s.readError acc.pa w = none →
      ∃ t, exec (.homeBankAccess n) s = .next t ∧
        (∀ z, z < acc.pa ∨ acc.pa + w ≤ z → t.mem.get z = s.mem.get z) ∧
        (∀ id, k.op = some id → s.core.set.op id ≠ none →
          t.waitsFor id (.ready (if acc.quiet then 0 else BitVec.ofNat 64 m) .clear (s.cycle + 1))) ∧
        (acc.kind = .load → t.mem = s.mem) ∧
        ∀ v, (acc.kind, v) ∈ [(BankKind.add, m + x), (.and, m &&& x), (.or, m ||| x), (.xor, m ^^^ x),
            (.min, if sx m < sx x then m else x), (.max, if sx x < sx m then m else x),
            (.minu, if m < x then m else x), (.maxu, if x < m then m else x), (.xchg, x),
            (.cas, if m = x then y else m), (.addf, fp32.add m x), (.set, x)] →
          t.mem.nat acc.pa w = v % 2 ^ (8 * w)) ∧
    (acc.kind ≠ .set → s.readError acc.pa w ≠ none →
      ∃ t, exec (.homeBankAccess n) s = .next t ∧ t.mem = s.mem ∧
        ∀ id, k.op = some id → s.core.set.op id ≠ none →
          t.waitsFor id (.ready (BitVec.ofNat 64 (11 + acc.va.toNat * 256)) .token (s.cycle + 1)))

/-! ### The network (R230, R259 to R281) -/

/-- R276 to R281: NET instructions. The order of the failures is log entry 63, the bytes RCRECV checks log entry 64. -/
def Obligations.NetInstructionsComplete : Prop :=
  ∀ (s : State) (t a b : Reg) (q : BitVec 4) (y0 : BitVec 1) (c : UnitCtx),
    let fails (i : Instr) (u : State) (n : Nat) : Prop :=
      exec i s = .next ((u.later t .other (BitVec.ofNat 64 (2 ^ 63 + n)) .clear 1).advance)
    let va := (s.reg b).toNat
    let len := (s.reg (b + 1)).toNat
    (s.mayIssue [a, b, b + 1] t 0 → b.isEven = true →
      (len > 256 ∨ len % 16 ≠ 0 ∨ va % 16 ≠ 0 → fails (.sendrc t a b q) s 0x45) ∧
      (∀ u w sp, len ≤ 256 → len % 16 = 0 → va % 16 = 0 → s.checked .read (s.reg b) 16 len = (u, .ok (w, sp)) →
        let e := classEntry u.part q.toNat
        let dst := u.destEnd ((s.reg a).toNat % 2 ^ 48) (classEther e)
        (classValid e = false → fails (.sendrc t a b q) u 0x70) ∧
        (classValid e = true → classPort1 e = true → len ≠ 128 → fails (.sendrc t a b q) u 0x45) ∧
        (classValid e = true → (classPort1 e = true → len = 128) →
          (dst = none ∨ classPort1 e = false ∧ (s.reg a).toNat / 2 ^ 48 ≠ 0 → fails (.sendrc t a b q) u 0x71) ∧
          (∀ d v bs, dst = some d → (classPort1 e = false → (s.reg a).toNat / 2 ^ 48 = 0) → s.readHeld (s.reg b) = false →
            s.retentionFull = false → State.readSpans w sp u = (v, bs, none) → classEntry v.part q.toNat = e →
            v.destEnd ((s.reg a).toNat % 2 ^ 48) (classEther e) = some d →
            ∃ z k, exec (.sendrc t a b q) s = .next z ∧ v.began z t .other .ack ∧
              z.net.packets = v.net.packets ++ [k] ∧ k.dst = d ∧ k.bytes = bs ∧ k.op = some v.net.nextId ∧
              k.vc = classVc e ∧ k.body = .route q (classOrdered e) (s.reg a) ((s.reg a >>> 48).setWidth 16)
                (classPort1 e) 0)))) ∧
    (s.mayIssue [a] t 0 → s.core.set.unit = some c →
      let answers (i : Instr) (m : BitVec 16) : Prop := ∃ z, exec i s = .next z ∧
        s.began z t .other (.ready (c.classMask.setWidth 64) .clear (s.cycle + 1)) ∧
        z.core.set.unit = some { c with classMask := m }
      answers (.rcmask t a) (c.classMask ||| (s.reg a).setWidth 16) ∧
      answers (.rcumask t a) (c.classMask &&& ~~~((s.reg a).setWidth 16))) ∧
    (s.mayIssue [a] t 0 → s.globalHeld (s.reg a) = false →
      ∀ u w sp, s.checked .write (s.reg a) 16 256 = (u, .ok (w, sp)) →
        (∀ n, u.recvStatus q.toNat = some n → fails (.rcrecv t a q) u n) ∧
        (u.recvStatus q.toNat = none → ∃ z, exec (.rcrecv t a q) s = .next z ∧ u.began z t .other (.receive q w sp))) ∧
    (s.mayIssue [a] t 0 →
      let w := (s.reg a).toNat
      (s.core.set.fab.running = none → fails (.ybind t a y0) s 0x22) ∧
      (∀ im np, s.core.set.fab.running = some im → im.np y0.toNat = some np →
        (s.core.set.fab.npAt y0.toNat).sent = true → fails (.ybind t a y0) s 0x21) ∧
      (∀ im np, s.core.set.fab.running = some im → im.np y0.toNat = some np → np.mode = 0 →
        (s.core.set.fab.npAt y0.toNat).sent = false → w < 2 ^ 12 → w / 2 ^ 9 ≤ 5 →
        ((s.coreMask s.part.num).getLsbD (w % 256) = false → fails (.ybind t a y0) s 0x71) ∧
        ((s.coreMask s.part.num).getLsbD (w % 256) = true → ∃ z, exec (.ybind t a y0) s = .next z ∧
          s.began z t .other (.ready 0 .clear (s.cycle + 8)) ∧
          (z.core.set.fab.npAt y0.toNat).yarn = some (BitVec.ofNat 8 (w % 256), w / 256 % 2, w / 2 ^ 9))))

/-- R270 to R274: tokens and packets between fabrics. -/
def Obligations.TokensOverTheNetwork : Prop :=
  ∀ (s : State) (p n : Nat),
    (∀ q tok, s.core.set.port p = some q → (s.core.set.fab.heldAt (npInput p)).head? = some tok →
      s.core.fabricRuns s.cycle = true → s.portMaySend p = true →
      let left (t : State) (k : Packet) : Prop := exec (.networkPortSend p) s = .next t ∧
        t.core.set.fab.held = s.core.set.fab.held.erase (npInput p, tok) ∧ t.net.packets = s.net.packets ++ [k] ∧
        k.bytes = payloadBytes tok.payload ∧ k.src = s.core.num
      (∀ y, q.mode ≠ 1 → (s.core.set.fab.npAt p).yarn = some y → ∃ t k, left t k ∧ k.dst = y.1.toNat ∧
        k.vc = y.2.2 ∧ k.body = .yarn p y.2.1 tok) ∧
      (∀ dst, q.mode = 1 →
        let e := classEntry s.part q.cls.toNat
        classValid e = true → s.destEnd (lane32 tok.payload 31 % 2 ^ 18) (classEther e) = some dst →
        ∃ t k, left t k ∧ k.dst = dst ∧ k.vc = classVc e ∧
          ∃ o d tag h, k.body = .route (BitVec.ofNat 4 q.cls.toNat) o d tag h p)) ∧
    (∀ k, s.packet n = some k → k.dst = s.core.num → k.dst < 256 → k.isFor s.core.set = true →
      (∀ j tok q, k.body = .yarn j p tok → k.way = .holding ∨ k.way = .lost ∨ k.way = .gone → s.inOrder k = true →
        s.takes k = true → s.yarnBehind k p = false → s.core.set.port p = some q → s.core.set.fab.hasRoom q.out = true →
        ∃ t, exec (.yarnTokenArrival n) s = .next t ∧ (q.out ≠ noTarget →
          t.sends q.out (if k.way = .holding then tok else Token.error tok.k 0x08 tok.tag.last))) ∧
      (∀ cls o d tag j u, k.body = .route cls o d tag false j → s.mayTake k = true → s.core.set.unit = some u →
        let full := u.full cls (classShare (classEntry ((s.partAt k.part).getD Part.device) cls.toNat))
        (full = false → ∃ t, exec (.routeClassArrival n) s = .next t ∧ t.core.set.unit = some { u with
          rxq := u.rxq ++ [⟨cls, k.bytes, s.net.marked k cls, BitVec.ofNat 16 k.unit, BitVec.ofNat 8 k.src, tag⟩] }) ∧
        (full = true → k.trims < 7 → ∃ t, exec (.routeClassArrival n) s = .next t ∧
          t.core.set.unit = some u ∧ ∃ x ∈ t.net.packets, x.id = k.id ∧ x.trims = k.trims + 1 ∧ x.isHole = true)) ∧
      (∀ cls o d tag j q, k.body = .route cls o d tag true j → s.mayTake k = true → s.maskedAt k cls = false →
        s.queuedAt k cls = false →
        s.core.set.port ((classEntry ((s.partAt k.part).getD Part.device) cls.toNat).toNat / 2 ^ 6 % 2) = some q →
        s.core.set.fab.hasRoom q.out = true →
        ∃ t, exec (.handler1Arrival n) s = .next t ∧
          (q.out ≠ noTarget → t.sends q.out ⟨Tag.ofBits tag.toNat, payloadOf k.bytes⟩)))

/-- R263 to R267: the network's own steps. -/
def Obligations.PacketsMoveAndAreReAsked : Prop :=
  ∀ (s : State) (n : Nat),
    (∀ k, s.packet n = some k →
      let stands (i : Instr) (p : Packet → Prop) : Prop := ∃ t, exec i s = .next t ∧ ∃ x ∈ t.net.packets, x.id = n ∧ p x
      (∀ sw port, s.mayHop k sw port = true →
        (s.mustTrim k sw port = false → stands (.packetAtSwitch n sw port) (fun x => x = { k with place := some (sw, port) })) ∧
        (s.mustTrim k sw port = true → stands (.packetAtSwitch n sw port)
          (fun x => x = { k with way := .header, place := some (sw, port), trims := k.trims + 1 }))) ∧
      (∀ sw port, s.headerGoes k = true → k.nextHop = some (sw, port) →
        stands (.packetAtSwitch n sw port) (fun x => x = { k with place := some (sw, port) })) ∧
      (s.atEnd k = true →
        ((∀ pa b, k.body ≠ .read pa b) → (∀ pa v e, k.body ≠ .reply pa v e) → s.reordered k < 32 ∨ s.inOrder k = true →
          stands (.packetDelivery n) (fun x => x = { k with way := .holding, place := none })) ∧
        (∀ pa b, k.body = .read pa b → k.dst < 352 → ((s.partAt k.part).getD Part.device).inCounters (pa / 8 * 8) = false →
          ∃ t e, exec (.packetDelivery n) s = .next t ∧ ∃ x ∈ t.net.packets, x.src = k.dst ∧ x.dst = k.src ∧
            x.op = k.op ∧ x.body = .reply pa (s.homeWord k.lid k.unit k.phase b (pa / 8 * 8)) e) ∧
        (∀ pa v id o at0 size own home sent, k.body = .reply pa v none → k.op = some id → o ∈ s.core.set.ops →
          o.id = id → o.wait = .load at0 size own home sent → ∃ t, exec (.packetDelivery n) s = .next t ∧
            { o with wait := .ready (loadValue size at0 v own) .clear (s.cycle + 1) } ∈ t.core.set.ops)) ∧
      (k.way = .header → k.nextHop = none → 0 < k.trims → k.trims < 8 →
        stands (.trimNotice n) (fun x => x.way = .hole (s.cycle + 64 * 2 ^ min (k.trims - 1) 4))) ∧
      (k.way = .header → k.nextHop = none → k.trims ≥ 8 → stands (.trimNotice n) (fun x => x.way = .lost) ∧
        ∃ t id, exec (.trimNotice n) s = .next t ∧
          t.net.control = s.net.control ++ [⟨id, k.dst, k.src, k.part, .loss n, none⟩]) ∧
      (s.mayReask k = true → stands (.reask n) (fun x => x = { k with way := .reasked }) ∧
        ∃ t id, exec (.reask n) s = .next t ∧
          t.net.control = s.net.control ++ [⟨id, k.dst, k.src, k.part, .reask n, none⟩]) ∧
      (∀ c, k.way = .reasked → s.net.control.find? (fun x => x.notice == .reask n) = some c → s.controlEnds c = true →
        stands (.retransmission n) (fun x => x = { k with way := .sent, resent := true, place := none }))) ∧
    (∀ src dst upto, s.mayAck src dst = true → s.ackReach src dst = some upto →
      (∃ k ∈ s.net.packets, k.ackedBy src dst upto = true) →
      ∃ t id part, exec (.acknowledgement src dst) s = .next t ∧
        t.net.control = s.net.control ++ [⟨id, dst, src, part, .ack upto, none⟩] ∧
        ((∀ k ∈ s.net.packets, k.src = src → k.dst = dst → k.way = .delivered → k.ackedBy src dst upto = true) →
          lookup (src, dst) t.net.unacked = none) ∧
        (∀ k ∈ s.net.packets, k.src = src → k.dst = dst → k.way = .delivered → k.ackedBy src dst upto = false →
          lookup (src, dst) t.net.unacked = some (0, s.cycle))) ∧
    (∀ id src dst part upto at', s.controlAt n = some ⟨id, dst, src, part, .ack upto, at'⟩ →
      s.controlEnds ⟨id, dst, src, part, .ack upto, at'⟩ = true →
      ∃ t, exec (.ackReceived n) s = .next t ∧ (∀ k ∈ t.net.packets, k.ackedBy src dst upto = false) ∧
        ∀ k ∈ s.net.packets, k.ackedBy src dst upto = true → ∀ id c o d g h p, k.op = some id → k.body = .route c o d g h p →
          (∀ x ∈ s.net.packets, x.op = some id → x = k) → s.core.set.op id ≠ none →
          t.waitsFor id (.ready (BitVec.ofNat 64 k.trims) .clear (s.cycle + 1))) ∧
    (∀ c id k, s.controlAt n = some c → c.notice = .loss id → s.controlEnds c = true → s.packet id = some k →
      (∀ c o d g h p e, k.body = .route c o d g h p → k.op = some e → s.core.set.op e ≠ none →
        ∃ t, exec (.lossNotice n) s = .next t ∧
        t.packet id = none ∧ t.waitsFor e (.ready (BitVec.ofNat 64 (8 + 8 * 256)) .token (s.cycle + 1))) ∧
      (∀ src pa va u, k.body = .write src pa va → s.core.set.unit = some u → s.core.set.runsUnit k.lid k.unit = true →
        lookup k.phase u.lost = none → ∃ t v, exec (.lossNotice n) s = .next t ∧ t.packet id = none ∧
          t.core.set.unit = some v ∧ lookup k.phase v.lost = some va))

/-! ### The state-map composer (R283 to R294) -/

/-- R289 to R293: SMAP instructions. -/
def Obligations.SmapInstructionsComplete : Prop :=
  ∀ (s : State) (t a b : Reg) (q : BitVec 2) (one : BitVec 1), s.unfinished [.smap] = false → s.inProgress [.cfg] = false →
    s.steppedNow = [] →
    let fails (i : Instr) (u : State) (n off : Nat) : Prop :=
      exec i s = .next ((u.later t .smap (BitVec.ofNat 64 (2 ^ 63 + off * 256 + n)) .clear 1).advance)
    let answers (i : Instr) (u : State) (v : Word) (p : Composer → Prop) : Prop := ∃ y, exec i s = .next y ∧
      u.began y t .smap (.ready v .clear (u.cycle + 1)) ∧ p y.core.set.comp
    let comp := s.core.set.comp
    (s.mayIssue [a] t 0 → s.readHeld (s.reg a) = false →
      ∀ u v w sp bs, s.checked .read (s.reg a) 64 64 = (u, .ok (w, sp)) → State.readSpans w sp u = (v, bs, none) →
        (badDesc bs = none → answers (.smcfgBind t a) v 0
          (fun c => c.binding = some (descOf bs) ∧ ∀ k < 64, c.state k = 0 ∧ c.symbol k = none)) ∧
        (∀ off, badDesc bs = some off → fails (.smcfgBind t a) v 0x81 off)) ∧
    (s.mayIssue [a, b, b + 1] t 0 → comp.binding = none →
      fails (.smcfgWriteStates t a b) s 0x80 0 ∧ fails (.smcfgReadState t a) s 0x80 0 ∧
      fails (.smstep t a b one) s 0x80 0) ∧
    (∀ d, s.mayIssue [a, b, b + 1] t 0 → comp.binding = some d →
      ((s.reg b).toNat ≥ d.S.toNat → fails (.smcfgWriteStates t a b) s 0x27 0) ∧
      ((s.reg b).toNat < d.S.toNat → answers (.smcfgWriteStates t a b) s 0
        (fun c => ∀ k < 64, c.state k = if (s.reg a).getLsbD k then (s.reg b).setWidth 16 else comp.state k)) ∧
      ((s.reg a).toNat > 63 → fails (.smcfgReadState t a) s 0x27 0) ∧
      (∀ k, k ≤ 63 → s.reg a = BitVec.ofNat 64 k → answers (.smcfgReadState t a) s
        (BitVec.ofNat 64 ((comp.state k).toNat + if (comp.symbol k).isSome then 65536 else 0)) (fun c => c = comp)) ∧
      (b.isEven = true →
       let n := (s.reg b).toNat
       ((s.reg a).toNat % 4 ≠ 0 → fails (.smcomp t a b q) s 0x45 ((s.reg a).toNat % 2 ^ 48)) ∧
       ((s.reg a).toNat % 4 = 0 → n = 0 ∨ n > 65536 → fails (.smcomp t a b q) s 0x45 0) ∧
       (∀ u v x w sp words m rows, 1 ≤ n → n ≤ 65536 → (s.reg a).toNat % 4 = 0 → s.readHeld (s.reg a) = false →
         s.tablesHeld = false → s.checked .read (s.reg a) 4 (4 * n) = (u, .ok (w, sp)) → u.core.set.comp.binding = some d →
         u.readSymbols d n w sp = (v, .ok words) → State.evalMaps d (words.length + 1) words v = (x, .ok (m, rows)) →
         let word := BitVec.ofNat 64 ((if m.all (fun e => e == m.headD 0) then m.headD 0 + 65536 else 0) + rows * 2 ^ 20)
         answers (.smcomp t a b 0) x word (fun c => c = x.core.set.comp) ∧
         ∃ y, exec (.smcomp t a b 2) s = .next y ∧
           x.began y t .smap (.compose (m.map (BitVec.ofNat 16)) (s.reg (b + 1)) word))) ∧
      (∀ u m r k, k < 64 → s.reg a = (1 : Word) <<< k → s.readHeld d.maps = false → (s.reg b).toNat < d.V.toNat →
        s.mapOf d (s.reg b).toNat = (u, .ok (m, r)) →
        answers (.smstep t a b 1) u ((1 : Word) <<< k) (fun c => c.symbol k = none ∧
          c.state k = (if d.D ≠ 0xFFFF ∧ comp.state k = d.D then d.D else BitVec.ofNat 16 (m.getD (comp.state k).toNat 0)) ∧
          ∀ j < 64, j ≠ k → c.state j = comp.state j ∧ c.symbol j = comp.symbol j)) ∧
      (∀ im p u l, s.core.set.fab.running = some im → im.sm = some p → s.readHeld d.masks = false →
        s.maskOk im d (s.reg a).toNat (s.reg b) = true →
        s.maskTokens d (s.reg a).toNat (comp.state (s.reg a).toNat) (maskRange d (s.reg b)).1 (maskRange d (s.reg b)).2
          (one == 1) = (u, .ok l) →
        ∃ y, exec (.smmask t a b one) s = .next y ∧ u.began y t .smap (.masks (maskRange d (s.reg b)).2) ∧
          y.core.set.fab.smq = u.core.set.fab.smq ++ l.map (fun x => (x, p.out, some u.net.nextId))) ∧
      (s.core.set.fab.running = none → fails (.smmask t a b one) s 0x22 0))

/-- R287, R292, R294: the composer's node. -/
def Obligations.ComposerArrivals : Prop :=
  ∀ (s : State) (p : SmParams), s.core.set.fab.running.bind Image.sm = some p → s.core.fabricRuns s.cycle = true →
    let f := s.core.set.fab
    (∀ e rest, f.smq = e :: rest → f.hasRoom e.2.1 = true → f.heldAt smInput = [] →
      ∃ t, exec .composerArrival s = .next t ∧ t.core.set.fab.smq = rest ∧ (e.2.1 ≠ noTarget → t.sends e.2.1 e.1)) ∧
    (∀ tok, f.smq = [] → (f.heldAt smInput).head? = some tok → s.steps p tok = false →
      let k := tok.k
      let taken := s.mapFab (fun g => { g with held := removeHeld smInput k g.held }.move s.cycle)
      ∃ t, exec .composerArrival s = .next t ∧ t.core.set.fab.held = removeHeld smInput k f.held ∧
        (tok.tag.kind ≠ .data → t.core.set.fab.smq = [(tok, p.out, none)]) ∧
        (tok.tag.kind = .data →
          (s.core.set.comp.binding = none → t.core.set.fab.smq = [(Token.error k 0x01 tok.tag.last, p.out, none)]) ∧
          (∀ d, s.core.set.comp.binding = some d →
            (tok.symbol ≥ d.V.toNat → t.core.set.fab.smq = [(Token.error k 0x01 tok.tag.last, p.out, none)]) ∧
            (tok.symbol < d.V.toNat → p.astep = false →
              t.core.set.comp.symbol k = some (BitVec.ofNat 24 tok.symbol) ∧ t.core.set.fab.smq = []) ∧
            (∀ u m r, tok.symbol < d.V.toNat → p.astep = true → p.amask = false →
              taken.mapOf d tok.symbol = (u, .ok (m, r)) →
              t.core.set.comp.state k = (if d.D ≠ 0xFFFF ∧ s.core.set.comp.state k = d.D then d.D
                else BitVec.ofNat 16 (m.getD (s.core.set.comp.state k).toNat 0))))))

/-! ### Launches, partitions, slicing, debugging and the host (R296 to R356) -/

/-- R299 to R304, R319: LNCH instructions of the unit level. -/
def Obligations.LaunchInstructionsComplete : Prop :=
  ∀ (s : State) (t a b : Reg),
    let answers (i : Instr) (u : State) (v : Word) (n : Nat) : Prop := exec i s = .next ((u.later t .other v .clear n).advance)
    (s.mayIssue [a, b] t 0 → s.readHeld (s.reg a) = false →
      ∀ u v w sp bs, s.checked .read (s.reg a) 64 64 = (u, .ok (w, sp)) → State.readSpans w sp u = (v, bs, none) →
        let queue := (s.reg b).toNat
        (v.bindOf queue = none → answers (.launch t a b) v (lnchStatus 0x90 0 queue) 1) ∧
        (∀ q, v.bindOf queue = some q →
          (q.child = false ∨ q.part ≠ v.unit.part → answers (.launch t a b) v (lnchStatus 0x90 0 queue) 1) ∧
          (q.child = true → q.part = v.unit.part →
            (v.dispAt (v.partOf q.part) .write (q.recordVa q.tail)).2 ≠ none →
            (∀ off, v.badRecord q.part bs = some off → answers (.launch t a b) v (lnchStatus 0x92 off 0) 1) ∧
            (v.badRecord q.part bs = none → q.freeEntries = 0 → v.unit.reserve ≠ some queue →
              answers (.launch t a b) v (lnchStatus 0x02 0 queue) 1) ∧
            (v.badRecord q.part bs = none → q.freeEntries > 0 →
              ∃ y, exec (.launch t a b) s = .next y ∧
                y.core.set.seq = { v.core.set.seq.setPending t with pc := v.core.set.seq.pc + 4 } ∧
                y.core.set.ops = v.core.set.ops ++ [⟨v.net.nextId, t, .other,
                  .ready (BitVec.setWidth 64 (launchId q.queue q.tail)) .clear (v.cycle + 1)⟩] ∧
                ∃ l ∈ y.disp.launches, l.lid = launchId q.queue q.tail ∧ l.parent = some v.unit.lid ∧
                  l.bound = false ∧ l.part = q.part)))) ∧
    (s.mayIssue [a] t 0 → ∀ q : BitVec 2,
      (s.workKey q.toNat (s.reg a) = none →
        answers (.lwait t a q) s (lnchStatus 0x27 0 0) 1 ∧
        answers (.cntrd t a (q.setWidth 3)) s (lnchStatus 0x27 0 0) 1 ∧
        (q ≠ 0 → answers (.cancel t a (q.setWidth 4)) s (lnchStatus 0x27 0 0) 1)) ∧
      (∀ k, s.workKey q.toNat (s.reg a) = some k →
        (∃ y, exec (.lwait t a q) s = .next y ∧ s.began y t .other (.counter k.1 k.2)) ∧
        answers (.cntrd t a (q.setWidth 3)) s (BitVec.ofNat 64 (s.counterOf k)) 8 ∧
        ∀ e : BitVec 1, q ≠ 0 → ∃ y o l, exec (.cancel t a (e ++ (0 : BitVec 1) ++ q)) s = .next y ∧ o ∈ y.core.set.ops ∧ o.t = t ∧
          o.wait = .cancel l (e == 1) (s.seq.level == 2) ∧ y.seq.pc = s.seq.pc + 4 ∧
          ∀ c x, s.core.set.unit = some c → s.launch c.lid = some x → x.work.contains k = true →
            y.core.frost ≠ .thawed ∧ y.core.frost ≠ .thawing)) ∧
    (s.mayIssue [a] t 0 → ∀ q : BitVec 2, s.seq.level = 0 →
      answers (.cntrd t a ((1 : BitVec 1) ++ q)) s
        (s.usageOf s.unit.part ((s.reg a).setWidth 16) q.toNat) 8) ∧
    (∀ id o level n, s.core.set.op id = some o → o.wait = .counter level n → s.counterOf (level, n) = 0 →
      ∃ y, exec (.tokenCompletion id) s = .next y ∧ y.waitsFor id (.ready (s.summary (level, n)) .clear (s.cycle + 1))) ∧
    (∀ id o l, s.core.set.op id = some o → o.wait = .cancel l false false → (∀ c ∈ s.setsOf l, c.2.frost = .frozen) →
      ∃ y, exec (.tokenCompletion id) s = .next y ∧
        y.waitsFor id (.ready (BitVec.ofNat 64 (s.setsOf l).length) .clear (s.cycle + 1)))

/-- R302, R306, R311 to R318, R358: device-level LNCH instructions. -/
def Obligations.PartitionInstructionsComplete : Prop :=
  ∀ (s : State) (t a b : Reg), s.unfinished [.lnch] = false →
    let does (i : Instr) (u : State) (r : Outcome) : Prop :=
      (∀ x n, r = .ok (x, n) → exec i s = .next ((x.later t .lnch (BitVec.ofNat 64 n) .clear 1).advance)) ∧
      (∀ f, r = .error f → exec i s = .next ((u.later t .lnch (lnchStatus f.status f.detail f.value) .clear 1).advance))
    (s.mayIssue [a, b] t 2 →
      (∀ (i : Instr) (va : Word) (align len : Nat) (act : State → List Byte → Outcome), (i, va, align, len, act) ∈
          [(Instr.pslice t a 0, s.reg a, 1, 32, fun u bs => u.slice true bs),
           (.pslice t a 1, s.reg a, 1, 32, fun u bs => u.slice false bs),
           (.presv t a 0, s.reg a, 1, 64, fun u bs => u.offer bs),
           (.plend t a, s.reg a, 64, 64, fun u bs => u.lend bs),
           (.qbind t a b 0, s.reg a, 1, 32, fun u bs => u.qbind (s.reg b).toNat bs),
           (.pcreate t a, s.reg a, 64, 256, fun u bs => u.pcreate bs),
           (.pgrant t a b 0, s.reg b, 1, 64, fun u bs => u.pgrant (s.reg a) (s.reg b) 0 bs),
           (.pgrant t a b 1, s.reg b, 1, 32, fun u bs => u.pgrant (s.reg a) (s.reg b) 1 bs),
           (.pgrant t a b 2, s.reg b, 1, 64, fun u bs => u.pgrant (s.reg a) (s.reg b) 2 bs),
           (.pgrant t a b 3, s.reg b, 1, 8, fun u bs => u.pgrant (s.reg a) (s.reg b) 3 bs),
           (.pgrant t a b 6, s.reg b, 1, 16, fun u bs => u.pgrant (s.reg a) (s.reg b) 6 bs)] →
        s.readHeld va = false → ∀ u v w sp bs, s.checked .read va align len = (u, .ok (w, sp)) →
          State.readSpans w sp u = (v, bs, none) → does i v (act v bs)) ∧
      does (.qbind t a b 1) s (s.qunbind (s.reg b).toNat) ∧
      does (.pgrant t a b 4) s (s.pgrant (s.reg a) (s.reg b) 4 []) ∧
      does (.pgrant t a b 5) s (s.pgrant (s.reg a) (s.reg b) 5 []) ∧
      (∀ u w sp p, s.globalHeld (s.reg b) = false → s.checked .write (s.reg b) 1 256 = (u, .ok (w, sp)) → s.reg a ≠ 0 →
        u.partAt (s.reg a).toNat = some p →
        does (.pgrant t a b 7) u (.ok ((u.write .sequencer w sp (u.partRecord p)).1, 0)))) ∧
    (s.mayIssue [a] t 2 →
      (∀ r, s.resvOf (s.reg a).toNat = some r → ∃ y, exec (.presv t a 1) s = .next y ∧
        s.began y t .lnch (.withdraw (s.reg a).toNat) ∧ ∀ x ∈ y.disp.resvs, x.num = (s.reg a).toNat → x.leaving = true) ∧
      (s.resvOf (s.reg a).toNat = none → does (.presv t a 1) s (.error ⟨0x27, 0, 0⟩)) ∧
      (∀ l, s.disp.lends.find? (fun l => l.num == (s.reg a).toNat) = some l → ∃ y, exec (.precall t a) s = .next y ∧
        s.began y t .lnch (.recall (s.reg a).toNat 0) ∧ (∀ x ∈ y.disp.lends, x.num ≠ (s.reg a).toNat) ∧
        ∀ n, n < 256 → l.cores.getLsbD n = true → (y.coreAt n).swapDue = true) ∧
      (s.disp.lends.find? (fun l => l.num == (s.reg a).toNat) = none → does (.precall t a) s (.error ⟨0x27, 0, 0⟩)))

/-- R310 to R317: what the blocks of partition instructions make; CONFLICT before BUSY is log entry 78. -/
def Obligations.PartitionActs : Prop :=
  ∀ (s : State) (bs : List Byte),
    let mask : BitVec 256 := BitVec.ofNat 256 (leNat bs)
    (∀ on, (∀ n, mask.getLsbD n = true → (s.partOf 0).cores.getLsbD n = true ∧ s.inUse n = false) →
      ∃ x k, s.slice on bs = .ok (x, k) ∧ k = ((List.range 256).filter (fun n => mask.getLsbD n && (s.coreAt n).sliced != on)).length ∧
        ∀ n, mask.getLsbD n = true → (x.coreAt n).sliced = on) ∧
    (∀ on n, n < 256 → mask.getLsbD n = true → (s.partOf 0).cores.getLsbD n = false →
      (∀ m < n, mask.getLsbD m = true → (s.partOf 0).cores.getLsbD m = true) → s.slice on bs = .error ⟨0x94, n, 0⟩) ∧
    (let budget := field bs 4 4
     let period := field bs 8 4
     let cores : BitVec 256 := BitVec.ofNat 256 (field bs 32 32)
     s.badOffer bs = none → (∀ n, cores.getLsbD n = true → s.sumOn (resvWeight budget period) n ≤ 65536) →
     ∀ num, s.freeResv = some num →
      ∃ x r, s.offer bs = .ok (x, num) ∧ x.disp.resvs = s.disp.resvs ++ [r] ∧ r.num = num ∧ r.part = field bs 0 1 ∧
        r.cores = cores ∧ ∀ n, cores.getLsbD n = true → r.budgetLeft n = 1900 * budget) ∧
    (let cores : BitVec 256 := BitVec.ofNat 256 (field bs 32 32)
     s.partAt (field bs 0 1) ≠ none → s.partAt (field bs 1 1) ≠ none → ((bs.drop 2).take 30).all (fun b => b == 0) = true →
     (∀ n, cores.getLsbD n = true → (s.partOf (field bs 0 1)).cores.getLsbD n = true ∧ (s.coreAt n).sliced = false ∧
      s.inUse n = false) →
     ∀ num, s.freeLend = some num →
      ∃ x, s.lend bs = .ok (x, num) ∧ x.disp.lends = s.disp.lends ++ [⟨num, field bs 0 1, field bs 1 1, cores⟩] ∧
        ∀ n, cores.getLsbD n = true → (x.coreAt n).sliced = true ∧ (x.coreAt n).half = true ∧
          (x.coreAt n).lent = some num) ∧
    (let p := partOfRecord bs
     s.badPart bs = none → s.partAt p.num = none → s.grantConflict p = none →
     (∀ n, p.cores.getLsbD n = true → s.notSpare n = false ∧ s.inUse n = false) →
      ∃ x, s.pcreate bs = .ok (x, p.num) ∧ x.partAt p.num = some p ∧
        (∀ n, p.cores.getLsbD n = true → x.coreAt n = Core.idle n) ∧
        (∀ n pa, p.cores.getLsbD n = true → inScratch n pa = true → x.mem.get pa = 0)) ∧
    (∀ (a b : Word) p, a ≠ 0 → s.partAt a.toNat = some p → s.outstanding p = none →
      ∃ x, s.pgrant a b 4 [] = .ok (x, 0) ∧ x.partAt a.toNat = none)

/-- R86, R299, R305, R307, R309: dispatch. -/
def Obligations.DispatchAdmitsAndCompletes : Prop :=
  ∀ (s : State),
    let u := s.readTails.settleMarks
    (∀ q w, u.toRefuse = some (q, w) → ∃ t, exec .dispatchAdmit s = .next t ∧
      t.disp.binds = u.disp.binds.map (fun b =>
        (b.1, if b.2.queue = q.bind.queue then { b.2 with head := b.2.head + 1, bypass := 0 } else b.2))) ∧
    (∀ q cores, u.toRefuse = none → u.writesDue = false →
      (let v := { u with disp := { u.disp with deficits := refill u.candidates u.disp.deficits } }
       v.pickRecord [] (v.disp.order v.candidates) = some (q, cores, [])) → cores.Nodup →
      let r := launchRec q.bytes
      let p := u.partOf q.bind.part
      ∃ t, exec .dispatchAdmit s = .next t ∧
        (∃ l ∈ t.disp.launches, l.lid = q.lid ∧ l.bound = true ∧ l.left = cores.length ∧ l.units = cores) ∧
        ∀ i n, cores[i]? = some n → (u.coreAt n).sliced = false →
          let k := (t.coreAt n).set
          k.unit = some (newUnit q r i u.cycle) ∧ k.seq.pc = BitVec.setWidth 64 r.entry ∧
          (∀ g, k.seq.read g = 0 ∧ k.seq.pending g = false ∧ k.seq.err g = .clear) ∧
          k.seq.level = (if p.num = 0 then 2 else 0) ∧ k.seq.tenant.base = p.tenantBase ∧ k.seq.device.base = p.deviceBase) ∧
    (∀ lid l, s.launch lid = some l → s.launchDone l = true → ∃ t, exec (.launchCompletion lid) s = .next t ∧
      (∀ x ∈ t.disp.launches, x.lid ≠ lid) ∧
      ∀ b, s.bindOf l.queue = some b → b.ring = l.ring → b.part = l.part → ∃ b', t.bindOf l.queue = some b' ∧ b'.done = b.done + 1)

/-- R314, R316, R318, R320, R332, R356; the frost of a set at a swap is log entry 82. -/
def Obligations.SlicingAndFreezing : Prop :=
  ∀ (s : State) (n : Nat),
    (∀ c, s.maySwap = true → s.core.lent = none → s.core.shadow = some c →
      ((lookup s.core.num s.disp.current).bind s.resvOf = none ∨
        ∃ r, (lookup s.core.num s.disp.current).bind s.resvOf = some r ∧ c.under r.num = true) →
      ∃ t, exec .shadowSwap s = .next t ∧ t.core.set = { c with parked := Parked.none } ∧
        t.core.shadow = some { s.core.set with parked := s.core.parking } ∧ t.core.frost = c.parked.frost ∧
        t.core.half = (!s.core.half) ∧ t.core.swapDue = false ∧ t.mem = s.mem) ∧
    (∀ r, s.resvOf n = some r → r.start + 1900 * r.period ≤ s.cycle →
      ∃ t, exec (.reservationPeriodStart n) s = .next t ∧ t.resvOf n = some { r with
        start := r.start + 1900 * r.period
        left := ((List.range 256).filter (fun c => r.cores.getLsbD c)).map (fun c => (c, 1900 * r.budget)) }) ∧
    (∀ r, s.resvOf n = some r → s.spentOn r = true → (∀ x ∈ s.disp.resvs, x.num = n → x = r) →
      ∃ t, exec (.reservationBudgetSpent n) s = .next t ∧
        ∀ c < 256, r.cores.getLsbD c = true → r.budgetLeft c = 0 → lookup c t.disp.current ≠ some n) ∧
    (∀ e rest, s.disp.streaming = e :: rest → ∃ t, exec .setStreamEnd s = .next t ∧ t.disp.streaming = rest ∧
      t.coreAt e.1 = Core.idle e.1 ∧
      (e.2.2.unit ≠ none → t.disp.suspended = s.disp.suspended ++ [(e.2.1, e.2.2)])) ∧
    (∀ e m, s.disp.suspended[n]? = some e → s.resumeCore e.1 = some m →
      ∃ t, exec (.suspendedUnitResume n) s = .next t ∧ t.disp.suspended = s.disp.suspended.eraseIdx n ∧
        ∃ resv, let unit := e.2.unit.map (fun u => { u with under := resv })
        ((s.coreAt m).set.unit = none → (t.coreAt m).set = { e.2 with parked := Parked.none, unit := unit }) ∧
        ((s.coreAt m).set.unit ≠ none → (s.coreAt m).shadow.bind (fun c => c.unit) = none →
          ∃ c, (t.coreAt m).shadow = some c ∧ c.seq = e.2.seq ∧ c.unit = unit) ∧
        ((s.coreAt m).set.unit ≠ none → (s.coreAt m).shadow.bind (fun c => c.unit) ≠ none →
          ∃ x ∈ t.disp.stored, x.1 = m ∧ x.2.2.seq = e.2.seq ∧ x.2.2.unit = unit)) ∧
    (∀ p rate, s.partAt n = some p →
      (∃ t p', exec (.tensionRateChange n rate) s = .next t ∧ t.partAt n = some p' ∧ p'.rateNow = min rate p.rate) ∧
      (∃ t p', exec (.coolantOver65 n rate) s = .next t ∧ t.partAt n = some p' ∧
        p'.rateNow = min (min rate p.rateNow) p.rate)) ∧
    (∃ t, exec .coolantOver75 s = .next t ∧ ∀ c < 256, (t.coreAt c).frost ≠ .thawed ∧ (t.coreAt c).frost ≠ .thawing) ∧
    (s.core.frost = .freezing → s.atFreezePoint = true → ∃ t, exec .coreFreeze s = .next t ∧ t.core.frost = .draining) ∧
    (s.core.frost = .draining → s.requestsOut s.core.set = false → ∃ t, exec .coreFreeze s = .next t ∧ t.core.frost = .frozen)

/-- R336 to R343: DBG instructions. The core field 0xFF, and RANGE before NOCFG in TSRD, are log entry 84. -/
def Obligations.DebugInstructionsComplete : Prop :=
  ∀ (s : State) (t a b : Reg) (q : BitVec 1) (r : BitVec 2),
    let fails (i : Instr) (n core : Nat) : Prop :=
      exec i s = .next ((s.later t .other (BitVec.ofNat 64 (2 ^ 63 + core * 256 + n)) .clear 1).advance)
    let ends (i : Instr) (v : Word) (n : Nat) (p : State → Prop) : Prop := ∃ y o, exec i s = .next y ∧
      o ∈ y.core.set.ops ∧ o.t = t ∧ o.wait = .ready v .clear (s.cycle + n) ∧ y.seq.pc = s.seq.pc + 4 ∧ p y
    (s.mayIssue [a] t 1 →
      (∀ e, s.named (q == 1) (s.reg a) = .error e →
        fails (.freeze t a q) e.1 e.2 ∧ fails (.thawResume t a q) e.1 e.2 ∧ fails (.thawVacate t a q) e.1 e.2) ∧
      (∀ l lid, s.named (q == 1) (s.reg a) = .ok (l, lid) →
        (∃ y, exec (.freeze t a q) s = .next y ∧ s.began y t .other (.frost l lid false) ∧
          ∀ n ∈ l, s.acts lid (s.coreAt n) (s.coreAt n).set = true →
            (y.coreAt n).frost ≠ .thawed ∧ (y.coreAt n).frost ≠ .thawing) ∧
        (∀ n, l.find? (fun n => !s.frozenAt lid n) = some n →
          fails (.thawResume t a q) 0xA1 n ∧ fails (.thawVacate t a q) 0xA1 n) ∧
        ((∀ n ∈ l, s.frozenAt lid n = true) →
          (∃ y go, exec (.thawResume t a q) s = .next y ∧ s.began y t .other (.frost go lid true) ∧
            ∀ n ∈ l, s.lockedAt lid n = false → s.acts lid (s.coreAt n) (s.coreAt n).set = true → n ∈ go ∧
              (y.coreAt n).frost = if (s.coreAt n).set.fab.running = none then .thawed else .thawing) ∧
          ((∀ n ∈ l, ∀ c ∈ s.actsOn lid n, c.2.skouted = true) →
            ends (.thawVacate t a q) (BitVec.ofNat 64 l.length) 1
              (fun y => ∀ n ∈ l, (s.coreAt n).sliced = false → y.coreAt n = Core.idle n)))) ∧
      (∀ u v w sp bs x, s.readHeld (s.reg a) = false → s.checked .read (s.reg a) 1 32 = (u, .ok (w, sp)) →
        State.readSpans w sp u = (v, bs, none) → traceOf bs = some x →
        ∃ z, ends (.trcon t a) z 1 (fun y => y.core.trace = some x)) ∧
      (s.core.set.fab.running = none → fails (.walk t a) 0x22 0xFF) ∧
      (∀ im, s.core.set.fab.running = some im → (s.reg a).toNat % 2048 ≠ 0x7FF →
        ends (.walk t a) (im.stopWord (s.walkOn im (Config.freeWord s.free).toNat 65 false ((s.reg a).setWidth 11) none [] 0))
          1 (fun _ => True))) ∧
    (s.mayIssue [] t 1 →
      (s.core.hold = .none → fails (.thawReleaseHold t) 0xA5 0xFF) ∧
      (s.core.hold = .held → s.core.set.fab.running ≠ none → ∃ y, exec (.thawReleaseHold t) s = .next y ∧
        s.began y t .other .unhold ∧ y.core.hold = .leaving) ∧
      (s.core.trace = none → exec (.trcoff t) s = .next ((s.later t .other 0 .clear 1).advance)) ∧
      (∀ x, s.core.trace = some x → x.staged = [] → ends (.trcoff t)
        (BitVec.ofNat 64 (min x.written (2 ^ 32 - 1) + min x.dropped (2 ^ 32 - 1) * 2 ^ 32)) 1 (fun y => y.core.trace = none))) ∧
    (s.mayIssue [a, b] t 1 →
      ((s.reg b).toNat ≥ 2 ^ 48 → fails (.brkn t a b r) 0x27 0xFF) ∧
      ((s.reg b).toNat < 2 ^ 48 → ∃ v, ends (.brkn t a b r) v 1 (fun y => y.core.breaks[r.toNat]? =
        some (if (s.reg a).setWidth 32 = (0xFFFFFFFF : BitVec 32) then none
          else some ⟨(s.reg a).setWidth 32, s.reg b, BitVec.ofNat 8 ((s.reg b).toNat / 256 % 256)⟩))) ∧
      (∀ u n c p half, s.globalHeld (s.reg b) = false → (s.reg a).toNat = n →
        (∃ x, s.checked .write (s.reg b) 64 320 = (u, .ok x)) →
        u.coreArg (s.reg a) = .ok n → u.frozenAt none n = true → u.skeinSet n = some (c, p, half) →
        let bs := u.skeinBytes n (u.coreAt n).sliced c
        ∀ v window spans, u.resolve .write (s.reg b).toNat bs.length = (v, .ok (window, spans)) →
        let w := (v.write .sequencer window spans bs).1
        ends (.skout t a b) (BitVec.ofNat 64 bs.length) 1 (fun y => y.mem = w.mem ∧
          y.net = { w.net with nextId := w.net.nextId + 1 } ∧
          y.host.skeins = ⟨bs, v.skeinCore n half c p⟩ :: v.host.skeins)) ∧
      (∀ u v w sp head n, s.readHeld (s.reg b) = false → s.checked .read (s.reg b) 64 320 = (u, .ok (w, sp)) →
        u.skinCore (s.reg a) = .ok n → State.readSpans w sp u = (v, head, none) →
        let len := field head 0x10 4
        bitAt (field head 7 1) 0 = (v.coreAt n).sliced → 320 ≤ len → len ≤ skeinMax →
        ∀ x y w' sp' bs sk, v.resolve .read (s.reg b).toNat len = (x, .ok (w', sp')) →
          State.readSpans w' sp' x = (y, bs, none) → y.skeinOf bs = some sk →
          ((y.coreAt n).sliced = false → ends (.skin t a b) (BitVec.ofNat 64 len) 1 (fun z => (z.coreAt n).frost = .frozen ∧
            (z.coreAt n).set.seq = sk.core.set.seq ∧ (z.coreAt n).set.unit = sk.core.set.unit)) ∧
          ((y.coreAt n).sliced = true → ends (.skin t a b) (BitVec.ofNat 64 len) 1 (fun z =>
            let placed : List (CSet × Parked) := (z.coreAt n).placed ++
              (z.disp.stored.filter (fun e => e.1 == n)).map (fun e => (e.2.2, e.2.2.parked))
            ∃ e ∈ placed, e.2.frost = .frozen ∧ e.1.seq = sk.core.set.seq ∧
              e.1.unit.map (fun u => u.index) = sk.core.set.unit.map (fun u => u.index))))) ∧
    (s.mayIssue [] t 0 →
      ends (.tsrd t 0 0) (s.part.toff + BitVec.ofNat 64 (s.cycle * s.part.tscale.toNat / 2 ^ 32)) 2 (fun _ => True) ∧
      ends (.tsrd t 0 1) (BitVec.ofNat 64 (s.unit.activeCyc * s.part.tscale.toNat / 2 ^ 32)) 2 (fun _ => True) ∧
      ends (.tsrd t 0 2) s.core.set.errCount 2 (fun _ => True)) ∧
    (r ≠ 3 → a ≠ 0 → exec (.tsrd t a r) s = .next (s.trap 0x01 (wordOf (.tsrd t a r)))) ∧
    (s.mayIssue [a] t 0 →
      (let w := (s.reg a).toNat
       let x : Target := (s.reg a).setWidth 11
       (w ≥ 2 ^ 13 ∨ w / 2 ^ 11 = 3 ∨ channelTarget x = false → fails (.tsrd t a 3) 0x27 0xFF) ∧
       (w < 2 ^ 13 → w / 2 ^ 11 ≠ 3 → channelTarget x = true → s.core.set.fab.running ≠ none →
         ends (.tsrd t a 3) (BitVec.ofNat 64 (s.core.set.fab.channel x (w / 2 ^ 11))) 2 (fun _ => True))))

/-! ### Fabric firings (R120 to R123, R134 to R142, R148, R149, R366) -/

/-- R136: integer lanes. -/
def Obligations.IntegerLaneFirings : Prop :=
  ∀ (s : State) (im : Image) (r : SlotRec) (x : Taken) (m : BitVec 2) (tx ty : Target),
    let bad (e : Token) : Token := ⟨⟨x.l.tag.stitch, .error, x.l.tag.pred, x.last, e.tag.cause⟩, 0⟩
    let fires (i : Instr) (w : Nat) (f : Nat → Payload → Prop) : Prop := s.fires i im r x →
      (∀ e, x.list.find? Token.isError = some e → s.firesWith i im r x [(tx, bad e), (ty, bad e)]) ∧
      (x.list.find? Token.isError = none → ∃ p : Payload, (∀ j < 1024 / w, f j p) ∧
        let tok : Token := ⟨⟨x.l.tag.stitch, .data, x.l.tag.pred, x.last, 0⟩, p⟩
        s.firesWith i im r x [(tx, tok), (ty, tok)])
    (∀ w, w = intWidth m →
      ∀ (i : Instr) (f : BitVec w → BitVec w → BitVec w → BitVec w → BitVec w), (i, f) ∈
          ([(Instr.vadd m tx ty, fun a b _ _ => a + b), (.vsub m tx ty, fun a b _ _ => a - b),
           (.vmul m tx ty, fun a b _ _ => a * b), (.vmad m tx ty, fun a b c _ => a * b + c),
           (.vmin m tx ty, fun a b _ _ => if a.toInt < b.toInt then a else b),
           (.vmax m tx ty, fun a b _ _ => if b.toInt < a.toInt then a else b),
           (.vminu m tx ty, fun a b _ _ => if a.toNat < b.toNat then a else b),
           (.vmaxu m tx ty, fun a b _ _ => if b.toNat < a.toNat then a else b),
           (.vand m tx ty, fun a b _ _ => a &&& b), (.vor m tx ty, fun a b _ _ => a ||| b),
           (.vxor m tx ty, fun a b _ _ => a ^^^ b), (.vshl m tx ty, fun a b _ _ => a <<< (b.toNat % w)),
           (.vshr m tx ty, fun a b _ _ => a >>> (b.toNat % w)),
           (.vsra m tx ty, fun a b _ _ => a.sshiftRight (b.toNat % w)),
           (.vabs m tx ty, fun a _ _ _ => if a.toInt < 0 then -a else a), (.vneg m tx ty, fun a _ _ _ => -a),
           (.vaddk m tx ty, fun a _ _ k => a + k), (.vmulk m tx ty, fun a _ _ k => a * k),
           (.vsgadd m tx ty, fun a b c _ => if c = 1 then a + b else if c = BitVec.allOnes w then a - b else a),
           (.vadds m tx ty, fun a b _ _ => BitVec.ofInt w (max (-(2 ^ (w - 1))) (min (2 ^ (w - 1) - 1) (a.toInt + b.toInt)))),
           (.vsubs m tx ty, fun a b _ _ => BitVec.ofInt w (max (-(2 ^ (w - 1))) (min (2 ^ (w - 1) - 1) (a.toInt - b.toInt))))] :
            List (Instr × (BitVec w → BitVec w → BitVec w → BitVec w → BitVec w))) →
        fires i w (fun j p => p.extractLsb' (w * j) w = f (x.l.payload.extractLsb' (w * j) w) (x.rp.extractLsb' (w * j) w)
          (x.pp.extractLsb' (w * j) w) (BitVec.ofNat w r.konst.toNat))) ∧
    fires (.vdot4 tx ty) 32 (fun j p =>
      let byte (v : Payload) (b : Nat) : BitVec 8 := v.extractLsb' (32 * j + 8 * b) 8
      let left (b : Nat) : Int := if r.konst.getLsbD 0 then (byte x.l.payload b).toNat else (byte x.l.payload b).toInt
      p.extractLsb' (32 * j) 32 = BitVec.ofInt 32 (left 0 * (byte x.rp 0).toInt + left 1 * (byte x.rp 1).toInt
        + left 2 * (byte x.rp 2).toInt + left 3 * (byte x.rp 3).toInt))

/-- R137: floating-point lanes. -/
def Obligations.FloatLaneFirings : Prop :=
  ∀ (s : State) (im : Image) (r : SlotRec) (x : Taken) (m : BitVec 2) (tx ty : Target),
    let bad (e : Token) : Token := ⟨⟨x.l.tag.stitch, .error, x.l.tag.pred, x.last, e.tag.cause⟩, 0⟩
    let fires (i : Instr) (w : Nat) (f : Nat → Nat) : Prop := s.fires i im r x →
      (∀ e, x.list.find? Token.isError = some e → s.firesWith i im r x [(tx, bad e), (ty, bad e)]) ∧
      (x.list.find? Token.isError = none → ∃ p : Payload, (∀ j < 1024 / w, (p.extractLsb' (w * j) w).toNat = f j % 2 ^ w) ∧
        let tok : Token := ⟨⟨x.l.tag.stitch, .data, x.l.tag.pred, x.last, 0⟩, p⟩
        s.firesWith i im r x [(tx, tok), (ty, tok)])
    let g := fpFormat m
    let w := g.width
    let k := r.konst.toNat
    let fl (a : Nat) : Nat := g.flush (r.konst.getLsbD 0) a
    let a (j : Nat) : Nat := (x.l.payload.extractLsb' (w * j) w).toNat
    let b (j : Nat) : Nat := (x.rp.extractLsb' (w * j) w).toNat
    let c (j : Nat) : Nat := (x.pp.extractLsb' (w * j) w).toNat
    let dec (n : Nat) : FVal := g.decode (fl n)
    fires (.fadd m tx ty) w (fun j => fl (g.rne ((dec (a j)).add (dec (b j))))) ∧
    fires (.fsub m tx ty) w (fun j => fl (g.rne ((dec (a j)).add (dec (b j)).neg))) ∧
    fires (.fmul m tx ty) w (fun j => fl (g.rne ((dec (a j)).mul (dec (b j))))) ∧
    fires (.fma m tx ty) w (fun j => fl (g.rne (((dec (a j)).mul (dec (b j))).add (dec (c j))))) ∧
    (∀ i f, (i, f) ∈ [(Instr.fmax m tx ty, FFmt.max), (.fmin m tx ty, FFmt.min)] →
      fires i w (fun j => fl (f g (fl (a j)) (fl (b j))))) ∧
    (∀ i f, (i, f) ∈ [(Instr.frcp m tx ty, FFmt.rcp), (.frsq m tx ty, FFmt.rsq), (.fexp2 m tx ty, FFmt.exp2),
        (.flog2 m tx ty, FFmt.log2)] → fires i w (fun j => fl (f g (fl (a j))))) ∧
    (let kv := if m = 0 then k else k % 65536
     let fk (n : Nat) : Nat := g.flush (decide (m ≠ 0) && r.konst.getLsbD 16) n
     fires (.faddk m tx ty) w (fun j => fk (g.rne ((g.decode (fk (a j))).add (g.decode (fk kv))))) ∧
     fires (.fmulk m tx ty) w (fun j => fk (g.rne ((g.decode (fk (a j))).mul (g.decode (fk kv)))))) ∧
    fires (.fabs m tx ty) w (fun j => g.abs (a j)) ∧ fires (.fneg m tx ty) w (fun j => g.neg (a j)) ∧
    (m = 0 → fires (.fmac m tx ty) 32 (fun j => fl (g.rne (((dec (a j)).mul (dec (b j))).add (dec (c j)))))) ∧
    (m ≠ 0 → fires (.fmac m tx ty) 32 (fun j =>
      let z := r.konst.getLsbD 0
      let at16 (q : Payload) (n : Nat) : FVal := g.decode (g.flush z (q.extractLsb' (16 * n) 16).toNat)
      fp32.flush z (fp32.rne (.sum [fp32.decode (fp32.flush z (x.pp.extractLsb' (32 * j) 32).toNat),
        (at16 x.l.payload (2 * j)).mul (at16 x.rp (2 * j)), (at16 x.l.payload (2 * j + 1)).mul (at16 x.rp (2 * j + 1))]))))

/-- R138 to R141: conversions, bytes and lanes. -/
def Obligations.ConversionAndLaneFirings : Prop :=
  (∀ (s : State) (im : Image) (r : SlotRec) (x : Taken) (h : BitVec 1) (tx ty : Target),
    let k := r.konst.toNat
    let l := x.l.payload
    let tag (kind : TokKind) (c : BitVec 6) : Tag := ⟨x.l.tag.stitch, kind, x.l.tag.pred, x.last, c⟩
    ∀ (i : Instr) (tok : Token), (i, tok) ∈
        [(Instr.cvt tx ty, match cvtPayload k l with | some p => ⟨tag .data 0, p⟩ | none => ⟨tag .error 0x0A, 0⟩),
         (.b3dec tx ty, match b3decPayload k l with
            | (p, false) => ⟨tag .data 0, p⟩
            | (p, true) => ⟨tag .error 0x05, p⟩),
         (.bperm tx ty, ⟨tag .data 0, bpermPayload l x.rp⟩), (.nibx h tx ty, ⟨tag .data 0, nibxPayload (h == 1) l⟩),
         (.pack tx ty, ⟨tag .data 0, packPayload k l x.rp⟩), (.unpk tx ty, ⟨tag .data 0, unpkPayload k l⟩),
         (.masksel tx ty, ⟨tag .data 0, maskselPayload l x.rp⟩), (.lsum tx ty, ⟨tag .data 0, lsumPayload k l⟩),
         (.lmax tx ty, ⟨tag .data 0, lmaxPayload k l⟩), (.largmax tx ty, ⟨tag .data 0, largmaxPayload k l⟩),
         (.lbcast tx ty, ⟨tag .data 0, lbcastPayload k l⟩), (.lrot tx ty, ⟨tag .data 0, lrotPayload k l⟩),
         (.lscan tx ty, ⟨tag .data 0, lscanPayload k l⟩), (.onehot tx ty, ⟨tag .data 0, onehotPayload k l⟩),
         (.lextr tx ty, ⟨tag .data 0, lextrPayload k l x.rp⟩)] →
      s.fires i im r x →
      (∀ e, x.list.find? Token.isError = some e →
        let bad : Token := ⟨tag .error e.tag.cause, 0⟩
        s.firesWith i im r x [(tx, bad), (ty, bad)]) ∧
      (x.list.find? Token.isError = none → s.firesWith i im r x [(tx, tok), (ty, tok)])) ∧
  (∀ (l q : Payload) (k : Nat), k < 2 ^ 32 →
    let w := if k % 4 = 0 then 32 else if k % 4 = 1 then 16 else 8
    let n := 1024 / w
    let at0 (w : Nat) (p : Payload) (j : Nat) : Nat := p.toNat / 2 ^ (w * j) % 2 ^ w
    (∀ j < 128, at0 8 (bpermPayload l q) j = if at0 8 q j < 128 then at0 8 l (at0 8 q j) else 0) ∧
    (∀ j < 128, (nibxPayload false l).extractLsb' (8 * j) 8 = ((l.extractLsb' (8 * j) 4).signExtend 8) ∧
      (nibxPayload true l).extractLsb' (8 * j) 8 = ((l.extractLsb' (8 * j + 4) 4).signExtend 8)) ∧
    (∀ j < 32, at0 32 (maskselPayload l q) j = if q.getLsbD j then at0 32 l j else 0xFF800000) ∧
    (∀ j < n, at0 w (lbcastPayload k l) j = at0 w l (k / 2 ^ 4 % 2 ^ 7 % n)) ∧
    (∀ j < n, let g := min (2 ^ (k / 2 ^ 12 % 8)) n
      at0 w (lrotPayload k l) j = at0 w l (j / g * g + (j % g + g - k / 2 ^ 4 % 2 ^ 7 % g) % g)) ∧
    (k / 4 % 2 = 0 →
      lsumPayload k l = BitVec.ofNat 1024 ((((List.range n).map (at0 w l)).foldl (· + ·) 0) % 2 ^ w) ∧
      ∀ j < n, at0 w (lscanPayload k l) j = (((List.range (j + 1)).map (at0 w l)).foldl (· + ·) 0) % 2 ^ w) ∧
    (∀ j < 32, at0 32 (onehotPayload k l) j = if at0 32 l 0 = j then k else 0) ∧
    lextrPayload k l q = BitVec.ofNat 1024 (at0 w l ((if k / 2 ^ 11 % 2 = 1 then at0 32 q 0 else k / 2 ^ 4 % 2 ^ 7) % n)) ∧
    (let src := k % 16
     let dst := k / 2 ^ 4 % 16
     let part := k / 2 ^ 11 % 4
     let sb := fmtBits src
     let db := fmtBits dst
     let ns := 1024 / sb
     let nd := 1024 / db
     let cvt (i : Nat) : Nat := fmtEncode dst (Mode.ofCode (k / 2 ^ 8 % 4)) (k / 2 ^ 10 % 2 == 0) (fmtValue src (at0 sb l i)) % 2 ^ db
     ((6 < src ∨ 6 < dst) → cvtPayload k l = none) ∧
     (src ≤ 6 → dst ≤ 6 → ∃ p, cvtPayload k l = some p ∧
       (nd ≤ ns → ∀ i < nd, at0 db p i = cvt (part % (ns / nd) * nd + i)) ∧
       (ns < nd → let first := part % (nd / ns) * ns
         ∀ i < nd, at0 db p i = if first ≤ i ∧ i < first + ns then cvt (i - first) else 0))) ∧
    (let wide : Bool := k / 2 ^ 7 % 2 == 1
     let count := if wide then 6 else 25
     let dw := if wide then 32 else 8
     let byte (j : Nat) : Nat := if k % 128 + j < 128 then at0 8 l (k % 128 + j) else 0
     let digit (b i : Nat) : Nat := if 243 ≤ b then 0 else if b / 3 ^ i % 3 = 2 then 2 ^ dw - 1 else b / 3 ^ i % 3
     (∀ m < 1024 / dw, at0 dw (b3decPayload k l).1 m = if m < 5 * count then digit (byte (m / 5)) (m % 5) else 0) ∧
     ((b3decPayload k l).2 = true ↔ ∃ j < count, 243 ≤ byte j)) ∧
    (k % 4 < 2 → k / 4 % 4 < 3 →
      let h := w / 2
      let narrow (x : Nat) : Nat :=
        if k / 4 % 4 = 0 then x % 2 ^ h
        else if k / 4 % 4 = 1 then (max (-(2 ^ (h - 1) : Int)) (min (2 ^ (h - 1) - 1) (sintOf w x)) % (2 ^ h : Int)).toNat
        else (max 0 (min (2 ^ h - 1 : Int) (sintOf w x))).toNat
      ∀ j < n, at0 h (packPayload k l q) j = narrow (at0 w l j) ∧ at0 h (packPayload k l q) (n + j) = narrow (at0 w q j)) ∧
    (k % 4 < 3 →
      let sw := if k % 4 = 0 then 16 else 8
      let dw := if k % 4 = 1 then 16 else 32
      let part := k / 4 % 4 % (dw / sw)
      ∀ j < 1024 / dw, let x := at0 sw l (part * (1024 / dw) + j)
        at0 dw (unpkPayload k l) j = if k / 2 ^ 4 % 2 = 1 then (sintOf sw x % (2 ^ dw : Int)).toNat else x) ∧
    (k / 4 % 2 = 0 →
      (∃ i < n, (∀ j < n, sintOf w (at0 w l j) ≤ sintOf w (at0 w l i)) ∧ lmaxPayload k l = BitVec.ofNat 1024 (at0 w l i)) ∧
      (∃ i < n, (∀ j < n, sintOf w (at0 w l j) ≤ sintOf w (at0 w l i)) ∧
        (∀ j < i, sintOf w (at0 w l j) < sintOf w (at0 w l i)) ∧
        largmaxPayload k l = BitVec.ofNat 1024 (i + k / 2 ^ 16 + 2 ^ 32 * (sintOf w (at0 w l i) % (2 ^ 32 : Int)).toNat))) ∧
    (k % 8 = 4 →
      let v (j : Nat) : FVal := fp32.decode (at0 32 l j)
      let plus (a b : Nat) : Nat := fp32.rne ((fp32.decode a).add (fp32.decode b))
      ((∀ j < 32, (v j).isNan = true) → lmaxPayload k l = BitVec.ofNat 1024 fp32.nan ∧
        largmaxPayload k l = BitVec.ofNat 1024 (0xFFFFFFFF + 2 ^ 32 * fp32.nan)) ∧
      ((∃ j < 32, (v j).isNan = false) →
        (∃ i < 32, (v i).isNan = false ∧ (∀ j < 32, (v i).ltSigned (v j) = false) ∧
          lmaxPayload k l = BitVec.ofNat 1024 (at0 32 l i)) ∧
        (∃ i < 32, (v i).isNan = false ∧ (∀ j < 32, (v i).lt (v j) = false) ∧
          (∀ j < i, (v j).isNan = false → (v j).lt (v i) = true) ∧
          largmaxPayload k l = BitVec.ofNat 1024 (i + k / 2 ^ 16 + 2 ^ 32 * at0 32 l i))) ∧
      (∃ T : Nat → Nat → Nat, (∀ i, T 0 i = at0 32 l i) ∧ (∀ m i, T (m + 1) i = plus (T m (2 * i)) (T m (2 * i + 1))) ∧
        lsumPayload k l = BitVec.ofNat 1024 (T 5 0 % 2 ^ 32)) ∧
      (∃ S : Nat → Nat, S 0 = (if (v 0).isNan then fp32.nan else at0 32 l 0) ∧ (∀ i, S (i + 1) = plus (at0 32 l (i + 1)) (S i)) ∧
        ∀ i < 32, at0 32 (lscanPayload k l) i = S i % 2 ^ 32)))

/-- R140, R142, R148, R149: control and plumbing. -/
def Obligations.ControlFirings : Prop :=
  ∀ (s : State) (im : Image) (r : SlotRec) (x : Taken) (tx ty : Target),
    let k := r.konst.toNat
    let l := x.l
    let tok (kind : TokKind) (p : Bool) (c : BitVec 6) (v : Payload) : Token := ⟨⟨l.tag.stitch, kind, p, x.last, c⟩, v⟩
    let both (i : Instr) (t : Token) : Prop := s.fires i im r x → s.firesWith i im r x [(tx, t), (ty, t)]
    let ok := x.list.find? Token.isError = none
    (∀ e, x.list.find? Token.isError = some e →
      let bad := tok .error l.tag.pred e.tag.cause 0
      let new := (if k / 2 ^ 6 % 2 = 1 then lane32 x.rp 0 else k % 64) % im.P
      (∀ i ∈ [Instr.ordj tx ty, .dup tx ty, .delay tx ty, .sink tx ty, .idx tx ty, .cnt tx ty, .eor tx ty], both i bad) ∧
      (im.reads r ≠ [] → both (.const tx ty) bad) ∧
      both (.stitch tx ty) ⟨{ bad.tag with stitch := BitVec.ofNat 6 new }, 0⟩ ∧
      both (.pnot tx ty) (tok .error (!l.tag.pred) e.tag.cause 0) ∧
      (x.predError = true → ∀ i ∈ [Instr.steer tx ty, .gate tx ty], s.fires i im r x → s.firesWith i im r x [(tx, bad)]) ∧
      (s.fires (.vcmp tx ty) im r x → ∃ p, s.firesWith (.vcmp tx ty) im r x
        [(tx, tok .error p e.tag.cause 0), (ty, tok .error p e.tag.cause 0)])) ∧
    (let w := if k / 2 % 4 = 0 then 32 else if k / 2 % 4 = 1 then 16 else 8
     let at0 (p : Payload) (j : Nat) : Nat := p.toNat / 2 ^ (w * j) % 2 ^ w
     ∀ a b : Bool, (k % 2 = 0 → a = x.pred ∧ b = !x.pred) →
      (k % 2 = 1 → (a = true ↔ ∃ j < 1024 / w, at0 x.pp j ≠ 0) ∧ (b = true ↔ ∃ j < 1024 / w, at0 x.pp j = 0)) →
      let used := (if a then [l] else []) ++ (if b then x.r.toList else []) ++ x.p.toList
      (∀ e, used.find? Token.isError = some e → both (.sel tx ty) (tok .error l.tag.pred e.tag.cause 0)) ∧
      (used.find? Token.isError = none → s.fires (.sel tx ty) im r x → ∃ p : Payload,
        (k % 2 = 0 → p = if x.pred then l.payload else x.rp) ∧
        (k % 2 = 1 → ∀ j < 1024 / w, at0 p j = if at0 x.pp j ≠ 0 then at0 l.payload j else at0 x.rp j) ∧
        s.firesWith (.sel tx ty) im r x [(tx, tok .data l.tag.pred 0 p), (ty, tok .data l.tag.pred 0 p)])) ∧
    (l.isData = false → (ok → both (.cnt tx ty) l ∧ both (.eor tx ty) (tok l.tag.kind l.tag.pred 0 l.payload)) ∧
      ∀ i ∈ [Instr.cnt tx ty, .eor tx ty],
      (s.fires i im r x → ∃ u, exec i s = .next u ∧ u.core.set.fab.counts = s.core.set.fab.counts ∧
        u.core.set.fab.eorDue = s.core.set.fab.eorDue)) ∧
    (ok →
      both (.vcmp tx ty) (tok .data (vcmpPayload k l.payload x.rp).2 0 (vcmpPayload k l.payload x.rp).1) ∧
      (let kept := tok l.tag.kind l.tag.pred 0 l.payload
       (∀ i ∈ [Instr.ordj tx ty, .dup tx ty, .delay tx ty], both i kept) ∧
       (s.fires (.steer tx ty) im r x → s.firesWith (.steer tx ty) im r x [(if x.pred then tx else ty, kept)]) ∧
       (s.fires (.gate tx ty) im r x →
        s.firesWith (.gate tx ty) im r x (if x.pred then [(tx, kept), (ty, kept)] else [])) ∧
       (s.fires (.sink tx ty) im r x →
        s.firesWith (.sink tx ty) im r x (if l.tag.last then [(tx, kept), (ty, kept)] else [])) ∧
       (im.reads r ≠ [] → both (.const tx ty) (tok l.tag.kind l.tag.pred 0 (constPayload k))) ∧
       (let new := (if k / 2 ^ 6 % 2 = 1 then lane32 x.rp 0 else k % 64) % im.P
        both (.stitch tx ty) ⟨{ kept.tag with stitch := BitVec.ofNat 6 new }, l.payload⟩)) ∧
      both (.pnot tx ty) (tok .data (!l.tag.pred) 0 l.payload) ∧
      both (.idx tx ty) (if inBounds k l.payload then tok .data true 0 l.payload else tok .error false 0x01 l.payload) ∧
      (l.isData = true → s.fires (.cnt tx ty) im r x →
        let n := s.core.set.fab.count0 r.num l.k
        s.firesWith (.cnt tx ty) im r x [(tx, tok .data l.tag.pred 0 (withLane0 l.payload n.toNat)),
          (ty, tok .data l.tag.pred 0 (withLane0 l.payload n.toNat))] ∧
        ∀ u, exec (.cnt tx ty) s = .next u → u.core.set.fab.count0 r.num l.k =
          if k % 65536 = 0 then n + 1 else BitVec.ofNat 32 ((n.toNat + 1) % (k % 65536))) ∧
      (l.isData = true → s.fires (.eor tx ty) im r x →
        let n := if k % 65536 = 0 then 65536 else k % 65536
        let v := (s.core.set.fab.count0 r.num l.k).toNat + 1
        (v < n → s.firesWith (.eor tx ty) im r x [(tx, tok .data l.tag.pred 0 l.payload), (ty, tok .data l.tag.pred 0 l.payload)] ∧
          ∀ u, exec (.eor tx ty) s = .next u → (u.core.set.fab.count0 r.num l.k).toNat = v) ∧
        (v ≥ n → ∀ u, exec (.eor tx ty) s = .next u → u.core.set.fab.count0 r.num l.k = 0 ∧
          (∃ p : Bool, u.core.set.fab.eorDue =
            s.core.set.fab.eorDue ++ [(r.num, (⟨⟨l.tag.stitch, .endOfReduction, p, l.tag.last, 0⟩, 0⟩ : Token))]) ∧
          ∀ g ∈ [tx, ty], g ≠ noTarget → u.sends g ⟨⟨l.tag.stitch, .data, l.tag.pred, false, 0⟩, l.payload⟩))) ∧
    (s.core.set.fab.running = some im → s.core.fabricRuns s.cycle = true → im.slot s.firing = some r →
      let sendsBoth (u : State) (t : Token) : Prop := (tx ≠ noTarget → u.sends tx t) ∧ (ty ≠ noTarget → u.sends ty t)
      (∀ e, r.instr = some (.eor tx ty) → s.core.set.fab.eorDue.find? (fun e => e.1 == r.num) = some e →
        s.core.set.mayFire im s.cycle r = true → ∃ u, exec (.eor tx ty) s = .next u ∧ sendsBoth u e.2 ∧
          u.core.set.fab.eorDue = s.core.set.fab.eorDue.erase e) ∧
      (∀ g t, r.instr = some (.merge tx ty) → s.core.set.fab.pickMerge r.num = some (g, t) →
        s.core.set.mayFire im s.cycle r = true → t.isError = false → ∃ u, exec (.merge tx ty) s = .next u ∧
          sendsBoth u ⟨{ t.tag with cause := 0 }, t.payload⟩ ∧ u.core.set.fab.held = removeHeld g t.k s.core.set.fab.held) ∧
      (∀ g t, r.instr = some (.merge tx ty) → s.core.set.fab.pickMerge r.num = some (g, t) →
        s.core.set.mayFire im s.cycle r = true → t.isError = true → ∃ u, exec (.merge tx ty) s = .next u ∧
          sendsBoth u ⟨t.tag, 0⟩ ∧ u.core.set.fab.held = removeHeld g t.k s.core.set.fab.held) ∧
      (r.instr = some (.const tx ty) → im.reads r = [] → s.core.set.fab.consts.contains (r.num, s.cycle % im.P) = true →
        s.core.set.maySend (s.cycle % im.P) .held = true → s.core.set.fab.fired.contains (elementOf r.num) = false →
        s.core.set.fab.roomFor (.const tx ty) = true → ∃ u p, exec (.const tx ty) s = .next u ∧
          sendsBoth u ⟨⟨BitVec.ofNat 6 (s.cycle % im.P), .data, p, false, 0⟩, constPayload k⟩ ∧
          u.core.set.fab.consts = s.core.set.fab.consts.erase (r.num, s.cycle % im.P)) ∧
      (∀ t, r.instr = some (.sreg tx ty) → (s.core.set.fab.heldAt (slotTarget r.num 0)).head? = some t →
        ∃ u e, exec (.sreg tx ty) s = .next u ∧ lookup (r.num, t.k) u.core.set.fab.sregs = some e ∧
          u.core.set.fab.held = removeHeld (slotTarget r.num 0) t.k s.core.set.fab.held ∧
          (t.isData = true → e.held = t.payload ∧ (t.tag.last = false → Due.held ∈ e.due) ∧ (t.tag.last = true → Due.held ∉ e.due)) ∧
          (t.isData = false → Due.pass t ∈ e.due))) ∧
    (∀ n q e d rest, s.core.set.fab.running = some im → s.core.fabricRuns s.cycle = true → im.slot n = some q →
      q.instr = some (.sreg tx ty) → lookup (n, s.cycle % im.P) s.core.set.fab.sregs = some e → e.due = d :: rest →
      s.core.set.maySend (s.cycle % im.P) d = true → s.core.set.fab.fired.contains (elementOf n) = false →
      s.core.set.fab.roomFor (.sreg tx ty) = true →
      ∃ u t, exec (.sregEmission n (s.cycle % im.P)) s = .next u ∧
        (tx ≠ noTarget → u.sends tx t) ∧ (ty ≠ noTarget → u.sends ty t) ∧
        lookup (n, s.cycle % im.P) u.core.set.fab.sregs = some { e with due := rest } ∧
        (d = .held → t.payload = e.held ∧ t.tag.kind = .data ∧ t.tag.last = false ∧
          t.tag.stitch = BitVec.ofNat 6 (s.cycle % im.P)) ∧ (∀ z, d = .pass z → t = z))

/-! ### Reports, host commands, errors and reset (R143, R144, R329, R343, R346 to R356) -/

/-- R143, R144: the detector's reports. R329, R349, R354: memory errors, log messages, reset. -/
def Obligations.ReportsAreMadeAndMachineEventsHappen : Prop :=
  ∀ (s : State) (n : Nat),
    (∀ (im : Image), s.core.set.fab.running = some im → s.detects = true →
      let f := s.core.set.fab
      let makes (i : Instr) (kind : Nat) : Prop := ∃ t, exec i s = .next t ∧
        t.core.set.fab.detect.report = some (s.core.set.reportWord im kind) ∧ t.core.set.fab.detect.standing = true ∧
        t.core.set.fab.detect.moved = false ∧ t.core.set.fab.held = f.held ∧
        ∀ o ∈ s.core.set.ops,
          (∀ q w sp, o.wait = .draw q w sp → f.heldAt (nodeTarget 6 q) = [] →
            { o with wait := .ready 0x8000000000000028 .clear (s.cycle + 1) } ∈ t.core.set.ops) ∧
          (∀ q w sp tag tgt ph home, kind = 2 → o.wait = .feed q w sp tag tgt ph home → f.portFull q = true →
            { o with wait := .ready 0x8000000000000023 .clear (s.cycle + 1) } ∈ t.core.set.ops)
      (s.core.set.empty0 = true → (∀ k < 64, s.core.set.runsOut k = false) →
        s.requestsOpen s.core.num f = false → makes .completionReport 1) ∧
      (s.core.set.empty0 = false → s.cycle ≥ f.detect.lastMove + 256 → s.detectorWaits s.core im = false →
        makes .deadlockReport 2)) ∧
    (regionOf n ≠ .none → s.host.errLines.contains (n / 64) = false → s.host.poisoned.contains (n / 64) = false →
      ∃ t, exec (.memoryError n) s = .next t ∧ t.host.errLines = s.host.errLines ++ [n / 64] ∧ t.mem = s.mem) ∧
    (regionOf n ≠ .none → s.host.errLines.contains (n / 64) = true →
      ∃ t, exec (.memoryError n) s = .next t ∧ (n / 64) ∉ t.host.errLines ∧ (n / 64) ∈ t.host.poisoned ∧ t.mem = s.mem) ∧
    (∀ p sink, n ≠ 32 → s.partAt n = some p → p.sink = some sink → p.sinkUp = true → p.ring ≠ [] →
      ∃ t q, exec (.logMessage n) s = .next t ∧ t.host.outbox = s.host.outbox ++ [⟨p.num, sink, p.lostRecs, p.ring.take 16⟩] ∧
        t.partAt n = some q ∧ q.ring = p.ring.drop 16 ∧ q.lostRecs = 0) ∧
    (s.host.opRing ≠ [] → ∃ t, exec (.logMessage 32) s = .next t ∧ t.host.opRing = s.host.opRing.drop 16 ∧
      t.host.outbox = s.host.outbox ++ [⟨32, 0, s.host.opLost, s.host.opRing.take 16⟩]) ∧
    ∃ t, exec .reset s = .next t ∧ t.core = State.reset.core ∧ t.others = [] ∧ t.mem = State.reset.mem ∧
      t.pools = State.reset.pools ∧ t.parts = [Part.ofRecord s.host.record] ∧ t.host.enabled = s.host.record.enabled ∧ t.cycle = 0 ∧ t.host.index = s.host.index ∧
      t.host.storedIndex = s.host.storedIndex ∧
      (t.host.inReset = false ↔ s.host.firmwareGood = true ∧ s.host.configGood = true ∧ s.host.index ≤ s.host.storedIndex)

/-- R343, R346 to R355: host commands. -/
def Obligations.HostCommandsAnswer : Prop :=
  ∀ (s : State) (c : HostCmd) (p : Part), s.partAt c.part.toNat = some p →
    let dirtyCmd := if c.operand = 1 then Instr.dirtyStart c else if c.operand = 2 then .dirtyRead c else .dirtyStop c
    let timed := [(Instr.read c, 1), (.logep c, 1), (.timebase c, 2), (.winmap c, 2), (dirtyCmd, 2), (.snapshot c, 2),
      (.attest c, 1), (.adopt c, 2)]
    let wl := if s.writesDeviceQueue c then 2 else 1
    let cmds := (Instr.write c, wl) :: timed
    let answers (t : State) (status : Byte) (data : List Byte) : Prop :=
      t.host.replies = s.host.replies ++ [⟨c.seq, status, data⟩]
    let done (i : Instr) (q : State → Prop) : Prop := ∃ t data, exec i s = .next t ∧ answers t 0 data ∧ q t
    (c.part ≠ 0 → s.writesDeviceQueue c = false) ∧
    (∀ b pa t, c.part = 0 → piecesOf c.operand.toNat c.payload.length = [(c.operand.toNat, c.payload.length)] →
      (s.hostAt (s.partOf 0) .look c.operand.toNat).2 = .ok pa → b ∈ s.disp.binds → b.2.part = 0 →
      b.2.ring.toNat % 65536 + 64 + 64 * b.2.depth ≤ 65536 → (s.dispAt (s.partOf 0) .look b.2.ring.toNat).2 = some t →
      t ≤ pa → pa < t + 64 + 64 * b.2.depth → s.writesDeviceQueue c = true) ∧
    (s.behindWrites c = true → ∀ x ∈ timed, exec x.1 s = .next s) ∧
    (∀ i k pa va, s.packet i = some k → k.body = .write .outside pa va → s.mayApply k = true → k.dst < 352 → s.mem.wf →
      ∃ t, exec (.writeArrival i) s = .next t ∧
        (∀ j < k.bytes.length, t.mem.get (pa + j) =
          if s.childTail (pa + j) then s.mem.get (pa + j) else k.bytes.getD j 0) ∧
        (∀ x, x < pa ∨ pa + k.bytes.length ≤ x → t.mem.get x = s.mem.get x) ∧
        ∀ w ∈ s.host.pending, w.ids = [k.id] → w.reply ∈ t.host.replies ∧ w ∉ t.host.pending) ∧
    (s.behindWrites c = false →
    (p.sourceAt c.source = none → ∀ x ∈ cmds, ∃ t, exec x.1 s = .next t ∧ t.host.replies = s.host.replies ∧ t.mem = s.mem) ∧
    (∀ e, p.sourceAt c.source = some e →
      (∀ x ∈ cmds, e.level < x.2 → exec x.1 s = .next (s.reply c 0x02 [])) ∧
      (c.reserved ≠ 0 → ∀ x ∈ cmds, e.level ≥ x.2 → exec x.1 s = .next (s.reply c 0x92 [])) ∧
      (∀ code : Byte, code.toNat = 0 ∨ code.toNat > 9 → execCommand code c s = .next (s.reply c 0x92 [])) ∧
      (c.reserved = 0 →
        (∀ u pa, e.level ≥ wl → c.operands = 0 → c.length.toNat = c.payload.length →
          piecesOf c.operand.toNat c.payload.length = [(c.operand.toNat, c.payload.length)] →
          s.hostAt p .write c.operand.toNat = (u, .ok pa) →
          ∃ t k, exec (.write c) s = .next t ∧ t.net.packets = u.net.packets ++ [k] ∧ t.mem = u.mem ∧
            t.host.replies = u.host.replies ∧ k.bytes = c.payload ∧ k.dst = homeOf u.host.pins pa ∧ k.way = .sent ∧
            (∃ va, k.body = .write .outside pa va) ∧ k.id = u.net.nextId ∧
            t.host.pending = u.host.pending ++ [⟨[k.id], c.source, c.flow, ⟨c.seq, 0, []⟩⟩]) ∧
        (∀ u pa n, e.level ≥ 1 → c.operands = 0 → c.payload = [] → c.length.toNat = n → n ≤ 2 ^ 20 →
          piecesOf c.operand.toNat n = [(c.operand.toNat, n)] → s.hostAt p .read c.operand.toNat = (u, .ok pa) →
          u.readError pa n = none →
          ∃ t, exec (.read c) s = .next t ∧ answers t 0 (u.bytesAt p pa n) ∧ t.mem = u.mem) ∧
        (∀ x, e.level ≥ 1 → c.operand = 0 → c.length = 0 → c.operands.toNat < 256 → lookup c.operands.toNat p.ends = some x →
          x.kind = .errorSink → done (.logep c) (fun t => ∃ r, t.partAt c.part.toNat = some r ∧ r.sink = some c.operands.toNat)) ∧
        (e.level ≥ 2 → c.length = 0 → c.operands.toNat < 2 ^ 64 → done (.timebase c) (fun t => ∃ r,
          t.partAt c.part.toNat = some r ∧ r.toff = c.operand ∧ r.tscale = c.operands.setWidth 64)) ∧
        (e.level ≥ 2 →
          let w := Config.winmapFields c.length c.operands c.payload
          c.operand.toNat % 2 ^ 30 = 0 →
          (∃ x, lookup w.peer p.ends = some x ∧ x.kind = .peer) → done (.winmap c) (fun t => ∃ r,
            t.partAt c.part.toNat = some r ∧
              lookup w.number.toNat r.windows = some ⟨c.operand.toNat, w.gib * 2 ^ 30, w.base, w.peer⟩)) ∧
        (e.level ≥ 2 → c.length = 0 → c.operands = 0 →
          let dirty (t : State) (l : Option (List Nat)) : Prop := ∃ r, t.partAt c.part.toNat = some r ∧ r.dirty = l
          (c.operand = 1 → done (.dirtyStart c) (fun t => dirty t (some []))) ∧
          (c.operand ≠ 1 → c.operand ≠ 2 → done (.dirtyStop c) (fun t => dirty t none)) ∧
          (∀ l, c.operand = 2 → p.dirty = some l → ∃ t, exec (.dirtyRead c) s = .next t ∧ answers t 0 (s.dirtyMap p) ∧ dirty t (some []))) ∧
        (s.host.index < 65536 →
          (e.level ≥ 2 → done (.snapshot c) (fun t => t.host.index = s.host.index + 1 ∧
            t.host.storedIndex = s.host.index + 1 ∧ t.host.reports = s.host.reports + 1 ∧
            ∃ bytes, t.host.signed = s.host.signed ++ [(c.seq, .usage ((Config.snapshotAsks c.operand c.length c.operands c.payload).map
              s.countersOf) (s.time p) s.host.reports s.host.index bytes)])) ∧
          (e.level ≥ 1 → c.operand = 0 → c.operands = 0 → c.payload.length = 32 → done (.attest c) (fun t =>
            t.host.index = s.host.index + 1 ∧ t.host.storedIndex = s.host.index + 1 ∧ t.host.reports = s.host.reports ∧
            ∃ firmware record bytes, t.host.signed = s.host.signed ++
              [(c.seq, .attestation firmware record s.host.enabled c.payload s.host.index bytes)]))) ∧
        (s.host.index ≥ 65536 → e.level ≥ 2 → exec (.snapshot c) s = .next (s.reply c 0xA6 [])) ∧
        (e.level ≥ 2 → s.host.copied.any (fun g => s.pools.any (fun h => h.num == g.num)) = false →
          done (.adopt c) (fun t => t.pools = s.pools ++ s.host.copied.map (fun g => { g with part := p.num }) ∧
            t.host.copied = [])) ∧
        (e.level ≥ 2 → s.host.copied.any (fun g => s.pools.any (fun h => h.num == g.num)) = true →
          exec (.adopt c) s = .next (s.reply c 0x94 [])))))

/-! ### The whole machine: encodings, a step, reset and the form of memory -/

/-- R28 to R38: decode and encode are inverse to each other. -/
def Obligations.DecodeAndEncodeAgree : Prop :=
  ∀ (i : Instr) (w : BitVec 32),
    (i.wellFormed = true → encode i = some w → (if i.inFabricMap then decodeFabric w else decodeWord w) = .ok i) ∧
    (decodeWord w = .ok i → i.wellFormed = true ∧ i.inFabricMap = false ∧ encode i = some w) ∧
    (decodeFabric w = .ok i → i.wellFormed = true ∧ i.inFabricMap = true ∧ encode i = some w)

/-- R28 to R38: words of each format. -/
def Obligations.DecodedWordsAreRight : Prop :=
  decodeWord (0b000000#6 ++ 5#6 ++ 6#6 ++ 7#6 ++ 0x00#8) = .ok (.add 5 6 7) ∧
    decodeWord (0x01#6 ++ 5#6 ++ 6#6 ++ 0x3FFF#14) = .ok (.addi 5 6 0x3FFF) ∧
    decodeWord (0x0C#6 ++ 5#6 ++ 0x12345#20) = .ok (.lui 5 0x12345) ∧
    decodeWord (0x10#6 ++ 1#3 ++ 6#6 ++ 7#6 ++ 0x7FE#11) = .ok (.bne 6 7 0x7FE) ∧
    decodeWord (0x1D#6 ++ 9#6 ++ 10#6 ++ 11#6 ++ 3#4 ++ 0#4) = .ok (.sfeed 9 10 11 3) ∧
    decodeFabric (0x00#8 ++ 1#2 ++ (5#9 ++ 0b00#2) ++ (6#9 ++ 0b10#2)) = .ok (.vadd 1 20 26) ∧
    (∀ r : BitVec 26, ∃ e, decodeWord (0x3F#6 ++ r) = .error e) ∧
    ∀ (a b : BitVec 6) (o : BitVec 11), b ≠ 0 → ∃ e, decodeWord (0x10#6 ++ 6#3 ++ a ++ b ++ o) = .error e

/-- R28, R34, R104, R325: what a step runs. -/
def Obligations.StepRunsDecodedInstruction : Prop :=
  ∀ (s : State) (rest : List Turn),
    let u := { s with sched := rest }
    (s.host.inReset = true → (∀ r, s.sched ≠ .event .reset :: r) → step s = .fault .heldInReset) ∧
    (s.host.inReset = false →
      (s.sched = .issue :: rest → u.canIssue = true →
        (∀ a, u.nextAsync = some a → ∀ v, exec .trapEntry u = .next v → step s = .next (v.occupy 1)) ∧
        (u.nextAsync = none →
          (∀ t w i, u.fetch = (t, .ok w) → decodeWord w = .ok i →
            (∀ v, exec i t = .next v → step s = .next (v.occupy (occupancy i t v))) ∧
            (∀ f, exec i t = .fault f → step s = .fault f) ∧ ∀ r, exec i t = .refused r → step s = .refused r) ∧
          (∀ t w e, u.fetch = (t, .ok w) → decodeWord w = .error e →
            step s = .next ((t.trap 0x01 (w.setWidth 64)).occupy 1)) ∧
          (∀ t cause, u.fetch = (t, .error cause) → step s = .next ((t.trap cause u.seq.pc).occupy 1)))) ∧
      (∀ t pa, u.seq.pc.toNat < 0xFFFF00000000 → u.part.windowAt u.seq.pc.toNat = none → u.translate .fetch u.seq.pc.toNat = (t, .ok pa) →
        t.readError pa 4 = none → pa % 4 = 0 → lookup (pa / 8 * 8) t.core.set.icache = none →
        ∃ v, u.fetch = (v, .ok (wordOfBytes (t.mem.get pa) (t.mem.get (pa + 1)) (t.mem.get (pa + 2)) (t.mem.get (pa + 3)))) ∧
          v.mem = t.mem) ∧
      (∀ e, s.sched = .event e :: rest → step s = exec e u) ∧
      (∀ slot i, s.sched = .fire slot :: rest → u.slotInstr slot = some i → step s = exec i { u with firing := slot }) ∧
      (s.sched = [] → s.coreTurn = none → s.moduleEvents.find? s.isDue = none → s.dueCore = none → s.canIssue = true →
        step s = step { s with sched := [.issue] }))

/-- The form of memory, kept by every step. -/
def Obligations.EveryStepKeepsTheMemoryForm : Prop :=
  kept (fun s => s.mem.wf)

/-- R13, R262, R310: the machine right after reset. -/
def Obligations.ResetLeavesTheMachineIdle : Prop :=
  let s := State.reset
  s.mem.wf ∧ s.mem = [] ∧ s.cycle = 0 ∧ s.host.inReset = false ∧
    s.core.num = 0 ∧ s.others = [] ∧ s.core.set = .empty ∧ s.core.set.unit = none ∧ s.core.set.fab.running = none ∧
    s.core.set.ops = [] ∧ s.core.set.eng = [] ∧ s.net.packets = [] ∧ s.net.seqs = [] ∧ s.disp.launches = [] ∧
    s.pools = [] ∧ s.parts.map (fun p => p.num) = [0] ∧
    (∃ p, s.partAt 0 = some p ∧ p.cores = BitVec.allOnes 256) ∧
    s.canIssue = false ∧ s.coreTurn.isNone = true ∧ (s.moduleEvents.find? s.isDue).isNone = true
end

