-- ==== Sys2Proof/Laws/Memory.lean ====
section
/-!
SUPPORT. Memory: every operation keeps the canonical form, and a read after a write.
-/

namespace Sys2Proof.Machine

/-! ### The canonical form is kept -/

theorem Memory.put_mem {m : Memory} {x : Nat} {v : Byte} {c : Host.Cell} (h : c ∈ m.put x v) :
    c ∈ m ∨ c = (x, v) ∧ v ≠ unlisted := by
  induction m with
  | nil =>
    unfold Memory.put at h
    split at h
    · simp at h
    · next hv => simp at h; exact .inr ⟨h, hv⟩
  | cons p rest ih =>
    obtain ⟨a, b⟩ := p
    unfold Memory.put at h
    split at h
    · split at h
      · exact .inl h
      · next hv =>
        rcases List.mem_cons.mp h with h | h
        · exact .inr ⟨h, hv⟩
        · exact .inl h
    · split at h
      · next hx =>
        subst hx
        split at h
        · exact .inl (List.mem_cons_of_mem _ h)
        · next hv =>
          rcases List.mem_cons.mp h with h | h
          · exact .inr ⟨h, hv⟩
          · exact .inl (List.mem_cons_of_mem _ h)
      · rcases List.mem_cons.mp h with h | h
        · exact .inl (h ▸ List.mem_cons_self)
        · rcases ih h with h | h
          · exact .inl (List.mem_cons_of_mem _ h)
          · exact .inr h

theorem Memory.put_rising {m : Memory} (x : Nat) (v : Byte) (h : m.Pairwise (fun x y => x.1 < y.1)) :
    (m.put x v).Pairwise (fun x y => x.1 < y.1) := by
  induction m with
  | nil => unfold Memory.put; split <;> simp
  | cons p rest ih =>
    obtain ⟨a, b⟩ := p
    have hr := List.pairwise_cons.mp h
    unfold Memory.put
    split
    · next hx =>
      split
      · exact h
      · refine List.pairwise_cons.mpr ⟨fun c hc => ?_, h⟩
        rcases List.mem_cons.mp hc with rfl | hc
        · exact hx
        · exact Nat.lt_trans hx (hr.1 c hc)
    · split
      · split
        · exact hr.2
        · exact List.pairwise_cons.mpr ⟨fun c hc => hr.1 c hc, hr.2⟩
      · refine List.pairwise_cons.mpr ⟨fun c hc => ?_, ih hr.2⟩
        rcases Memory.put_mem hc with hc | ⟨rfl, _⟩
        · exact hr.1 c hc
        · show a < x; omega

/-- A byte written keeps the form. -/
theorem Memory.put_wf {m : Memory} (x : Nat) (v : Byte) (h : m.wf) : (m.put x v).wf :=
  ⟨Memory.put_rising x v h.1, fun c hc => by
    rcases Memory.put_mem hc with hc | ⟨rfl, hv⟩
    · exact h.2 c hc
    · exact hv⟩

/-- Bytes written keep the form. -/
theorem Memory.putBytes_wf {m : Memory} (a : Nat) (bs : List Byte) (h : m.wf) : (m.putBytes a bs).wf := by
  induction bs generalizing m a with
  | nil => exact h
  | cons b bs ih => exact ih (a + 1) (Memory.put_wf a b h)

/-- Cells removed keep the form. -/
theorem Memory.filter_wf {m : Memory} (p : Host.Cell → Bool) (h : m.wf) : Memory.wf (m.filter p) :=
  ⟨h.1.filter p, fun c hc => h.2 c (List.mem_of_mem_filter hc)⟩

/-- A range cleared keeps the form. -/
theorem Memory.clear_wf {m : Memory} (a n : Nat) (h : m.wf) : (m.clear a n).wf := Memory.filter_wf _ h

/-- Cells written one by one keep the form. -/
theorem Memory.foldl_put_wf {m : Memory} (l : List Host.Cell) (f : Host.Cell → Nat) (h : m.wf) :
    (l.foldl (fun m x => m.put (f x) x.2) m).wf := by
  induction l generalizing m with
  | nil => exact h
  | cons c l ih => exact ih (Memory.put_wf _ _ h)

/-- Memory with nothing written has the form. -/
theorem Memory.nil_wf : Memory.wf [] := ⟨List.Pairwise.nil, fun _ h => nomatch h⟩

/-! ### Reads and writes -/

theorem Memory.get_of_lt {m : Memory} {x : Nat} (h : ∀ c ∈ m, x < c.1) : m.get x = unlisted := by
  induction m with
  | nil => rfl
  | cons p rest ih =>
    obtain ⟨a, b⟩ := p
    have ha : x < a := h (a, b) List.mem_cons_self
    unfold Memory.get
    rw [if_neg (by omega)]
    exact ih (fun c hc => h c (List.mem_cons_of_mem _ hc))

/-- A byte read after a write: the byte written at its address, the earlier one everywhere else. -/
theorem Memory.get_put {m : Memory} (x y : Nat) (v : Byte) (h : m.wf) :
    (m.put x v).get y = if y = x then v else m.get y := by
  obtain ⟨hs, hz⟩ := h
  induction m with
  | nil =>
    unfold Memory.put
    split
    · next hv => subst hv; split <;> rfl
    · rfl
  | cons p rest ih =>
    obtain ⟨a, b⟩ := p
    have hr := List.pairwise_cons.mp hs
    unfold Memory.put
    split
    · next hx =>
      split
      · next hv =>
        subst hv
        split
        · next hy =>
          subst hy
          refine Memory.get_of_lt (fun c hc => ?_)
          rcases List.mem_cons.mp hc with rfl | hc
          · exact hx
          · exact Nat.lt_trans hx (hr.1 c hc)
        · rfl
      · rfl
    · split
      · next hx =>
        subst hx
        split
        · next hv =>
          subst hv
          split
          · next hy => subst hy; exact Memory.get_of_lt (fun c hc => hr.1 c hc)
          · next hy => unfold Memory.get; rw [if_neg hy]; cases rest <;> rfl
        · unfold Memory.get; split <;> rfl
      · next h1 h2 =>
        have := ih hr.2 (fun c hc => hz c (List.mem_cons_of_mem _ hc))
        show (if y = a then b else (Memory.put rest x v).get y) = _
        by_cases hy : y = a
        · subst hy
          rw [if_pos rfl, if_neg (by omega)]
          simp [Memory.get]
        · rw [if_neg hy, this]
          simp [Memory.get, hy]

/-- A byte outside the bytes written reads as before. -/
theorem Memory.get_putBytes_outside {m : Memory} (a y : Nat) (bs : List Byte) (h : m.wf)
    (hy : y < a ∨ a + bs.length ≤ y) : (m.putBytes a bs).get y = m.get y := by
  induction bs generalizing m a with
  | nil => rfl
  | cons b bs ih =>
    have hn : y ≠ a := by simp at hy; omega
    show ((m.put a b).putBytes (a + 1) bs).get y = _
    rw [ih (a + 1) (Memory.put_wf a b h) (by simp at hy; omega), Memory.get_put a y b h, if_neg hn]

/-- A byte inside the bytes written reads as the byte written. -/
theorem Memory.get_putBytes_inside {m : Memory} (a i : Nat) (bs : List Byte) (h : m.wf) (hi : i < bs.length) :
    (m.putBytes a bs).get (a + i) = bs[i] := by
  induction bs generalizing m a i with
  | nil => simp at hi
  | cons b bs ih =>
    show ((m.put a b).putBytes (a + 1) bs).get (a + i) = _
    cases i with
    | zero =>
      rw [Memory.get_putBytes_outside (a + 1) (a + 0) bs (Memory.put_wf a b h) (by omega), Memory.get_put a (a + 0) b h]
      simp
    | succ i =>
      have := ih (m := m.put a b) (a + 1) i (Memory.put_wf a b h) (by simpa using hi)
      rw [show a + (i + 1) = a + 1 + i by omega, this]
      simp

end Sys2Proof.Machine
end

