-- ==== Sys2Proof/Laws/State.lean ====
section
/-!
SUPPORT. What each update of the state leaves in each field: one lemma per field per update, so that no proof unfolds
a record update.
-/

namespace Sys2Proof.Machine

/-! ### mapCore -/

@[simp] theorem State.mapCore_core (s : State) (f : Core → Core) : (s.mapCore f).core = f s.core := rfl
@[simp] theorem State.mapCore_others (s : State) (f : Core → Core) : (s.mapCore f).others = s.others := rfl
@[simp] theorem State.mapCore_mem (s : State) (f : Core → Core) : (s.mapCore f).mem = s.mem := rfl
@[simp] theorem State.mapCore_net (s : State) (f : Core → Core) : (s.mapCore f).net = s.net := rfl
@[simp] theorem State.mapCore_pools (s : State) (f : Core → Core) : (s.mapCore f).pools = s.pools := rfl
@[simp] theorem State.mapCore_parts (s : State) (f : Core → Core) : (s.mapCore f).parts = s.parts := rfl
@[simp] theorem State.mapCore_disp (s : State) (f : Core → Core) : (s.mapCore f).disp = s.disp := rfl
@[simp] theorem State.mapCore_host (s : State) (f : Core → Core) : (s.mapCore f).host = s.host := rfl
@[simp] theorem State.mapCore_cycle (s : State) (f : Core → Core) : (s.mapCore f).cycle = s.cycle := rfl
@[simp] theorem State.mapCore_sched (s : State) (f : Core → Core) : (s.mapCore f).sched = s.sched := rfl
@[simp] theorem State.mapCore_choice (s : State) (f : Core → Core) : (s.mapCore f).choice = s.choice := rfl
@[simp] theorem State.mapCore_free (s : State) (f : Core → Core) : (s.mapCore f).free = s.free := rfl
@[simp] theorem State.mapCore_firing (s : State) (f : Core → Core) : (s.mapCore f).firing = s.firing := rfl

/-! ### mapSet -/

@[simp] theorem State.mapSet_core (s : State) (f : CSet → CSet) : (s.mapSet f).core = { s.core with set := f s.core.set } := rfl
@[simp] theorem State.mapSet_others (s : State) (f : CSet → CSet) : (s.mapSet f).others = s.others := rfl
@[simp] theorem State.mapSet_mem (s : State) (f : CSet → CSet) : (s.mapSet f).mem = s.mem := rfl
@[simp] theorem State.mapSet_net (s : State) (f : CSet → CSet) : (s.mapSet f).net = s.net := rfl
@[simp] theorem State.mapSet_pools (s : State) (f : CSet → CSet) : (s.mapSet f).pools = s.pools := rfl
@[simp] theorem State.mapSet_parts (s : State) (f : CSet → CSet) : (s.mapSet f).parts = s.parts := rfl
@[simp] theorem State.mapSet_disp (s : State) (f : CSet → CSet) : (s.mapSet f).disp = s.disp := rfl
@[simp] theorem State.mapSet_host (s : State) (f : CSet → CSet) : (s.mapSet f).host = s.host := rfl
@[simp] theorem State.mapSet_cycle (s : State) (f : CSet → CSet) : (s.mapSet f).cycle = s.cycle := rfl
@[simp] theorem State.mapSet_sched (s : State) (f : CSet → CSet) : (s.mapSet f).sched = s.sched := rfl
@[simp] theorem State.mapSet_choice (s : State) (f : CSet → CSet) : (s.mapSet f).choice = s.choice := rfl
@[simp] theorem State.mapSet_free (s : State) (f : CSet → CSet) : (s.mapSet f).free = s.free := rfl
@[simp] theorem State.mapSet_firing (s : State) (f : CSet → CSet) : (s.mapSet f).firing = s.firing := rfl

/-! ### mapSeq -/

@[simp] theorem State.mapSeq_core (s : State) (f : Seq → Seq) : (s.mapSeq f).core = { s.core with set := s.core.set.mapSeq f } := rfl
@[simp] theorem State.mapSeq_others (s : State) (f : Seq → Seq) : (s.mapSeq f).others = s.others := rfl
@[simp] theorem State.mapSeq_mem (s : State) (f : Seq → Seq) : (s.mapSeq f).mem = s.mem := rfl
@[simp] theorem State.mapSeq_net (s : State) (f : Seq → Seq) : (s.mapSeq f).net = s.net := rfl
@[simp] theorem State.mapSeq_pools (s : State) (f : Seq → Seq) : (s.mapSeq f).pools = s.pools := rfl
@[simp] theorem State.mapSeq_parts (s : State) (f : Seq → Seq) : (s.mapSeq f).parts = s.parts := rfl
@[simp] theorem State.mapSeq_disp (s : State) (f : Seq → Seq) : (s.mapSeq f).disp = s.disp := rfl
@[simp] theorem State.mapSeq_host (s : State) (f : Seq → Seq) : (s.mapSeq f).host = s.host := rfl
@[simp] theorem State.mapSeq_cycle (s : State) (f : Seq → Seq) : (s.mapSeq f).cycle = s.cycle := rfl
@[simp] theorem State.mapSeq_sched (s : State) (f : Seq → Seq) : (s.mapSeq f).sched = s.sched := rfl
@[simp] theorem State.mapSeq_choice (s : State) (f : Seq → Seq) : (s.mapSeq f).choice = s.choice := rfl
@[simp] theorem State.mapSeq_free (s : State) (f : Seq → Seq) : (s.mapSeq f).free = s.free := rfl
@[simp] theorem State.mapSeq_firing (s : State) (f : Seq → Seq) : (s.mapSeq f).firing = s.firing := rfl

/-! ### mapFab -/

@[simp] theorem State.mapFab_core (s : State) (f : Fabric → Fabric) : (s.mapFab f).core = { s.core with set := { s.core.set with fab := f s.core.set.fab } } := rfl
@[simp] theorem State.mapFab_others (s : State) (f : Fabric → Fabric) : (s.mapFab f).others = s.others := rfl
@[simp] theorem State.mapFab_mem (s : State) (f : Fabric → Fabric) : (s.mapFab f).mem = s.mem := rfl
@[simp] theorem State.mapFab_net (s : State) (f : Fabric → Fabric) : (s.mapFab f).net = s.net := rfl
@[simp] theorem State.mapFab_pools (s : State) (f : Fabric → Fabric) : (s.mapFab f).pools = s.pools := rfl
@[simp] theorem State.mapFab_parts (s : State) (f : Fabric → Fabric) : (s.mapFab f).parts = s.parts := rfl
@[simp] theorem State.mapFab_disp (s : State) (f : Fabric → Fabric) : (s.mapFab f).disp = s.disp := rfl
@[simp] theorem State.mapFab_host (s : State) (f : Fabric → Fabric) : (s.mapFab f).host = s.host := rfl
@[simp] theorem State.mapFab_cycle (s : State) (f : Fabric → Fabric) : (s.mapFab f).cycle = s.cycle := rfl
@[simp] theorem State.mapFab_sched (s : State) (f : Fabric → Fabric) : (s.mapFab f).sched = s.sched := rfl
@[simp] theorem State.mapFab_choice (s : State) (f : Fabric → Fabric) : (s.mapFab f).choice = s.choice := rfl
@[simp] theorem State.mapFab_free (s : State) (f : Fabric → Fabric) : (s.mapFab f).free = s.free := rfl
@[simp] theorem State.mapFab_firing (s : State) (f : Fabric → Fabric) : (s.mapFab f).firing = s.firing := rfl

/-! ### mapRounds -/

@[simp] theorem State.mapRounds_core (s : State) (f : Rounds → Rounds) : (s.mapRounds f).core = { s.core with set := { s.core.set with rounds := f s.core.set.rounds } } := rfl
@[simp] theorem State.mapRounds_others (s : State) (f : Rounds → Rounds) : (s.mapRounds f).others = s.others := rfl
@[simp] theorem State.mapRounds_mem (s : State) (f : Rounds → Rounds) : (s.mapRounds f).mem = s.mem := rfl
@[simp] theorem State.mapRounds_net (s : State) (f : Rounds → Rounds) : (s.mapRounds f).net = s.net := rfl
@[simp] theorem State.mapRounds_pools (s : State) (f : Rounds → Rounds) : (s.mapRounds f).pools = s.pools := rfl
@[simp] theorem State.mapRounds_parts (s : State) (f : Rounds → Rounds) : (s.mapRounds f).parts = s.parts := rfl
@[simp] theorem State.mapRounds_disp (s : State) (f : Rounds → Rounds) : (s.mapRounds f).disp = s.disp := rfl
@[simp] theorem State.mapRounds_host (s : State) (f : Rounds → Rounds) : (s.mapRounds f).host = s.host := rfl
@[simp] theorem State.mapRounds_cycle (s : State) (f : Rounds → Rounds) : (s.mapRounds f).cycle = s.cycle := rfl
@[simp] theorem State.mapRounds_sched (s : State) (f : Rounds → Rounds) : (s.mapRounds f).sched = s.sched := rfl
@[simp] theorem State.mapRounds_choice (s : State) (f : Rounds → Rounds) : (s.mapRounds f).choice = s.choice := rfl
@[simp] theorem State.mapRounds_free (s : State) (f : Rounds → Rounds) : (s.mapRounds f).free = s.free := rfl
@[simp] theorem State.mapRounds_firing (s : State) (f : Rounds → Rounds) : (s.mapRounds f).firing = s.firing := rfl

/-! ### mapUnit -/

@[simp] theorem State.mapUnit_core (s : State) (f : UnitCtx → UnitCtx) : (s.mapUnit f).core = { s.core with set := { s.core.set with unit := s.core.set.unit.map f } } := rfl
@[simp] theorem State.mapUnit_others (s : State) (f : UnitCtx → UnitCtx) : (s.mapUnit f).others = s.others := rfl
@[simp] theorem State.mapUnit_mem (s : State) (f : UnitCtx → UnitCtx) : (s.mapUnit f).mem = s.mem := rfl
@[simp] theorem State.mapUnit_net (s : State) (f : UnitCtx → UnitCtx) : (s.mapUnit f).net = s.net := rfl
@[simp] theorem State.mapUnit_pools (s : State) (f : UnitCtx → UnitCtx) : (s.mapUnit f).pools = s.pools := rfl
@[simp] theorem State.mapUnit_parts (s : State) (f : UnitCtx → UnitCtx) : (s.mapUnit f).parts = s.parts := rfl
@[simp] theorem State.mapUnit_disp (s : State) (f : UnitCtx → UnitCtx) : (s.mapUnit f).disp = s.disp := rfl
@[simp] theorem State.mapUnit_host (s : State) (f : UnitCtx → UnitCtx) : (s.mapUnit f).host = s.host := rfl
@[simp] theorem State.mapUnit_cycle (s : State) (f : UnitCtx → UnitCtx) : (s.mapUnit f).cycle = s.cycle := rfl
@[simp] theorem State.mapUnit_sched (s : State) (f : UnitCtx → UnitCtx) : (s.mapUnit f).sched = s.sched := rfl
@[simp] theorem State.mapUnit_choice (s : State) (f : UnitCtx → UnitCtx) : (s.mapUnit f).choice = s.choice := rfl
@[simp] theorem State.mapUnit_free (s : State) (f : UnitCtx → UnitCtx) : (s.mapUnit f).free = s.free := rfl
@[simp] theorem State.mapUnit_firing (s : State) (f : UnitCtx → UnitCtx) : (s.mapUnit f).firing = s.firing := rfl

/-! ### setReg -/

@[simp] theorem State.setReg_core (s : State) (r : Reg) (v : Word) : (s.setReg r v).core = { s.core with set := s.core.set.mapSeq (fun q => q.write r v) } := rfl
@[simp] theorem State.setReg_others (s : State) (r : Reg) (v : Word) : (s.setReg r v).others = s.others := rfl
@[simp] theorem State.setReg_mem (s : State) (r : Reg) (v : Word) : (s.setReg r v).mem = s.mem := rfl
@[simp] theorem State.setReg_net (s : State) (r : Reg) (v : Word) : (s.setReg r v).net = s.net := rfl
@[simp] theorem State.setReg_pools (s : State) (r : Reg) (v : Word) : (s.setReg r v).pools = s.pools := rfl
@[simp] theorem State.setReg_parts (s : State) (r : Reg) (v : Word) : (s.setReg r v).parts = s.parts := rfl
@[simp] theorem State.setReg_disp (s : State) (r : Reg) (v : Word) : (s.setReg r v).disp = s.disp := rfl
@[simp] theorem State.setReg_host (s : State) (r : Reg) (v : Word) : (s.setReg r v).host = s.host := rfl
@[simp] theorem State.setReg_cycle (s : State) (r : Reg) (v : Word) : (s.setReg r v).cycle = s.cycle := rfl
@[simp] theorem State.setReg_sched (s : State) (r : Reg) (v : Word) : (s.setReg r v).sched = s.sched := rfl
@[simp] theorem State.setReg_choice (s : State) (r : Reg) (v : Word) : (s.setReg r v).choice = s.choice := rfl
@[simp] theorem State.setReg_free (s : State) (r : Reg) (v : Word) : (s.setReg r v).free = s.free := rfl
@[simp] theorem State.setReg_firing (s : State) (r : Reg) (v : Word) : (s.setReg r v).firing = s.firing := rfl

/-! ### setPc -/

@[simp] theorem State.setPc_core (s : State) (v : Word) : (s.setPc v).core = { s.core with set := s.core.set.mapSeq (fun q => { q with pc := v }) } := rfl
@[simp] theorem State.setPc_others (s : State) (v : Word) : (s.setPc v).others = s.others := rfl
@[simp] theorem State.setPc_mem (s : State) (v : Word) : (s.setPc v).mem = s.mem := rfl
@[simp] theorem State.setPc_net (s : State) (v : Word) : (s.setPc v).net = s.net := rfl
@[simp] theorem State.setPc_pools (s : State) (v : Word) : (s.setPc v).pools = s.pools := rfl
@[simp] theorem State.setPc_parts (s : State) (v : Word) : (s.setPc v).parts = s.parts := rfl
@[simp] theorem State.setPc_disp (s : State) (v : Word) : (s.setPc v).disp = s.disp := rfl
@[simp] theorem State.setPc_host (s : State) (v : Word) : (s.setPc v).host = s.host := rfl
@[simp] theorem State.setPc_cycle (s : State) (v : Word) : (s.setPc v).cycle = s.cycle := rfl
@[simp] theorem State.setPc_sched (s : State) (v : Word) : (s.setPc v).sched = s.sched := rfl
@[simp] theorem State.setPc_choice (s : State) (v : Word) : (s.setPc v).choice = s.choice := rfl
@[simp] theorem State.setPc_free (s : State) (v : Word) : (s.setPc v).free = s.free := rfl
@[simp] theorem State.setPc_firing (s : State) (v : Word) : (s.setPc v).firing = s.firing := rfl

/-! ### advance -/

@[simp] theorem State.advance_core (s : State) : (s.advance).core = { s.core with set := s.core.set.mapSeq (fun q => { q with pc := q.pc + 4 }) } := rfl
@[simp] theorem State.advance_others (s : State) : (s.advance).others = s.others := rfl
@[simp] theorem State.advance_mem (s : State) : (s.advance).mem = s.mem := rfl
@[simp] theorem State.advance_net (s : State) : (s.advance).net = s.net := rfl
@[simp] theorem State.advance_pools (s : State) : (s.advance).pools = s.pools := rfl
@[simp] theorem State.advance_parts (s : State) : (s.advance).parts = s.parts := rfl
@[simp] theorem State.advance_disp (s : State) : (s.advance).disp = s.disp := rfl
@[simp] theorem State.advance_host (s : State) : (s.advance).host = s.host := rfl
@[simp] theorem State.advance_cycle (s : State) : (s.advance).cycle = s.cycle := rfl
@[simp] theorem State.advance_sched (s : State) : (s.advance).sched = s.sched := rfl
@[simp] theorem State.advance_choice (s : State) : (s.advance).choice = s.choice := rfl
@[simp] theorem State.advance_free (s : State) : (s.advance).free = s.free := rfl
@[simp] theorem State.advance_firing (s : State) : (s.advance).firing = s.firing := rfl

/-! ### setTag -/

@[simp] theorem State.setTag_core (s : State) (i : Nat) (b : Bool) : (s.setTag i b).core = { s.core with set := s.core.set.setTag i b } := rfl
@[simp] theorem State.setTag_others (s : State) (i : Nat) (b : Bool) : (s.setTag i b).others = s.others := rfl
@[simp] theorem State.setTag_mem (s : State) (i : Nat) (b : Bool) : (s.setTag i b).mem = s.mem := rfl
@[simp] theorem State.setTag_net (s : State) (i : Nat) (b : Bool) : (s.setTag i b).net = s.net := rfl
@[simp] theorem State.setTag_pools (s : State) (i : Nat) (b : Bool) : (s.setTag i b).pools = s.pools := rfl
@[simp] theorem State.setTag_parts (s : State) (i : Nat) (b : Bool) : (s.setTag i b).parts = s.parts := rfl
@[simp] theorem State.setTag_disp (s : State) (i : Nat) (b : Bool) : (s.setTag i b).disp = s.disp := rfl
@[simp] theorem State.setTag_host (s : State) (i : Nat) (b : Bool) : (s.setTag i b).host = s.host := rfl
@[simp] theorem State.setTag_cycle (s : State) (i : Nat) (b : Bool) : (s.setTag i b).cycle = s.cycle := rfl
@[simp] theorem State.setTag_sched (s : State) (i : Nat) (b : Bool) : (s.setTag i b).sched = s.sched := rfl
@[simp] theorem State.setTag_choice (s : State) (i : Nat) (b : Bool) : (s.setTag i b).choice = s.choice := rfl
@[simp] theorem State.setTag_free (s : State) (i : Nat) (b : Bool) : (s.setTag i b).free = s.free := rfl
@[simp] theorem State.setTag_firing (s : State) (i : Nat) (b : Bool) : (s.setTag i b).firing = s.firing := rfl

/-! ### occupy -/

@[simp] theorem State.occupy_core (s : State) (n : Nat) : (s.occupy n).core = { s.core with set := { s.core.set with busy := s.cycle + n } } := rfl
@[simp] theorem State.occupy_others (s : State) (n : Nat) : (s.occupy n).others = s.others := rfl
@[simp] theorem State.occupy_mem (s : State) (n : Nat) : (s.occupy n).mem = s.mem := rfl
@[simp] theorem State.occupy_net (s : State) (n : Nat) : (s.occupy n).net = s.net := rfl
@[simp] theorem State.occupy_pools (s : State) (n : Nat) : (s.occupy n).pools = s.pools := rfl
@[simp] theorem State.occupy_parts (s : State) (n : Nat) : (s.occupy n).parts = s.parts := rfl
@[simp] theorem State.occupy_disp (s : State) (n : Nat) : (s.occupy n).disp = s.disp := rfl
@[simp] theorem State.occupy_host (s : State) (n : Nat) : (s.occupy n).host = s.host := rfl
@[simp] theorem State.occupy_cycle (s : State) (n : Nat) : (s.occupy n).cycle = s.cycle := rfl
@[simp] theorem State.occupy_sched (s : State) (n : Nat) : (s.occupy n).sched = s.sched := rfl
@[simp] theorem State.occupy_choice (s : State) (n : Nat) : (s.occupy n).choice = s.choice := rfl
@[simp] theorem State.occupy_free (s : State) (n : Nat) : (s.occupy n).free = s.free := rfl
@[simp] theorem State.occupy_firing (s : State) (n : Nat) : (s.occupy n).firing = s.firing := rfl

/-! ### bump -/

@[simp] theorem State.bump_core (s : State) : (s.bump).core = s.core := rfl
@[simp] theorem State.bump_others (s : State) : (s.bump).others = s.others := rfl
@[simp] theorem State.bump_mem (s : State) : (s.bump).mem = s.mem := rfl
@[simp] theorem State.bump_net (s : State) : (s.bump).net = { s.net with nextId := s.net.nextId + 1 } := rfl
@[simp] theorem State.bump_pools (s : State) : (s.bump).pools = s.pools := rfl
@[simp] theorem State.bump_parts (s : State) : (s.bump).parts = s.parts := rfl
@[simp] theorem State.bump_disp (s : State) : (s.bump).disp = s.disp := rfl
@[simp] theorem State.bump_host (s : State) : (s.bump).host = s.host := rfl
@[simp] theorem State.bump_cycle (s : State) : (s.bump).cycle = s.cycle := rfl
@[simp] theorem State.bump_sched (s : State) : (s.bump).sched = s.sched := rfl
@[simp] theorem State.bump_choice (s : State) : (s.bump).choice = s.choice := rfl
@[simp] theorem State.bump_free (s : State) : (s.bump).free = s.free := rfl
@[simp] theorem State.bump_firing (s : State) : (s.bump).firing = s.firing := rfl

/-! ### begin -/

@[simp] theorem State.begin_core (s : State) (t : Reg) (c : OpClass) (w : Wait) : (s.begin t c w).core = { s.core with set := s.core.set.addOp ⟨s.net.nextId, t, c, w⟩ } := rfl
@[simp] theorem State.begin_others (s : State) (t : Reg) (c : OpClass) (w : Wait) : (s.begin t c w).others = s.others := rfl
@[simp] theorem State.begin_mem (s : State) (t : Reg) (c : OpClass) (w : Wait) : (s.begin t c w).mem = s.mem := rfl
@[simp] theorem State.begin_net (s : State) (t : Reg) (c : OpClass) (w : Wait) : (s.begin t c w).net = { s.net with nextId := s.net.nextId + 1 } := rfl
@[simp] theorem State.begin_pools (s : State) (t : Reg) (c : OpClass) (w : Wait) : (s.begin t c w).pools = s.pools := rfl
@[simp] theorem State.begin_parts (s : State) (t : Reg) (c : OpClass) (w : Wait) : (s.begin t c w).parts = s.parts := rfl
@[simp] theorem State.begin_disp (s : State) (t : Reg) (c : OpClass) (w : Wait) : (s.begin t c w).disp = s.disp := rfl
@[simp] theorem State.begin_host (s : State) (t : Reg) (c : OpClass) (w : Wait) : (s.begin t c w).host = s.host := rfl
@[simp] theorem State.begin_cycle (s : State) (t : Reg) (c : OpClass) (w : Wait) : (s.begin t c w).cycle = s.cycle := rfl
@[simp] theorem State.begin_sched (s : State) (t : Reg) (c : OpClass) (w : Wait) : (s.begin t c w).sched = s.sched := rfl
@[simp] theorem State.begin_choice (s : State) (t : Reg) (c : OpClass) (w : Wait) : (s.begin t c w).choice = s.choice := rfl
@[simp] theorem State.begin_free (s : State) (t : Reg) (c : OpClass) (w : Wait) : (s.begin t c w).free = s.free := rfl
@[simp] theorem State.begin_firing (s : State) (t : Reg) (c : OpClass) (w : Wait) : (s.begin t c w).firing = s.firing := rfl

/-! ### later -/

@[simp] theorem State.later_core (s : State) (t : Reg) (c : OpClass) (v : Word) (e : ErrKind) (n : Nat) : (s.later t c v e n).core = { s.core with set := s.core.set.addOp ⟨s.net.nextId, t, c, .ready v e (s.cycle + n)⟩ } := rfl
@[simp] theorem State.later_others (s : State) (t : Reg) (c : OpClass) (v : Word) (e : ErrKind) (n : Nat) : (s.later t c v e n).others = s.others := rfl
@[simp] theorem State.later_mem (s : State) (t : Reg) (c : OpClass) (v : Word) (e : ErrKind) (n : Nat) : (s.later t c v e n).mem = s.mem := rfl
@[simp] theorem State.later_net (s : State) (t : Reg) (c : OpClass) (v : Word) (e : ErrKind) (n : Nat) : (s.later t c v e n).net = { s.net with nextId := s.net.nextId + 1 } := rfl
@[simp] theorem State.later_pools (s : State) (t : Reg) (c : OpClass) (v : Word) (e : ErrKind) (n : Nat) : (s.later t c v e n).pools = s.pools := rfl
@[simp] theorem State.later_parts (s : State) (t : Reg) (c : OpClass) (v : Word) (e : ErrKind) (n : Nat) : (s.later t c v e n).parts = s.parts := rfl
@[simp] theorem State.later_disp (s : State) (t : Reg) (c : OpClass) (v : Word) (e : ErrKind) (n : Nat) : (s.later t c v e n).disp = s.disp := rfl
@[simp] theorem State.later_host (s : State) (t : Reg) (c : OpClass) (v : Word) (e : ErrKind) (n : Nat) : (s.later t c v e n).host = s.host := rfl
@[simp] theorem State.later_cycle (s : State) (t : Reg) (c : OpClass) (v : Word) (e : ErrKind) (n : Nat) : (s.later t c v e n).cycle = s.cycle := rfl
@[simp] theorem State.later_sched (s : State) (t : Reg) (c : OpClass) (v : Word) (e : ErrKind) (n : Nat) : (s.later t c v e n).sched = s.sched := rfl
@[simp] theorem State.later_choice (s : State) (t : Reg) (c : OpClass) (v : Word) (e : ErrKind) (n : Nat) : (s.later t c v e n).choice = s.choice := rfl
@[simp] theorem State.later_free (s : State) (t : Reg) (c : OpClass) (v : Word) (e : ErrKind) (n : Nat) : (s.later t c v e n).free = s.free := rfl
@[simp] theorem State.later_firing (s : State) (t : Reg) (c : OpClass) (v : Word) (e : ErrKind) (n : Nat) : (s.later t c v e n).firing = s.firing := rfl

/-! ### chosen -/

@[simp] theorem State.chosen_core (s : State) : (s.chosen).core = s.core := rfl
@[simp] theorem State.chosen_others (s : State) : (s.chosen).others = s.others := rfl
@[simp] theorem State.chosen_mem (s : State) : (s.chosen).mem = s.mem := rfl
@[simp] theorem State.chosen_net (s : State) : (s.chosen).net = s.net := rfl
@[simp] theorem State.chosen_pools (s : State) : (s.chosen).pools = s.pools := rfl
@[simp] theorem State.chosen_parts (s : State) : (s.chosen).parts = s.parts := rfl
@[simp] theorem State.chosen_disp (s : State) : (s.chosen).disp = s.disp := rfl
@[simp] theorem State.chosen_host (s : State) : (s.chosen).host = s.host := rfl
@[simp] theorem State.chosen_cycle (s : State) : (s.chosen).cycle = s.cycle := rfl
@[simp] theorem State.chosen_sched (s : State) : (s.chosen).sched = s.sched := rfl
@[simp] theorem State.chosen_choice (s : State) : (s.chosen).choice = s.choice.tail := rfl
@[simp] theorem State.chosen_free (s : State) : (s.chosen).free = s.free := rfl
@[simp] theorem State.chosen_firing (s : State) : (s.chosen).firing = s.firing := rfl

/-! ### spent -/

@[simp] theorem State.spent_core (s : State) : (s.spent).core = s.core := rfl
@[simp] theorem State.spent_others (s : State) : (s.spent).others = s.others := rfl
@[simp] theorem State.spent_mem (s : State) : (s.spent).mem = s.mem := rfl
@[simp] theorem State.spent_net (s : State) : (s.spent).net = s.net := rfl
@[simp] theorem State.spent_pools (s : State) : (s.spent).pools = s.pools := rfl
@[simp] theorem State.spent_parts (s : State) : (s.spent).parts = s.parts := rfl
@[simp] theorem State.spent_disp (s : State) : (s.spent).disp = s.disp := rfl
@[simp] theorem State.spent_host (s : State) : (s.spent).host = s.host := rfl
@[simp] theorem State.spent_cycle (s : State) : (s.spent).cycle = s.cycle := rfl
@[simp] theorem State.spent_sched (s : State) : (s.spent).sched = s.sched := rfl
@[simp] theorem State.spent_choice (s : State) : (s.spent).choice = s.choice := rfl
@[simp] theorem State.spent_free (s : State) : (s.spent).free = s.free + 1 := rfl
@[simp] theorem State.spent_firing (s : State) : (s.spent).firing = s.firing := rfl

/-! ### mapPart -/

@[simp] theorem State.mapPart_core (s : State) (p : Nat) (f : Part → Part) : (s.mapPart p f).core = s.core := rfl
@[simp] theorem State.mapPart_others (s : State) (p : Nat) (f : Part → Part) : (s.mapPart p f).others = s.others := rfl
@[simp] theorem State.mapPart_mem (s : State) (p : Nat) (f : Part → Part) : (s.mapPart p f).mem = s.mem := rfl
@[simp] theorem State.mapPart_net (s : State) (p : Nat) (f : Part → Part) : (s.mapPart p f).net = s.net := rfl
@[simp] theorem State.mapPart_pools (s : State) (p : Nat) (f : Part → Part) : (s.mapPart p f).pools = s.pools := rfl
@[simp] theorem State.mapPart_parts (s : State) (p : Nat) (f : Part → Part) : (s.mapPart p f).parts = s.parts.map (fun r => if r.num = p then f r else r) := rfl
@[simp] theorem State.mapPart_disp (s : State) (p : Nat) (f : Part → Part) : (s.mapPart p f).disp = s.disp := rfl
@[simp] theorem State.mapPart_host (s : State) (p : Nat) (f : Part → Part) : (s.mapPart p f).host = s.host := rfl
@[simp] theorem State.mapPart_cycle (s : State) (p : Nat) (f : Part → Part) : (s.mapPart p f).cycle = s.cycle := rfl
@[simp] theorem State.mapPart_sched (s : State) (p : Nat) (f : Part → Part) : (s.mapPart p f).sched = s.sched := rfl
@[simp] theorem State.mapPart_choice (s : State) (p : Nat) (f : Part → Part) : (s.mapPart p f).choice = s.choice := rfl
@[simp] theorem State.mapPart_free (s : State) (p : Nat) (f : Part → Part) : (s.mapPart p f).free = s.free := rfl
@[simp] theorem State.mapPart_firing (s : State) (p : Nat) (f : Part → Part) : (s.mapPart p f).firing = s.firing := rfl

/-! ### use -/

@[simp] theorem State.use_core (s : State) (p : Nat) (o : BitVec 16) (q n : Nat) : (s.use p o q n).core = s.core := rfl
@[simp] theorem State.use_others (s : State) (p : Nat) (o : BitVec 16) (q n : Nat) : (s.use p o q n).others = s.others := rfl
@[simp] theorem State.use_mem (s : State) (p : Nat) (o : BitVec 16) (q n : Nat) : (s.use p o q n).mem = s.mem := rfl
@[simp] theorem State.use_net (s : State) (p : Nat) (o : BitVec 16) (q n : Nat) : (s.use p o q n).net = s.net := rfl
@[simp] theorem State.use_pools (s : State) (p : Nat) (o : BitVec 16) (q n : Nat) : (s.use p o q n).pools = s.pools := rfl
@[simp] theorem State.use_parts (s : State) (p : Nat) (o : BitVec 16) (q n : Nat) : (s.use p o q n).parts = s.parts := rfl
@[simp] theorem State.use_disp (s : State) (p : Nat) (o : BitVec 16) (q n : Nat) : (s.use p o q n).disp = { s.disp with usage := addUsage p o q n s.disp.usage } := rfl
@[simp] theorem State.use_host (s : State) (p : Nat) (o : BitVec 16) (q n : Nat) : (s.use p o q n).host = s.host := rfl
@[simp] theorem State.use_cycle (s : State) (p : Nat) (o : BitVec 16) (q n : Nat) : (s.use p o q n).cycle = s.cycle := rfl
@[simp] theorem State.use_sched (s : State) (p : Nat) (o : BitVec 16) (q n : Nat) : (s.use p o q n).sched = s.sched := rfl
@[simp] theorem State.use_choice (s : State) (p : Nat) (o : BitVec 16) (q n : Nat) : (s.use p o q n).choice = s.choice := rfl
@[simp] theorem State.use_free (s : State) (p : Nat) (o : BitVec 16) (q n : Nat) : (s.use p o q n).free = s.free := rfl
@[simp] theorem State.use_firing (s : State) (p : Nat) (o : BitVec 16) (q n : Nat) : (s.use p o q n).firing = s.firing := rfl

/-! ### mapNet -/

@[simp] theorem State.mapNet_core (s : State) (f : Net → Net) : (s.mapNet f).core = s.core := rfl
@[simp] theorem State.mapNet_others (s : State) (f : Net → Net) : (s.mapNet f).others = s.others := rfl
@[simp] theorem State.mapNet_mem (s : State) (f : Net → Net) : (s.mapNet f).mem = s.mem := rfl
@[simp] theorem State.mapNet_net (s : State) (f : Net → Net) : (s.mapNet f).net = f s.net := rfl
@[simp] theorem State.mapNet_pools (s : State) (f : Net → Net) : (s.mapNet f).pools = s.pools := rfl
@[simp] theorem State.mapNet_parts (s : State) (f : Net → Net) : (s.mapNet f).parts = s.parts := rfl
@[simp] theorem State.mapNet_disp (s : State) (f : Net → Net) : (s.mapNet f).disp = s.disp := rfl
@[simp] theorem State.mapNet_host (s : State) (f : Net → Net) : (s.mapNet f).host = s.host := rfl
@[simp] theorem State.mapNet_cycle (s : State) (f : Net → Net) : (s.mapNet f).cycle = s.cycle := rfl
@[simp] theorem State.mapNet_sched (s : State) (f : Net → Net) : (s.mapNet f).sched = s.sched := rfl
@[simp] theorem State.mapNet_choice (s : State) (f : Net → Net) : (s.mapNet f).choice = s.choice := rfl
@[simp] theorem State.mapNet_free (s : State) (f : Net → Net) : (s.mapNet f).free = s.free := rfl
@[simp] theorem State.mapNet_firing (s : State) (f : Net → Net) : (s.mapNet f).firing = s.firing := rfl

/-! ### mapSeq of a set -/

@[simp] theorem CSet.mapSeq_seq (c : CSet) (f : Seq → Seq) : (c.mapSeq f).seq = f c.seq := rfl
@[simp] theorem CSet.mapSeq_unit (c : CSet) (f : Seq → Seq) : (c.mapSeq f).unit = c.unit := rfl
@[simp] theorem CSet.mapSeq_fab (c : CSet) (f : Seq → Seq) : (c.mapSeq f).fab = c.fab := rfl
@[simp] theorem CSet.mapSeq_rounds (c : CSet) (f : Seq → Seq) : (c.mapSeq f).rounds = c.rounds := rfl
@[simp] theorem CSet.mapSeq_planes (c : CSet) (f : Seq → Seq) : (c.mapSeq f).planes = c.planes := rfl
@[simp] theorem CSet.mapSeq_comp (c : CSet) (f : Seq → Seq) : (c.mapSeq f).comp = c.comp := rfl
@[simp] theorem CSet.mapSeq_tags (c : CSet) (f : Seq → Seq) : (c.mapSeq f).tags = c.tags := rfl
@[simp] theorem CSet.mapSeq_ops (c : CSet) (f : Seq → Seq) : (c.mapSeq f).ops = c.ops := rfl
@[simp] theorem CSet.mapSeq_eng (c : CSet) (f : Seq → Seq) : (c.mapSeq f).eng = c.eng := rfl
@[simp] theorem CSet.mapSeq_fences (c : CSet) (f : Seq → Seq) : (c.mapSeq f).fences = c.fences := rfl
@[simp] theorem CSet.mapSeq_tlb (c : CSet) (f : Seq → Seq) : (c.mapSeq f).tlb = c.tlb := rfl
@[simp] theorem CSet.mapSeq_snaps (c : CSet) (f : Seq → Seq) : (c.mapSeq f).snaps = c.snaps := rfl
@[simp] theorem CSet.mapSeq_icache (c : CSet) (f : Seq → Seq) : (c.mapSeq f).icache = c.icache := rfl
@[simp] theorem CSet.mapSeq_asyncs (c : CSet) (f : Seq → Seq) : (c.mapSeq f).asyncs = c.asyncs := rfl
@[simp] theorem CSet.mapSeq_halting (c : CSet) (f : Seq → Seq) : (c.mapSeq f).halting = c.halting := rfl
@[simp] theorem CSet.mapSeq_errCount (c : CSet) (f : Seq → Seq) : (c.mapSeq f).errCount = c.errCount := rfl
@[simp] theorem CSet.mapSeq_parked (c : CSet) (f : Seq → Seq) : (c.mapSeq f).parked = c.parked := rfl
@[simp] theorem CSet.mapSeq_busy (c : CSet) (f : Seq → Seq) : (c.mapSeq f).busy = c.busy := rfl
@[simp] theorem CSet.mapSeq_tagsSeen (c : CSet) (f : Seq → Seq) : (c.mapSeq f).tagsSeen = c.tagsSeen := rfl
@[simp] theorem CSet.mapSeq_tagsDue (c : CSet) (f : Seq → Seq) : (c.mapSeq f).tagsDue = c.tagsDue := rfl
@[simp] theorem CSet.mapSeq_partner (c : CSet) (f : Seq → Seq) : (c.mapSeq f).partner = c.partner := rfl

/-! ### addOp of a set -/

@[simp] theorem CSet.addOp_seq (c : CSet) (o : Op) : (c.addOp o).seq = c.seq.setPending o.t := rfl
@[simp] theorem CSet.addOp_unit (c : CSet) (o : Op) : (c.addOp o).unit = c.unit := rfl
@[simp] theorem CSet.addOp_fab (c : CSet) (o : Op) : (c.addOp o).fab = c.fab := rfl
@[simp] theorem CSet.addOp_rounds (c : CSet) (o : Op) : (c.addOp o).rounds = c.rounds := rfl
@[simp] theorem CSet.addOp_planes (c : CSet) (o : Op) : (c.addOp o).planes = c.planes := rfl
@[simp] theorem CSet.addOp_comp (c : CSet) (o : Op) : (c.addOp o).comp = c.comp := rfl
@[simp] theorem CSet.addOp_tags (c : CSet) (o : Op) : (c.addOp o).tags = c.tags := rfl
@[simp] theorem CSet.addOp_ops (c : CSet) (o : Op) : (c.addOp o).ops = c.ops ++ [o] := rfl
@[simp] theorem CSet.addOp_eng (c : CSet) (o : Op) : (c.addOp o).eng = c.eng := rfl
@[simp] theorem CSet.addOp_fences (c : CSet) (o : Op) : (c.addOp o).fences = c.fences := rfl
@[simp] theorem CSet.addOp_tlb (c : CSet) (o : Op) : (c.addOp o).tlb = c.tlb := rfl
@[simp] theorem CSet.addOp_snaps (c : CSet) (o : Op) : (c.addOp o).snaps = c.snaps := rfl
@[simp] theorem CSet.addOp_icache (c : CSet) (o : Op) : (c.addOp o).icache = c.icache := rfl
@[simp] theorem CSet.addOp_asyncs (c : CSet) (o : Op) : (c.addOp o).asyncs = c.asyncs := rfl
@[simp] theorem CSet.addOp_halting (c : CSet) (o : Op) : (c.addOp o).halting = c.halting := rfl
@[simp] theorem CSet.addOp_errCount (c : CSet) (o : Op) : (c.addOp o).errCount = c.errCount := rfl
@[simp] theorem CSet.addOp_parked (c : CSet) (o : Op) : (c.addOp o).parked = c.parked := rfl
@[simp] theorem CSet.addOp_busy (c : CSet) (o : Op) : (c.addOp o).busy = c.busy := rfl
@[simp] theorem CSet.addOp_tagsSeen (c : CSet) (o : Op) : (c.addOp o).tagsSeen = c.tagsSeen := rfl
@[simp] theorem CSet.addOp_tagsDue (c : CSet) (o : Op) : (c.addOp o).tagsDue = c.tagsDue := rfl
@[simp] theorem CSet.addOp_partner (c : CSet) (o : Op) : (c.addOp o).partner = c.partner := rfl

/-! ### rewait of a set -/

@[simp] theorem CSet.rewait_seq (c : CSet) (i : Nat) (w : Wait) : (c.rewait i w).seq = c.seq := rfl
@[simp] theorem CSet.rewait_unit (c : CSet) (i : Nat) (w : Wait) : (c.rewait i w).unit = c.unit := rfl
@[simp] theorem CSet.rewait_fab (c : CSet) (i : Nat) (w : Wait) : (c.rewait i w).fab = c.fab := rfl
@[simp] theorem CSet.rewait_rounds (c : CSet) (i : Nat) (w : Wait) : (c.rewait i w).rounds = c.rounds := rfl
@[simp] theorem CSet.rewait_planes (c : CSet) (i : Nat) (w : Wait) : (c.rewait i w).planes = c.planes := rfl
@[simp] theorem CSet.rewait_comp (c : CSet) (i : Nat) (w : Wait) : (c.rewait i w).comp = c.comp := rfl
@[simp] theorem CSet.rewait_tags (c : CSet) (i : Nat) (w : Wait) : (c.rewait i w).tags = c.tags := rfl
@[simp] theorem CSet.rewait_ops (c : CSet) (i : Nat) (w : Wait) : (c.rewait i w).ops = c.ops.map (fun o => if o.id = i then { o with wait := w } else o) := rfl
@[simp] theorem CSet.rewait_eng (c : CSet) (i : Nat) (w : Wait) : (c.rewait i w).eng = c.eng := rfl
@[simp] theorem CSet.rewait_fences (c : CSet) (i : Nat) (w : Wait) : (c.rewait i w).fences = c.fences := rfl
@[simp] theorem CSet.rewait_tlb (c : CSet) (i : Nat) (w : Wait) : (c.rewait i w).tlb = c.tlb := rfl
@[simp] theorem CSet.rewait_snaps (c : CSet) (i : Nat) (w : Wait) : (c.rewait i w).snaps = c.snaps := rfl
@[simp] theorem CSet.rewait_icache (c : CSet) (i : Nat) (w : Wait) : (c.rewait i w).icache = c.icache := rfl
@[simp] theorem CSet.rewait_asyncs (c : CSet) (i : Nat) (w : Wait) : (c.rewait i w).asyncs = c.asyncs := rfl
@[simp] theorem CSet.rewait_halting (c : CSet) (i : Nat) (w : Wait) : (c.rewait i w).halting = c.halting := rfl
@[simp] theorem CSet.rewait_errCount (c : CSet) (i : Nat) (w : Wait) : (c.rewait i w).errCount = c.errCount := rfl
@[simp] theorem CSet.rewait_parked (c : CSet) (i : Nat) (w : Wait) : (c.rewait i w).parked = c.parked := rfl
@[simp] theorem CSet.rewait_busy (c : CSet) (i : Nat) (w : Wait) : (c.rewait i w).busy = c.busy := rfl
@[simp] theorem CSet.rewait_tagsSeen (c : CSet) (i : Nat) (w : Wait) : (c.rewait i w).tagsSeen = c.tagsSeen := rfl
@[simp] theorem CSet.rewait_tagsDue (c : CSet) (i : Nat) (w : Wait) : (c.rewait i w).tagsDue = c.tagsDue := rfl
@[simp] theorem CSet.rewait_partner (c : CSet) (i : Nat) (w : Wait) : (c.rewait i w).partner = c.partner := rfl

/-! ### setTag of a set -/

@[simp] theorem CSet.setTag_seq (c : CSet) (i : Nat) (b : Bool) : (c.setTag i b).seq = c.seq := rfl
@[simp] theorem CSet.setTag_unit (c : CSet) (i : Nat) (b : Bool) : (c.setTag i b).unit = c.unit := rfl
@[simp] theorem CSet.setTag_fab (c : CSet) (i : Nat) (b : Bool) : (c.setTag i b).fab = c.fab := rfl
@[simp] theorem CSet.setTag_rounds (c : CSet) (i : Nat) (b : Bool) : (c.setTag i b).rounds = c.rounds := rfl
@[simp] theorem CSet.setTag_planes (c : CSet) (i : Nat) (b : Bool) : (c.setTag i b).planes = c.planes := rfl
@[simp] theorem CSet.setTag_comp (c : CSet) (i : Nat) (b : Bool) : (c.setTag i b).comp = c.comp := rfl
@[simp] theorem CSet.setTag_tags (c : CSet) (i : Nat) (b : Bool) : (c.setTag i b).tags = if c.unitTags i then c.tags else putTags c.tags (tagBit i) b := rfl
@[simp] theorem CSet.setTag_tagsSeen (c : CSet) (i : Nat) (b : Bool) : (c.setTag i b).tagsSeen = putTags c.tagsSeen (tagBit i) b := rfl
@[simp] theorem CSet.setTag_partner (c : CSet) (i : Nat) (b : Bool) : (c.setTag i b).partner = c.partner := rfl
@[simp] theorem CSet.setTag_ops (c : CSet) (i : Nat) (b : Bool) : (c.setTag i b).ops = c.ops := rfl
@[simp] theorem CSet.setTag_eng (c : CSet) (i : Nat) (b : Bool) : (c.setTag i b).eng = c.eng := rfl
@[simp] theorem CSet.setTag_fences (c : CSet) (i : Nat) (b : Bool) : (c.setTag i b).fences = c.fences := rfl
@[simp] theorem CSet.setTag_tlb (c : CSet) (i : Nat) (b : Bool) : (c.setTag i b).tlb = c.tlb := rfl
@[simp] theorem CSet.setTag_snaps (c : CSet) (i : Nat) (b : Bool) : (c.setTag i b).snaps = c.snaps := rfl
@[simp] theorem CSet.setTag_icache (c : CSet) (i : Nat) (b : Bool) : (c.setTag i b).icache = c.icache := rfl
@[simp] theorem CSet.setTag_asyncs (c : CSet) (i : Nat) (b : Bool) : (c.setTag i b).asyncs = c.asyncs := rfl
@[simp] theorem CSet.setTag_halting (c : CSet) (i : Nat) (b : Bool) : (c.setTag i b).halting = c.halting := rfl
@[simp] theorem CSet.setTag_errCount (c : CSet) (i : Nat) (b : Bool) : (c.setTag i b).errCount = c.errCount := rfl
@[simp] theorem CSet.setTag_parked (c : CSet) (i : Nat) (b : Bool) : (c.setTag i b).parked = c.parked := rfl
@[simp] theorem CSet.setTag_busy (c : CSet) (i : Nat) (b : Bool) : (c.setTag i b).busy = c.busy := rfl

end Sys2Proof.Machine
end

