-- ==== Sys2Proof/Laws/Access.lean ====
section
/-!
SUPPORT. What a write at its home, a test of a flag, the tension limiter and a change of a core's active set leave, said
once.
-/

namespace Sys2Proof.Machine

/-! ### A flag tested (R238) -/

@[simp] theorem State.testFlag_mem (s : State) (w : SigWait) : (s.testFlag w).mem = s.mem := by
  dsimp only [State.testFlag]
  split <;> split <;> rfl

@[simp] theorem State.testFlag_parts (s : State) (w : SigWait) : (s.testFlag w).parts = s.parts := by
  dsimp only [State.testFlag]
  split <;> split <;> rfl

@[simp] theorem State.testFlag_pools (s : State) (w : SigWait) : (s.testFlag w).pools = s.pools := by
  dsimp only [State.testFlag]
  split <;> split <;> rfl

/-- Flags tested one after the other keep what each test keeps. -/
theorem State.testFlags_keep {α : Type} (g : State → α) (h : ∀ s w, g (State.testFlag s w) = g s) (l : List SigWait) (s : State) :
    g (l.foldl State.testFlag s) = g s := by
  induction l generalizing s with
  | nil => rfl
  | cons w l ih => rw [List.foldl_cons, ih, h]

/-! ### Bytes written at a home (R244) -/

@[simp] theorem State.land_mem (s : State) (pa : Nat) (bs : List Byte) : (s.land pa bs).mem = s.mem.putBytes pa bs :=
  State.testFlags_keep State.mem State.testFlag_mem _ _

@[simp] theorem State.apply_mem (s : State) (pa : Nat) (bs : List Byte) : (s.apply pa bs).mem = s.mem.putBytes pa bs :=
  s.land_mem pa bs

/-- A write at a home keeps memory's canonical form. -/
theorem State.apply_wf {s : State} (pa : Nat) (bs : List Byte) (h : s.mem.wf) : (s.apply pa bs).mem.wf := by
  rw [State.apply_mem]
  exact Memory.putBytes_wf pa bs h

/-! ### The tension limiter (R320) -/

@[simp] theorem State.spend_mem (s : State) (p c n k : Nat) : (s.spend p c n k).mem = s.mem := rfl
@[simp] theorem State.spend_core (s : State) (p c n k : Nat) : (s.spend p c n k).core = s.core := rfl
@[simp] theorem State.spend_packets (s : State) (p c n k : Nat) : (s.spend p c n k).net.packets = s.net.packets := rfl
@[simp] theorem State.settleBuckets_mem (s : State) (p : Part) : (s.settleBuckets p).mem = s.mem := rfl
@[simp] theorem State.settleBuckets_core (s : State) (p : Part) : (s.settleBuckets p).core = s.core := rfl
@[simp] theorem State.settleBuckets_packets (s : State) (p : Part) : (s.settleBuckets p).net.packets = s.net.packets := rfl

/-! ### Output ports (R260) -/

@[simp] theorem State.served_mem (s : State) (k : Packet) : (s.served k).mem = s.mem := rfl
@[simp] theorem State.served_core (s : State) (k : Packet) : (s.served k).core = s.core := rfl
@[simp] theorem State.served_packets (s : State) (k : Packet) : (s.served k).net.packets = s.net.packets := rfl

/-! ### The active set of a core (R313, R314) -/

@[simp] theorem Core.withActive_set (k : Core) (c : CSet) (p : Parked) : (k.withActive c p).set = c := rfl
@[simp] theorem Core.withActive_shadow (k : Core) (c : CSet) (p : Parked) : (k.withActive c p).shadow = k.shadow := rfl
@[simp] theorem Core.withActive_num (k : Core) (c : CSet) (p : Parked) : (k.withActive c p).num = k.num := rfl
@[simp] theorem Core.withActive_parking (k : Core) (c : CSet) (p : Parked) :
    (k.withActive c p).parking = { p with spad := [] } := rfl

/-- What stands in a core for its active set is what it would have with it. -/
theorem Core.withActive_self (k : Core) : k.withActive k.set k.parking = k := rfl

end Sys2Proof.Machine
end

