-- ==== Sys2Proof/Laws/Dispatch.lean ====
section
/-!
SUPPORT. The dispatch, one equation per constructor, so that no proof opens the match of `exec`.
-/

namespace Sys2Proof.Machine

@[simp] theorem exec_add (d : Reg) (a : Reg) (b : Reg) (s : State) : exec (.add d a b) s = execAdd d a b s := rfl
@[simp] theorem exec_sub (d : Reg) (a : Reg) (b : Reg) (s : State) : exec (.sub d a b) s = execSub d a b s := rfl
@[simp] theorem exec_mul (d : Reg) (a : Reg) (b : Reg) (s : State) : exec (.mul d a b) s = execMul d a b s := rfl
@[simp] theorem exec_mulh (d : Reg) (a : Reg) (b : Reg) (s : State) : exec (.mulh d a b) s = execMulh d a b s := rfl
@[simp] theorem exec_mulhu (d : Reg) (a : Reg) (b : Reg) (s : State) : exec (.mulhu d a b) s = execMulhu d a b s := rfl
@[simp] theorem exec_divs (d : Reg) (a : Reg) (b : Reg) (s : State) : exec (.divs d a b) s = execDivs d a b s := rfl
@[simp] theorem exec_divu (d : Reg) (a : Reg) (b : Reg) (s : State) : exec (.divu d a b) s = execDivu d a b s := rfl
@[simp] theorem exec_rems (d : Reg) (a : Reg) (b : Reg) (s : State) : exec (.rems d a b) s = execRems d a b s := rfl
@[simp] theorem exec_remu (d : Reg) (a : Reg) (b : Reg) (s : State) : exec (.remu d a b) s = execRemu d a b s := rfl
@[simp] theorem exec_and (d : Reg) (a : Reg) (b : Reg) (s : State) : exec (.and d a b) s = execAnd d a b s := rfl
@[simp] theorem exec_or (d : Reg) (a : Reg) (b : Reg) (s : State) : exec (.or d a b) s = execOr d a b s := rfl
@[simp] theorem exec_xor (d : Reg) (a : Reg) (b : Reg) (s : State) : exec (.xor d a b) s = execXor d a b s := rfl
@[simp] theorem exec_andn (d : Reg) (a : Reg) (b : Reg) (s : State) : exec (.andn d a b) s = execAndn d a b s := rfl
@[simp] theorem exec_shl (d : Reg) (a : Reg) (b : Reg) (s : State) : exec (.shl d a b) s = execShl d a b s := rfl
@[simp] theorem exec_shr (d : Reg) (a : Reg) (b : Reg) (s : State) : exec (.shr d a b) s = execShr d a b s := rfl
@[simp] theorem exec_sra (d : Reg) (a : Reg) (b : Reg) (s : State) : exec (.sra d a b) s = execSra d a b s := rfl
@[simp] theorem exec_min (d : Reg) (a : Reg) (b : Reg) (s : State) : exec (.min d a b) s = execMin d a b s := rfl
@[simp] theorem exec_max (d : Reg) (a : Reg) (b : Reg) (s : State) : exec (.max d a b) s = execMax d a b s := rfl
@[simp] theorem exec_minu (d : Reg) (a : Reg) (b : Reg) (s : State) : exec (.minu d a b) s = execMinu d a b s := rfl
@[simp] theorem exec_maxu (d : Reg) (a : Reg) (b : Reg) (s : State) : exec (.maxu d a b) s = execMaxu d a b s := rfl
@[simp] theorem exec_cmpeq (d : Reg) (a : Reg) (b : Reg) (s : State) : exec (.cmpeq d a b) s = execCmpeq d a b s := rfl
@[simp] theorem exec_cmpne (d : Reg) (a : Reg) (b : Reg) (s : State) : exec (.cmpne d a b) s = execCmpne d a b s := rfl
@[simp] theorem exec_cmplt (d : Reg) (a : Reg) (b : Reg) (s : State) : exec (.cmplt d a b) s = execCmplt d a b s := rfl
@[simp] theorem exec_cmpltu (d : Reg) (a : Reg) (b : Reg) (s : State) : exec (.cmpltu d a b) s = execCmpltu d a b s := rfl
@[simp] theorem exec_cmple (d : Reg) (a : Reg) (b : Reg) (s : State) : exec (.cmple d a b) s = execCmple d a b s := rfl
@[simp] theorem exec_cmpleu (d : Reg) (a : Reg) (b : Reg) (s : State) : exec (.cmpleu d a b) s = execCmpleu d a b s := rfl
@[simp] theorem exec_clz (d : Reg) (a : Reg) (s : State) : exec (.clz d a) s = execClz d a s := rfl
@[simp] theorem exec_popc (d : Reg) (a : Reg) (s : State) : exec (.popc d a) s = execPopc d a s := rfl
@[simp] theorem exec_addi (d : Reg) (a : Reg) (i : BitVec 14) (s : State) : exec (.addi d a i) s = execAddi d a i s := rfl
@[simp] theorem exec_andi (d : Reg) (a : Reg) (i : BitVec 14) (s : State) : exec (.andi d a i) s = execAndi d a i s := rfl
@[simp] theorem exec_ori (d : Reg) (a : Reg) (i : BitVec 14) (s : State) : exec (.ori d a i) s = execOri d a i s := rfl
@[simp] theorem exec_xori (d : Reg) (a : Reg) (i : BitVec 14) (s : State) : exec (.xori d a i) s = execXori d a i s := rfl
@[simp] theorem exec_shli (d : Reg) (a : Reg) (n : BitVec 6) (s : State) : exec (.shli d a n) s = execShli d a n s := rfl
@[simp] theorem exec_shri (d : Reg) (a : Reg) (n : BitVec 6) (s : State) : exec (.shri d a n) s = execShri d a n s := rfl
@[simp] theorem exec_srai (d : Reg) (a : Reg) (n : BitVec 6) (s : State) : exec (.srai d a n) s = execSrai d a n s := rfl
@[simp] theorem exec_cmplti (d : Reg) (a : Reg) (i : BitVec 14) (s : State) : exec (.cmplti d a i) s = execCmplti d a i s := rfl
@[simp] theorem exec_cmpeqi (d : Reg) (a : Reg) (i : BitVec 14) (s : State) : exec (.cmpeqi d a i) s = execCmpeqi d a i s := rfl
@[simp] theorem exec_sext (d : Reg) (a : Reg) (n : BitVec 6) (s : State) : exec (.sext d a n) s = execSext d a n s := rfl
@[simp] theorem exec_zext (d : Reg) (a : Reg) (n : BitVec 6) (s : State) : exec (.zext d a n) s = execZext d a n s := rfl
@[simp] theorem exec_lui (d : Reg) (i : BitVec 20) (s : State) : exec (.lui d i) s = execLui d i s := rfl
@[simp] theorem exec_addpc (d : Reg) (i : BitVec 20) (s : State) : exec (.addpc d i) s = execAddpc d i s := rfl
@[simp] theorem exec_lih (d : Reg) (i : BitVec 20) (s : State) : exec (.lih d i) s = execLih d i s := rfl
@[simp] theorem exec_beq (a : Reg) (b : Reg) (o : BitVec 11) (s : State) : exec (.beq a b o) s = execBeq a b o s := rfl
@[simp] theorem exec_bne (a : Reg) (b : Reg) (o : BitVec 11) (s : State) : exec (.bne a b o) s = execBne a b o s := rfl
@[simp] theorem exec_blt (a : Reg) (b : Reg) (o : BitVec 11) (s : State) : exec (.blt a b o) s = execBlt a b o s := rfl
@[simp] theorem exec_bge (a : Reg) (b : Reg) (o : BitVec 11) (s : State) : exec (.bge a b o) s = execBge a b o s := rfl
@[simp] theorem exec_bltu (a : Reg) (b : Reg) (o : BitVec 11) (s : State) : exec (.bltu a b o) s = execBltu a b o s := rfl
@[simp] theorem exec_bgeu (a : Reg) (b : Reg) (o : BitVec 11) (s : State) : exec (.bgeu a b o) s = execBgeu a b o s := rfl
@[simp] theorem exec_btr (a : Reg) (o : BitVec 11) (s : State) : exec (.btr a o) s = execBtr a o s := rfl
@[simp] theorem exec_jal (d : Reg) (i : BitVec 20) (s : State) : exec (.jal d i) s = execJal d i s := rfl
@[simp] theorem exec_jalr (d : Reg) (a : Reg) (i : BitVec 14) (s : State) : exec (.jalr d a i) s = execJalr d a i s := rfl
@[simp] theorem exec_ldw (d : Reg) (a : Reg) (i : BitVec 14) (s : State) : exec (.ldw d a i) s = execLdw d a i s := rfl
@[simp] theorem exec_ldd (d : Reg) (a : Reg) (i : BitVec 14) (s : State) : exec (.ldd d a i) s = execLdd d a i s := rfl
@[simp] theorem exec_stw (d : Reg) (a : Reg) (i : BitVec 14) (s : State) : exec (.stw d a i) s = execStw d a i s := rfl
@[simp] theorem exec_std (d : Reg) (a : Reg) (i : BitVec 14) (s : State) : exec (.std d a i) s = execStd d a i s := rfl
@[simp] theorem exec_nop (s : State) : exec (.nop) s = execNop s := rfl
@[simp] theorem exec_halt (s : State) : exec (.halt) s = execHalt s := rfl
@[simp] theorem exec_yield (s : State) : exec (.yield) s = execYield s := rfl
@[simp] theorem exec_trap (a : Reg) (s : State) : exec (.trap a) s = execTrap a s := rfl
@[simp] theorem exec_eret (s : State) : exec (.eret) s = execEret s := rfl
@[simp] theorem exec_tokwait (a : Reg) (s : State) : exec (.tokwait a) s = execTokwait a s := rfl
@[simp] theorem exec_mfs (d : Reg) (i : BitVec 14) (s : State) : exec (.mfs d i) s = execMfs d i s := rfl
@[simp] theorem exec_mts (a : Reg) (i : BitVec 14) (s : State) : exec (.mts a i) s = execMts a i s := rfl
@[simp] theorem exec_cfgld (t : Reg) (a : Reg) (s : State) : exec (.cfgld t a) s = execCfgld t a s := rfl
@[simp] theorem exec_cfgsw (t : Reg) (s : State) : exec (.cfgsw t) s = execCfgsw t s := rfl
@[simp] theorem exec_cfgparm (t : Reg) (a : Reg) (q : BitVec 1) (s : State) : exec (.cfgparm t a q) s = execCfgparm t a q s := rfl
@[simp] theorem exec_cfgrel (t : Reg) (s : State) : exec (.cfgrel t) s = execCfgrel t s := rfl
@[simp] theorem exec_drain (t : Reg) (s : State) : exec (.drain t) s = execDrain t s := rfl
@[simp] theorem exec_qwait (t : Reg) (s : State) : exec (.qwait t) s = execQwait t s := rfl
@[simp] theorem exec_sfeed (t : Reg) (a : Reg) (b : Reg) (q : BitVec 4) (s : State) : exec (.sfeed t a b q) s = execSfeed t a b q s := rfl
@[simp] theorem exec_sfeedt (t : Reg) (a : Reg) (b : Reg) (q : BitVec 4) (s : State) : exec (.sfeedt t a b q) s = execSfeedt t a b q s := rfl
@[simp] theorem exec_sdraw (t : Reg) (a : Reg) (q : BitVec 4) (s : State) : exec (.sdraw t a q) s = execSdraw t a q s := rfl
@[simp] theorem exec_sclose (t : Reg) (q : BitVec 4) (s : State) : exec (.sclose t q) s = execSclose t q s := rfl
@[simp] theorem exec_sstat (t : Reg) (a : Reg) (s : State) : exec (.sstat t a) s = execSstat t a s := rfl
@[simp] theorem exec_tagset (t : Reg) (a : Reg) (b : Reg) (s : State) : exec (.tagset t a b) s = execTagset t a b s := rfl
@[simp] theorem exec_tagclr (t : Reg) (a : Reg) (b : Reg) (s : State) : exec (.tagclr t a b) s = execTagclr t a b s := rfl
@[simp] theorem exec_caston (t : Reg) (a : Reg) (b : Reg) (s : State) : exec (.caston t a b) s = execCaston t a b s := rfl
@[simp] theorem exec_bindoff (t : Reg) (a : Reg) (q : BitVec 1) (s : State) : exec (.bindoff t a q) s = execBindoff t a q s := rfl
@[simp] theorem exec_slip (t : Reg) (a : Reg) (s : State) : exec (.slip t a) s = execSlip t a s := rfl
@[simp] theorem exec_unslip (t : Reg) (a : Reg) (s : State) : exec (.unslip t a) s = execUnslip t a s := rfl
@[simp] theorem exec_lift (t : Reg) (a : Reg) (q : BitVec 1) (s : State) : exec (.lift t a q) s = execLift t a q s := rfl
@[simp] theorem exec_rsave (t : Reg) (s : State) : exec (.rsave t) s = execRsave t s := rfl
@[simp] theorem exec_rload (t : Reg) (a : Reg) (b : Reg) (s : State) : exec (.rload t a b) s = execRload t a b s := rfl
@[simp] theorem exec_strd (t : Reg) (a : Reg) (q : BitVec 2) (s : State) : exec (.strd t a q) s = execStrd t a q s := rfl
@[simp] theorem exec_stwr (t : Reg) (a : Reg) (b : Reg) (q : BitVec 2) (s : State) : exec (.stwr t a b q) s = execStwr t a b q s := rfl
@[simp] theorem exec_acopy (t : Reg) (a : Reg) (b : Reg) (q : BitVec 4) (s : State) : exec (.acopy t a b q) s = execAcopy t a b q s := rfl
@[simp] theorem exec_acopy2 (t : Reg) (a : Reg) (b : Reg) (q : BitVec 4) (s : State) : exec (.acopy2 t a b q) s = execAcopy2 t a b q s := rfl
@[simp] theorem exec_afill (t : Reg) (a : Reg) (b : Reg) (q : BitVec 4) (s : State) : exec (.afill t a b q) s = execAfill t a b q s := rfl
@[simp] theorem exec_qfence (t : Reg) (a : Reg) (s : State) : exec (.qfence t a) s = execQfence t a s := rfl
@[simp] theorem exec_acopyb (t : Reg) (a : Reg) (b : Reg) (q : BitVec 4) (s : State) : exec (.acopyb t a b q) s = execAcopyb t a b q s := rfl
@[simp] theorem exec_tinval (t : Reg) (a : Reg) (b : Reg) (q : BitVec 1) (s : State) : exec (.tinval t a b q) s = execTinval t a b q s := rfl
@[simp] theorem exec_tlook (t : Reg) (a : Reg) (q : BitVec 1) (s : State) : exec (.tlook t a q) s = execTlook t a q s := rfl
@[simp] theorem exec_genres (t : Reg) (a : Reg) (q : BitVec 4) (s : State) : exec (.genres t a q) s = execGenres t a q s := rfl
@[simp] theorem exec_mxw (t : Reg) (a : Reg) (b : Reg) (q : BitVec 3) (s : State) : exec (.mxw t a b q) s = execMxw t a b q s := rfl
@[simp] theorem exec_mxclr (t : Reg) (a : Reg) (q : BitVec 3) (s : State) : exec (.mxclr t a q) s = execMxclr t a q s := rfl
@[simp] theorem exec_accrd (t : Reg) (a : Reg) (b : Reg) (q : BitVec 3) (s : State) : exec (.accrd t a b q) s = execAccrd t a b q s := rfl
@[simp] theorem exec_gpld (t : Reg) (a : Reg) (s : State) : exec (.gpld t a) s = execGpld t a s := rfl
@[simp] theorem exec_balloc (t : Reg) (a : Reg) (s : State) : exec (.balloc t a) s = execBalloc t a s := rfl
@[simp] theorem exec_bfree (t : Reg) (a : Reg) (b : Reg) (s : State) : exec (.bfree t a b) s = execBfree t a b s := rfl
@[simp] theorem exec_btapp (t : Reg) (a : Reg) (q : BitVec 1) (s : State) : exec (.btapp t a q) s = execBtapp t a q s := rfl
@[simp] theorem exec_bttrim (t : Reg) (a : Reg) (b : Reg) (s : State) : exec (.bttrim t a b) s = execBttrim t a b s := rfl
@[simp] theorem exec_btlook (t : Reg) (a : Reg) (b : Reg) (s : State) : exec (.btlook t a b) s = execBtlook t a b s := rfl
@[simp] theorem exec_btfork (t : Reg) (a : Reg) (b : Reg) (s : State) : exec (.btfork t a b) s = execBtfork t a b s := rfl
@[simp] theorem exec_btdrop (t : Reg) (a : Reg) (s : State) : exec (.btdrop t a) s = execBtdrop t a s := rfl
@[simp] theorem exec_bpstat (t : Reg) (a : Reg) (q : BitVec 3) (s : State) : exec (.bpstat t a q) s = execBpstat t a q s := rfl
@[simp] theorem exec_bpmake (t : Reg) (a : Reg) (s : State) : exec (.bpmake t a) s = execBpmake t a s := rfl
@[simp] theorem exec_phb (t : Reg) (s : State) : exec (.phb t) s = execPhb t s := rfl
@[simp] theorem exec_bar (t : Reg) (s : State) : exec (.bar t) s = execBar t s := rfl
@[simp] theorem exec_fence (t : Reg) (q : BitVec 3) (s : State) : exec (.fence t q) s = execFence t q s := rfl
@[simp] theorem exec_sigset (t : Reg) (a : Reg) (b : Reg) (q : BitVec 3) (s : State) : exec (.sigset t a b q) s = execSigset t a b q s := rfl
@[simp] theorem exec_sigwait (t : Reg) (a : Reg) (b : Reg) (q : BitVec 3) (s : State) : exec (.sigwait t a b q) s = execSigwait t a b q s := rfl
@[simp] theorem exec_aadd (t : Reg) (a : Reg) (b : Reg) (q : BitVec 4) (s : State) : exec (.aadd t a b q) s = execAadd t a b q s := rfl
@[simp] theorem exec_aand (t : Reg) (a : Reg) (b : Reg) (q : BitVec 4) (s : State) : exec (.aand t a b q) s = execAand t a b q s := rfl
@[simp] theorem exec_aor (t : Reg) (a : Reg) (b : Reg) (q : BitVec 4) (s : State) : exec (.aor t a b q) s = execAor t a b q s := rfl
@[simp] theorem exec_axor (t : Reg) (a : Reg) (b : Reg) (q : BitVec 4) (s : State) : exec (.axor t a b q) s = execAxor t a b q s := rfl
@[simp] theorem exec_amin (t : Reg) (a : Reg) (b : Reg) (q : BitVec 4) (s : State) : exec (.amin t a b q) s = execAmin t a b q s := rfl
@[simp] theorem exec_amax (t : Reg) (a : Reg) (b : Reg) (q : BitVec 4) (s : State) : exec (.amax t a b q) s = execAmax t a b q s := rfl
@[simp] theorem exec_aminu (t : Reg) (a : Reg) (b : Reg) (q : BitVec 4) (s : State) : exec (.aminu t a b q) s = execAminu t a b q s := rfl
@[simp] theorem exec_amaxu (t : Reg) (a : Reg) (b : Reg) (q : BitVec 4) (s : State) : exec (.amaxu t a b q) s = execAmaxu t a b q s := rfl
@[simp] theorem exec_axchg (t : Reg) (a : Reg) (b : Reg) (q : BitVec 4) (s : State) : exec (.axchg t a b q) s = execAxchg t a b q s := rfl
@[simp] theorem exec_acas (t : Reg) (a : Reg) (b : Reg) (q : BitVec 4) (s : State) : exec (.acas t a b q) s = execAcas t a b q s := rfl
@[simp] theorem exec_aaddf (t : Reg) (a : Reg) (b : Reg) (q : BitVec 3) (s : State) : exec (.aaddf t a b q) s = execAaddf t a b q s := rfl
@[simp] theorem exec_ald (t : Reg) (a : Reg) (q : BitVec 4) (s : State) : exec (.ald t a q) s = execAld t a q s := rfl
@[simp] theorem exec_radd (t : Reg) (a : Reg) (b : Reg) (q : BitVec 4) (s : State) : exec (.radd t a b q) s = execRadd t a b q s := rfl
@[simp] theorem exec_rmin (t : Reg) (a : Reg) (b : Reg) (q : BitVec 4) (s : State) : exec (.rmin t a b q) s = execRmin t a b q s := rfl
@[simp] theorem exec_rmax (t : Reg) (a : Reg) (b : Reg) (q : BitVec 4) (s : State) : exec (.rmax t a b q) s = execRmax t a b q s := rfl
@[simp] theorem exec_raddf (t : Reg) (a : Reg) (b : Reg) (q : BitVec 3) (s : State) : exec (.raddf t a b q) s = execRaddf t a b q s := rfl
@[simp] theorem exec_sendrc (t : Reg) (a : Reg) (b : Reg) (q : BitVec 4) (s : State) : exec (.sendrc t a b q) s = execSendrc t a b q s := rfl
@[simp] theorem exec_rcmask (t : Reg) (a : Reg) (s : State) : exec (.rcmask t a) s = execRcmask t a s := rfl
@[simp] theorem exec_rcumask (t : Reg) (a : Reg) (s : State) : exec (.rcumask t a) s = execRcumask t a s := rfl
@[simp] theorem exec_rcrecv (t : Reg) (a : Reg) (q : BitVec 4) (s : State) : exec (.rcrecv t a q) s = execRcrecv t a q s := rfl
@[simp] theorem exec_ybind (t : Reg) (a : Reg) (q : BitVec 1) (s : State) : exec (.ybind t a q) s = execYbind t a q s := rfl
@[simp] theorem exec_smcfgBind (t : Reg) (a : Reg) (s : State) : exec (.smcfgBind t a) s = execSmcfgBind t a s := rfl
@[simp] theorem exec_smcfgWriteStates (t : Reg) (a : Reg) (b : Reg) (s : State) : exec (.smcfgWriteStates t a b) s = execSmcfgWriteStates t a b s := rfl
@[simp] theorem exec_smcfgReadState (t : Reg) (a : Reg) (s : State) : exec (.smcfgReadState t a) s = execSmcfgReadState t a s := rfl
@[simp] theorem exec_smcomp (t : Reg) (a : Reg) (b : Reg) (q : BitVec 2) (s : State) : exec (.smcomp t a b q) s = execSmcomp t a b q s := rfl
@[simp] theorem exec_smstep (t : Reg) (a : Reg) (b : Reg) (q : BitVec 1) (s : State) : exec (.smstep t a b q) s = execSmstep t a b q s := rfl
@[simp] theorem exec_smmask (t : Reg) (a : Reg) (b : Reg) (q : BitVec 1) (s : State) : exec (.smmask t a b q) s = execSmmask t a b q s := rfl
@[simp] theorem exec_launch (t : Reg) (a : Reg) (b : Reg) (s : State) : exec (.launch t a b) s = execLaunch t a b s := rfl
@[simp] theorem exec_lwait (t : Reg) (a : Reg) (q : BitVec 2) (s : State) : exec (.lwait t a q) s = execLwait t a q s := rfl
@[simp] theorem exec_cancel (t : Reg) (a : Reg) (q : BitVec 4) (s : State) : exec (.cancel t a q) s = execCancel t a q s := rfl
@[simp] theorem exec_cntrd (t : Reg) (a : Reg) (q : BitVec 3) (s : State) : exec (.cntrd t a q) s = execCntrd t a q s := rfl
@[simp] theorem exec_pcreate (t : Reg) (a : Reg) (s : State) : exec (.pcreate t a) s = execPcreate t a s := rfl
@[simp] theorem exec_pgrant (t : Reg) (a : Reg) (b : Reg) (q : BitVec 3) (s : State) : exec (.pgrant t a b q) s = execPgrant t a b q s := rfl
@[simp] theorem exec_presv (t : Reg) (a : Reg) (q : BitVec 1) (s : State) : exec (.presv t a q) s = execPresv t a q s := rfl
@[simp] theorem exec_qbind (t : Reg) (a : Reg) (b : Reg) (q : BitVec 1) (s : State) : exec (.qbind t a b q) s = execQbind t a b q s := rfl
@[simp] theorem exec_plend (t : Reg) (a : Reg) (s : State) : exec (.plend t a) s = execPlend t a s := rfl
@[simp] theorem exec_precall (t : Reg) (a : Reg) (s : State) : exec (.precall t a) s = execPrecall t a s := rfl
@[simp] theorem exec_pslice (t : Reg) (a : Reg) (q : BitVec 1) (s : State) : exec (.pslice t a q) s = execPslice t a q s := rfl
@[simp] theorem exec_freeze (t : Reg) (a : Reg) (q : BitVec 1) (s : State) : exec (.freeze t a q) s = execFreeze t a q s := rfl
@[simp] theorem exec_thawResume (t : Reg) (a : Reg) (q : BitVec 1) (s : State) : exec (.thawResume t a q) s = execThawResume t a q s := rfl
@[simp] theorem exec_thawReleaseHold (t : Reg) (s : State) : exec (.thawReleaseHold t) s = execThawReleaseHold t s := rfl
@[simp] theorem exec_thawVacate (t : Reg) (a : Reg) (q : BitVec 1) (s : State) : exec (.thawVacate t a q) s = execThawVacate t a q s := rfl
@[simp] theorem exec_skout (t : Reg) (a : Reg) (b : Reg) (s : State) : exec (.skout t a b) s = execSkout t a b s := rfl
@[simp] theorem exec_skin (t : Reg) (a : Reg) (b : Reg) (s : State) : exec (.skin t a b) s = execSkin t a b s := rfl
@[simp] theorem exec_brkn (t : Reg) (a : Reg) (b : Reg) (q : BitVec 2) (s : State) : exec (.brkn t a b q) s = execBrkn t a b q s := rfl
@[simp] theorem exec_trcon (t : Reg) (a : Reg) (s : State) : exec (.trcon t a) s = execTrcon t a s := rfl
@[simp] theorem exec_trcoff (t : Reg) (s : State) : exec (.trcoff t) s = execTrcoff t s := rfl
@[simp] theorem exec_walk (t : Reg) (a : Reg) (s : State) : exec (.walk t a) s = execWalk t a s := rfl
@[simp] theorem exec_tsrd (t : Reg) (a : Reg) (q : BitVec 2) (s : State) : exec (.tsrd t a q) s = execTsrd t a q s := rfl
@[simp] theorem exec_vadd (m : BitVec 2) (x : Target) (y : Target) (s : State) : exec (.vadd m x y) s = execVadd m x y s := rfl
@[simp] theorem exec_vsub (m : BitVec 2) (x : Target) (y : Target) (s : State) : exec (.vsub m x y) s = execVsub m x y s := rfl
@[simp] theorem exec_vmul (m : BitVec 2) (x : Target) (y : Target) (s : State) : exec (.vmul m x y) s = execVmul m x y s := rfl
@[simp] theorem exec_vmad (m : BitVec 2) (x : Target) (y : Target) (s : State) : exec (.vmad m x y) s = execVmad m x y s := rfl
@[simp] theorem exec_vmin (m : BitVec 2) (x : Target) (y : Target) (s : State) : exec (.vmin m x y) s = execVmin m x y s := rfl
@[simp] theorem exec_vmax (m : BitVec 2) (x : Target) (y : Target) (s : State) : exec (.vmax m x y) s = execVmax m x y s := rfl
@[simp] theorem exec_vminu (m : BitVec 2) (x : Target) (y : Target) (s : State) : exec (.vminu m x y) s = execVminu m x y s := rfl
@[simp] theorem exec_vmaxu (m : BitVec 2) (x : Target) (y : Target) (s : State) : exec (.vmaxu m x y) s = execVmaxu m x y s := rfl
@[simp] theorem exec_vand (m : BitVec 2) (x : Target) (y : Target) (s : State) : exec (.vand m x y) s = execVand m x y s := rfl
@[simp] theorem exec_vor (m : BitVec 2) (x : Target) (y : Target) (s : State) : exec (.vor m x y) s = execVor m x y s := rfl
@[simp] theorem exec_vxor (m : BitVec 2) (x : Target) (y : Target) (s : State) : exec (.vxor m x y) s = execVxor m x y s := rfl
@[simp] theorem exec_vshl (m : BitVec 2) (x : Target) (y : Target) (s : State) : exec (.vshl m x y) s = execVshl m x y s := rfl
@[simp] theorem exec_vshr (m : BitVec 2) (x : Target) (y : Target) (s : State) : exec (.vshr m x y) s = execVshr m x y s := rfl
@[simp] theorem exec_vsra (m : BitVec 2) (x : Target) (y : Target) (s : State) : exec (.vsra m x y) s = execVsra m x y s := rfl
@[simp] theorem exec_vabs (m : BitVec 2) (x : Target) (y : Target) (s : State) : exec (.vabs m x y) s = execVabs m x y s := rfl
@[simp] theorem exec_vneg (m : BitVec 2) (x : Target) (y : Target) (s : State) : exec (.vneg m x y) s = execVneg m x y s := rfl
@[simp] theorem exec_vaddk (m : BitVec 2) (x : Target) (y : Target) (s : State) : exec (.vaddk m x y) s = execVaddk m x y s := rfl
@[simp] theorem exec_vmulk (m : BitVec 2) (x : Target) (y : Target) (s : State) : exec (.vmulk m x y) s = execVmulk m x y s := rfl
@[simp] theorem exec_vsgadd (m : BitVec 2) (x : Target) (y : Target) (s : State) : exec (.vsgadd m x y) s = execVsgadd m x y s := rfl
@[simp] theorem exec_vadds (m : BitVec 2) (x : Target) (y : Target) (s : State) : exec (.vadds m x y) s = execVadds m x y s := rfl
@[simp] theorem exec_vsubs (m : BitVec 2) (x : Target) (y : Target) (s : State) : exec (.vsubs m x y) s = execVsubs m x y s := rfl
@[simp] theorem exec_vdot4 (x : Target) (y : Target) (s : State) : exec (.vdot4 x y) s = execVdot4 x y s := rfl
@[simp] theorem exec_fadd (m : BitVec 2) (x : Target) (y : Target) (s : State) : exec (.fadd m x y) s = execFadd m x y s := rfl
@[simp] theorem exec_fsub (m : BitVec 2) (x : Target) (y : Target) (s : State) : exec (.fsub m x y) s = execFsub m x y s := rfl
@[simp] theorem exec_fmul (m : BitVec 2) (x : Target) (y : Target) (s : State) : exec (.fmul m x y) s = execFmul m x y s := rfl
@[simp] theorem exec_fma (m : BitVec 2) (x : Target) (y : Target) (s : State) : exec (.fma m x y) s = execFma m x y s := rfl
@[simp] theorem exec_fmax (m : BitVec 2) (x : Target) (y : Target) (s : State) : exec (.fmax m x y) s = execFmax m x y s := rfl
@[simp] theorem exec_fmin (m : BitVec 2) (x : Target) (y : Target) (s : State) : exec (.fmin m x y) s = execFmin m x y s := rfl
@[simp] theorem exec_frcp (m : BitVec 2) (x : Target) (y : Target) (s : State) : exec (.frcp m x y) s = execFrcp m x y s := rfl
@[simp] theorem exec_frsq (m : BitVec 2) (x : Target) (y : Target) (s : State) : exec (.frsq m x y) s = execFrsq m x y s := rfl
@[simp] theorem exec_fexp2 (m : BitVec 2) (x : Target) (y : Target) (s : State) : exec (.fexp2 m x y) s = execFexp2 m x y s := rfl
@[simp] theorem exec_flog2 (m : BitVec 2) (x : Target) (y : Target) (s : State) : exec (.flog2 m x y) s = execFlog2 m x y s := rfl
@[simp] theorem exec_faddk (m : BitVec 2) (x : Target) (y : Target) (s : State) : exec (.faddk m x y) s = execFaddk m x y s := rfl
@[simp] theorem exec_fmulk (m : BitVec 2) (x : Target) (y : Target) (s : State) : exec (.fmulk m x y) s = execFmulk m x y s := rfl
@[simp] theorem exec_fmac (m : BitVec 2) (x : Target) (y : Target) (s : State) : exec (.fmac m x y) s = execFmac m x y s := rfl
@[simp] theorem exec_fabs (m : BitVec 2) (x : Target) (y : Target) (s : State) : exec (.fabs m x y) s = execFabs m x y s := rfl
@[simp] theorem exec_fneg (m : BitVec 2) (x : Target) (y : Target) (s : State) : exec (.fneg m x y) s = execFneg m x y s := rfl
@[simp] theorem exec_cvt (x : Target) (y : Target) (s : State) : exec (.cvt x y) s = execCvt x y s := rfl
@[simp] theorem exec_bperm (x : Target) (y : Target) (s : State) : exec (.bperm x y) s = execBperm x y s := rfl
@[simp] theorem exec_b3dec (x : Target) (y : Target) (s : State) : exec (.b3dec x y) s = execB3dec x y s := rfl
@[simp] theorem exec_nibx (m : BitVec 1) (x : Target) (y : Target) (s : State) : exec (.nibx m x y) s = execNibx m x y s := rfl
@[simp] theorem exec_pack (x : Target) (y : Target) (s : State) : exec (.pack x y) s = execPack x y s := rfl
@[simp] theorem exec_unpk (x : Target) (y : Target) (s : State) : exec (.unpk x y) s = execUnpk x y s := rfl
@[simp] theorem exec_vcmp (x : Target) (y : Target) (s : State) : exec (.vcmp x y) s = execVcmp x y s := rfl
@[simp] theorem exec_sel (x : Target) (y : Target) (s : State) : exec (.sel x y) s = execSel x y s := rfl
@[simp] theorem exec_steer (x : Target) (y : Target) (s : State) : exec (.steer x y) s = execSteer x y s := rfl
@[simp] theorem exec_gate (x : Target) (y : Target) (s : State) : exec (.gate x y) s = execGate x y s := rfl
@[simp] theorem exec_merge (x : Target) (y : Target) (s : State) : exec (.merge x y) s = execMerge x y s := rfl
@[simp] theorem exec_masksel (x : Target) (y : Target) (s : State) : exec (.masksel x y) s = execMasksel x y s := rfl
@[simp] theorem exec_pnot (x : Target) (y : Target) (s : State) : exec (.pnot x y) s = execPnot x y s := rfl
@[simp] theorem exec_lsum (x : Target) (y : Target) (s : State) : exec (.lsum x y) s = execLsum x y s := rfl
@[simp] theorem exec_lmax (x : Target) (y : Target) (s : State) : exec (.lmax x y) s = execLmax x y s := rfl
@[simp] theorem exec_largmax (x : Target) (y : Target) (s : State) : exec (.largmax x y) s = execLargmax x y s := rfl
@[simp] theorem exec_lbcast (x : Target) (y : Target) (s : State) : exec (.lbcast x y) s = execLbcast x y s := rfl
@[simp] theorem exec_lrot (x : Target) (y : Target) (s : State) : exec (.lrot x y) s = execLrot x y s := rfl
@[simp] theorem exec_lscan (x : Target) (y : Target) (s : State) : exec (.lscan x y) s = execLscan x y s := rfl
@[simp] theorem exec_onehot (x : Target) (y : Target) (s : State) : exec (.onehot x y) s = execOnehot x y s := rfl
@[simp] theorem exec_lextr (x : Target) (y : Target) (s : State) : exec (.lextr x y) s = execLextr x y s := rfl
@[simp] theorem exec_sreg (x : Target) (y : Target) (s : State) : exec (.sreg x y) s = execSreg x y s := rfl
@[simp] theorem exec_cnt (x : Target) (y : Target) (s : State) : exec (.cnt x y) s = execCnt x y s := rfl
@[simp] theorem exec_eor (x : Target) (y : Target) (s : State) : exec (.eor x y) s = execEor x y s := rfl
@[simp] theorem exec_ordj (x : Target) (y : Target) (s : State) : exec (.ordj x y) s = execOrdj x y s := rfl
@[simp] theorem exec_dup (x : Target) (y : Target) (s : State) : exec (.dup x y) s = execDup x y s := rfl
@[simp] theorem exec_const (x : Target) (y : Target) (s : State) : exec (.const x y) s = execConst x y s := rfl
@[simp] theorem exec_sink (x : Target) (y : Target) (s : State) : exec (.sink x y) s = execSink x y s := rfl
@[simp] theorem exec_stitch (x : Target) (y : Target) (s : State) : exec (.stitch x y) s = execStitch x y s := rfl
@[simp] theorem exec_delay (x : Target) (y : Target) (s : State) : exec (.delay x y) s = execDelay x y s := rfl
@[simp] theorem exec_idx (x : Target) (y : Target) (s : State) : exec (.idx x y) s = execIdx x y s := rfl
@[simp] theorem exec_sregEmission (slot k : Nat) (s : State) : exec (.sregEmission slot k) s = execSregEmission slot k s := rfl
@[simp] theorem exec_roundBoundary (s : State) : exec (.roundBoundary) s = execRoundBoundary s := rfl
@[simp] theorem exec_bindoffDrainEnd (k : Nat) (s : State) : exec (.bindoffDrainEnd k) s = execBindoffDrainEnd k s := rfl
@[simp] theorem exec_rsaveDrainEnd (s : State) : exec (.rsaveDrainEnd) s = execRsaveDrainEnd s := rfl
@[simp] theorem exec_mxBlockEntry (k : Nat) (s : State) : exec (.mxBlockEntry k) s = execMxBlockEntry k s := rfl
@[simp] theorem exec_planeSwap (s : State) : exec (.planeSwap) s = execPlaneSwap s := rfl
@[simp] theorem exec_tileSourceRow (s : State) : exec (.tileSourceRow) s = execTileSourceRow s := rfl
@[simp] theorem exec_accumulatorAddition (n : Nat) (s : State) : exec (.accumulatorAddition n) s = execAccumulatorAddition n s := rfl
@[simp] theorem exec_accumulatorRelease (n : Nat) (s : State) : exec (.accumulatorRelease n) s = execAccumulatorRelease n s := rfl
@[simp] theorem exec_pairRelease (n k : Nat) (s : State) : exec (.pairRelease n k) s = execPairRelease n k s := rfl
@[simp] theorem exec_gpFiring (k : Nat) (s : State) : exec (.gpFiring k) s = execGpFiring k s := rfl
@[simp] theorem exec_memoryNodeRequest (n : Nat) (s : State) : exec (.memoryNodeRequest n) s = execMemoryNodeRequest n s := rfl
@[simp] theorem exec_memoryNodeCompletion (n : Nat) (s : State) : exec (.memoryNodeCompletion n) s = execMemoryNodeCompletion n s := rfl
@[simp] theorem exec_pagedRequest (n : Nat) (s : State) : exec (.pagedRequest n) s = execPagedRequest n s := rfl
@[simp] theorem exec_generatorFault (n : Nat) (s : State) : exec (.generatorFault n) s = execGeneratorFault n s := rfl
@[simp] theorem exec_networkPortSend (p : Nat) (s : State) : exec (.networkPortSend p) s = execNetworkPortSend p s := rfl
@[simp] theorem exec_yarnTokenArrival (i : Nat) (s : State) : exec (.yarnTokenArrival i) s = execYarnTokenArrival i s := rfl
@[simp] theorem exec_composerArrival (s : State) : exec (.composerArrival) s = execComposerArrival s := rfl
@[simp] theorem exec_completionReport (s : State) : exec (.completionReport) s = execCompletionReport s := rfl
@[simp] theorem exec_deadlockReport (s : State) : exec (.deadlockReport) s = execDeadlockReport s := rfl
@[simp] theorem exec_tokenCompletion (i : Nat) (s : State) : exec (.tokenCompletion i) s = execTokenCompletion i s := rfl
@[simp] theorem exec_engineOperationStart (q : Nat) (s : State) : exec (.engineOperationStart q) s = execEngineOperationStart q s := rfl
@[simp] theorem exec_trapEntry (s : State) : exec (.trapEntry) s = execTrapEntry s := rfl
@[simp] theorem exec_coreFreeze (s : State) : exec (.coreFreeze) s = execCoreFreeze s := rfl
@[simp] theorem exec_writeArrival (i : Nat) (s : State) : exec (.writeArrival i) s = execWriteArrival i s := rfl
@[simp] theorem exec_phaseBoundary (lid : BitVec 32) (s : State) : exec (.phaseBoundary lid) s = execPhaseBoundary lid s := rfl
@[simp] theorem exec_homeBankAccess (i : Nat) (s : State) : exec (.homeBankAccess i) s = execHomeBankAccess i s := rfl
@[simp] theorem exec_sigwaitTest (i : Nat) (s : State) : exec (.sigwaitTest i) s = execSigwaitTest i s := rfl
@[simp] theorem exec_sigwaitTimeout (i : Nat) (s : State) : exec (.sigwaitTimeout i) s = execSigwaitTimeout i s := rfl
@[simp] theorem exec_packetAtSwitch (i sw port : Nat) (s : State) : exec (.packetAtSwitch i sw port) s = execPacketAtSwitch i sw port s := rfl
@[simp] theorem exec_packetDelivery (i : Nat) (s : State) : exec (.packetDelivery i) s = execPacketDelivery i s := rfl
@[simp] theorem exec_trimNotice (i : Nat) (s : State) : exec (.trimNotice i) s = execTrimNotice i s := rfl
@[simp] theorem exec_reask (i : Nat) (s : State) : exec (.reask i) s = execReask i s := rfl
@[simp] theorem exec_retransmission (i : Nat) (s : State) : exec (.retransmission i) s = execRetransmission i s := rfl
@[simp] theorem exec_acknowledgement (src dst : Nat) (s : State) : exec (.acknowledgement src dst) s = execAcknowledgement src dst s := rfl
@[simp] theorem exec_ackReceived (i : Nat) (s : State) : exec (.ackReceived i) s = execAckReceived i s := rfl
@[simp] theorem exec_lossNotice (i : Nat) (s : State) : exec (.lossNotice i) s = execLossNotice i s := rfl
@[simp] theorem exec_routeClassArrival (i : Nat) (s : State) : exec (.routeClassArrival i) s = execRouteClassArrival i s := rfl
@[simp] theorem exec_handler1Arrival (i : Nat) (s : State) : exec (.handler1Arrival i) s = execHandler1Arrival i s := rfl
@[simp] theorem exec_dispatchAdmit (s : State) : exec (.dispatchAdmit) s = execDispatchAdmit s := rfl
@[simp] theorem exec_launchCompletion (lid : BitVec 32) (s : State) : exec (.launchCompletion lid) s = execLaunchCompletion lid s := rfl
@[simp] theorem exec_shadowSwap (s : State) : exec (.shadowSwap) s = execShadowSwap s := rfl
@[simp] theorem exec_reservationPeriodStart (r : Nat) (s : State) : exec (.reservationPeriodStart r) s = execReservationPeriodStart r s := rfl
@[simp] theorem exec_suspendedUnitResume (i : Nat) (s : State) : exec (.suspendedUnitResume i) s = execSuspendedUnitResume i s := rfl
@[simp] theorem exec_tensionRateChange (part rate : Nat) (s : State) : exec (.tensionRateChange part rate) s = execTensionRateChange part rate s := rfl
@[simp] theorem exec_memoryError (pa : Nat) (s : State) : exec (.memoryError pa) s = execMemoryError pa s := rfl
@[simp] theorem exec_logMessage (part : Nat) (s : State) : exec (.logMessage part) s = execLogMessage part s := rfl
@[simp] theorem exec_write (c : HostCmd) (s : State) : exec (.write c) s = execWrite c s := rfl
@[simp] theorem exec_read (c : HostCmd) (s : State) : exec (.read c) s = execRead c s := rfl
@[simp] theorem exec_logep (c : HostCmd) (s : State) : exec (.logep c) s = execLogep c s := rfl
@[simp] theorem exec_timebase (c : HostCmd) (s : State) : exec (.timebase c) s = execTimebase c s := rfl
@[simp] theorem exec_winmap (c : HostCmd) (s : State) : exec (.winmap c) s = execWinmap c s := rfl
@[simp] theorem exec_dirtyStart (c : HostCmd) (s : State) : exec (.dirtyStart c) s = execDirtyStart c s := rfl
@[simp] theorem exec_dirtyRead (c : HostCmd) (s : State) : exec (.dirtyRead c) s = execDirtyRead c s := rfl
@[simp] theorem exec_dirtyStop (c : HostCmd) (s : State) : exec (.dirtyStop c) s = execDirtyStop c s := rfl
@[simp] theorem exec_snapshot (c : HostCmd) (s : State) : exec (.snapshot c) s = execSnapshot c s := rfl
@[simp] theorem exec_attest (c : HostCmd) (s : State) : exec (.attest c) s = execAttest c s := rfl
@[simp] theorem exec_adopt (c : HostCmd) (s : State) : exec (.adopt c) s = execAdopt c s := rfl
@[simp] theorem exec_reset (s : State) : exec (.reset) s = execReset s := rfl
@[simp] theorem exec_coolantOver65 (part rate : Nat) (s : State) : exec (.coolantOver65 part rate) s = execCoolantOver65 part rate s := rfl
@[simp] theorem exec_coolantOver75 (s : State) : exec (.coolantOver75) s = execCoolantOver75 s := rfl
@[simp] theorem exec_setStreamEnd (s : State) : exec (.setStreamEnd) s = execSetStreamEnd s := rfl
@[simp] theorem exec_reservationBudgetSpent (r : Nat) (s : State) : exec (.reservationBudgetSpent r) s = execReservationBudgetSpent r s := rfl

end Sys2Proof.Machine
end

