-- ==== Sys2Proof/Laws/Halves.lean ====
section
/-!
SUPPORT. The operations over the halves of a sliced core's scratchpad keep memory's canonical form.
-/

namespace Sys2Proof.Machine

theorem Memory.clearHalf_wf {m : Memory} (n : Nat) (half : Bool) (h : m.wf) : (m.clearHalf n half).wf :=
  Memory.filter_wf _ h

theorem Memory.putHalf_wf {m : Memory} (n : Nat) (half : Bool) (spad : Memory) (h : m.wf) :
    (m.putHalf n half spad).wf := Memory.foldl_put_wf spad _ h

end Sys2Proof.Machine
end

