-- ==== Sys2Proof/Laws/Issue.lean ====
section
/-!
SUPPORT. What issuing an instruction can do, said once: it stalls, it traps, or it has its effect.
-/

namespace Sys2Proof.Machine

theorem lowerErr_clear {q : Seq} {best : Option Reg} {r : Reg} (h : q.err r = .clear) : lowerErr q best r = best := by
  simp [lowerErr, h]

theorem Seq.firstErr_clear {q : Seq} {rs : List Reg} (h : ∀ r ∈ rs, q.err r = .clear) : q.firstErr rs = none := by
  unfold Seq.firstErr
  suffices ∀ best, rs.foldl (lowerErr q) best = best from this none
  induction rs with
  | nil => intro best; rfl
  | cons r rs ih =>
    intro best
    rw [List.foldl_cons, lowerErr_clear (h r List.mem_cons_self)]
    exact ih (fun x hx => h x (List.mem_cons_of_mem _ hx)) best

/-- A well-formed instruction whose operands are available has its effect. -/
theorem issue_next {i : Instr} {n : Needs} {body : State → State} {s : State} (hw : i.wellFormed = true)
    (h : s.mayIssue n.reads n.dest n.level) : issue i n body s = .next (body s) := by
  obtain ⟨hr, hd, hb, hl⟩ := h
  have hs : s.stalled n = false := by
    simp only [State.stalled, Bool.or_eq_false_iff, List.any_eq_false]
    exact ⟨⟨fun r h => by simp [(hr r h).1], hd⟩, hb⟩
  unfold issue
  rw [hw, hs, Seq.firstErr_clear (fun r h => (hr r h).2)]
  simp [Nat.not_lt.mpr hl]

/-- An instruction that nothing holds back issues. -/
theorem issueUnless_next {held : State → Bool} {i : Instr} {n : Needs} {body : State → State} {s : State}
    (hh : held s = false) (hw : i.wellFormed = true) (h : s.mayIssue n.reads n.dest n.level) :
    issueUnless held i n body s = .next (body s) := by
  unfold issueUnless
  rw [hh, Bool.and_false]
  exact issue_next hw h

/-- Everything that issuing can do. -/
theorem issue_cases (i : Instr) (n : Needs) (body : State → State) (s : State) :
    issue i n body s = .next (s.trap causeIllegal (wordOf i)) ∨ issue i n body s = .next s ∨
      issue i n body s = .next (s.trap causePriv (wordOf i)) ∨ (∃ r, issue i n body s = .next (s.errTrap r)) ∨
      issue i n body s = .next (body s) := by
  unfold issue
  split
  · exact .inl rfl
  · split
    · exact .inr (.inl rfl)
    · split
      · exact .inr (.inr (.inl rfl))
      · split
        · exact .inr (.inr (.inr (.inl ⟨_, rfl⟩)))
        · exact .inr (.inr (.inr (.inr rfl)))

/-- An event that is due has its effect. -/
theorem when_next {due : Bool} {s : State} {body : State → State} (h : due = true) : when due s body = .next (body s) := by
  simp [when, h]

/-- An event that is not due changes nothing. -/
theorem when_not {due : Bool} {s : State} {body : State → State} (h : due = false) : when due s body = .next s := by
  simp [when, h]

end Sys2Proof.Machine
end

