-- ==== Sys2Proof/Tests/Slice0.lean ====
section
/-!
SUPPORT. Tests: ill-formed terms are refused, words decode, single steps give the values the manual states, and each
statement for the provers has a concrete state and operands that meet its hypotheses.
-/

namespace Sys2Proof.Tests

open Sys2Proof.Machine

set_option Elab.async false

/-! ### Small states -/

/-- Whether a state meets `mayIssue`, as a Bool. -/
def issues (s : State) (reads : List Reg) (dest : Reg) (level : Nat) : Bool :=
  reads.all (fun r => !s.seq.pending r && s.seq.err r == .clear) && !s.seq.pending dest && !s.core.set.barred &&
    decide (level ≤ s.seq.level.toNat)

theorem issues_mayIssue {s : State} {reads : List Reg} {dest : Reg} {level : Nat} (h : issues s reads dest level = true) :
    s.mayIssue reads dest level := by
  simp only [issues, Bool.and_eq_true, List.all_eq_true, Bool.not_eq_true', decide_eq_true_eq, beq_iff_eq] at h
  exact ⟨fun r hr => h.1.1.1 r hr, h.1.1.2, h.1.2, h.2⟩

/-- A unit of partition 0 at a level on core 0, in cycle 1000. -/
def atLevel (l : BitVec 2) : State :=
  { State.reset with
    core := { Core.idle 0 with set := { CSet.empty with unit := some UnitCtx.none, seq := { Seq.zero with level := l } } }
    cycle := 1000 }

/-- The same at level 2, with some registers set. -/
def unit (regs : List (Reg × Word)) : State := regs.foldl (fun s r => s.setReg r.1 r.2) (atLevel 2)

/-- The same with its page of code and data mapped at 0x200000. -/
def mapped (regs : List (Reg × Word)) : State := (unit regs).placeCode 0

/-- A configuration of slots with their words and constants. -/
def image (p : Nat) (slots : List SlotRec) : Image := ⟨p, 0, slots, [], [], [], []⟩

/-- A unit whose fabric runs a configuration. -/
def running (im : Image) (regs : List (Reg × Word)) : State :=
  (unit regs).mapFab (fun f => { f with running := some im })

/-- The next state of an outcome. -/
def nextOf : Host.Outcome State Fault Refusal → Option State
  | .next t => some t
  | _ => none

theorem nextOf_next {o : Host.Outcome State Fault Refusal} (h : (nextOf o).isSome = true) : ∃ t, o = .next t := by
  cases o with
  | next t => exact ⟨t, rfl⟩
  | fault f => cases h
  | refused r => cases h

/-- Bytes placed in the scratchpad of core 0. -/
def inPad (s : State) (off : Nat) (bs : List Byte) : State :=
  { s with mem := s.mem.putBytes (windowPa 0 false false off) bs }

/-- The value of a result, or the default. -/
def okOf {ε α : Type} [Inhabited α] (r : Except ε α) : α := r.toOption.getD default

/-- A pair by its parts. -/
theorem split {α β : Type} {p : α × β} {b : β} (h : p.2 = b) : p = (p.1, b) := Prod.ext rfl h

/-- A triple by its parts. -/
theorem split3 {α β γ : Type} {p : α × β × γ} {c : γ} (h : p.2.2 = c) : p = (p.1, p.2.1, c) :=
  Prod.ext rfl (Prod.ext rfl h)

/-- The image of P = 1 with no sections (R40, R41). -/
def emptyImage : List Byte :=
  [0x4B, 0x43, 0x46, 0x47, 1, 0, 1, 0, 5, 0, 0, 0, 0, 0, 0, 0, 0, 0, 0, 0, 0, 0, 0, 0, 0x40, 0, 0, 0, 0x40, 0, 0, 0, 0x40, 0, 0, 0,
    0x40, 0, 0, 0, 0x40, 0, 0, 0] ++ List.replicate 20 0

/-- A slot of SINK, which reads its left input (R38). -/
def sinkSlot (n : Nat) : SlotRec := ⟨n, (encode (.sink noTarget noTarget)).getD 0, 0⟩

/-- A stream table's entry. -/
def withStatus (s : State) (k : Nat) (st : Status) : State := s.putStream k { s.stream k with status := st }

theorem isSome_ok {ε α : Type} {r : Except ε α} (h : r.toOption.isSome = true) : ∃ v, r = .ok v := by
  cases r with
  | ok v => exact ⟨v, rfl⟩
  | error e => cases h

/-- The range that an instruction may access, as the state after its translation. -/
def ranges (s : State) (kind : AccKind) (va : Word) (al len : Nat) : Option State :=
  match s.checked kind va al len with
  | (u, .ok _) => some u
  | _ => none

theorem ranges_checked {s : State} {kind : AccKind} {va : Word} {al len : Nat} (p : State → Prop) [DecidablePred p]
    (h : (ranges s kind va al len).any (fun u => decide (p u)) = true) :
    ∃ u w sp, s.checked kind va al len = (u, .ok (w, sp)) ∧ p u := by
  unfold ranges at h
  split at h
  · rename_i u r heq
    exact ⟨u, r.1, r.2, heq, by simpa using h⟩
  · cases h

/-- The bytes that an instruction may read at an address, with the states after the translation and after the reads. -/
def reads (s : State) (va : Word) (al len : Nat) : Option (State × State × List Byte) :=
  match s.checked .read va al len with
  | (u, .ok (w, sp)) => match State.readSpans w sp u with
    | (v, bs, none) => some (u, v, bs)
    | _ => none
  | _ => none

theorem reads_checked {s : State} {va : Word} {al len : Nat} (p : State → State → List Byte → Prop)
    [∀ u v bs, Decidable (p u v bs)] (h : (reads s va al len).any (fun x => decide (p x.1 x.2.1 x.2.2)) = true) :
    ∃ u v w sp bs, s.checked .read va al len = (u, .ok (w, sp)) ∧ State.readSpans w sp u = (v, bs, none) ∧ p u v bs := by
  unfold reads at h
  split at h
  · rename_i u w sp heq
    split at h
    · rename_i v bs h2
      exact ⟨u, v, w, sp, bs, heq, h2, by simpa using h⟩
    · cases h
  · cases h

/-- What an image at an address is read as: the state after the header's translation, the one after the nodes' pages are
translated, and the loader's answer. -/
def imageAt (s : State) (va : Word) : Option (State × State × Except Word Image) :=
  match s.checked .read va 64 64 with
  | (u, .ok (w, sp)) =>
    match State.readSpans w sp u with
    | (v, head, none) =>
      match v.readUpTo (va.toNat + 64) (imageLen head - 64) with
      | (r, rest, limit) =>
        match r.translateNodes (head ++ rest) (limit.map (fun n => n - va.toNat)) with
        | (x, _) => some (u, x, x.loadImage (head ++ rest) (limit.map (fun n => n - va.toNat)))
    | _ => none
  | _ => none

theorem imageAt_reads {s : State} {va : Word} (p : State → State → Except Word Image → Prop)
    [∀ u x r, Decidable (p u x r)] (h : (imageAt s va).any (fun e => decide (p e.1 e.2.1 e.2.2)) = true) :
    ∃ u v r x w sp head rest limit pages, s.checked .read va 64 64 = (u, .ok (w, sp)) ∧
      State.readSpans w sp u = (v, head, none) ∧
      v.readUpTo (va.toNat + 64) (imageLen head - 64) = (r, rest, limit) ∧
      r.translateNodes (head ++ rest) (limit.map (fun n => n - va.toNat)) = (x, pages) ∧
      p u x (x.loadImage (head ++ rest) (limit.map (fun n => n - va.toNat))) := by
  unfold imageAt at h
  split at h
  · rename_i u w sp h1
    split at h
    · rename_i v head h2
      split at h
      rename_i r rest limit h3
      split at h
      rename_i x pages h4
      exact ⟨u, v, r, x, w, sp, head, rest, limit, pages, h1, h2, h3, h4, by simpa using h⟩
    · cases h
  · cases h

/-- What a parameter block at an address is read as: whether its fields are good, and what replacing the one of a
configuration answers, staged and running. -/
def blockAt (s : State) (va : Word) (im : Image) : Option (Bool × Except Word Image × Except Word Image) :=
  match s.checked .read va 8 8 with
  | (u, .ok (w, sp)) =>
    match State.readSpans w sp u with
    | (v, head, none) =>
      match v.readUpTo (va.toNat + 8) (blockRest head) with
      | (x, rest, none) =>
        match x.walkFirst im.P (nodeOf (field (head ++ rest) 0 2) (head ++ rest)) with
        | (z, _) => some (decide (firstBad Bad.field (blockBads (head ++ rest)) = none), z.loadBlock im (head ++ rest) false,
            z.loadBlock im (head ++ rest) true)
      | _ => none
    | _ => none
  | _ => none

theorem blockAt_reads {s : State} {va : Word} {im : Image}
    (h : (blockAt s va im).any (fun e => e.1 && e.2.1.toOption.isSome && e.2.2.toOption.isSome) = true) :
    ∃ u v x w sp head rest z pages, s.checked .read va 8 8 = (u, .ok (w, sp)) ∧ State.readSpans w sp u = (v, head, none) ∧
      v.readUpTo (va.toNat + 8) (blockRest head) = (x, rest, none) ∧
      firstBad Bad.field (blockBads (head ++ rest)) = none ∧
      x.walkFirst im.P (nodeOf (field (head ++ rest) 0 2) (head ++ rest)) = (z, pages) ∧
      (∃ new, z.loadBlock im (head ++ rest) false = .ok new) ∧ ∃ new, z.loadBlock im (head ++ rest) true = .ok new := by
  unfold blockAt at h
  split at h
  · rename_i u w sp h1
    split at h
    · rename_i v head h2
      split at h
      · rename_i x rest h3
        split at h
        rename_i z pages h4
        simp only [Option.any_some, Bool.and_eq_true, decide_eq_true_eq] at h
        exact ⟨u, v, x, w, sp, head, rest, z, pages, h1, h2, h3, h.1.1, h4, isSome_ok h.1.2, isSome_ok h.2⟩
      · cases h
    · cases h
  · cases h
/-! ### Ill-formed terms (R30, R33, R34, R37, R92, R239) -/

theorem wellFormed_refuses_odd_pairs :
    ∀ i ∈ [Instr.sfeedt 1 3 2 0, .acopy 1 2 3 0, .acopy2 1 3 2 0, .acopy2 1 2 3 0, .afill 1 2 3 0, .acopyb 1 3 2 0,
        .acopyb 1 2 3 0, .mxw 1 3 2 0, .sigwait 1 2 3 0, .acas 1 2 3 0, .sendrc 1 2 3 0, .smcomp 1 2 3 0],
      i.wellFormed = false := by
  decide

theorem wellFormed_refuses_special_numbers :
    ∀ i ∈ [Instr.mfs 1 0x008, .mfs 1 0x00F, .mfs 1 0x015, .mfs 1 0x022, .mts 1 0x000, .mts 1 0x00F, .mts 1 0x015, .mts 1 0x021],
      i.wellFormed = false := by
  decide

theorem wellFormed_refuses_codes :
    ∀ i ∈ [Instr.fence 1 6, .sigset 1 2 3 7, .sigwait 1 2 4 6, .aadd 1 2 3 6, .aand 1 2 3 7, .aor 1 2 3 14, .axor 1 2 3 15,
        .amin 1 2 3 6, .amax 1 2 3 6, .aminu 1 2 3 6, .amaxu 1 2 3 6, .axchg 1 2 3 6, .acas 1 2 4 6, .aaddf 1 2 3 6,
        .ald 1 2 6, .radd 1 2 3 6, .rmin 1 2 3 6, .rmax 1 2 3 6, .raddf 1 2 3 6, .bpstat 1 2 7, .cancel 1 2 0,
        .cancel 1 2 4, .cancel 1 2 8], i.wellFormed = false := by
  decide

theorem wellFormed_refuses_mods :
    ∀ i ∈ [Instr.vadd 3 0 0, .vsub 3 0 0, .vmul 3 0 0, .vmad 3 0 0, .vmin 3 0 0, .vmax 3 0 0, .vminu 3 0 0, .vmaxu 3 0 0,
        .vand 3 0 0, .vor 3 0 0, .vxor 3 0 0, .vshl 3 0 0, .vshr 3 0 0, .vsra 3 0 0, .vabs 3 0 0, .vneg 3 0 0, .vaddk 3 0 0,
        .vmulk 3 0 0, .vsgadd 3 0 0, .vadds 3 0 0, .vsubs 3 0 0, .fadd 3 0 0, .fsub 3 0 0, .fmul 3 0 0, .fma 3 0 0,
        .fmax 3 0 0, .fmin 3 0 0, .frcp 3 0 0, .frsq 3 0 0, .fexp2 3 0 0, .flog2 3 0 0, .faddk 3 0 0, .fmulk 3 0 0,
        .fmac 3 0 0, .fabs 3 0 0, .fneg 3 0 0], i.wellFormed = false := by
  decide

/-! ### Words, field by field from R28, R31, R32 and R35 -/

/-- Format R: op, d, a, b, fn. -/
theorem test_decode_alu_and_sys :
    decodeWord (0x00#6 ++ 63#6 ++ 1#6 ++ 2#6 ++ 0x04#8) = .ok (.mulhu 63 1 2) ∧
    decodeWord (0x00#6 ++ 5#6 ++ 6#6 ++ 0#6 ++ 0x30#8) = .ok (.clz 5 6) ∧
    decodeWord (0x18#6 ++ 0#6 ++ 0#6 ++ 0#6 ++ 0x01#8) = .ok .halt ∧
    decodeWord (0x18#6 ++ 0#6 ++ 42#6 ++ 0#6 ++ 0x08#8) = .ok (.trap 42) := by
  decide

/-- Formats I, U and B. -/
theorem test_decode_immediates_branches_and_memory :
    decodeWord (0x02#6 ++ 1#6 ++ 2#6 ++ 0x3FFF#14) = .ok (.andi 1 2 0x3FFF) ∧
    decodeWord (0x07#6 ++ 1#6 ++ 2#6 ++ 63#14) = .ok (.srai 1 2 63) ∧
    decodeWord (0x0E#6 ++ 1#6 ++ 0xFFFFF#20) = .ok (.lih 1 0xFFFFF) ∧
    decodeWord (0x10#6 ++ 4#3 ++ 1#6 ++ 2#6 ++ 0x400#11) = .ok (.bltu 1 2 0x400) ∧
    decodeWord (0x11#6 ++ 63#6 ++ 0x80000#20) = .ok (.jal 63 0x80000) ∧
    decodeWord (0x12#6 ++ 63#6 ++ 1#6 ++ 4#14) = .ok (.jalr 63 1 4) ∧
    decodeWord (0x17#6 ++ 3#6 ++ 1#6 ++ 0x3FF8#14) = .ok (.std 3 1 0x3FF8) ∧
    decodeWord (0x1A#6 ++ 0#6 ++ 9#6 ++ 0x014#14) = .ok (.mts 9 0x014) := by
  decide

/-- Format X: op, t, a, b, q, sub. -/
theorem test_decode_format_x :
    decodeWord (0x1C#6 ++ 1#6 ++ 2#6 ++ 0#6 ++ 1#4 ++ 2#4) = .ok (.cfgparm 1 2 1) ∧
    decodeWord (0x1D#6 ++ 1#6 ++ 2#6 ++ 0#6 ++ 15#4 ++ 2#4) = .ok (.sdraw 1 2 15) ∧
    decodeWord (0x24#6 ++ 1#6 ++ 2#6 ++ 3#6 ++ 3#4 ++ 8#4) = .ok (.stwr 1 2 3 3) ∧
    decodeWord (0x28#6 ++ 1#6 ++ 2#6 ++ 4#6 ++ 9#4 ++ 0#4) = .ok (.acopy 1 2 4 9) ∧
    decodeWord (0x29#6 ++ 1#6 ++ 2#6 ++ 0#6 ++ 7#4 ++ 2#4) = .ok (.genres 1 2 7) ∧
    decodeWord (0x2C#6 ++ 1#6 ++ 2#6 ++ 3#6 ++ 7#4 ++ 0#4) = .ok (.mxw 1 2 3 7) ∧
    decodeWord (0x30#6 ++ 1#6 ++ 2#6 ++ 3#6 ++ 0#4 ++ 5#4) = .ok (.btfork 1 2 3) := by
  decide

theorem test_decode_format_x_shared :
    decodeWord (0x34#6 ++ 1#6 ++ 2#6 ++ 4#6 ++ 5#4 ++ 4#4) = .ok (.sigwait 1 2 4 5) ∧
    decodeWord (0x35#6 ++ 1#6 ++ 2#6 ++ 3#6 ++ 12#4 ++ 1#4) = .ok (.aand 1 2 3 12) ∧
    decodeWord (0x36#6 ++ 1#6 ++ 2#6 ++ 3#6 ++ 2#4 ++ 2#4) = .ok (.rmax 1 2 3 2) ∧
    decodeWord (0x3A#6 ++ 1#6 ++ 2#6 ++ 4#6 ++ 15#4 ++ 0#4) = .ok (.sendrc 1 2 4 15) ∧
    decodeWord (0x3D#6 ++ 1#6 ++ 2#6 ++ 3#6 ++ 0#4 ++ 0#4) = .ok (.launch 1 2 3) ∧
    decodeWord (0x3E#6 ++ 1#6 ++ 2#6 ++ 3#6 ++ 2#4 ++ 4#4) = .ok (.brkn 1 2 3 2) := by
  decide

/-- The fabric word: opcode, mod, target A, target B. -/
theorem test_decode_fabric :
    decodeFabric (0x00#8 ++ 2#2 ++ (511#9 ++ 3#2) ++ (1#9 ++ 1#2)) = .ok (.vadd 2 0x7FF 5) ∧
    decodeFabric (0x77#8 ++ 0#2 ++ 0#11 ++ 4#11) = .ok (.stitch 0 4) ∧
    decodeFabric (0x77#8 ++ 1#2 ++ 0#11 ++ 4#11) = .error .rejectedMod ∧
    decodeFabric 0xFF000000 = .error .unassignedOpcode := by
  decide

/-! ### Single steps -/

/-- A register after an instruction that completes at once. -/
def regAfter (i : Instr) (s : State) (d : Reg) : Option Word := (nextOf (exec i s)).map (fun t => t.reg d)

/-- The value that an instruction's operation completes with. -/
def valueAfter (i : Instr) (s : State) : Option Wait := (nextOf (exec i s)).bind (fun t => t.core.set.ops.head?.map (·.wait))

theorem test_add_wraps : regAfter (.add 3 1 2) (unit [(1, 0xFFFFFFFFFFFFFFFF), (2, 2)]) 3 = some 1 := by decide +kernel

theorem test_sub_into_its_source : regAfter (.sub 1 2 1) (unit [(1, 5), (2, 3)]) 1 = some 0xFFFFFFFFFFFFFFFE := by
  decide +kernel

theorem test_s0_reads_zero : regAfter (.addi 0 1 7) (unit [(1, 5)]) 0 = some 0 := by decide +kernel

theorem test_shift_count_modulo_64 : regAfter (.shl 3 1 2) (unit [(1, 1), (2, 65)]) 3 = some 2 := by decide +kernel

theorem test_cmplt_is_signed : regAfter (.cmplt 3 1 2) (unit [(1, 0x8000000000000000), (2, 1)]) 3 = some 1 ∧
    regAfter (.cmpltu 3 1 2) (unit [(1, 0x8000000000000000), (2, 1)]) 3 = some 0 := by decide +kernel

theorem test_clz : regAfter (.clz 3 1) (unit [(1, 1)]) 3 = some 63 ∧ regAfter (.clz 3 0) (unit []) 3 = some 64 := by
  decide +kernel

theorem test_mulh_of_minus_one : valueAfter (.mulh 3 1 1) (unit [(1, 0xFFFFFFFFFFFFFFFF)]) = some (.ready 0 .clear 1003) := by
  decide +kernel

theorem test_divs_rounds_to_zero :
    valueAfter (.divs 3 1 2) (unit [(1, 0xFFFFFFFFFFFFFFF9), (2, 2)]) = some (.ready 0xFFFFFFFFFFFFFFFD .clear 1034) := by
  decide +kernel

theorem test_divu_by_zero_sets_dz :
    (nextOf (exec (.divu 3 1 2) (unit [(1, 7)]))).map (fun t => t.seq.dz) = some true := by decide +kernel

theorem test_lih_keeps_low_bits :
    regAfter (.lih 1 0x12345) (unit [(1, 0xFFFFFFFFFFFFFFFF)]) 1 = some 0x12345FFFFFFFFFFF := by decide +kernel

theorem test_sext_from_bit_7 : regAfter (.sext 3 1 7) (unit [(1, 0x180)]) 3 = some 0xFFFFFFFFFFFFFF80 := by decide +kernel

theorem test_branch_backwards :
    (nextOf (exec (.beq 1 1 0x7FF) ((unit []).setPc 0x200010))).map (fun t => t.seq.pc) = some 0x20000C := by decide +kernel

theorem test_jal_links : regAfter (.jal 5 2) ((unit []).setPc 0x200010) 5 = some 0x200014 := by decide +kernel

theorem test_ldw_sign_extends :
    valueAfter (.ldw 3 1 0) (inPad (unit [(1, 0xFFFF00000000)]) 0 [0, 0, 0, 0x80]) =
      some (.ready 0xFFFFFFFF80000000 .clear 1004) := by
  decide +kernel

theorem test_stw_byte_order :
    (nextOf (exec (.stw 2 1 4) (unit [(1, 0xFFFF00000000), (2, 0x1122334455667788)]))).map
      (fun t => t.mem.getBytes (windowPa 0 false false 3) 6) = some [0, 0x88, 0x77, 0x66, 0x55, 0] := by
  decide +kernel

/-- A misaligned load at the unit level: cause 3 to the tenant level, with the old level and TE in TRAPCAUSE. -/
theorem test_align_trap :
    let s := ((atLevel 0).mapSeq (fun q => { q with te := true, pc := 0x200010, tenant := { q.tenant with base := 0x400 } })).setReg 1
      0xFFFF00000002
    (nextOf (exec (.ldw 3 1 0) s)).map (fun t => (t.seq.pc, t.seq.level, t.seq.te, t.seq.tenant)) =
      some (0x400, 1, false, ⟨0x403, 0x200010, 0xFFFF00000002, 0x400⟩) := by
  decide +kernel

theorem test_eret_restores :
    let s := (atLevel 1).mapSeq (fun q => { q with te := false, tenant := ⟨0x403, 0x200014, 0, 0x400⟩ })
    (nextOf (exec .eret s)).map (fun t => (t.seq.pc, t.seq.level, t.seq.te)) = some (0x200014, 0, true) := by
  decide +kernel

theorem test_mts_below_its_level :
    (nextOf (exec (.mts 1 0x013) ((atLevel 0).mapSeq (fun q => { q with tenant := { q.tenant with base := 0x400 } })))).map
      (fun t => t.seq.tenant.cause.toNat % 256) = some 2 := by
  decide +kernel

theorem test_step_issues_the_word_at_the_pc :
    (nextOf (step ((unit [(6, 40)]).withFetchWord 32 0x04518002))).map (fun t => (t.reg 5, t.seq.pc)) =
      some (42, 0x200004) := by
  decide +kernel
/-! ### Witnesses: the hypotheses of each statement hold of these states and operands -/

theorem witness_AluResults : ((unit []).mayIssue [1, 2] 3 0 ∧ (unit []).reg 1 = 0) ∧
    (unit [(1, 5)]).mayIssue [1, 2] 0 0 ∧ (unit [(1, 5)]).reg 1 ≠ 0 :=
  ⟨⟨issues_mayIssue (by decide +kernel), by decide +kernel⟩, issues_mayIssue (by decide +kernel), by decide +kernel⟩

theorem witness_DivisionResults : (unit []).mayIssue [1, 2] 3 0 ∧ (unit []).reg 2 = 0 ∧
    (unit [(1, 0x8000000000000000), (2, BitVec.allOnes 64)]).mayIssue [1, 2] 3 0 ∧
    ((unit [(1, 0x8000000000000000), (2, BitVec.allOnes 64)]).reg 1).toInt = -2 ^ 63 ∧
    (unit [(1, 0x8000000000000000), (2, BitVec.allOnes 64)]).reg 2 = BitVec.allOnes 64 := by
  refine ⟨issues_mayIssue ?_, ?_, issues_mayIssue ?_, ?_⟩ <;> decide +kernel

theorem witness_ImmediateResults :
    (unit []).mayIssue [1] 3 0 ∧ (unit []).mayIssue [] 3 0 ∧ (unit []).mayIssue [3] 3 0 := by
  refine ⟨issues_mayIssue ?_, issues_mayIssue ?_, issues_mayIssue ?_⟩ <;> decide +kernel

theorem witness_RegisterInstructionsFrame : (unit []).mayIssue [1, 2, 3] 3 0 ∧
    ∃ t, exec (.add 3 1 2) (unit []) = .next t := by
  refine ⟨issues_mayIssue ?_, nextOf_next ?_⟩ <;> decide +kernel

theorem witness_JumpResults : (unit []).mayIssue [] 31 0 ∧
    (unit [(1, 8)]).mayIssue [1] 31 0 ∧ ((unit [(1, 8)]).reg 1 + BitVec.signExtend 64 (0 : BitVec 14)).toNat % 4 = 0 ∧
    (unit [(1, 9)]).mayIssue [1] 31 0 ∧ ((unit [(1, 9)]).reg 1 + BitVec.signExtend 64 (0 : BitVec 14)).toNat % 4 ≠ 0 ∧
    ((unit []).setPc 0x1000000000000).seq.pc = BitVec.ofNat 64 (2 ^ 48) := by
  refine ⟨issues_mayIssue ?_, issues_mayIssue ?_, ?_, issues_mayIssue ?_, ?_⟩ <;> decide +kernel

theorem witness_WindowLoadsAndStores :
    let s := unit [(1, 0xFFFF00000000), (2, 0xFFFF0017FFF8)]
    let va (a : Reg) := (s.reg a + BitVec.signExtend 64 (0 : BitVec 14)).toNat
    s.mayIssue [1] 3 0 ∧ s.mayIssue [2] 3 0 ∧ s.mayIssue [2, 3] 0 0 ∧ s.mem.wf ∧
    va 1 = 0xFFFF00000000 ∧ va 2 + 8 ≤ 0xFFFF00000000 + windowSize s.core.sliced ∧ va 2 % 8 = 0 ∧
    s.readError (windowPa s.core.num s.core.sliced s.core.half 0) 4 = none ∧
    s.readError (windowPa s.core.num s.core.sliced s.core.half 0x17FFF8) 8 = none := by
  refine ⟨issues_mayIssue ?_, issues_mayIssue ?_, issues_mayIssue ?_, ?_⟩ <;> decide +kernel

/-- What a translation gives: the physical address. -/
def paOf (r : State × Except XFault Nat) : Option Nat := r.2.toOption

theorem paOf_ok {r : State × Except XFault Nat} {pa : Nat} (h : paOf r = some pa) : ∃ u, r = (u, .ok pa) := by
  obtain ⟨u, x⟩ := r
  cases x with
  | ok v => cases h; exact ⟨u, rfl⟩
  | error e => cases h

theorem witness_GlobalLoadsAndStores :
    let s := mapped [(1, 0x200100)]
    let va := s.reg 1 + BitVec.signExtend 64 (0 : BitVec 14)
    s.mayIssue [1, 2] 0 0 ∧ s.mayIssue [1] 3 0 ∧ (∃ u, s.translate .write va.toNat = (u, .ok 0x200100)) ∧
    (∃ u, s.translate .read va.toNat = (u, .ok 0x200100) ∧ u.core.set.boundaryBefore u.net.nextId = false ∧
      lookup (0x200100 / 8 * 8) u.core.set.snaps = none) ∧
    va.toNat + 8 ≤ 0xFFFF00000000 ∧ va.toNat % 8 = 0 ∧ s.part.windowAt va.toNat = none ∧
    s.core.set.fenced = false ∧ s.retentionFull = false := by
  refine ⟨issues_mayIssue ?_, issues_mayIssue ?_, paOf_ok ?_, ⟨_, Prod.ext rfl ?_, ?_, ?_⟩, ?_⟩ <;> decide +kernel

theorem witness_BranchResults : (unit [(1, 5)]).mayIssue [1, 2] 0 0 ∧ (unit [(1, 5)]).mayIssue [] 0 0 ∧
    (unit [(1, 5)]).reg 1 ≠ (unit [(1, 5)]).reg 2 ∧ (unit [(1, 5)]).seq.pending 1 = false ∧
    ((unit []).mapSeq (fun q => q.setPending 1)).seq.pending 1 = true := by
  refine ⟨issues_mayIssue ?_, issues_mayIssue ?_, ?_⟩ <;> decide +kernel

theorem witness_AddressChecksInOrder :
    let s := mapped [(1, 0x200101), (2, 0xFFFF00180000), (3, 0x200100), (4, 0x400000)]
    let va (a : Reg) := s.reg a + BitVec.signExtend 64 (0 : BitVec 14)
    let w := { s with parts := [{ Part.device with windows := [(0, ⟨0x200000, 0x40000000, 0, 0⟩)] }] }
    ([1, 2, 3, 4].map (fun a => s.globalHeld (va a)) = [false, false, false, false] ∧ s.mayIssue [1, 5] 5 0 ∧
    s.mayIssue [2, 5] 5 0 ∧ s.mayIssue [3, 5] 5 0 ∧ s.mayIssue [4, 5] 5 0) ∧
    ((va 1).toNat % 4 ≠ 0 ∧ (va 2).toNat = 0xFFFF00000000 + windowSize s.core.sliced) ∧
    (w.mayIssue [3, 5] 5 0 ∧ w.globalHeld (va 3) = false ∧ (w.part.windowAt (va 3).toNat).isSome) ∧
    (s.part.windowAt (va 4).toNat = none ∧ ∃ u, s.translate .read (va 4).toNat = (u, .error .page)) := by
  refine ⟨⟨?_, issues_mayIssue ?_, issues_mayIssue ?_, issues_mayIssue ?_, issues_mayIssue ?_⟩, ⟨?_, ?_⟩,
    ⟨issues_mayIssue ?_, ?_, ?_⟩, ?_, ⟨_, split ?_⟩⟩ <;> decide +kernel

theorem witness_TranslationFaults :
    let s := { mapped [] with mem := (mapped []).mem.putBytes 0x80010 (leBytes 8 0x200013) }
    (∀ e ∈ s.core.set.tlb, e.vpn ≠ 0x200000 / 65536) ∧ walkTables s.mem s.part.root 0x600000 = none ∧
    (walkTables s.mem s.part.root 0x400000).map (fun l => pteAllows .write l.pte) = some false ∧
    (walkTables s.mem s.part.root 0x200000).map (fun l => pteAllows .write l.pte && s.granted s.part (l.page + 0) &&
      !s.part.inCounters l.page && pinFits s.host.pins l) = some true := by
  decide +kernel

theorem witness_SpecialRegisterReads : (atLevel 2).mayIssue [] 3 0 ∧ (atLevel 1).mayIssue [] 3 0 ∧
    (atLevel 0).mayIssue [] 3 0 := by
  refine ⟨issues_mayIssue ?_, issues_mayIssue ?_, issues_mayIssue ?_⟩ <;> decide +kernel

theorem witness_SpecialRegisterWrites : (atLevel 2).mayIssue [1] 0 1 ∧ (atLevel 1).mayIssue [1] 0 1 ∧
    (atLevel 0).mayIssue [1] 0 0 ∧ (atLevel 2).seq.level = 2 ∧ (atLevel 1).seq.level = 1 ∧ (atLevel 0).seq.level = 0 := by
  refine ⟨issues_mayIssue ?_, issues_mayIssue ?_, issues_mayIssue ?_, ?_⟩ <;> decide +kernel

theorem witness_SysInstructions :
    let s := atLevel 1
    let odd := s.mapSeq (fun q => { q with tenant := { q.tenant with pc := 2 } })
    let due := s.mapCore (fun k => { k with swapDue := true })
    let runs := s.mapFab (fun f => { f with running := some (image 1 []), detect := { f.detect with moved := true } })
    let told (w : Word) := runs.mapFab (fun f => { f with detect := { f.detect with report := some w, standing := true } })
    s.mayIssue [] 0 0 ∧ s.mayIssue [] 5 0 ∧ s.mayIssue [] 0 1 ∧ odd.mayIssue [] 0 1 ∧ s.core.swapDue = false ∧
    s.seq.tenant.pc.toNat % 4 = 0 ∧ odd.seq.tenant.pc.toNat % 4 ≠ 0 ∧ s.core.set.unit = some UnitCtx.none ∧
    s.core.set.seq.pend = 0 ∧ s.core.set.eng = [] ∧ s.core.set.ops = [] ∧ s.core.set.fab.running = none ∧
    (due.mayIssue [] 0 0 ∧ due.core.swapDue = true) ∧ (runs.mayIssue [] 0 0 ∧ runs.core.set.fab.running.isSome ∧
      runs.standing = none ∧ runs.core.set.unit = some UnitCtx.none) ∧
    ((∀ w, (told w).standing = some w) ∧ (told 1).mayIssue [] 0 0 ∧ (told 2).mayIssue [] 0 0) ∧
    (s.mapSeq (fun q => q.setPending 5)).seq.pending 5 = true := by
  refine ⟨issues_mayIssue ?_, issues_mayIssue ?_, issues_mayIssue ?_, issues_mayIssue ?_, ?_, ?_, ?_, ?_, ?_, ?_, ?_, ?_,
    ⟨issues_mayIssue ?_, ?_⟩, ⟨issues_mayIssue ?_, ?_⟩, ⟨fun w => rfl, issues_mayIssue ?_, issues_mayIssue ?_⟩, ?_⟩ <;> decide +kernel

theorem witness_TrapEntrySavesAndJumps :
    let s (t d : Word) := (atLevel 0).mapSeq (fun q =>
      { q with tenant := { q.tenant with base := t }, device := { q.device with base := d } })
    (s 64 0).seq.trapTarget false = .tenant ∧ (s 0 64).seq.trapTarget false = .device := by
  decide +kernel

theorem witness_TrapTargets : (atLevel 0).seq.level = 0 ∧ (atLevel 1).seq.level = 1 ∧ (atLevel 2).seq.level = 2 ∧
    (atLevel 0).seq.trapTarget false = .lock ∧ ((atLevel 1).mapSeq (fun q => { q with te := false })).seq.te = false ∧
    ((atLevel 0).mapSet (fun c => { c with asyncs := [⟨0x10, 0⟩] })).core.set.asyncs ≠ [] := by
  decide +kernel

theorem witness_PrivilegedInstructionsTrap :
    let s := atLevel 0
    (∀ r ∈ [(3 : Reg), 1, 2, 0], s.seq.pending r = false) ∧ s.core.set.barred = false ∧ s.unfinished [.lnch] = false ∧
    s.seq.level.toNat < 1 ∧ (atLevel 1).seq.level.toNat < 2 := by
  decide +kernel

theorem witness_TokenTrapClearsItsErrorBit :
    let s (e : ErrKind) := (unit []).mapSeq (fun q => { q with errs := q.errs.set 5 e })
    (∀ e ∈ [ErrKind.token, .cfgbad, .fabric 3], (s e).seq.err 5 ≠ .clear ∧ (s e).seq.err 6 = .clear ∧
      (s e).seq.pending 5 = false ∧ (s e).seq.pending 6 = false ∧ (s e).seq.pending 7 = false ∧
      (s e).core.set.barred = false) ∧ (5 : Reg) ≠ 0 := by
  decide +kernel

theorem witness_CompletionWritesTheRegister :
    let o (due : Nat) : Op := ⟨7, 5, .other, .ready 9 .clear due⟩
    let s (due : Nat) := (unit []).mapSet (fun c => { c with ops := [o due, ⟨8, 0, .other, .fence⟩] })
    (s 1000).core.set.op 7 = some (o 1000) ∧ 1000 ≤ (s 1000).cycle ∧ (s 1001).core.set.op 7 = some (o 1001) ∧
    (s 1001).cycle < 1001 := by
  decide +kernel

theorem witness_CfgInstructionsComplete :
    let s := inPad (unit [(1, 0xFFFF00000040)]) 0x40 emptyImage
    let bad := unit [(1, 0xFFFF00000040)]
    let staged := s.mapFab (fun f => { f with staged := some (image 1 []) })
    s.mayIssue [1] 3 0 ∧ s.mayIssue [] 3 0 ∧ s.cfgFree ∧ s.readHeld (s.reg 1) = false ∧
    (∀ x ∈ [(s, true), (bad, false)], ∃ u v r y w sp head rest limit pages, x.1.checked .read (x.1.reg 1) 64 64 = (u, .ok (w, sp)) ∧
      State.readSpans w sp u = (v, head, none) ∧
      v.readUpTo ((x.1.reg 1).toNat + 64) (imageLen head - 64) = (r, rest, limit) ∧
      r.translateNodes (head ++ rest) (limit.map (fun n => n - (x.1.reg 1).toNat)) = (y, pages) ∧
      (y.loadImage (head ++ rest) (limit.map (fun n => n - (x.1.reg 1).toNat))).toOption.isSome = x.2) ∧
    (s.core.set.fab.mark = none ∧ s.core.set.fab.staged = none ∧ s.core.set.fab.running = none) ∧
    (staged.core.set.fab.staged = some (image 1 []) ∧ (running (image 1 []) []).core.set.fab.running.isSome ∧
      (running (image 1 []) []).cfgFree) ∧
    ((s.mapFab (fun f => { f with mark := some 3 })).core.set.fab.mark = some 3) := by
  refine ⟨issues_mayIssue ?_, issues_mayIssue ?_, ?_, ?_, ?_, ?_, ⟨?_, ?_, ?_⟩, ?_⟩
  case refine_5 =>
    intro x hx
    obtain rfl | rfl : x = (inPad (unit [(1, 0xFFFF00000040)]) 0x40 emptyImage, true) ∨ x = (unit [(1, 0xFFFF00000040)], false) := by
      simpa using hx
    · exact imageAt_reads (fun _ _ r => r.toOption.isSome = true) (by decide +kernel)
    · exact imageAt_reads (fun _ _ r => r.toOption.isSome = false) (by decide +kernel)
  all_goals first | decide +kernel | (unfold State.cfgFree; decide +kernel)

theorem witness_CfgParameterBlocks :
    let im := { image 1 [sinkSlot 0] with nodes := [.np 0 ⟨0, 0, 0⟩] }
    let s := inPad ((running im [(1, 0xFFFF00000040)]).mapFab (fun f => { f with staged := some im })) 0x40
      [0x80, 0, 16, 0, 0, 0, 0, 0, 0, 0, 1, 3, 0, 0, 0, 0]
    s.mayIssue [1] 3 0 ∧ s.cfgFree ∧ s.readHeld (s.reg 1) = false ∧ s.core.set.fab.running = some im ∧
    s.core.set.fab.staged = some im ∧
    ∃ u v x w sp head rest z pages, s.checked .read (s.reg 1) 8 8 = (u, .ok (w, sp)) ∧
      State.readSpans w sp u = (v, head, none) ∧
      v.readUpTo ((s.reg 1).toNat + 8) (blockRest head) = (x, rest, none) ∧
      firstBad Bad.field (blockBads (head ++ rest)) = none ∧
      x.walkFirst im.P (nodeOf (field (head ++ rest) 0 2) (head ++ rest)) = (z, pages) ∧
      (∃ new, z.loadBlock im (head ++ rest) false = .ok new) ∧ ∃ new, z.loadBlock im (head ++ rest) true = .ok new := by
  refine ⟨issues_mayIssue ?_, ?_, ?_, ?_, ?_, blockAt_reads ?_⟩
  case refine_2 => unfold State.cfgFree; decide +kernel
  all_goals decide +kernel

theorem witness_StreamInstructionsComplete :
    let s := running (image 1 [sinkSlot 0]) [(1, 0xFFFF00000040), (4, 63), (5, 64), (6, 1024), (7, 0x0B01000000)]
    let idle := unit [(1, 0xFFFF00000040)]
    let tile := running (image 1 [sinkSlot 0]) [(8, 0x1100000), (9, 0)]
    let valid (t : Tile) : Bool := t.valid (windowSize tile.core.sliced)
    (valid (tileOf 1 0) = false ∧ valid (tileOf 0x9000000 0x800) = true ∧ (tileOf 0x9000000 0x800).units > 8 ∧
      (tileOf 0x9000000 0x800).badFormat = false ∧ valid (tileOf 0x1000000 0xA0000) = true ∧
      (tileOf 0x1000000 0xA0000).units ≤ 8 ∧ (tileOf 0x1000000 0xA0000).badFormat = true) ∧
    s.strmFree ∧ idle.strmFree ∧ s.mayIssue [1, 0] 3 0 ∧ s.mayIssue [1] 3 0 ∧ s.mayIssue [] 3 0 ∧ s.mayIssue [4] 3 0 ∧
    s.mayIssue [0, 5] 3 0 ∧ s.mayIssue [6, 5] 3 0 ∧ idle.mayIssue [1, 0] 3 0 ∧
    s.globalHeld (s.reg 1) = false ∧ s.readHeld (s.reg 1) = false ∧
    tile.mayIssue [8, 9, 0] 3 0 ∧ tile.feedStatus 15 (tile.reg 0) = none ∧
    (tileOf (tile.reg 8) (tile.reg 9)).feedStatus (windowSize tile.core.sliced) = none ∧
    (∃ u w sp, s.checked .read (s.reg 1) 16 128 = (u, .ok (w, sp)) ∧ True) ∧
    (∃ u w sp, s.checked .write (s.reg 1) 16 128 = (u, .ok (w, sp)) ∧ True) ∧
    s.feedStatus 15 (s.reg 0) = none ∧ idle.feedStatus 0 (idle.reg 0) = some 0x22 ∧
    s.core.set.fab.running.isSome ∧ idle.core.set.fab.running = none ∧ (s.reg 4).toNat ≤ 63 ∧ (s.reg 5).toNat > 63 ∧
    ((s.reg 5).toNat ≤ 64 ∧ (s.reg 0).toNat + (s.reg 5).toNat ≤ 1024) ∧ (s.reg 6).toNat + (s.reg 5).toNat > 1024 := by
  intro s idle tile valid
  refine ⟨?_, ?_, ?_, issues_mayIssue ?_, issues_mayIssue ?_, issues_mayIssue ?_, issues_mayIssue ?_, issues_mayIssue ?_,
    issues_mayIssue ?_, issues_mayIssue ?_, ?_, ?_, issues_mayIssue ?_, ?_, ?_,
    ranges_checked (fun _ => True) ?_, ranges_checked (fun _ => True) ?_, ?_⟩
  all_goals first | decide +kernel | (unfold State.strmFree; decide +kernel)

theorem restored_nil {im : Image} {l : List (Nat × Nat × Word)} {x : State} (h : l = []) :
    State.restored im l [] x = (x, .ok []) := by
  subst h; rfl

theorem witness_RoundInstructionsComplete :
    let im := image 63 [sinkSlot 0]
    let s := running im [(1, 62), (2, 63)]
    let asked := s.putStream 62 { s.stream 62 with reset := true }
    let area := s.putStream 62 { s.stream 62 with status := .live, state := 0xFFFF00000100 }
    (s.unfinished [.rnd, .cast, .move, .cfg, .strm] = false ∧ s.inProgress [.mat] = false ∧ s.core.set.fab.running = some im ∧
      s.mayIssue [1] 9 0 ∧
      s.mayIssue [2] 9 0 ∧ im.P ≤ (s.reg 2).toNat ∧ (s.reg 2).toNat < 64 ∧ s.mayIssue [] 9 0) ∧
    (asked.mayIssue [0, 1] 9 0 ∧ (asked.reg 1).toNat < im.P ∧ (asked.stream 62).status = .free ∧
      (asked.stream 62).reset = true) ∧
    (∀ st ∈ [Status.live, .slip, .drop, .cast, .off], ((withStatus s 62 st).stream 62).status = st) ∧
    (∃ u r, area.areaToWrite (area.stream 62).state im.areaLen = (u, some r)) ∧
    ∃ u areas, State.areasToWrite im.areaLen ((List.range 64).filter (fun k => (area.stream k).status.held)) area =
      (u, .ok areas) := by
  intro im s asked area
  have one : (area.areaToWrite (area.stream 62).state im.areaLen).2.isSome = true := by decide +kernel
  have all : (State.areasToWrite im.areaLen ((List.range 64).filter (fun k => (area.stream k).status.held)) area).2.toOption.isSome
      = true := by decide +kernel
  obtain ⟨r, hr⟩ := Option.isSome_iff_exists.mp one
  obtain ⟨l, hl⟩ := isSome_ok all
  refine ⟨⟨?_, ?_, ?_, issues_mayIssue ?_, issues_mayIssue ?_, ?_, ?_, issues_mayIssue ?_⟩, ⟨issues_mayIssue ?_, ?_⟩, ?_,
    ⟨_, r, split hr⟩, _, l, split hl⟩ <;> decide +kernel

theorem witness_CastonStateImages :
    let im := image 63 [sinkSlot 0]
    let s := running im []
    let cast (ptr : Word) := s.putStream 0 { s.stream 0 with state := ptr }
    let bytes : List Byte := List.replicate 10 0 ++ [2] ++ List.replicate 23 0 ++ [1, 0, 64] ++ List.replicate 27 0
    let stored (bs : List Byte) := inPad (cast 0xFFFF00000100) 0x100 bs
    issues (cast 1) [0, 0] 9 0 = true ∧ ((cast 1).stream 0).status = .free ∧ ((cast 1).stream 0).reset = false ∧
    (cast 1).castHeld 0 none = false ∧ (cast 0xFFFF00000100).castHeld 0 none = false ∧
    ((cast 1).readArea 1 im.areaLen).2.isNone ∧
    (((stored bytes).readArea 0xFFFF00000100 im.areaLen).2.bind im.readState).isSome ∧
    ((cast 0xFFFF00000100).readArea 0xFFFF00000100 im.areaLen).2.isSome ∧
    (((cast 0xFFFF00000100).readArea 0xFFFF00000100 im.areaLen).2.bind im.readState).isNone ∧
    (∀ n ∈ [64, 65, 66, 67, 68], issues (running im [(1, BitVec.ofNat 64 n)]) [1] 9 0 = true ∧
      ((running im [(1, BitVec.ofNat 64 n)]).reg 1).toNat = n) := by
  decide +kernel

theorem witness_Rload :
    let s := inPad (running (image 63 [sinkSlot 0]) [(3, 0xFFFF00000040)]) 0x40 emptyImage
    s.readHeld (s.reg 3) = false ∧ s.mayIssue [3, 0] 9 0 ∧
    ∃ u v r x w sp head rest limit pages, s.checked .read (s.reg 3) 64 64 = (u, .ok (w, sp)) ∧
      State.readSpans w sp u = (v, head, none) ∧
      v.readUpTo ((s.reg 3).toNat + 64) (imageLen head - 64) = (r, rest, limit) ∧
      r.translateNodes (head ++ rest) (limit.map (fun n => n - (s.reg 3).toNat)) = (x, pages) ∧
      u.core.set.stitchBusy = false ∧ (x.loadImage (head ++ rest) (limit.map (fun n => n - (s.reg 3).toNat))).toOption.isSome ∧
      x.core.set.rounds.savedMap = [] := by
  refine ⟨?_, issues_mayIssue ?_, imageAt_reads
    (fun u x r => u.core.set.stitchBusy = false ∧ r.toOption.isSome ∧ x.core.set.rounds.savedMap = []) ?_⟩ <;> decide +kernel

/-- An image and a resume block that can be read, the image accepted and no stitch named. -/
def resumes (s : State) (va vb : Word) : Bool :=
  match s.checked .read va 64 64 with
  | (u', .ok (w, sp)) =>
    match u'.checked .read vb 64 576 with
    | (c, .ok (w', sp')) =>
      match State.readSpans w' sp' c with
      | (u, bs, none) =>
        match State.readSpans w sp u with
        | (v, head, none) =>
          match v.readUpTo (va.toNat + 64) (imageLen head - 64) with
          | (r, rest, limit) =>
            match r.translateNodes (head ++ rest) (limit.map (fun n => n - va.toNat)) with
            | (x, _) => !c.core.set.stitchBusy && (resumeMap bs).isEmpty &&
              (x.loadImage (head ++ rest) (limit.map (fun n => n - va.toNat))).toOption.isSome
        | _ => false
      | _ => false
    | _ => false
  | _ => false

theorem resumes_reads {s : State} {va vb : Word} (h : resumes s va vb = true) :
    ∃ u' c u v r x w sp w' sp' bs head rest limit pages, s.checked .read va 64 64 = (u', .ok (w, sp)) ∧
      u'.checked .read vb 64 576 = (c, .ok (w', sp')) ∧ c.core.set.stitchBusy = false ∧
      State.readSpans w' sp' c = (u, bs, none) ∧ resumeMap bs = [] ∧ State.readSpans w sp u = (v, head, none) ∧
      v.readUpTo (va.toNat + 64) (imageLen head - 64) = (r, rest, limit) ∧
      r.translateNodes (head ++ rest) (limit.map (fun n => n - va.toNat)) = (x, pages) ∧
      (x.loadImage (head ++ rest) (limit.map (fun n => n - va.toNat))).toOption.isSome = true := by
  unfold resumes at h
  split at h
  · rename_i u' w sp h1
    split at h
    · rename_i c w' sp' h2
      split at h
      · rename_i u bs h3
        split at h
        · rename_i v head h4
          split at h
          rename_i r rest limit h5
          split at h
          rename_i x pages h6
          simp only [Bool.and_eq_true, Bool.not_eq_true', List.isEmpty_iff] at h
          exact ⟨u', c, u, v, r, x, w, sp, w', sp', bs, head, rest, limit, pages, h1, h2, h.1.1, h3, h.1.2, h4, h5, h6, h.2⟩
        · cases h
      · cases h
    · cases h
  · cases h

theorem witness_RloadWithBlock :
    let s := inPad (inPad (running (image 63 [sinkSlot 0]) [(3, 0xFFFF00000040), (4, 0xFFFF00000400)]) 0x40 emptyImage) 0x400
      (List.replicate 64 0xFF)
    s.mayIssue [3, 4] 9 0 ∧ s.readHeld (s.reg 3) = false ∧ s.readHeld (s.reg 4) = false ∧
    ∃ u' c u v r x w sp w' sp' bs head rest limit pages, s.checked .read (s.reg 3) 64 64 = (u', .ok (w, sp)) ∧
      u'.checked .read (s.reg 4) 64 576 = (c, .ok (w', sp')) ∧ c.core.set.stitchBusy = false ∧
      State.readSpans w' sp' c = (u, bs, none) ∧ resumeMap bs = [] ∧ State.readSpans w sp u = (v, head, none) ∧
      v.readUpTo ((s.reg 3).toNat + 64) (imageLen head - 64) = (r, rest, limit) ∧
      r.translateNodes (head ++ rest) (limit.map (fun n => n - (s.reg 3).toNat)) = (x, pages) ∧
      (x.loadImage (head ++ rest) (limit.map (fun n => n - (s.reg 3).toNat))).toOption.isSome = true := by
  refine ⟨issues_mayIssue ?_, ?_, ?_, resumes_reads ?_⟩ <;> decide +kernel

theorem witness_RoundBoundaryChangesStitches :
    let im := image 10 [sinkSlot 0]
    let s (st : Status) (op : StitchOp) := (withStatus (running im []) 63 st).mapRounds (fun r =>
      { r with pending := [⟨63, op, 7, 999⟩] })
    ∀ x ∈ [(Status.cast, StitchOp.live), (.live, .slip), (.slip, .unslip), (.drop, .lift true), (.off, .slip),
        (.drop, .bindoff none)],
      (s x.1 x.2).core.set.fab.running = some im ∧ (s x.1 x.2).atRoundBoundary im = true ∧
      (s x.1 x.2).core.frost = .thawed ∧ (s x.1 x.2).core.set.rounds.pending = [⟨63, x.2, 7, 999⟩] ∧
      (s x.1 x.2).core.set.rounds.save = none ∧ (s x.1 x.2).core.set.rounds.loading = none ∧
      999 < (s x.1 x.2).cycle ∧ (lookup 63 (s x.1 x.2).core.set.rounds.dropped).getD 0 + im.P ≤ (s x.1 x.2).cycle ∧
      ((s x.1 x.2).stream 63).status = x.1 := by
  decide +kernel

theorem witness_DrainsEnd :
    let im := image 10 [sinkSlot 0]
    let v : Save := ⟨[(63, false, [])], 8, 900, some 900⟩
    ∀ save ∈ [none, some (true, [⟨0xFFFF00000100, windowPa 0 false false 0x100, 64⟩])],
      let d : Drain := ⟨63, 7, save, 900, .live⟩
      let s := (withStatus (running im []) 63 .live).mapRounds (fun r => { r with drains := [d], save := some v })
      s.core.set.fab.running = some im ∧ s.core.fabricRuns s.cycle = true ∧
      s.core.set.rounds.drains.find? (fun d => d.k == 63) = some d ∧ s.bindoffOver im d = true ∧
      s.core.set.rounds.save = some v ∧ s.rsaveOver im v = true ∧ (∀ x ∈ v.set, x.1 < 64) := by
  decide +kernel

/-- An accumulator node with target A at slot 0. -/
def anNode (int : Bool) : AnParams := ⟨0, noTarget, int, false, 1, 0, 0⟩

/-- A gate pipeline of one stage. -/
def gpNode : GpParams := ⟨0, noTarget, false, [(0, 0)]⟩

def matrixImage (mx : MxParams) (int : Bool) : Image :=
  { image 10 [sinkSlot 0] with nodes := [.mx mx, .an 0 (anNode int), .gp gpNode] }

/-- A running fabric with tokens standing and work before accumulator node 0. -/
def matrix (mx : MxParams) (int : Bool) (held : List (Target × Token)) (work : List AnWork) : State :=
  (running (matrixImage mx int) [(2, 0xFFFF00000040)]).mapFab (fun f =>
    { f with held := held, anq := work.map (fun w => ⟨0, 9, w⟩) })

theorem witness_MatrixEventsHappen :
    let tok := Token.plain 9 1 false
    let s := matrix mxDefault false [(mxInput 0, tok), (mxInput 1, tok)] []
    let eor := matrix mxDefault false [(mxInput 0, { tok with tag := { tok.tag with kind := .endOfReduction } })] []
    let tile := { mxDefault with tile := true, ta := 0x1100000, tao := 0 }
    let row := (matrix tile false [(mxInput 1, Token.plain 0 1 false)] []).mapSet (fun c => { c with tags := 1, tagsSeen := 1 })
    ((unit []).mapSet (fun c => { c with planes := { c.planes with swapDue := true } })).core.set.planes.swapDue = true ∧
    (s.core.set.fab.running = some (matrixImage mxDefault false) ∧ s.core.fabricRuns s.cycle = true ∧
      s.core.set.planes.swapDue = false ∧ s.core.set.entersFirst mxDefault 9 = true ∧
      s.core.set.fab.oldest (mxInput 0) 9 = some tok ∧ eor.core.set.entersFirst mxDefault 9 = true) ∧
    ((matrixImage tile false).mxParams = tile ∧ (matrixImage tile false).an 0 = some (anNode false) ∧
      row.rowReady tile = true ∧ row.core.fabricRuns row.cycle = true ∧
      ∃ u bs, State.readSpans true (row.rowSpans (tileOf tile.ta tile.tao) row.core.set.fab.tileRow.1 row.core.set.fab.tileRow.2)
        row = (u, bs, none)) := by
  refine ⟨?_, ?_, ?_, ?_, ?_, ?_, ⟨_, _, split3 ?_⟩⟩ <;> decide +kernel

theorem witness_AccumulatorAdditions :
    let s (int : Bool) (w : AnWork) := matrix mxDefault int [] [w]
    let order := Token.order 9 false
    ∀ x ∈ [(true, AnWork.block 1), (true, .intBlock 1), (true, .wideBlock 1), (false, .block 1), (false, .badBlock 4),
        (false, .token 0 (Token.error 9 4 false)), (false, .token 0 (Token.plain 9 1 false)), (false, .token 0 order)],
      (s x.1 x.2).liveAn 0 = some (matrixImage mxDefault x.1, anNode x.1) ∧
      (s x.1 x.2).core.set.addition (s x.1 x.2).cycle 0 (anNode x.1) = some ⟨⟨0, 9, x.2⟩, x.2⟩ := by
  decide +kernel

theorem witness_AccumulatorOverflow :
    let p : AnParams := { anNode true with trap := true }
    let im : Image := { image 10 [sinkSlot 0] with nodes := [.an 0 p] }
    let s (st : Status) := (withStatus (running im []) 9 st).mapFab (fun f =>
      { f with anq := [⟨0, 9, .block 1⟩] }.setAn 0 9 { AnEntry.zero with lanes := 0x7FFFFFFF })
    ∀ st ∈ [Status.live, .slip, .free, .cast, .off],
      (s st).liveAn 0 = some (im, p) ∧ (s st).core.set.addition (s st).cycle 0 p = some ⟨⟨0, 9, .block 1⟩, .block 1⟩ ∧
      (((s st).core.set.fab.anAt 0 9).lanes.extractLsb' 0 32).toInt + 1 ≥ 2 ^ 31 ∧
      (s st).core.set.rounds.turned = [] ∧ ((s st).stream 9).status = st := by
  decide +kernel

theorem witness_AccumulatorReleases :
    let eor := { Token.plain 9 0 true with tag := { (Token.plain 9 0 true).tag with kind := .endOfReduction } }
    let s := matrix mxDefault false [] [.token 0 eor]
    let leaving := s.mapFab (fun f => { f with rels := [⟨0, anNode false, [Token.plain 9 1 true]⟩] })
    s.liveAn 0 = some (matrixImage mxDefault false, anNode false) ∧ s.core.set.fab.rels = [] ∧
    s.releases (matrixImage mxDefault false) 0 = [⟨⟨0, 9, .token 0 eor⟩, .token 0 eor⟩] ∧
    (matrixImage mxDefault false).pairs 0 = false ∧ (matrixImage mxDefault false).toTile 0 = none ∧
    (leaving.core.set.fab.rels = [⟨0, anNode false, [Token.plain 9 1 true]⟩] ∧ leaving.core.set.anSends 9 = true ∧ leaving.core.set.fab.hasRoom 0 = true ∧
      leaving.core.set.fab.hasRoom noTarget = true) := by
  decide +kernel

theorem witness_PairReleases :
    let eor := { Token.plain 9 0 true with tag := { (Token.plain 9 0 true).tag with kind := .endOfReduction } }
    let pair := { mxDefault with split := 2 }
    let m (c : Bool) : Nat × Nat × BitVec 4096 × Option (BitVec 6) := (0, 9, 1, if c then some 4 else none)
    let im (kblk : Bool) : Image := { image 10 [sinkSlot 0] with nodes := [.mx pair, .an 0 { anNode false with kblk := if kblk then 1 else 0 }] }
    let both (kblk c : Bool) := (running (im kblk) []).mapFab (fun f =>
      { f with anq := [⟨0, 9, .token 0 eor⟩], pair := [m c] })
    ∀ kblk c, (both kblk c).liveAn 0 = some (im kblk, { anNode false with kblk := if kblk then 1 else 0 }) ∧
      (both kblk c).pairCand (im kblk) 0 9 = some ⟨⟨0, 9, .token 0 eor⟩, .token 0 eor⟩ ∧
      (both kblk c).core.set.fab.pair.find? (fun m => m.1 == 0 && m.2.1 == 9) = some (m c) ∧ (im kblk).toTile 0 = none ∧
      ((both kblk c).core.set.fab.anAt 0 9).mark = none ∧ ((both kblk c).core.set.fab.anAt 0 9).blocks = 0 := by
  decide +kernel

theorem witness_GatePipelineFires :
    let s (t : Token) := matrix mxDefault false [(gpInput 0, t)] []
    let tok := Token.plain 9 1 false
    ∀ t ∈ [tok, Token.order 9 false, Token.error 9 4 false],
      (s t).core.set.fab.running.bind Image.gp = some gpNode ∧ (s t).core.fabricRuns (s t).cycle = true ∧
      (s t).core.set.fab.fired.contains gpElement = false ∧ (s t).core.set.fab.hasRoom gpNode.out = true ∧
      (s t).core.set.fab.hasRoom gpNode.out2 = true ∧ (s t).core.set.fab.gpTaken gpNode 9 = some ⟨t, none, none⟩ ∧
      lookup 9 (s t).core.set.fab.gpFill = none := by
  decide +kernel

theorem witness_GatePipelinePacks :
    let p : GpParams := { gpNode with pack := true, stages := [(13, 0x50)] }
    let tok := Token.plain 9 1 false
    let g (n : Nat) : GpFill := ⟨1, n, false, none, tok.tag, p⟩
    let s (fill : List (Nat × GpFill)) (t : Token) := (running { image 10 [sinkSlot 0] with nodes := [.gp p] } []).mapFab
      (fun f => { f with held := [(gpInput 0, t)], gpFill := fill })
    p.bits = 8 ∧ ∀ x ∈ [([], tok), ([(9, g 1)], tok), ([(9, g 3)], Token.plain 9 1 true), ([(9, g 3)], Token.error 9 4 false)],
      (s x.1 x.2).core.set.fab.running.bind Image.gp = some p ∧ (s x.1 x.2).core.fabricRuns (s x.1 x.2).cycle = true ∧
      (s x.1 x.2).core.set.fab.fired.contains gpElement = false ∧ (s x.1 x.2).core.set.fab.hasRoom p.out = true ∧
      (s x.1 x.2).core.set.fab.hasRoom p.out2 = true ∧ (s x.1 x.2).core.set.fab.gpTaken p 9 = some ⟨x.2, none, none⟩ ∧
      x.2.k = 9 ∧ ∀ g ∈ lookup 9 (s x.1 x.2).core.set.fab.gpFill, g.goesOn p = true := by
  decide +kernel

theorem witness_MatrixInstructionsComplete :
    let s := (matrix mxDefault false [] []).setReg 1 0x8000000000000000
    let none' := unit [(1, 1)]
    let tile := unit [(4, 0x8000000), (5, 0x3077F)]
    (tile.unfinished [.mxw] = false ∧ tile.mayIssue [4, 5, 1] 3 0 ∧
      mxwStatus (tileOf (tile.reg 4) (tile.reg 5)) (windowSize tile.core.sliced) false = none ∧
      tile.planeModeBad ((0 : BitVec 3).getLsbD 1) = false) ∧
    (s.inProgress [.cfg, .rnd, .cast, .move] = false ∧ s.mayIssue [1] 3 0 ∧ none'.mayIssue [1] 3 0 ∧
      none'.core.set.fab.running = none ∧ (matrixImage mxDefault false).an 7 = none ∧
      (matrixImage mxDefault false).an 0 = some (anNode false) ∧ s.reg 0 = 0 ∧ s.reg 1 ≠ 0) ∧
    (s.mayIssue [0, 2] 3 0 ∧ s.globalHeld (s.reg 2) = false ∧
      ∃ u w sp, s.checked .write (s.reg 2) 8 520 = (u, .ok (w, sp)) ∧
        u.core.set.fab.running = some (matrixImage mxDefault false)) ∧
    (s.mayIssue [2] 3 0 ∧ s.readHeld (s.reg 2) = false ∧ ∃ u v w sp bs, s.checked .read (s.reg 2) 8 64 = (u, .ok (w, sp)) ∧
      State.readSpans w sp u = (v, bs, none) ∧ v.core.set.fab.running = some (matrixImage mxDefault false) ∧
      (matrixImage mxDefault false).gp = some gpNode ∧ gpldDetail gpNode bs = none) := by
  refine ⟨⟨?_, issues_mayIssue ?_, ?_⟩, ⟨?_, issues_mayIssue ?_, issues_mayIssue ?_, ?_⟩,
    ⟨issues_mayIssue ?_, ?_, ranges_checked _ ?_⟩, issues_mayIssue ?_, ?_, reads_checked _ ?_⟩ <;> decide +kernel

theorem witness_EngineInstructionsEnterTheirQueue :
    let pad : Word := 0xFFFF00000000
    let s (d m l : Word) := unit [(4, d), (5, 0), (6, m), (7, l)]
    let copy := s pad (pad + 0x100) 0x100
    let hit := s pad (pad + 0x10) 0x20
    let odd := s (pad + 8) pad 0x10
    let tile := s 0x1000000 pad 0x10
    let full := copy.mapSet (fun c => { c with eng := List.replicate 16 ⟨0, 15, 3, .fill 0 16 0, [], 0, false, none⟩ })
    (∀ x ∈ [copy, hit, odd, tile], (x.core.set.queueOps 15).length < 16) ∧ (full.core.set.queueOps 15).length ≥ 16 ∧
    copy.mayIssue [4, 5, 6, 7] 3 0 ∧ (copy.reg 4).toNat % 16 = 0 ∧ (copy.reg 6).toNat ≥ (copy.reg 4).toNat + (copy.reg 7).toNat ∧
    hit.mayIssue [4, 5, 6, 7] 3 0 ∧ (hit.reg 4).toNat < (hit.reg 6).toNat + 0x20 ∧
    (hit.reg 6).toNat < (hit.reg 4).toNat + 0x20 ∧ (hit.reg 4).toNat < 2 ^ 48 ∧
    odd.mayIssue [4, 5, 6, 7] 3 0 ∧ (odd.reg 4).toNat % 16 ≠ 0 ∧ (odd.reg 4).toNat < 2 ^ 48 ∧
    tile.mayIssue [4, 5, 6, 7] 3 0 ∧ full.mayIssue [4, 5, 6, 7] 3 0 ∧
    tileCheck (tileOf (tile.reg 4) (tile.reg 5)) (windowSize false) 0 pad.toNat 0x10 0 = none ∧
    tileCheck (tileOf 0 0) (windowSize false) 0 pad.toNat 0x10 0 = some (0x40, 0) ∧
    tile.regionBad 0 = false ∧ tile.regionBad 3 = true ∧
    ((full.setReg 4 0x8000).core.set.eng.filter (fun e => ((full.setReg 4 0x8000).reg 4).getLsbD e.queue)).length = 16 ∧
    (4 : Reg).isEven = true ∧ (6 : Reg).isEven = true ∧ (Instr.acopy2 3 4 6 0).wellFormed = true := by
  refine ⟨?_, ?_, issues_mayIssue ?_, ?_, ?_, issues_mayIssue ?_, ?_, ?_, ?_, issues_mayIssue ?_, ?_, ?_, issues_mayIssue ?_,
    issues_mayIssue ?_, ?_⟩ <;> decide +kernel

theorem witness_EngineOperationsStart :
    let e (w : EngWork) : EngOp := ⟨5, 15, 3, w, [], 0, false, none⟩
    let s (w : EngWork) := (unit []).mapSet (fun c => { c with eng := [e w] })
    let ran (n : Nat) : EngOp := { e (.fill 0xFFFF00000000 512 7) with run := some ⟨[], 0, [], n⟩ }
    let going (n : Nat) := (unit []).mapSet (fun c => { c with ops := [⟨5, 3, .other, .engine 5⟩], eng := [ran n] })
    let fill : EngWork := .fill 0xFFFF0017FFF0 16 7
    ((s fill).core.set.queueOps 15).head? = some (e fill) ∧ (s fill).mayStart (e fill) = true ∧ (s fill).mem.wf ∧
    0xFFFF0017FFF0 + 16 ≤ 0xFFFF00000000 + windowSize (s fill).core.sliced ∧
    (∀ x ∈ [(fill, true), (.copy 0xFFFF00000000 0x200000 16, false)], (s x.1).mayStart (e x.1) = true ∧
      (State.gather x.1.usesPeers (x.1.next 0) ((s x.1).requestUnits (e x.1) (x.1.next 0)).1).2.2.isNone = x.2) ∧
    (∀ n ∈ [16, 32], (going n).core.set.op 5 = some ⟨5, 3, .other, .engine 5⟩ ∧
      (going n).core.set.eng.find? (fun x => x.id == 5) = some (ran n)) ∧
    (ran 16).work.units.length = 32 ∧ (going 16).engRoom (ran 16) 16 = true := by
  decide +kernel

theorem witness_TranslationInstructions :
    let s := mapped [(1, 0xFFFF0017FFFF), (2, 0x200008), (4, 65536), (5, 65537), (6, 256), (7, 0x400000), (8, 1), (9, 255)]
    let mn : MnParams := ⟨0, false, true, false, 0, 0, 0, 0xFFFF00000000, [1, 1, 1, 1], [0, 0, 0, 0, 0], 0⟩
    let stop : MnStop := ⟨0x300000, true, 4, false⟩
    let gen := (running { image 10 [sinkSlot 0] with nodes := [.mn 15 mn] } []).mapFab (fun f =>
      { f with mns := [(15, { MnState.zero with stop := some stop })] })
    (∀ r ∈ [1, 2, 6, 7, 9], issues s [r] 3 1 = true) ∧
    ((s.reg 1).toNat ≥ 0xFFFF00000000 ∧ (s.reg 1).toNat < 0xFFFF00000000 + windowSize s.core.sliced) ∧
    (s.part.windowAt (s.reg 2).toNat = none ∧ (s.walk s.part .look (s.reg 2).toNat).2.toOption.isSome ∧
      (s.walk s.part .look (s.reg 7).toNat).2.toOption.isNone) ∧
    (issues s [4, 0] 3 1 && issues s [4, 4] 3 1 && issues s [4, 5] 3 1 && issues s [8, 8] 3 1) = true ∧
    ((s.reg 8).toNat % 65536 ≠ 0 ∧ (s.reg 4).toNat % 65536 = 0 ∧ (s.reg 4).toNat ≤ 65536 ∧ (s.reg 5).toNat > 65536 ∧
      s.core.set.unit.isSome) ∧
    ((s.reg 6).toNat ≥ 256 ∧ (s.reg 9).toNat < 256 ∧ s.part.cores.getLsbD 255 = true) ∧
    (issues gen [0] 3 1 = true ∧ (gen.reg 0).toNat = gen.core.num ∧ gen.core.set.hasMn gen.unit.part 15 = true ∧
      gen.core.set.unit.isSome ∧ (gen.core.set.fab.mnAt 15).stop = some stop) ∧
    (∀ every ∈ [true, false],
      let w := s.mapSet (fun c => { c with ops := [⟨7, 3, .other, .inval every 32 1⟩] })
      w.core.set.unit.isSome ∧ w.coreOfOp 7 = some w.core.num ∧ w.core.frost = .thawed ∧
      w.core.set.op 7 = some ⟨7, 3, .other, .inval every 32 1⟩ ∧
      (if every then w.cores.filter (fun k => k.set.mayCache w.unit.part) else [w.core]).all
        (fun k => !k.within w.cycle 32 1) = true) := by
  decide +kernel

def mnNode (mode : Nat) (store : Bool) (bound : Word) : MnParams :=
  ⟨mode, store, true, false, 0, 0, 0, 0xFFFF00000000, [2, 1, 1, 1], [0x80, 0, 0, 0, 0], bound⟩

def memnode (p : MnParams) (held : List (Target × Token)) (m : MnState) : State :=
  (running { image 10 [sinkSlot 0] with nodes := [.mn 15 p] } []).mapFab (fun f => { f with held := held, mns := [(15, m)] })

/-- A pool of partition 0: its blocks' stack, its mark, its counts and its tables. -/
def pool (stack : List Nat) (mark : Nat) (refs : List (Nat × Nat)) (tables : List (Nat × List Nat)) : Pool :=
  ⟨0, 0, 0, 16384, 4, 0x400000, 1, 4, 8, 0, stack, mark, refs, tables, [], false⟩

/-- A PAGED load of one row a position and n positions a block. -/
def pagedNode (n : Word) : MnParams := { mnNode 3 false n with counts := [0, 0, 0, 0] }

theorem witness_MemoryNodeEventsHappen :
    let tok := Token.plain 9 5 true
    let load := mnNode 0 false 0
    let far := { load with base := 0x200000 }
    let a (p : MnParams) : MnPass := ⟨9, 0, 2, true, tok, 0, 0, p⟩
    let bad : MnPass := { a load with req := tok.failed 4 }
    let going (p : MnParams) (a : MnPass) := memnode p [] { MnState.zero with pass := some a }
    let asks (p : MnParams) := memnode p [(mnInput 15 0, tok)] .zero
    let early := { tok with payload := (7 : Payload) <<< 992 }
    let seqd := { load with free := false }
    let paged (n : Word) := { asks (pagedNode n) with pools := [pool [] 1 [(0, 1)] [(0, [0])]] }
    (∀ x ∈ [(load, a load), (far, a far), (load, bad)], ((going x.1 x.2).liveMn 15).isSome ∧
      ((going x.1 x.2).core.set.fab.mnAt 15).pass = some x.2 ∧ (going x.1 x.2).core.set.fab.hasRoom 0 = true ∧
      (going x.1 x.2).mayAsk 15 x.2 = true) ∧
    ((going load (a load)).readPass 15 load (a load)).2.toOption.isSome ∧
    ((going load bad).readPass 15 load bad).2 = .error (.data 4) ∧
    (((going far (a far)).spend 0 0 (mnIngress 15) 1).readPass 15 far (a far)).2.toOption.isNone ∧
    (∀ x ∈ [load, mnNode 1 false 5, mnNode 1 false 6, mnNode 2 false 0x1100010001, pagedNode 16, pagedNode 256],
      ((asks x).liveMn 15).isSome ∧ MnState.zero.pickNext (asks x).core.set.fab 15 x = some (.issue tok none) ∧
      (asks x).pausedMn { image 10 [sinkSlot 0] with nodes := [.mn 15 x] } x = false ∧ (asks x).sigHolds x = false) ∧
    MnState.zero.dones.length < Config.nodeOwes ∧ MnState.zero.refuses load 9 (load.stepAddr 9 0) = false ∧ load.passLen ≠ 0 ∧
    lane32 tok.payload 0 = 5 ∧ (mnNode 1 false 5).bound = 5 ∧ (mnNode 1 false 6).bound = 6 ∧
    (mnNode 2 false 0x1100010001).oh * (mnNode 2 false 0x1100010001).ow ≠ 0 ∧
    (((memnode seqd [(mnInput 15 0, early)] .zero).liveMn 15).isSome ∧
      MnState.zero.pickNext (memnode seqd [(mnInput 15 0, early)] .zero).core.set.fab 15 seqd =
        some (.stash ⟨9, early, none, seqd, 0, 0⟩)) ∧
    ((pagedNode 16).rpp ≠ 0 ∧ (pagedNode 16).overflows 16384 = false ∧ (pagedNode 256).overflows 16384 = true ∧
      ((paged 16).pagedBlock 15 (pagedNode 16) 9 5).2 = .ok (0x400000, 16384) ∧
      ((asks (pagedNode 16)).pagedBlock 15 (pagedNode 16) 9 5).2.toOption.isNone) := by
  decide +kernel

theorem witness_MemoryNodeStores :
    let tok := Token.plain 9 5 true
    let p := mnNode 0 true 0
    let idx := mnNode 1 true 6
    let s := memnode p [(mnInput 15 1, tok)] .zero
    let hurt := { s with host := { s.host with errLines := [windowPa 0 false false 64 / 64] } }
    let done := memnode p [] { MnState.zero with dones := [⟨9, Token.order 9 true, p.done, none, []⟩] }
    (s.liveMn 15).isSome ∧ MnState.zero.pickNext s.core.set.fab 15 p = some (.issue tok none) ∧
    MnState.zero.refuses p 9 (p.stepAddr 9 (MnState.zero.stepOf 9)) = false ∧
    (s.resolveMn 15 .write (p.stepAddr 9 (MnState.zero.stepOf 9)).toNat 128).2.toOption.any (fun r => r.1 && (s.storeError r.2).isNone) = true ∧
    hurt.storeError [⟨0xFFFF00000040, windowPa 0 false false 0x50, 16⟩] =
      some (0x03, ⟨0xFFFF00000040, windowPa 0 false false 0x50, 16⟩) ∧
    (MnState.zero.pickNext (memnode idx [(mnInput 15 0, tok), (mnInput 15 1, tok)] .zero).core.set.fab 15 idx =
      some (.issue tok (some tok)) ∧ lane32 tok.payload 0 < idx.bound) ∧
    ((done.liveMn 15).isSome ∧ (done.doneReady (done.core.set.fab.mnAt 15).dones).isSome ∧
      done.core.set.fab.hasRoom p.done = true) := by
  decide +kernel

theorem witness_PoolInstructionsAskTheirController :
    let s := unit [(1, 0xFFFF00000040)]
    let asks (r : BlkReq) (l : List Pool) := { s with pools := l }.mapSet (fun c => { c with ops := [⟨7, 3, .other, .blk 0 r⟩] })
    s.mayIssue [1, 2] 3 0 ∧ s.mayIssue [1] 3 1 ∧ s.readHeld (s.reg 1) = false ∧
    (∃ u v w sp bs, s.checked .read (s.reg 1) 8 64 = (u, .ok (w, sp)) ∧ State.readSpans w sp u = (v, bs, none) ∧
      bs.length = 64) ∧
    (∀ x ∈ [(BlkReq.balloc 0, [pool [] 0 [] []]), (.balloc 0, []), (.bpmake (List.replicate 64 0), [])],
      (asks x.1 x.2).core.set.op 7 = some ⟨7, 3, .other, .blk 0 x.1⟩ ∧
      (asks x.1 x.2).core.set.firstOf 7 (Wait.asks 0) = true) ∧
    ((asks (.balloc 0) [pool [] 0 [] []]).poolOf s.part.num 0).isSome ∧
    ((pool [] 0 [] []).perform (.balloc 0)).toOption.isSome ∧ ((pool [] 4 [] []).perform (.balloc 0)).toOption.isNone := by
  refine ⟨issues_mayIssue ?_, issues_mayIssue ?_, ?_, reads_checked _ ?_, ?_⟩ <;> decide +kernel

theorem witness_PoolRequestResults :
    let p := pool [] 3 [(0, 1), (1, 2), (2, 65535)] [(5, [0, 1])]
    let over' := pool [] 3 [(0, 1), (1, 1), (2, 1), (3, 1)] []
    (p.refs.length * (p.size / 16384) + p.size / 16384 ≤ 4 * p.quota) ∧
    (over'.refs.length * (over'.size / 16384) + over'.size / 16384 > 4 * over'.quota) ∧ p.stack = [] ∧ p.mark < p.n ∧
    (pool [] 4 [] []).mark ≥ 4 ∧ (pool [2, 3] 4 [] []).stack = [2, 3] ∧ p.count 0 = 1 ∧ p.count 1 = 2 ∧ p.count 3 = 0 ∧
    p.table 4 = none ∧ p.table 5 = some [0, 1] ∧ p.lacksChunks 1 = false ∧ p.freeTable = some 0 ∧
    p.lacksChunks (chunksFor 2) = false ∧ (∀ e ∈ [0, 1], p.count e ≠ 65535) ∧ [0, 1].Nodup ∧
    (∀ e ∈ [0, 1], 0 < p.count e ∧ p.count e < 65536) := by
  decide +kernel

theorem witness_SynchronisationInstructionsComplete :
    let s := mapped [(1, 0x200108), (2, 5), (3, 0x10000), (4, 0x200104), (5, 0xFFFF00000000), (7, 4)]
    let open2 := s.mapSet (fun c => { c with ops := [⟨8, 1, .other, .boundary 0 false⟩, ⟨9, 1, .other, .boundary 1 false⟩] })
    let fence := s.mapSet (fun c => { c with ops := [⟨8, 1, .other, .fence⟩] })
    (s.mayIssue [] 9 0 ∧ s.core.set.unit.isSome ∧ s.core.set.openBoundaries < 2 ∧ open2.core.set.openBoundaries = 2) ∧
    (fence.core.set.op 8 = some ⟨8, 1, .other, .fence⟩ ∧ fence.fenceDone fence.core.set 8 = true) ∧
    (s.mayIssue [1, 2, 3] 9 0 ∧ s.mayIssue [1, 6, 7] 9 0 ∧ s.globalHeld (s.reg 1) = false ∧ (s.reg 1).toNat % 8 = 0 ∧
      s.part.windowAt (s.reg 1).toNat = none ∧ regionOf 0x200108 = .stacked 0 1 ∧
      (∃ u, s.translate .write (s.reg 1).toNat = (u, .ok 0x200108)) ∧
      (∃ u, s.translate .read (s.reg 1).toNat = (u, .ok 0x200108)) ∧ (s.reg 3).toNat / 4 % 2 ^ 14 = 0 ∧
      (s.reg 7).toNat / 4 % 2 ^ 14 ≠ 0) ∧
    (s.mayIssue [4, 2, 3] 9 0 ∧ s.globalHeld (s.reg 4) = false ∧ (s.reg 4).toNat % 8 ≠ 0) ∧
    (s.mayIssue [5, 2, 3] 9 0 ∧ s.globalHeld (s.reg 5) = false ∧ (s.reg 5).toNat ≥ 0xFFFF00000000 ∧
      (2 : Reg).isEven = true ∧ (6 : Reg).isEven = true) := by
  refine ⟨⟨issues_mayIssue ?_, ?_⟩, ?_, ⟨issues_mayIssue ?_, issues_mayIssue ?_, ?_, ?_, ?_, ?_, ⟨_, split ?_⟩, ⟨_, split ?_⟩, ?_⟩,
    ⟨issues_mayIssue ?_, ?_⟩, issues_mayIssue ?_, ?_⟩ <;> decide +kernel

theorem witness_SignalsAndBoundaries :
    let w (x : Word) (c : BitVec 2) : SigWait := ⟨0, 0, 0, 8, 0x200108, x, c, some 1000, none, true, none⟩
    let late : SigWait := { w 1 0 with since := some 0, fresh := false }
    let s (x : Word) (c : BitVec 2) := (unit []).mapNet (fun n => { n with waits := [w x c] })
    let l : Launch := ⟨0, 0, 0, 0, 0, 0, none, true, 1, [0], 0, 0, 0, 0⟩
    let at' := { (unit []) with disp := { Disp.empty with launches := [l] } }.mapSet (fun c =>
      { c with unit := some { UnitCtx.none with phase := 1 }, ops := [⟨8, 1, .other, .boundary 0 false⟩] })
    (s 0 0).waitAt 8 = some (w 0 0) ∧ (s 1 0).waitAt 8 = some (w 1 0) ∧ (s 1 1).waitAt 8 = some (w 1 1) ∧
    (s 0 2).waitAt 8 = some (w 0 2) ∧ (s 1 3).waitAt 8 = some (w 1 3) ∧ (s 0 0).performs 8 = true ∧
    (s 0 0).mem.word 0x200108 = 0 ∧ 0x200108 ≠ 2 ^ 52 ∧
    (((unit []).mapNet (fun n => { n with waits := [late] })).waitAt 8 = some late ∧ 0 + 1000 ≤ (unit []).cycle) ∧
    (at'.disp.launches.find? (fun l => l.lid == 0 && l.bound) = some l ∧ l.left > 0 ∧ at'.released l = true ∧
      at'.core.set.unit.isSome ∧ at'.core.set.runs 0 = true) := by
  decide +kernel

theorem witness_AtomicsGoToTheirBank :
    let s := mapped [(1, 0x200108), (4, 0x200102), (5, 0xFFFF00000000)]
    (∀ r ∈ [1, 4, 5], issues s [r, 2, 3] 9 0 = true ∧ s.globalHeld (s.reg r) = false) ∧
    (s.part.windowAt (s.reg 1).toNat = none ∧ (s.reg 1).toNat % 8 = 0 ∧ (s.reg 4).toNat % 4 ≠ 0 ∧
      (s.reg 5).toNat % 8 = 0) ∧
    (∃ u, s.translate .write (s.reg 1).toNat = (u, .ok 0x200108)) ∧
    (∃ u, s.translate .read (s.reg 1).toNat = (u, .ok 0x200108)) ∧ regionOf 0x200108 = .stacked 0 1 ∧
    (∀ i ∈ ([Instr.acas 9 1 2 1, .raddf 9 1 2 4, .bpstat 9 1 4] : List Instr), i.wellFormed = true) := by
  refine ⟨?_, ?_, ⟨_, split ?_⟩, ⟨_, split ?_⟩, ?_⟩ <;> decide +kernel

/-- Packet 7 of partition 0 from core 0. -/
def packet (dst : Nat) (bytes : List Byte) (body : Body) (way : Way) : Packet :=
  ⟨7, 0, dst, 0, 0, 0, 0, 0, 0, 4, 0, 0, false, bytes, body, way, none, some 3, none⟩

def carrying (s : State) (ps : List Packet) : State := s.mapNet (fun n => { n with packets := ps, nextId := 20 })

theorem witness_BankAccessesPerform :
    let acc (k : BankKind) : BankAcc := ⟨k, true, 0x200108, 0, 1, 2, false⟩
    let k (b : Body) := packet 256 [1, 2] b .holding
    let s (b : Body) := carrying (unit []) [k b]
    let bad := { s (.bank (acc .add)) with host := { HostSide.start with errLines := [0x200108 / 64] } }
    (∀ src ∈ [Source.sequencer, .outside], (s (.write src 0x200108 0)).packet 7 = some (k (.write src 0x200108 0)) ∧
      (s (.write src 0x200108 0)).mayApply (k (.write src 0x200108 0)) = true) ∧
    (s (.bank (acc .add))).mem.wf ∧
    (∀ a ∈ [BankKind.add, .and, .or, .xor, .min, .max, .minu, .maxu, .xchg, .cas, .addf, .load, .set],
      (s (.bank (acc a))).packet 7 = some (k (.bank (acc a))) ∧
      (s (.bank (acc a))).mayBank (k (.bank (acc a))) (acc a) = true ∧ (s (.bank (acc a))).readError 0x200108 8 = none) ∧
    bad.readError 0x200108 8 ≠ none ∧ bad.mayBank (k (.bank (acc .add))) (acc .add) = true := by
  decide +kernel

/-- Partition 0 with one entry in its class table at every class. -/
def classed (s : State) (e : BitVec 32) : State := { s with parts := [{ Part.device with classes := Vector.replicate 16 e }] }

theorem witness_SignalsTestedByWrites :
    ∀ x ∈ [1, 5],
      let w : SigWait := ⟨0, 0, 0, 8, 0x200108, BitVec.ofNat 64 x, 0, none, some 0, false, none⟩
      let k := packet 256 [1, 0, 0, 0, 0, 0, 0, 0] (.write .sequencer 0x200108 0) .holding
      let s := (carrying (unit []) [k]).mapNet (fun n => { n with waits := [w] })
      s.net.waits = [w] ∧ w.pa % 8 = 0 ∧ s.packet 7 = some k ∧ k.dst < 352 ∧ s.mayApply k = true ∧ 0x200108 ≤ w.pa ∧
      w.pa < 0x200108 + k.bytes.length ∧ ((((nextOf (exec (.writeArrival 7) s)).map (fun t => t.mem.word w.pa)) = some w.x) ↔ x = 1) := by
  decide +kernel

theorem witness_NetInstructionsComplete :
    let r := [((1 : Reg), (0x10000 : Word)), (2, 0xFFFF00000040), (3, 0x80), (4, 0xFFFF00000040), (5, 0x110), (6, 0x600),
      (7, 0x80000001), (8, 0xFFFF00000040), (9, 0x80)]
    let s := classed (unit r) 1
    let port := classed (unit r) 0x21
    let im := { image 10 [sinkSlot 0] with nodes := [.np 0 ⟨0, 0, 0⟩] }
    let y := running im [(1, 0x5FF), (2, 0x600)]
    let busy := y.mapFab (fun f => { f with nps := [(0, ⟨none, true⟩)] })
    (s.mayIssue [1, 2, 3] 10 0 ∧ s.mayIssue [1, 4, 5] 10 0 ∧ (s.reg 5).toNat > 256 ∧ (s.reg 3).toNat ≤ 256 ∧
      s.readHeld (s.reg 2) = false ∧ s.retentionFull = false ∧
      ∃ u v w sp bs, s.checked .read (s.reg 2) 16 0x80 = (u, .ok (w, sp)) ∧ State.readSpans w sp u = (v, bs, none) ∧
        (classEntry u.part 15 = classEntry v.part 15 ∧ u.destEnd ((s.reg 1).toNat % 2 ^ 48) (classEther (classEntry u.part 15)) = some 0 ∧
          classValid (classEntry v.part 15) = true ∧ classPort1 (classEntry v.part 15) = false ∧
          v.destEnd ((s.reg 1).toNat % 2 ^ 48) (classEther (classEntry v.part 15)) = some 0)) ∧
    (classValid (classEntry (unit r).part 15) = false ∧ classPort1 (classEntry port.part 15) = true ∧
      port.destEnd ((s.reg 6).toNat % 2 ^ 48) 0 = none ∧ (port.setReg 3 0x40).mayIssue [1, 2, 3] 10 0 ∧
      ∃ u w sp, port.checked .read (port.reg 2) 16 0x40 = (u, .ok (w, sp)) ∧ classValid (classEntry u.part 15) = true ∧
        classPort1 (classEntry u.part 15) = true) ∧
    (s.mayIssue [1] 10 0 ∧ s.core.set.unit.isSome ∧ s.mayIssue [2] 10 0 ∧ s.globalHeld (s.reg 2) = false ∧
      (∃ u w sp, s.checked .write (s.reg 2) 16 256 = (u, .ok (w, sp)) ∧ u.recvStatus 15 = none) ∧
      ∃ u w sp, (unit r).checked .write (s.reg 2) 16 256 = (u, .ok (w, sp)) ∧ u.recvStatus 15 = some 0x70) ∧
    ((unit r).core.set.fab.running = none ∧ y.mayIssue [1] 10 0 ∧ y.core.set.fab.running = some im ∧
      (im.np 0).isSome ∧ (busy.core.set.fab.npAt 0).sent = true ∧ (y.core.set.fab.npAt 0).sent = false ∧
      (y.reg 1).toNat / 2 ^ 9 ≤ 5 ∧ (y.reg 1).toNat < 2 ^ 12 ∧ (y.coreMask y.part.num).getLsbD ((y.reg 1).toNat % 256) = true ∧
      (let z := { y with parts := [{ Part.device with cores := 1 }] }
       (z.coreMask z.part.num).getLsbD ((z.reg 1).toNat % 256) = false) ∧
      (2 : Reg).isEven = true ∧ (4 : Reg).isEven = true) := by
  refine ⟨⟨issues_mayIssue ?_, issues_mayIssue ?_, ?_, ?_, ?_, ?_, reads_checked _ ?_⟩, ⟨?_, ?_, ?_, issues_mayIssue ?_, ranges_checked _ ?_⟩,
    ⟨issues_mayIssue ?_, ?_, issues_mayIssue ?_, ?_, ranges_checked _ ?_, ranges_checked _ ?_⟩, ?_, issues_mayIssue ?_, ?_⟩
  all_goals decide +kernel

theorem witness_TokensOverTheNetwork :
    let q (mode : Nat) : NpParams := ⟨0, mode, 15⟩
    let im (mode : Nat) := { image 10 [sinkSlot 0] with nodes := [.np 1 (q mode)] }
    let tok := Token.plain 9 (0x10000 * 2 ^ 992) true
    let s (mode : Nat) := (classed (running (im mode) []) 1).mapFab (fun f =>
      { f with held := [(npInput 1, tok)], nps := [(1, ⟨some (200, 0, 5), false⟩)] })
    let arrive (k : Packet) (e : BitVec 32) := carrying (classed (running (im 0) []) e) [k]
    let route (h : Bool) := packet 0 [] (.route 15 true 0x10000 0 h 1) .holding
    let full := (arrive (route false) 1).mapSet (fun c => { c with unit := some { UnitCtx.none with
      rxq := List.replicate 64 ⟨15, List.replicate 256 0, false, 0, 0, 0⟩ } })
    (∀ m ∈ [0, 1], (s m).core.set.port 1 = some (q m) ∧ ((s m).core.set.fab.heldAt (npInput 1)).head? = some tok ∧
      (s m).core.fabricRuns (s m).cycle = true ∧ (s m).portMaySend 1 = true) ∧
    ((s 0).core.set.fab.npAt 1).yarn = some (200, 0, 5) ∧ classValid (classEntry (s 1).part 15) = true ∧
    (s 1).destEnd (lane32 tok.payload 31 % 2 ^ 18) 0 = some 0 ∧
    (∀ w ∈ [Way.holding, .lost, .gone], let k := packet 0 [] (.yarn 0 1 tok) w
      (arrive k 1).packet 7 = some k ∧ k.isFor (arrive k 1).core.set = true ∧ (arrive k 1).inOrder k = true ∧ (arrive k 1).takes k = true ∧ (arrive k 1).yarnBehind k 1 = false ∧
      (arrive k 1).core.set.fab.hasRoom 0 = true) ∧
    ((route false).isFor (arrive (route false) 1).core.set = true ∧ (arrive (route false) 1).mayTake (route false) = true ∧
      UnitCtx.none.full 15 (classShare 1) = false ∧ (full.core.set.unit.map (fun u => u.full 15 (classShare 1))) = some true) ∧
    ((arrive (route true) 0x61).mayTake (route true) = true ∧ (arrive (route true) 0x61).maskedAt (route true) 15 = false ∧
      (arrive (route true) 0x61).queuedAt (route true) 15 = false ∧
      (arrive (route true) 0x61).core.set.port ((classEntry (arrive (route true) 0x61).part 15).toNat / 2 ^ 6 % 2) =
        some (q 0)) := by
  decide +kernel

theorem witness_PacketsMoveAndAreReAsked :
    let route := Body.route 15 true 0x10000 0 false 1
    let s (k : Packet) := carrying (unit []) [k]
    let k (dst : Nat) (b : Body) (w : Way) := packet dst [] b w
    let hop := k 255 route .sent
    let near (b : Body) := { k 256 b .sent with place := (packet 256 [] b .sent).path.getLast? }
    let tight := { s hop with parts := [{ Part.device with places := 0 }] }
    let acks := (unit []).mapNet (fun n => { n with packets := [k 5 route .delivered], unacked := [((0, 5), 17, 1000)] })
    let ctl (c : Notice) (p : Packet) := (s p).mapNet (fun n =>
      { n with control := [⟨9, p.dst, 0, 0, c, (pathOf p.dst 0).getLast?⟩] })
    let here (c : Notice) (p : Packet) : Control := ⟨9, p.dst, 0, 0, c, (pathOf p.dst 0).getLast?⟩
    let gap := (unit []).mapNet (fun n => { n with
      packets := [k 5 route .delivered, { k 5 route (.hole 1000) with id := 8, seq := 1 },
        { k 5 route .delivered with id := 9, seq := 2 }]
      unacked := [((0, 5), 17, 1000)] })
    let head := k 255 route .header
    ((s hop).packet 7 = some hop ∧ (s hop).mayHop hop 0 hop.nextHop.get!.2 = true ∧
      (s hop).mustTrim hop 0 hop.nextHop.get!.2 = false ∧ tight.mustTrim hop 0 hop.nextHop.get!.2 = true) ∧
    (∀ b ∈ [route, .read 0x200108 false, .write .sequencer 0x200108 0], (s (near b)).atEnd (near b) = true ∧
      (s (near b)).takes (near b) = true ∧ (s (near b)).inOrder (near b) = true) ∧
    (let rep : Packet := { packet 0 [] (.reply 0x200108 5 none) .sent with src := 256, place := (pathOf 256 0).getLast? }
     let z := (s rep).mapSet (fun c => { c with ops := [⟨3, 4, .other, .load 0x200108 8 [] false (some 2)⟩] })
     z.packet 7 = some rep ∧ z.atEnd rep = true) ∧
    Part.device.inCounters (0x200108 / 8 * 8) = false ∧
    ((s head).packet 7 = some head ∧ (s head).headerGoes head = true ∧ head.nextHop.isSome) ∧
    (∀ n ∈ [1, 7, 8], let x := { k 5 route .header with trims := n, place := (k 5 route .header).path.getLast? }
      (s x).packet 7 = some x ∧ x.nextHop = none) ∧
    (s (k 5 route (.hole 1000))).mayReask (k 5 route (.hole 1000)) = true ∧
    (∀ x ∈ [acks, gap], x.mayAck 0 5 = true ∧ x.ackReach 0 5 = some 0 ∧ x.packet 7 = some (k 5 route .delivered) ∧
      (k 5 route .delivered).ackedBy 0 5 0 = true ∧ ({ k 5 route .delivered with id := 9, seq := 2 }).ackedBy 0 5 0 = false) ∧
    (∀ x ∈ [(Notice.ack 0, k 5 route .delivered), (.reask 7, k 5 route .reasked), (.loss 7, k 5 route .lost),
        (.loss 7, k 256 (.write .sequencer 0 0) .lost)],
      (ctl x.1 x.2).controlAt 9 = some (here x.1 x.2) ∧ (ctl x.1 x.2).controlEnds (here x.1 x.2) = true ∧
      (ctl x.1 x.2).packet 7 = some x.2 ∧ (ctl x.1 x.2).core.set.runsUnit 0 0 = true) := by
  decide +kernel

/-- A descriptor of four symbols and four states with its tables in the scratchpad window. -/
def desc : Desc := ⟨0xFFFF00000000, 0xFFFF00001000, 0xFFFF00002000, 4, 4, 0xFFFF, false, false, 0⟩

def composer (im : Image) (regs : List (Reg × Word)) : State :=
  (running im regs).mapSet (fun c => { c with comp := { Composer.start with binding := some desc } })

/-- Whether the composition of n words at an address can be made. -/
def composes (s : State) (va : Word) (n : Nat) : Bool :=
  match s.checked .read va 4 (4 * n) with
  | (u, .ok (w, sp)) => match u.readSymbols desc n w sp with
    | (v, .ok words) => u.core.set.comp.binding == some desc && (State.evalMaps desc (words.length + 1) words v).2.toOption.isSome
    | _ => false
  | _ => false

theorem composes_reads {s : State} {va : Word} {n : Nat} (h : composes s va n = true) :
    ∃ u v x w sp words m rows, s.checked .read va 4 (4 * n) = (u, .ok (w, sp)) ∧ u.core.set.comp.binding = some desc ∧
      u.readSymbols desc n w sp = (v, .ok words) ∧
      State.evalMaps desc (words.length + 1) words v = (x, .ok (m, rows)) := by
  unfold composes at h
  split at h
  · rename_i u w sp h1
    split at h
    · rename_i v words h2
      simp only [Bool.and_eq_true, beq_iff_eq] at h
      obtain ⟨r, hr⟩ := isSome_ok h.2
      exact ⟨u, v, _, w, sp, words, r.1, r.2, h1, h.1, h2, split hr⟩
    · cases h
  · cases h

theorem witness_SmapInstructionsComplete :
    let sm : SmParams := ⟨0, true, true⟩
    let im := { image 10 [sinkSlot 0] with nodes := [.sm sm] }
    let s := composer im [(1, 0xFFFF00000040), (2, 3), (3, 0), (4, 4), (5, 64), (6, 63), (7, 0), (8, 1), (9, 1)]
    let bytes := leBytes 8 0xFFFF00000000 ++ leBytes 8 0xFFFF00001000 ++ leBytes 8 0xFFFF00002000 ++ leBytes 4 4 ++
      leBytes 2 4 ++ leBytes 2 0xFFFF ++ List.replicate 32 0
    let free := inPad (unit [(1, 0xFFFF00000040)]) 0x40 bytes
    let list := s.setReg 1 0xFFFF00000041
    (∀ x ∈ [s, free, list], x.unfinished [.smap] = false ∧ x.inProgress [.cfg] = false ∧ x.steppedNow = []) ∧
    (free.mayIssue [1] 20 0 ∧ free.readHeld (free.reg 1) = false ∧
      (∃ u v w sp bs, free.checked .read (free.reg 1) 64 64 = (u, .ok (w, sp)) ∧ State.readSpans w sp u = (v, bs, none) ∧
        badDesc bs = none ∧ descOf bs = desc) ∧
      ∃ u v w sp bs, s.checked .read (s.reg 1) 64 64 = (u, .ok (w, sp)) ∧ State.readSpans w sp u = (v, bs, none) ∧
        badDesc bs = some 24) ∧
    (free.mayIssue [1, 2, 3] 20 0 ∧ free.core.set.comp.binding = none) ∧
    (s.mayIssue [1, 2, 3] 20 0 ∧ s.mayIssue [1, 4, 5] 20 0 ∧ s.mayIssue [5, 8, 9] 20 0 ∧ s.mayIssue [6, 2, 3] 20 0 ∧
      s.core.set.comp.binding = some desc ∧ (s.reg 4).toNat ≥ desc.S.toNat ∧ (s.reg 2).toNat < desc.S.toNat ∧
      (s.reg 5).toNat > 63 ∧ s.reg 6 = BitVec.ofNat 64 63 ∧ (s.reg 3).toNat = 0 ∧ (s.reg 1).toNat % 4 = 0 ∧
      list.mayIssue [1, 2, 3] 20 0 ∧ list.core.set.comp.binding = some desc ∧ (list.reg 1).toNat % 4 ≠ 0) ∧
    (s.readHeld (s.reg 1) = false ∧ s.tablesHeld = false ∧ composes s (s.reg 1) 1 = true) ∧
    (s.readHeld desc.maps = false ∧ (s.reg 2).toNat < desc.V.toNat ∧ (s.mapOf desc 3).2.toOption.isSome ∧
      s.reg 8 = (1 : Word) <<< 0) ∧
    (s.core.set.fab.running = some im ∧ s.readHeld desc.masks = false ∧ s.maskOk im desc 3 0 = true ∧
      (s.maskTokens desc 3 0 (maskRange desc 0).1 (maskRange desc 0).2 false).2.toOption.isSome) := by
  refine ⟨?_, ⟨issues_mayIssue ?_, ?_, reads_checked _ ?_, reads_checked _ ?_⟩, ⟨issues_mayIssue ?_, ?_⟩,
    ⟨issues_mayIssue ?_, issues_mayIssue ?_, issues_mayIssue ?_, issues_mayIssue ?_, ?_, ?_, ?_, ?_, ?_, ?_, ?_,
      issues_mayIssue ?_, ?_⟩, ?_⟩ <;> decide +kernel

theorem witness_ComposerArrivals :
    let sm (astep : Bool) : SmParams := ⟨0, astep, false⟩
    let s (sm : SmParams) (held : List Token) (q : List (Token × Target × Option Nat)) :=
      (composer { image 10 [sinkSlot 0] with nodes := [.sm sm] } []).mapFab (fun f =>
        { f with held := held.map (fun t => (smInput, t)), smq := q })
    let low := Token.plain 9 3 false
    let high := Token.plain 9 4 false
    ∀ a ∈ [true, false], ∀ x ∈ [([], [(low, 0, none)]), ([low], []), ([high], []), ([Token.order 9 false], [])],
      let u := s (sm a) x.1 x.2
      u.core.set.fab.running.bind Image.sm = some (sm a) ∧ u.core.fabricRuns u.cycle = true ∧
      u.core.set.fab.hasRoom 0 = true ∧ (u.core.set.fab.heldAt smInput).head? = x.1.head? ∧
      (∀ t ∈ x.1, u.steps (sm a) t = false) ∧ u.core.set.comp.binding = some desc ∧ low.symbol < desc.V.toNat ∧
      high.symbol = desc.V.toNat ∧
      ((u.mapFab (fun g => { g with held := removeHeld smInput 9 g.held }.move u.cycle)).mapOf desc
        low.symbol).2.toOption.isSome := by
  decide +kernel

/-- A queue of partition 0 with its ring in the mapped page. -/
def queue (child : Bool) (tail head : BitVec 32) : Bind :=
  ⟨5, 0, 0, 7, 1, child, 0x200400, 4, none, 9, tail, head, 0, false, 0, 0⟩

/-- A launch record of one core. -/
def record (cores : Nat) : List Byte := leBytes 6 0x200000 ++ leBytes 2 cores ++ List.replicate 56 0

def queued (b : Bind) (cores : Nat) (regs : List (Reg × Word)) : State :=
  let s := inPad (mapped regs) 0x40 (record cores)
  { s with
    mem := (s.mem.putBytes 0x200400 (leBytes 4 b.tail.toNat)).putBytes 0x200440 (record cores)
    disp := { s.disp with binds := [(0, b)] } }

/-- A launch of queue 5 with a unit on core 0. -/
def launch0 (left : Nat) : Launch := ⟨0, 5, 0, 7, 9, 0, none, true, left, [0], 0, 0, 0, 0x200400⟩

theorem witness_LaunchInstructionsComplete :
    let r := [((1 : Reg), (0xFFFF00000040 : Word)), (2, 5), (3, 6), (4, BitVec.allOnes 64)]
    let s (b : Bind) (cores : Nat) := queued b cores r
    let one (s : State) := (reads s (s.reg 1) 64 64).any (fun x =>
      decide (x.2.1.badRecord 0 x.2.2 = none) && (x.2.1.dispAt (x.2.1.partOf 0) .write ((queue true 0 0).recordVa 0)).2.isSome)
    let work := { s (queue true 0 0) 1 with disp := { Disp.empty with launches := [launch0 1] } }
    let low := { s (queue true 0 0) 1 with core := (atLevel 0).core }
    let waits := (s (queue true 0 0) 1).mapSet (fun c => { c with ops := [⟨8, 9, .other, .counter 3 0⟩] })
    ((s (queue true 0 0) 1).mayIssue [1, 2] 9 0 ∧ (s (queue true 0 0) 1).mayIssue [1, 3] 9 0 ∧
      (s (queue true 0 0) 1).readHeld ((s (queue true 0 0) 1).reg 1) = false ∧
      (s (queue true 0 0) 1).bindOf 6 = none ∧ (s (queue false 0 0) 1).bindOf 5 = some (queue false 0 0) ∧
      (s (queue true 0 0) 1).bindOf 5 = some (queue true 0 0) ∧ one (s (queue true 0 0) 1) = true ∧
      (queue true 0 0).freeEntries > 0 ∧ (queue true 4 0).freeEntries = 0 ∧
      (s (queue true 0 0) 0).badRecord 0 (record 0) = some 6) ∧
    (work.mayIssue [4] 9 0 ∧ work.mayIssue [3] 9 0 ∧ work.workKey 1 (work.reg 3) = none ∧
      (work.workKey 1 (work.reg 4)).isSome ∧ (work.workKey 3 (work.reg 4)).isSome ∧
      (work.launch 0 = some (launch0 1) ∧ (work.workKey 1 (work.reg 4)).map (launch0 1).work.contains = some true)) ∧
    (low.mayIssue [0] 9 0 ∧ low.seq.level = 0) ∧
    (waits.core.set.op 8 = some ⟨8, 9, .other, .counter 3 0⟩ ∧ waits.counterOf (3, 0) = 0) ∧
    (let done := { (s (queue true 0 0) 1).mapSet (fun c => { c with ops := [⟨8, 9, .other, .cancel [(5, 2)] false false⟩] }) with
       others := [{ Core.idle 1 with frost := .frozen, set := { CSet.empty with unit := some { UnitCtx.none with lid := 5, index := 2 } } }] }
     done.core.set.op 8 = some ⟨8, 9, .other, .cancel [(5, 2)] false false⟩ ∧ (done.setsOf [(5, 2)]).length = 1 ∧
     ∀ c ∈ done.setsOf [(5, 2)], c.2.frost = .frozen) := by
  refine ⟨⟨issues_mayIssue ?_, issues_mayIssue ?_, ?_⟩, ⟨issues_mayIssue ?_, issues_mayIssue ?_, ?_⟩,
    ⟨issues_mayIssue ?_, ?_⟩, ?_⟩ <;> decide +kernel

theorem witness_PartitionInstructionsComplete :
    let s := unit [(1, 0xFFFF00000000), (2, 5), (3, 31)]
    let l : Lend := ⟨31, 0, 1, 1#256 <<< 255⟩
    let v : Reservation := ⟨31, 0, 1, 10, 0, false, [], 0⟩
    let with' := { s with disp := { Disp.empty with resvs := [v], lends := [l] } }
    s.unfinished [.lnch] = false ∧ s.mayIssue [1, 2] 9 2 ∧ s.mayIssue [2, 1] 9 2 ∧
    (s.readHeld (s.reg 1) = false ∧ s.globalHeld (s.reg 1) = false) ∧
    (∀ x ∈ [(1, 32), (1, 64), (64, 64), (64, 256), (1, 8), (1, 16)],
      ((reads s (s.reg 1) x.1 x.2).map (fun y => y.2.2.length)) = some x.2) ∧
    (∃ u w sp, { s with parts := [Part.device, { Part.device with num := 5 }] }.checked .write (s.reg 1) 1 256 =
      (u, .ok (w, sp)) ∧ (u.partAt 5).isSome) ∧
    s.mayIssue [3] 9 2 ∧ with'.mayIssue [3] 9 2 ∧ with'.resvOf 31 = some v ∧ s.resvOf 31 = none ∧
    with'.disp.lends.find? (fun l => l.num == 31) = some l ∧ s.disp.lends = [] ∧ l.cores.getLsbD 255 = true := by
  refine ⟨?_, issues_mayIssue ?_, issues_mayIssue ?_, ?_, ?_, ranges_checked _ ?_, issues_mayIssue ?_, issues_mayIssue ?_, ?_⟩
  all_goals decide +kernel

theorem witness_PartitionActs :
    let one := { Part.device with num := 1, cores := 0, firstQ := 0, qCount := 8, places := 0, dram := 0xF, lpSize := 1,
                                  saveArea := 0 }
    let s := { unit [] with parts := [Part.device, one] }
    let sliced := { s with others := [{ Core.idle 1 with sliced := true, shadow := some .empty }] }
    let mask (n : Nat) : BitVec 256 := 1#256 <<< n
    let offer := [1, 0, 0, 0] ++ leBytes 4 1 ++ leBytes 4 10 ++ List.replicate 20 0 ++ leBytes 32 2
    let lend := [0, 1] ++ List.replicate 30 0 ++ leBytes 32 4
    ((s.partOf 0).cores.getLsbD 255 = true ∧ s.inUse 255 = false ∧ (mask 255).getLsbD 255 = true ∧
      ({ s with parts := [{ Part.device with cores := mask 0 }] }.partOf 0).cores.getLsbD 255 = false) ∧
    (sliced.badOffer offer = none ∧ (∀ n < 256, (2#256).getLsbD n = true → sliced.sumOn (resvWeight 1 10) n ≤ 65536) ∧
      sliced.freeResv.isSome) ∧
    (s.partAt (field lend 0 1) ≠ none ∧ s.partAt (field lend 1 1) ≠ none ∧
      ((lend.drop 2).take 30).all (fun b => b == 0) = true ∧ (s.partOf 0).cores.getLsbD 2 = true ∧
      (s.coreAt 2).sliced = false ∧ s.inUse 2 = false ∧ s.freeLend.isSome) ∧
    (s.partAt 1 = some one ∧ s.outstanding one = none) := by
  decide +kernel

theorem witness_PartitionCreate :
    let p := { Part.device with num := 1, flags := 0, firstQ := 0, qCount := 8, places := 0, root := 0x100000,
                                counters := 0x200000, saveArea := 0x400000, dram := 0xF, lpBase := 0, lpSize := 1,
                                cores := 1#256 <<< 255, burst := 9, rate := 1, ends := [] }
    let s := unit []
    let bs := s.partRecord p
    s.badPart bs = none ∧ partOfRecord bs = { p with rateNow := 1 } ∧ s.partAt 1 = none ∧ s.grantConflict p = none ∧
    s.notSpare 255 = false ∧ s.inUse 255 = false := by
  decide +kernel

theorem witness_DispatchAdmitsAndCompletes :
    let s := { queued (queue false 1 0) 1 [] with core := Core.idle 0 }
    let u := s.readTails.settleMarks
    let v := { u with disp := { u.disp with deficits := refill u.candidates u.disp.deficits } }
    let bad := { queued (queue false 1 0) 0 [] with core := Core.idle 0 }
    let done := { queued (queue false 1 1) 1 [] with core := Core.idle 0, disp := { Disp.empty with
      launches := [launch0 0], binds := [(0, queue false 1 1)] } }
    (bad.readTails.settleMarks.toRefuse.isSome) ∧
    (u.toRefuse = none ∧ ((v.pickRecord [] (v.disp.order v.candidates)).map (fun x => (x.2.1.length, x.2.2.length))) = some (1, 0)) ∧
    u.writesDue = false ∧
    (done.launch 0 = some (launch0 0) ∧ done.launchDone (launch0 0) = true ∧ (done.bindOf 5).any (fun b => b.ring == (launch0 0).ring && b.part == (launch0 0).part) = true) := by
  decide +kernel

theorem witness_SlicingAndFreezing :
    let s := { (unit []) with core := { (unit []).core with sliced := true, swapDue := true, shadow := some .empty } }
    let v : Reservation := ⟨31, 0, 1, 10, 1, false, [(0, 0)], 0⟩
    let held := { (unit []) with cycle := 19000, disp := { Disp.empty with resvs := [v], current := [(0, 31)] } }
    let c := { CSet.empty with unit := some { UnitCtx.none with under := some 31 } }
    let under := { s with core := { s.core with shadow := some c }, disp := { Disp.empty with resvs := [v], current := [(0, 31)] } }
    let stored := { (unit []) with
      disp := { Disp.empty with
        streaming := [(3, 0, (unit []).core.set)], suspended := [(0, (unit []).core.set)]
        resvs := [⟨30, 0, 1, 10, 2, false, [], 0⟩] }
      others := [{ Core.idle 1 with sliced := true, shadow := some .empty }] }
    let frost (f : Frost) := { (unit []) with core := { (unit []).core with frost := f } }
    (s.maySwap = true ∧ s.core.lent = none ∧ s.core.shadow = some .empty ∧
      (lookup s.core.num s.disp.current).bind s.resvOf = none ∧ under.maySwap = true ∧
      (lookup under.core.num under.disp.current).bind under.resvOf = some v ∧ c.under v.num = true) ∧
    (held.resvOf 31 = some v ∧ v.start + 1900 * v.period = held.cycle ∧ held.spentOn v = true ∧
      (∀ x ∈ held.disp.resvs, x.num = 31 → x = v) ∧ v.budgetLeft 0 = 0) ∧
    (stored.disp.streaming.length = 1 ∧ (stored.disp.suspended[0]?).isSome ∧ stored.resumeCore 0 = some 1) ∧
    (s.partAt 0).isSome ∧ ((frost .freezing).atFreezePoint = true ∧ (frost .freezing).core.frost = .freezing) ∧
    ((frost .draining).core.frost = .draining ∧ (frost .draining).requestsOut (frost .draining).core.set = false) := by
  decide +kernel

/-- Core 1 runs a unit of partition 0 and is frozen. -/
def frozenCore : Core :=
  { Core.idle 1 with set := { CSet.empty with unit := some UnitCtx.none }, frost := .frozen, skouted := true }

def debugging (regs : List (Reg × Word)) : State := { unit regs with others := [frozenCore] }

theorem witness_DebugInstructionsComplete :
    let s := debugging [(1, 1), (2, 0x7FE), (3, 2 ^ 48), (4, 0xFFFF00000040), (5, 0x800), (6, 0x2000), (7, 0xFFFFFFFF)]
    let thawed := { s with others := [{ frozenCore with frost := .thawed }] }
    let run := running (image 10 [sinkSlot 0]) [(2, 0x7FE), (5, 0x800), (6, 0x2000)]
    let trace := inPad s 0x40 (leBytes 8 0xFFFF00000100 ++ leBytes 4 1 ++ List.replicate 20 0)
    let x : Trace := ⟨0x20, 1, 0, 0, false, false, false, 3, 1, []⟩
    let at' (h : Hold) := { run with core := { run.core with hold := h, trace := some x } }
    (s.mayIssue [1] 9 1 ∧ s.mayIssue [5] 9 1 ∧ s.mayIssue [] 9 1 ∧ s.mayIssue [0, 2] 9 1 ∧ s.mayIssue [0, 3] 9 1 ∧
      s.mayIssue [7, 2] 9 1 ∧ run.mayIssue [2] 9 1 ∧ run.mayIssue [5] 9 0 ∧ run.mayIssue [6] 9 0 ∧
      (at' .held).mayIssue [] 9 1) ∧
    (s.named false (s.reg 0) = .error (0xA0, 0) ∧ s.named false (s.reg 1) = .ok ([1], none) ∧
      s.frozenAt none 1 = true ∧ thawed.named false (s.reg 1) = .ok ([1], none) ∧ thawed.frozenAt none 1 = false ∧
      (∀ c ∈ s.actsOn none 1, c.2.skouted = true) ∧ s.acts none (s.coreAt 1) (s.coreAt 1).set = true ∧ s.lockedAt none 1 = false) ∧
    (trace.mayIssue [4] 9 1 ∧ ∃ u v w sp bs, trace.checked .read (trace.reg 4) 1 32 = (u, .ok (w, sp)) ∧
      State.readSpans w sp u = (v, bs, none) ∧ (traceOf bs).isSome) ∧
    (s.core.set.fab.running = none ∧ run.core.set.fab.running.isSome ∧ (run.reg 2).toNat % 2048 ≠ 0x7FF) ∧
    (s.core.hold = .none ∧ (at' .held).core.hold = .held ∧ (at' .held).core.set.fab.running ≠ none ∧
      s.core.trace = none ∧ (at' .held).core.trace = some x ∧ x.staged = []) ∧
    ((s.reg 3).toNat ≥ 2 ^ 48 ∧ (s.reg 2).toNat < 2 ^ 48 ∧ (s.reg 7).setWidth 32 = (0xFFFFFFFF : BitVec 32)) ∧
    ((run.reg 6).toNat ≥ 2 ^ 13 ∧ (1 : Reg) ≠ 0 ∧ (0 : BitVec 2) ≠ 3 ∧ (run.reg 5).toNat < 2 ^ 13 ∧ (run.reg 5).toNat / 2 ^ 11 ≠ 3 ∧
      channelTarget ((run.reg 5).setWidth 11) = true) := by
  refine ⟨⟨issues_mayIssue ?_, issues_mayIssue ?_, issues_mayIssue ?_, issues_mayIssue ?_, issues_mayIssue ?_,
    issues_mayIssue ?_, issues_mayIssue ?_, issues_mayIssue ?_, issues_mayIssue ?_, issues_mayIssue ?_⟩, ?_,
    ⟨issues_mayIssue ?_, reads_checked _ ?_⟩, ?_⟩ <;> decide +kernel

/-- A state whose 64 KiB pages from 0x200000 to 0x3FFFFF are cached for writing, and whose next n choices use them. -/
def cached (n : Nat) : State :=
  { (debugging [(1, 1), (2, 0x200000)]).mapSet (fun c => { c with
      tlb := (List.range 32).map (fun i => ⟨32 + i, 0x200000 + 65536 * i, true, true, false, true⟩) }) with
    choice := List.replicate n 1 }

theorem cached_translate (n va : Nat) (h : 0x200000 ≤ va) (h' : va < 0x400000) :
    ∃ pa, (cached (n + 1)).translate .write va = (cached n, .ok pa) := by
  have hv : 32 ≤ va / 65536 ∧ va / 65536 < 64 := by omega
  have all : ∀ v < 64, 32 ≤ v → (cached 0).core.set.tlb.find? (fun e => e.vpn == v && e.allows .write) =
      some ⟨v, v * 65536, true, true, false, true⟩ := by
    decide +kernel
  have pa : (cached (n + 1)).cachedAt ⟨va / 65536, va / 65536 * 65536, true, true, false, true⟩ .write va = .ok va := by
    have hc : (cached (n + 1)).part.inCounters va = false := by
      simp only [Part.inCounters, Bool.and_eq_false_iff, decide_eq_false_iff_not]
      left
      have : (cached (n + 1)).part.counters = 0x1BFFFC00000 := rfl
      omega
    simp only [State.cachedAt, (by omega : va / 65536 * 65536 + va % 65536 = va), hc]
    rfl
  refine ⟨va, ?_⟩
  have hf : (cached (n + 1)).core.set.tlb.find? (fun e => e.vpn == va / 65536 && e.allows .write) =
      some ⟨va / 65536, va / 65536 * 65536, true, true, false, true⟩ := all _ hv.2 hv.1
  simp only [State.translate, State.throughCache, hf, pa]
  rfl

theorem cached_translateAll (l : List (Nat × Nat)) (n : Nat) (hn : l.length ≤ n)
    (h : ∀ p ∈ l, 0x200000 ≤ p.1 ∧ p.1 < 0x400000) :
    ∃ x, State.translateAll (fun s va => s.translate .write va) l (cached n) = (cached (n - l.length), .ok x) := by
  induction l generalizing n with
  | nil => exact ⟨_, rfl⟩
  | cons p l ih =>
    obtain ⟨m, rfl⟩ : ∃ m, n = m + 1 := ⟨n - 1, by simp at hn; omega⟩
    obtain ⟨pa, hp⟩ := cached_translate m p.1 (h p List.mem_cons_self).1 (h p List.mem_cons_self).2
    obtain ⟨x, hx⟩ := ih m (by simp at hn; omega) (fun q hq => h q (List.mem_cons_of_mem _ hq))
    refine ⟨⟨p.1, pa, p.2⟩ :: x, ?_⟩
    have hw : ((cached (m + 1)).part.windowAt p.1).isSome = false := rfl
    rw [State.translateAll, hw, hp]
    simp only [hx, Bool.false_eq_true, if_false, List.length_cons, Nat.add_sub_add_right]

theorem cached_coreArg (n : Nat) : (cached n).coreArg 1 = .ok 1 := by
  have hm : (cached n).mayName 1 = true := by
    have : (cached n).mayName 1 = (cached 0).mayName 1 := rfl
    rw [this]; decide +kernel
  have hc : (cached n).core.num = 0 := rfl
  simp only [State.coreArg, show (1 : Word).toNat = 1 from rfl, hm, hc]
  rfl

/-- A write of up to 2 MiB at 0x200000 has a place. -/
theorem cached_resolve (n len : Nat) (hl : len ≤ 0x1FFFF0) (hn : 0x20000 ≤ n) :
    ∃ m x, (cached n).resolve .write 0x200000 len = (cached m, .ok x) ∧ n ≤ m + len / 16 + 1 := by
  have hp : ∀ p ∈ piecesOf 0x200000 len, 0x200000 ≤ p.1 ∧ p.1 < 0x400000 := by
    intro p h
    simp only [piecesOf, List.mem_map, List.mem_range] at h
    obtain ⟨i, hi, rfl⟩ := h
    simp only
    omega
  have hc : (piecesOf 0x200000 len).length ≤ len / 16 + 1 := by simp [piecesOf]; omega
  obtain ⟨x, hx⟩ := cached_translateAll _ n (by omega) hp
  refine ⟨_, (false, x), ?_, (by omega : n ≤ n - (piecesOf 0x200000 len).length + len / 16 + 1)⟩
  have hw : inWindowPart 0x200000 = false := by decide
  have hb : ¬ (0x200000 + len > windowBase) := by simp only [windowBase]; omega
  rw [State.resolve, State.resolveBy, hw, hx]
  simp only [Bool.false_eq_true, if_false, hb]

/-- SKOUT: a skein of any length that R334 allows has a place. -/
theorem witness_Skout :
    let s := cached 200000
    s.mayIssue [1, 2] 9 1 ∧ s.globalHeld (s.reg 2) = false ∧ (s.reg 1).toNat = 1 ∧
    ∃ u x, s.checked .write (s.reg 2) 64 320 = (u, .ok x) ∧ u.coreArg (s.reg 1) = .ok 1 ∧ u.frozenAt none 1 = true ∧
      u.skeinSet 1 = some (frozenCore.set, frozenCore.parking, false) ∧
      ∃ v y, u.resolve .write (s.reg 2).toNat (u.skeinBytes 1 (u.coreAt 1).sliced frozenCore.set).length = (v, .ok y) := by
  obtain ⟨m, x, hx, hm⟩ := cached_resolve 200000 320 (by decide) (by decide)
  have hs : (u : State) → ∀ b c, (u.skeinBytes 1 b c).length ≤ skeinMax := by
    intro u b c
    simp [State.skeinBytes, leBytes, skeinMax]
    omega
  obtain ⟨v, y, hy, _⟩ := cached_resolve m ((cached m).skeinBytes 1 false frozenCore.set).length
    (Nat.le_trans (hs _ _ _) (by decide)) (by omega)
  have hreg : ∀ n, ((cached n).reg 2).toNat = 0x200000 ∧ (cached n).reg 1 = 1 := fun n => ⟨rfl, rfl⟩
  refine ⟨issues_mayIssue rfl, rfl, rfl, cached m, x, ?_, cached_coreArg m, rfl, rfl, cached v, y, ?_⟩
  · simp only [State.checked, (hreg 200000).1, hx]
    rfl
  · rw [(hreg 200000).1]
    exact hy

/-- The bytes that spans read as. -/
theorem reads_at {s : State} {w : Bool} {sp : List Span} (p : State → List Byte → Prop) [∀ v bs, Decidable (p v bs)]
    (h : (match State.readSpans w sp s with | (v, bs, none) => decide (p v bs) | _ => false) = true) :
    ∃ v bs, State.readSpans w sp s = (v, bs, none) ∧ p v bs := by
  split at h
  · rename_i v bs h2
    exact ⟨v, bs, h2, by simpa using h⟩
  · cases h

/-- A skein of 320 bytes with its mode byte, and a state in which it is known and stands in the window, with core 1. -/
def skinBytes (mode : Byte) : List Byte := List.replicate 7 0 ++ [mode] ++ List.replicate 8 0 ++ leBytes 4 320 ++ List.replicate 300 0

def skinState (mode : Byte) (k : Core) : State :=
  inPad { unit [(1, 1), (2, 0xFFFF00000040)] with
    host := { HostSide.start with skeins := [⟨skinBytes mode, Core.idle 1⟩] }, others := [k] } 0x40 (skinBytes mode)

/-- What SKIN asks for, of a whole core and of a sliced one. -/
theorem witness_Skin :
    ∀ x ∈ [((0 : Byte), Core.idle 1), (1, { Core.idle 1 with sliced := true, shadow := some .empty })],
      let s := skinState x.1 x.2
      s.mayIssue [1, 2] 9 1 ∧ s.readHeld (s.reg 2) = false ∧
      ∃ u v w sp head, s.checked .read (s.reg 2) 64 320 = (u, .ok (w, sp)) ∧ State.readSpans w sp u = (v, head, none) ∧
        u.skinCore (s.reg 1) = .ok 1 ∧ (bitAt (field head 7 1) 0 = (v.coreAt 1).sliced ∧
          field head 0x10 4 = 320 ∧ 320 ≤ skeinMax ∧ (v.coreAt 1).sliced = x.2.sliced ∧
          (v.resolve .read (s.reg 2).toNat 320).2.toOption.isSome ∧ v.skeinOf head = some ⟨skinBytes x.1, Core.idle 1⟩) := by
  intro x hx
  obtain ⟨v, head, h⟩ := reads_at (s := skinState x.1 x.2) (w := true) (sp := (unit []).windowSpans 64 320)
    (fun v head => bitAt (field head 7 1) 0 = (v.coreAt 1).sliced ∧ field head 0x10 4 = 320 ∧ 320 ≤ skeinMax ∧
      (v.coreAt 1).sliced = x.2.sliced ∧ (v.resolve .read 0xFFFF00000040 320).2.toOption.isSome ∧
      v.skeinOf head = some ⟨skinBytes x.1, Core.idle 1⟩) (by
        simp only [List.mem_cons, List.not_mem_nil, or_false] at hx
        obtain rfl | rfl := hx <;> decide +kernel)
  refine ⟨issues_mayIssue ?_, ?_, _, v, true, (unit []).windowSpans 64 320, head, ?_, h.1, ?_, h.2⟩
  all_goals simp only [List.mem_cons, List.not_mem_nil, or_false] at hx
  all_goals obtain rfl | rfl := hx
  all_goals first | rfl | decide +kernel


/-! ### Firings -/

/-- Slot 5 holds a fabric word and its constant, a token stands at each position it reads, and it is its turn. -/
def slotState (i : Instr) (konst : BitVec 32) (t : Token) : State :=
  let im := image 10 [⟨5, (encode i).getD 0, konst⟩]
  { (running im []).mapFab (fun f => { f with held := (fabReads i konst.toNat).map (fun p => (slotTarget 5 p, t)) }) with
    firing := 5 }

/-- What a firing takes, when the slot may fire. -/
def firing (s : State) (i : Instr) : Option (Image × SlotRec × Taken) :=
  match s.firingSlot i with
  | some (im, r) =>
    match s.core.set.fab.pick r.num (im.reads r) with
    | some x => if s.core.set.mayFire im s.cycle r && !s.core.set.fab.eorDue.any (fun e => e.1 == r.num) then
        some (im, r, x) else none
    | none => none
  | none => none

theorem firing_fires {s : State} {i : Instr} (p : Image → SlotRec → Taken → Prop) [∀ im r x, Decidable (p im r x)]
    (h : (firing s i).any (fun y => decide (p y.1 y.2.1 y.2.2)) = true) : ∃ im r x, s.fires i im r x ∧ p im r x := by
  unfold firing at h
  split at h
  · rename_i im r h1
    split at h
    · rename_i x h2
      split at h
      · rename_i h3
        simp only [Bool.and_eq_true, Bool.not_eq_true'] at h3
        exact ⟨im, r, x, ⟨h1, h2, h3.1, h3.2⟩, by simpa using h⟩
      · cases h
    · cases h
  · cases h

def fires? (i : Instr) (konst : BitVec 32) (t : Token) : Bool :=
  (firing (slotState i konst t) i).any (fun y => decide ((y.2.2.list.find? Token.isError).isSome = t.isError))

theorem fires?_fires {i : Instr} {konst : BitVec 32} {t : Token} (h : fires? i konst t = true) :
    ∃ im r x, (slotState i konst t).fires i im r x ∧ (x.list.find? Token.isError).isSome = t.isError :=
  firing_fires (fun _ _ x => (x.list.find? Token.isError).isSome = t.isError) h

/-- Each fires on data, and with an error token at each position. -/
theorem witness_IntegerLaneFirings :
    ∀ i ∈ [Instr.vadd 0 0 4, .vsub 1 0 4, .vmul 2 0 4, .vmad 0 0 4, .vmin 1 0 4, .vmax 2 0 4, .vminu 0 0 4, .vmaxu 1 0 4,
        .vand 2 0 4, .vor 0 0 4, .vxor 1 0 4, .vshl 2 0 4, .vshr 0 0 4, .vsra 1 0 4, .vabs 2 0 4, .vneg 0 0 4, .vaddk 1 0 4,
        .vmulk 2 0 4, .vsgadd 0 0 4, .vadds 1 0 4, .vsubs 2 0 4, .vdot4 0 4],
      fires? i 1 (Token.plain 9 5 true) = true ∧ fires? i 1 (Token.error 9 3 true) = true := by
  decide +kernel

theorem witness_FloatLaneFirings :
    ∀ i ∈ [Instr.fadd 0 0 4, .fsub 1 0 4, .fmul 2 0 4, .fma 0 0 4, .fmax 1 0 4, .fmin 2 0 4, .frcp 0 0 4, .frsq 0 0 4,
        .fexp2 0 0 4, .flog2 0 0 4, .faddk 1 0 4, .fmulk 2 0 4, .fabs 0 0 4, .fneg 1 0 4, .fmac 0 0 4, .fmac 1 0 4],
      fires? i 1 (Token.plain 9 5 true) = true ∧ fires? i 1 (Token.error 9 3 true) = true := by
  decide +kernel

theorem witness_ConversionAndLaneFirings :
    ∀ i ∈ [Instr.cvt 0 4, .b3dec 0 4, .bperm 0 4, .nibx 1 0 4, .pack 0 4, .unpk 0 4, .masksel 0 4, .lsum 0 4, .lmax 0 4,
        .largmax 0 4, .lbcast 0 4, .lrot 0 4, .lscan 0 4, .onehot 0 4, .lextr 0 4],
      fires? i 1 (Token.plain 9 5 true) = true ∧ fires? i 1 (Token.error 9 3 true) = true := by
  decide +kernel

theorem witness_ControlFirings :
    let live := fun (s : State) => withStatus s 0 .live
    let eor := (slotState (.eor 0 4) 2 (Token.plain 9 5 true)).mapFab (fun f => { f with eorDue := [(5, Token.order 9 true)] })
    let const := live ((slotState (.const 0 4) 1 (Token.plain 9 5 true)).mapFab (fun f => { f with consts := [(5, 0)] }))
    let merge := slotState (.merge 0 4) 1 (Token.plain 9 5 true)
    let entry (d : List Due) : SregEntry := ⟨7, d, false, true⟩
    let sreg := live ((slotState (.sreg 0 4) 1 (Token.plain 9 5 true)).mapFab (fun f =>
      { f with sregs := [((5, 0), entry [.held, .pass (Token.plain 0 1 false)])] }))
    let passing := sreg.mapFab (fun f => { f with sregs := [((5, 0), entry [.pass (Token.plain 0 1 false)])] })
    let im (i : Instr) (k : BitVec 32) := image 10 [⟨5, (encode i).getD 0, k⟩]
    (∀ i ∈ [Instr.vcmp 0 4, .sel 0 4, .ordj 0 4, .dup 0 4, .delay 0 4, .steer 0 4, .gate 0 4, .sink 0 4, .stitch 0 4,
        .pnot 0 4, .idx 0 4, .cnt 0 4, .eor 0 4],
      (fires? i 2 (Token.plain 9 5 true) = true ∧ fires? i 1 (Token.plain 9 5 true) = true) ∧
      fires? i 2 (Token.error 9 3 true) = true) ∧
    (eor.core.fabricRuns eor.cycle = true ∧ eor.core.set.fab.eorDue.find? (fun e => e.1 == 5) = some (5, Token.order 9 true) ∧
      (eor.core.set.mayFire (im (.eor 0 4) 2) eor.cycle ⟨5, (encode (.eor 0 4)).getD 0, 2⟩ = true)) ∧
    (merge.core.set.fab.pickMerge 5 = some (slotTarget 5 0, Token.plain 9 5 true) ∧
      merge.core.set.mayFire (im (.merge 0 4) 1) merge.cycle ⟨5, (encode (.merge 0 4)).getD 0, 1⟩ = true) ∧
    (((im (.const 0 4) 1).slot 5).map (fun r => (im (.const 0 4) 1).reads r) = some [] ∧
      const.core.set.fab.consts.contains (5, const.cycle % 10) = true ∧
      const.core.set.maySend (const.cycle % 10) .held = true ∧
      const.core.set.fab.fired.contains (elementOf 5) = false ∧ const.core.set.fab.roomFor (.const 0 4) = true) ∧
    ((sreg.core.set.fab.heldAt (slotTarget 5 0)).head? = some (Token.plain 9 5 true) ∧
      lookup (5, sreg.cycle % 10) sreg.core.set.fab.sregs = some (entry [.held, .pass (Token.plain 0 1 false)]) ∧
      sreg.core.set.maySend (sreg.cycle % 10) .held = true ∧
      lookup (5, sreg.cycle % 10) passing.core.set.fab.sregs = some (entry [.pass (Token.plain 0 1 false)]) ∧
      passing.core.set.maySend (sreg.cycle % 10) (.pass (Token.plain 0 1 false)) = true ∧ sreg.core.set.fab.fired.contains (elementOf 5) = false ∧
      sreg.core.set.fab.roomFor (.sreg 0 4) = true) := by
  decide +kernel

/-- SEL takes an error of its predicate or of a selected input only. -/
theorem witness_SelErrors :
    let im := image 10 [⟨5, (encode (.sel 0 4)).getD 0, 0⟩]
    let bad := Token.error 9 3 false
    let s (l r p : Token) := { (running im []).mapFab (fun f =>
      { f with held := [(slotTarget 5 0, l), (slotTarget 5 1, r), (slotTarget 5 2, p)] }) with firing := 5 }
    let on := (Token.plain 9 1 false).withPred true
    ∀ x ∈ [(on, bad, on), (bad, on, on), (on, on, bad)],
      (firing (s x.1 x.2.1 x.2.2) (.sel 0 4)).map (fun y => (y.2.2.l, y.2.2.r, y.2.2.p)) = some (x.1, some x.2.1, some x.2.2) := by
  decide +kernel

/-- CNT and EOR take a token of kind 01 or 11, MERGE an error token, CONST a token at its input. -/
theorem witness_ControlKinds :
    let eor := { Token.plain 9 5 true with tag := { (Token.plain 9 5 true).tag with kind := .endOfReduction } }
    let merge := slotState (.merge 0 4) 1 (Token.error 9 3 true)
    let im := image 10 [⟨5, (encode (.const 0 4)).getD 0, 1⟩, ⟨6, (encode (.dup (slotTarget 5 0) noTarget)).getD 0, 0⟩]
    let const (t : Token) := { (running im []).mapFab (fun f => { f with held := [(slotTarget 5 0, t)] }) with firing := 5 }
    (∀ i ∈ [Instr.cnt 0 4, .eor 0 4], ∀ t ∈ [Token.order 9 false, eor], fires? i 2 t = true ∧ t.isData = false) ∧
    (merge.core.set.fab.pickMerge 5 = some (slotTarget 5 0, Token.error 9 3 true) ∧
      merge.core.set.mayFire (image 10 [⟨5, (encode (.merge 0 4)).getD 0, 1⟩]) merge.cycle
        ⟨5, (encode (.merge 0 4)).getD 0, 1⟩ = true) ∧
    (∀ t ∈ [Token.plain 9 5 true, Token.error 9 3 true],
      (firing (const t) (.const 0 4)).any (fun y => decide (y.1.reads y.2.1 ≠ [] ∧ y.2.2.l = t)) = true) := by
  decide +kernel

theorem witness_Reports :
    let s (held : List (Target × Token)) := (running (image 10 [sinkSlot 0]) []).mapFab (fun f =>
      { f with held := held, detect := ⟨none, false, true, 744⟩, inPorts := (List.range 16).map (fun q => (q, ⟨true, 0, false⟩)) })
    let tok := [((0 : Target), Token.plain 9 5 true)]
    ((s []).detects = true ∧ (s []).core.set.empty0 = true ∧
      (∀ k < 64, (s []).core.set.runsOut k = false) ∧ (s []).requestsOpen 0 (s []).core.set.fab = false) ∧
    ((s tok).detects = true ∧ (s tok).core.set.empty0 = false ∧
      (s tok).cycle ≥ (s tok).core.set.fab.detect.lastMove + 256 ∧
      (s tok).detectorWaits (s tok).core (image 10 [sinkSlot 0]) = false) := by
  decide +kernel

theorem witness_MachineEvents :
    let r := LogRec.plain 1 0 0 0 0
    let s := { (unit []) with host := { HostSide.start with errLines := [2] }
                              parts := [{ Part.device with sink := some 3, sinkUp := true, ring := [r] }] }
    let op := { s with host := { s.host with opRing := [r] } }
    regionOf 64 ≠ .none ∧ s.host.errLines.contains (64 / 64) = false ∧ s.host.poisoned.contains (64 / 64) = false ∧
    regionOf 128 ≠ .none ∧ s.host.errLines.contains (128 / 64) = true ∧
    (s.partAt 0).map (fun p => (p.sink, p.sinkUp, p.ring)) = some (some 3, true, [r]) ∧ op.host.opRing ≠ [] ∧
    s.host.firmwareGood = true := by
  decide +kernel

theorem witness_HostCommandsAnswer :
    let c (flow : Nat) (reserved : BitVec 16) (operand : BitVec 64) (len : BitVec 32) (operands : BitVec 96) (payload : List Byte) : HostCmd :=
      ⟨7, flow, 0, reserved, 1, operand, len, operands, payload⟩
    let ends (level : Nat) : List (Nat × Endpoint) := [(0, ⟨7, level, .command⟩), (1, ⟨8, 0, .errorSink⟩)]
    let s (level : Nat) := let m := mapped []
      { m with parts := [{ Part.device with ends := ends level, dirty := some [] }], host := HostSide.start }
    let p (level : Nat) := (s level).part
    let data := List.replicate 16 (1 : Byte)
    let u := (s 1).hostAt (p 1) .write 0x200100
    let k : Packet := ⟨4, 390, 0, 0, 3, 0, 0, 0xFFFF, 0, 0, 0, 0, false, data, .write .outside 0x200100 0x200100, .holding, none,
      none, none⟩
    let w : HostWrite := ⟨[4], 7, 2, ⟨1, 0, []⟩⟩
    let come := { s 1 with net := { (s 1).net with packets := [k] }, host := { (s 1).host with pending := [w] } }
    (∀ l ∈ [0, 1, 2], (s l).partAt 0 = some (p l) ∧ (p l).sourceAt 7 = some ⟨7, l, .command⟩ ∧ (p l).sourceAt 9 = none) ∧
    (c 0 1 0 0 0 []).reserved ≠ 0 ∧ (c 0 0 0 0 0 []).reserved = 0 ∧
    (come.behindWrites (c 2 0 0 0 0 []) = true ∧ come.behindWrites (c 0 0 0 0 0 []) = false ∧
      come.behindWrites (c 3 0 0 0 0 []) = false ∧ (s 1).behindWrites (c 2 0 0 0 0 []) = false) ∧
    (come.packet 4 = some k ∧ come.mayApply k = true ∧ k.dst < 352 ∧ come.mem.wf ∧ (∀ x ∈ come.host.pending, x.ids = [k.id])) ∧
    ((c 0 0 0x200100 16 0 data).length.toNat = data.length ∧ (s 1).mem.wf ∧ piecesOf 0x200100 16 = [(0x200100, 16)] ∧
      u.2 = .ok 0x200100) ∧
    (((s 1).hostAt (p 1) .read 0x200100).2 = .ok 0x200100 ∧ u.1.readError 0x200100 16 = none) ∧
    (lookup 1 (p 1).ends).map (fun x => x.kind) = some .errorSink ∧ (c 0 0 0 0 1 []).operands.toNat = 1 ∧
    (p 2).dirty = some [] ∧ (s 2).host.index < 65536 ∧ (List.replicate 32 (0 : Byte)).length = 32 ∧
    ({ HostSide.start with index := 65536 }).index ≥ 65536 ∧
    (s 2).host.copied.any (fun g => (s 2).pools.any (fun h => h.num == g.num)) = false ∧
    (let both := { s 2 with pools := [pool [] 0 [] []], host := { (s 2).host with copied := [pool [] 0 [] []] } }
     both.host.copied.any (fun g => both.pools.any (fun h => h.num == g.num)) = true) := by
  decide +kernel

/-- A WRITE into the ring of a queue of partition 0. -/
theorem witness_WriteToDeviceQueue :
    let b := queue false 0 0
    let s := { queued b 1 [] with host := HostSide.start }
    piecesOf 0x200440 16 = [(0x200440, 16)] ∧ (s.hostAt (s.partOf 0) .look 0x200440).2 = .ok 0x200440 ∧
    (0, b) ∈ s.disp.binds ∧ b.part = 0 ∧ b.ring.toNat % 65536 + 64 + 64 * b.depth ≤ 65536 ∧
    (s.dispAt (s.partOf 0) .look b.ring.toNat).2 = some 0x200400 := by
  decide +kernel

/-- WINMAP: a partition whose endpoint table names a peer at the entry that the command gives. -/
theorem witness_Winmap (length : BitVec 32) (operands : BitVec 96) (payload : List Byte) :
    let w := Config.winmapFields length operands payload
    let p := { Part.device with ends := [(w.peer, ⟨8, 0, .peer⟩)] }
    (0x40000000 : BitVec 64).toNat % 2 ^ 30 = 0 ∧ ∃ x, lookup w.peer p.ends = some x ∧ x.kind = .peer :=
  ⟨by decide, ⟨8, 0, .peer⟩, by simp [lookup], rfl⟩

/-! ### The whole machine -/

theorem witness_StepRunsDecodedInstruction :
    let s := (unit [(6, 40)]).withFetchWord 32 0x04518002
    let u := { s with sched := [] }
    let bad := { (unit []).withFetchWord 32 0xFC000000 with sched := [] }
    let away := u.setPc 0x600000
    let async := u.mapSet (fun c => { c with asyncs := [⟨0x10, 0⟩], seq := { c.seq with te := true } })
    (s.host.inReset = false ∧ s.sched = [.issue] ∧ u.canIssue = true ∧ u.nextAsync = none ∧
      u.fetch.2 = .ok 0x04518002 ∧ decodeWord 0x04518002 = .ok (.addi 5 6 2)) ∧
    (bad.canIssue = true ∧ bad.nextAsync = none ∧ bad.fetch.2 = .ok 0xFC000000 ∧
      decodeWord 0xFC000000 = .error .unassignedMajor) ∧
    (away.canIssue = true ∧ away.nextAsync = none ∧ away.fetch.2 = .error 0x04) ∧
    (async.canIssue = true ∧ async.nextAsync = some ⟨0x10, 0⟩) ∧
    (u.seq.pc.toNat < 0xFFFF00000000 ∧ u.part.windowAt 0x200000 = none ∧ (u.translate .fetch 0x200000).2 = .ok 0x200000 ∧
      u.readError 0x200000 4 = none ∧ lookup (0x200000 / 8 * 8) u.core.set.icache = none) ∧
    ({ (unit []).placeSlot 0 (.dup 0 4) with sched := [] }).host.inReset = false ∧
    (slotState (.dup 0 4) 0 (Token.plain 0 1 false)).slotInstr 5 = some (.dup 0 4) ∧
    (u.coreTurn.isNone ∧ (u.moduleEvents.find? u.isDue).isNone ∧ u.dueCore = none) := by
  decide +kernel

/-- A machine whose firmware's signature does not hold stays in reset. -/
theorem witness_HeldInReset :
    (nextOf (exec .reset { State.reset with host := { HostSide.start with firmwareGood := false } })).map
      (fun t => t.host.inReset) = some true := by
  decide +kernel

theorem reset_mem_wf : State.reset.mem.wf := by decide

/-- An ill-formed term's word does not decode, and a well-formed one's does. -/
theorem witness_DecodeAndEncodeAgree :
    (Instr.sigwait 1 2 4 5).wellFormed = true ∧ (encode (.sigwait 1 2 4 5)).isSome ∧
    (Instr.vadd 2 0x7FF 5).inFabricMap = true ∧ (encode (.vadd 2 0x7FF 5)).isSome ∧ encode .dispatchAdmit = none := by
  decide

theorem witness_EveryStepKeepsTheMemoryForm : State.reset.mem.wf ∧ ∃ t, step State.reset = .next t :=
  ⟨by decide, nextOf_next (by decide +kernel)⟩

end Sys2Proof.Tests
end

section
/-!
SUPPORT. The operations that change no byte of memory (R2), file by file of Machine/, in the order in which they use
each other. The rules about one update of the state stand in Laws/State; these are about the operations made of updates.
-/

namespace Sys2Proof.Machine

/-- Memory in its canonical form: `wf` under a name of its own, which `simp` does not take apart. -/
def Memory.Formed (m : Memory) : Prop := m.wf

theorem Memory.formed_iff {m : Memory} : m.Formed ↔ m.wf := Iff.rfl

theorem State.foldl_mem {α : Type} {f : State → α → State} (h : ∀ s a, (f s a).mem = s.mem) (l : List α) (s : State) :
    (l.foldl f s).mem = s.mem := by
  induction l generalizing s with
  | nil => rfl
  | cons a l ih => rw [List.foldl_cons, ih, h]

theorem State.foldl_formed {α : Type} {f : State → α → State} (h : ∀ s a, s.mem.Formed → (f s a).mem.Formed)
    (l : List α) {s : State}
    (hs : s.mem.Formed) : (l.foldl f s).mem.Formed := by
  induction l generalizing s with
  | nil => exact hs
  | cons a l ih => exact ih (h s a hs)

/-! ### Machine/Ops -/

@[simp] theorem State.setCore_mem (s : State) (k : Core) : (s.setCore k).mem = s.mem := by
  unfold State.setCore
  split <;> rfl

@[simp] theorem State.mapCoreAt_mem (s : State) (n : Nat) (f : Core → Core) : (s.mapCoreAt n f).mem = s.mem := by
  simp [State.mapCoreAt]

@[simp] theorem State.select_mem (s : State) (n : Nat) : (s.select n).mem = s.mem := by
  unfold State.select
  split <;> rfl

@[simp] theorem State.mapSets_mem (s : State) (f : CSet → CSet) : (s.mapSets f).mem = s.mem := rfl
@[simp] theorem State.rewait_mem (s : State) (id : Nat) (w : Wait) : (s.rewait id w).mem = s.mem := rfl
@[simp] theorem State.settle_mem (s : State) (id : Nat) (v : Word) (e : ErrKind) : (s.settle id v e).mem = s.mem := rfl

@[simp] theorem State.log_mem (s : State) (p : Nat) (r : LogRec) : (s.log p r).mem = s.mem := by
  unfold State.log
  dsimp only
  split <;> simp

@[simp] theorem State.logOpen_mem (s : State) (p : Nat) (r : LogRec) : (s.logOpen p r).mem = s.mem := by
  simp [State.logOpen]

@[simp] theorem State.trapLock_mem (s : State) (cause : BitVec 8) : (s.trapLock cause).mem = s.mem := by
  simp [State.trapLock]

@[simp] theorem State.takeTrap_mem (s : State) (cause : BitVec 8) (val : Word) (async : Bool) :
    (s.takeTrap cause val async).mem = s.mem := by
  unfold State.takeTrap
  split <;> simp

@[simp] theorem State.trap_mem (s : State) (cause : BitVec 8) (val : Word) : (s.trap cause val).mem = s.mem := by
  simp [State.trap]

@[simp] theorem State.returnFromTrap_mem (s : State) : s.returnFromTrap.mem = s.mem := by
  unfold State.returnFromTrap
  split <;> simp

@[simp] theorem State.errTrap_mem (s : State) (r : Reg) : (s.errTrap r).mem = s.mem := by
  unfold State.errTrap
  dsimp only
  split <;> simp [apply_ite State.mem]

@[simp] theorem State.failsAs_mem (s : State) (t : Reg) (cls : OpClass) (status : Nat) :
    (s.failsAs t cls status).mem = s.mem := rfl

@[simp] theorem State.fails_mem (s : State) (t : Reg) (status : Nat) : (s.fails t status).mem = s.mem := rfl

@[simp] theorem State.onCore_mem (s : State) (n : Nat) (f : State → State) :
    (s.onCore n f).mem = (f (s.select n)).mem := by
  simp [State.onCore]

/-! ### Machine/Access -/

@[simp] theorem State.report_mem (s : State) (p core : Nat) (pa n : Nat) (cause : BitVec 6) :
    (s.report p core pa n cause).mem = s.mem := by
  simp [State.report]

@[simp] theorem State.readLoc_mem (s : State) (loc : Nat) : (s.readLoc loc).1.mem = s.mem := by
  unfold State.readLoc
  split
  · rfl
  · split
    · split
      · rfl
      · split <;> rfl
    · rfl

theorem State.readAs_mem {α : Type} (s : State) (phase : Nat) (home : Bool) (f : State → State × α) :
    (s.readAs phase home f).1.mem =
      (f (s.mapUnit (fun x => { x with phase := phase, bypass := home || (x.bypass && x.phase == phase) }))).1.mem :=
  rfl

@[simp] theorem State.readLocs_mem (l : List Nat) (s : State) : (State.readLocs l s).1.mem = s.mem := by
  induction l generalizing s with
  | nil => rfl
  | cons loc rest ih => exact (ih _).trans (s.readLoc_mem loc)

@[simp] theorem State.readSpan_mem (s : State) (window : Bool) (sp : Span) : (s.readSpan window sp).1.mem = s.mem := by
  unfold State.readSpan
  split
  · exact s.report_mem ..
  · split
    · rfl
    · exact State.readLocs_mem _ s

@[simp] theorem State.readSpans_mem (window : Bool) (l : List Span) (s : State) :
    (State.readSpans window l s).1.mem = s.mem := by
  induction l generalizing s with
  | nil => rfl
  | cons sp rest ih =>
    have h := s.readSpan_mem window sp
    unfold State.readSpans
    split
    · next heq => rw [heq] at h; exact h
    · next heq => rw [heq] at h; exact (ih _).trans h

@[simp] theorem State.dropEarly_mem (s : State) (lid : BitVec 32) (upto : Option Nat) :
    (s.dropEarly lid upto).mem = s.mem := rfl

@[simp] theorem State.inject_mem (s : State) (k : Packet) : (s.inject k).mem = s.mem := by
  unfold State.inject
  dsimp only
  split <;> simp

@[simp] theorem State.dropSnaps_mem (s : State) (pa n : Nat) : (s.dropSnaps pa n).mem = s.mem := rfl

/-! ### Machine/Flags -/

@[simp] theorem State.setDz_mem (s : State) (zero : Bool) : (s.setDz zero).mem = s.mem := by
  unfold State.setDz
  split <;> rfl

@[simp] theorem State.noteNarrow_mem (s : State) (scope : Nat) : (s.noteNarrow scope).mem = s.mem := by
  unfold State.noteNarrow
  split <;> rfl

/-! ### Machine/Fetch -/

@[simp] theorem State.fetchWord_mem (s : State) (pa : Nat) : (s.fetchWord pa).1.mem = s.mem := by
  unfold State.fetchWord
  dsimp only
  split <;> rfl

/-! ### Machine/Fire -/

@[simp] theorem State.trace_mem (s : State) (r : LogRec) : (s.trace r).mem = s.mem := by
  unfold State.trace
  split <;> rfl

@[simp] theorem State.errToken_mem (s : State) (r : LogRec) : (s.errToken r).mem = s.mem := by
  unfold State.errToken
  dsimp only
  split <;> simp [apply_ite State.mem]

@[simp] theorem State.slotError_mem (s : State) (slot : Nat) (t : Token) : (s.slotError slot t).mem = s.mem := by
  simp [State.slotError]

@[simp] theorem State.nodeError_mem (s : State) (id : Nat) (gnode : BitVec 32) (t : Token) :
    (s.nodeError id gnode t).mem = s.mem := by
  simp [State.nodeError]

@[simp] theorem State.dropStitch_mem (s : State) (k : Nat) (e : Stream) (st : Status) :
    (s.dropStitch k e st).mem = s.mem := rfl

@[simp] theorem State.stitchFault_mem (s : State) (k : Nat) (cause : BitVec 6) (r : LogRec) :
    (s.stitchFault k cause r).mem = s.mem := by
  unfold State.stitchFault
  dsimp only
  split <;> split <;> simp [apply_ite State.mem]

@[simp] theorem State.breakAt_mem (s : State) (n : Nat) (w : Word) : (s.breakAt n w).mem = s.mem := rfl

@[simp] theorem State.breakpoint_mem (slot k : Nat) (s : State) (n : Nat) :
    (State.breakpoint slot k s n).mem = s.mem := by
  unfold State.breakpoint
  split <;> simp [apply_ite State.mem]

@[simp] theorem State.fired_mem (s : State) (slot : Nat) (taken : Token) (result : Option Token) :
    (s.fired slot taken result).mem = s.mem := by
  unfold State.fired
  dsimp only
  rw [apply_ite State.mem, State.foldl_mem (State.breakpoint_mem slot taken.k), ite_self]
  split
  · split <;> simp
  · rfl

@[simp] theorem State.emit_mem (s : State) (slot latency : Nat) (outs : List (Target × Token)) :
    (s.emit slot latency outs).mem = s.mem := rfl

/-! ### Machine/Branch -/

@[simp] theorem State.branch_mem (s : State) (taken : Bool) (o : BitVec 11) : (s.branch taken o).mem = s.mem := rfl

/-! ### Machine/Packets -/

@[simp] theorem State.setPacket_mem (s : State) (k : Packet) : (s.setPacket k).mem = s.mem := rfl
@[simp] theorem State.dropPacket_mem (s : State) (id : Nat) : (s.dropPacket id).mem = s.mem := rfl
@[simp] theorem State.countAt_mem (s : State) (sw port vc part : Nat) : (s.countAt sw port vc part).mem = s.mem := rfl

@[simp] theorem State.entered_mem (s : State) (k : Packet) : (s.entered k).mem = s.mem := by
  unfold State.entered
  split
  · rfl
  · split
    · exact s.spend_mem ..
    · rfl

@[simp] theorem State.markHole_mem (s : State) (k : Packet) (lost : Bool) : (s.markHole k lost).mem = s.mem := by
  unfold State.markHole
  split <;> simp [apply_ite State.mem]

@[simp] theorem State.notify_mem (s : State) (src dst part : Nat) (what : Notice) :
    (s.notify src dst part what).mem = s.mem := rfl

@[simp] theorem State.noteYarn_mem (s : State) (k : Packet) : (s.noteYarn k).mem = s.mem := by
  unfold State.noteYarn
  split <;> rfl

@[simp] theorem State.noteTrim_mem (s : State) (k : Packet) : (s.noteTrim k).mem = s.mem := by
  unfold State.noteTrim
  split <;> simp

@[simp] theorem State.useTrim_mem (s : State) (k : Packet) : (s.useTrim k).mem = s.mem := by
  unfold State.useTrim
  split <;> rfl

@[simp] theorem State.trimHere_mem (s : State) (k : Packet) : (s.trimHere k).mem = s.mem := by
  simp [State.trimHere]

@[simp] theorem State.handOver_mem (s : State) (k : Packet) : (s.handOver k).mem = s.mem := rfl

/-! ### Machine/Detector -/

@[simp] theorem State.makeReport_mem (s : State) (im : Image) (kind : Nat) : (s.makeReport im kind).mem = s.mem := rfl

/-! ### Machine/LoadStore -/

@[simp] theorem State.performLoad_mem (s : State) (id pa size : Nat) (home : Bool) :
    (s.performLoad id pa size home).mem = s.mem := by
  unfold State.performLoad
  split <;> simp [apply_ite State.mem]

@[simp] theorem State.beginLoad_mem (s : State) (d : Reg) (pa size : Nat) : (s.beginLoad d pa size).mem = s.mem := by
  unfold State.beginLoad
  split <;> simp

@[simp] theorem State.windowLoad_mem (s : State) (d : Reg) (pa size : Nat) : (s.windowLoad d pa size).mem = s.mem := by
  unfold State.windowLoad
  split <;> simp

/-! ### Machine/Cfg -/

@[simp] theorem State.readFails_mem (s : State) (t : Reg) (cls : OpClass) : (s.readFails t cls).mem = s.mem := rfl

@[simp] theorem State.stage_mem (s : State) (t : Reg) (r : Except Word Image) (pages : List (Nat × TlbEntry)) :
    (s.stage t r pages).mem = s.mem := by
  unfold State.stage
  split <;> rfl

@[simp] theorem State.switchConfig_mem (s : State) : s.switchConfig.mem = s.mem := by
  unfold State.switchConfig
  split <;> rfl

theorem State.afterReport_mem {change : State → State} (s : State) (h : ∀ s, (change s).mem = s.mem) (id : Nat)
    (w v : Word) :
    (s.afterReport id w change v).mem = s.mem := by
  unfold State.afterReport
  split
  · simp
  · split
    · simp
    · simp [h]

@[simp] theorem State.endCfgsw_mem (s : State) (id : Nat) : (s.endCfgsw id).mem = s.mem := by
  unfold State.endCfgsw
  split
  · exact s.afterReport_mem State.switchConfig_mem ..
  · rfl

@[simp] theorem State.endCfgrel_mem (s : State) (id : Nat) : (s.endCfgrel id).mem = s.mem := by
  unfold State.endCfgrel
  split
  · exact s.afterReport_mem (fun s => s.mapFab_mem _) ..
  · rfl

@[simp] theorem State.parmBad_mem (s : State) (t : Reg) (w : Word) : (s.parmBad t w).mem = s.mem := rfl

@[simp] theorem State.endParm_mem (s : State) (id : Nat) (b : NodeBlock) (v : Word) :
    (s.endParm id b v).mem = s.mem := by
  unfold State.endParm
  split <;> simp [apply_ite State.mem]

@[simp] theorem State.endWithReport_mem (s : State) (id : Nat) : (s.endWithReport id).mem = s.mem := by
  unfold State.endWithReport
  split <;> rfl

/-! ### Machine/Strm -/

@[simp] theorem State.endFeed_mem (s : State) (id port : Nat) (window : Bool) (spans : List Span) (tag : Tag)
    (tgt : Target) (phase : Nat) (home : Bool) : (s.endFeed id port window spans tag tgt phase home).mem = s.mem := by
  unfold State.endFeed
  split
  · rfl
  · have h : (s.readAs phase home (State.readSpans window spans)).1.mem = s.mem := by simp [State.readAs_mem]
    split <;> simp_all

@[simp] theorem State.endFeedTile_mem (s : State) (id port : Nat) (even odd : Word) (tag : Tag) (tgt : Target)
    (part : Nat) : (s.endFeedTile id port even odd tag tgt part).mem = s.mem := by
  have h := State.readSpans_mem true (s.rowSpans (tileOf even odd) 0 (part - 1)) s
  unfold State.endFeedTile
  dsimp only
  split
  · rfl
  · split
    · split <;> simp
    · split
      · rfl
      · split
        · simp_all
        · split <;> simp_all

/-! ### Machine/Engine -/

@[simp] theorem State.engFails_mem (s : State) (t : Reg) (status va : Nat) : (s.engFails t status va).mem = s.mem := rfl

@[simp] theorem State.enterQueue_mem (s : State) (t : Reg) (q : Nat) (work : EngWork) :
    (s.enterQueue t q work).mem = s.mem := rfl

@[simp] theorem State.sendPeer_mem (s : State) (bytes : List Byte) (body : Body) (va : Nat) :
    (s.sendPeer bytes body va).mem = s.mem := by
  simp [State.sendPeer]

@[simp] theorem State.writePeers_mem (q : Nat) (l : List (Nat × List Byte)) (s : State) :
    (State.writePeers q l s).1.mem = s.mem := by
  induction l generalizing s with
  | nil => rfl
  | cons u rest ih => exact (ih _).trans (s.sendPeer_mem ..)

@[simp] theorem State.requestUnits_mem (s : State) (e : EngOp) (us : List (Nat × EngSrc)) :
    (s.requestUnits e us).1.mem = s.mem := by
  unfold State.requestUnits
  dsimp only
  split
  · rw [apply_ite Prod.fst, apply_ite State.mem]
    simp [apply_ite State.mem]
  · simp [apply_ite State.mem]

@[simp] theorem State.endQueues_mem (s : State) (id : Nat) (ids : List Nat) : (s.endQueues id ids).mem = s.mem := by
  unfold State.endQueues
  split <;> rfl

/-! ### Machine/Xlat -/

@[simp] theorem State.invalidate_mem (s : State) (every : Bool) (first count : Nat) :
    (s.invalidate every first count).mem = s.mem := by
  unfold State.invalidate
  split <;> rfl

@[simp] theorem State.endInval_mem (s : State) (id : Nat) (every : Bool) (first count : Nat) :
    (s.endInval id every first count).mem = s.mem := by
  simp [State.endInval, apply_ite State.mem]

@[simp] theorem State.resumeGenerator_mem (s : State) (t : Reg) (n core : Nat) :
    (s.resumeGenerator t n core).mem = s.mem := by
  unfold State.resumeGenerator
  split <;> simp [apply_ite State.mem]

/-! ### Machine/Memnode -/

@[simp] theorem State.nodeSend_mem (s : State) (id : Nat) (from_ : Place) (gnode : BitVec 32) (tgt : Target)
    (t : Token) : (s.nodeSend id from_ gnode tgt t).mem = s.mem := by
  simp [State.nodeSend, apply_ite State.mem]

@[simp] theorem State.mapMn_mem (s : State) (n : Nat) (f : MnState → MnState) : (s.mapMn n f).mem = s.mem := rfl

@[simp] theorem State.publish_mem (s : State) (n : Nat) (p : MnParams) (P : Nat) : (s.publish n p P).mem = s.mem := by
  unfold State.publish
  split <;> rfl

@[simp] theorem State.owe_mem (s : State) (n : Nat) (p : MnParams) (k : Nat) (t : Token) (va : Option Nat)
    (writes : List Nat) : (s.owe n p k t va writes).mem = s.mem := rfl

@[simp] theorem State.consumeMn_mem (s : State) (n : Nat) (p : MnParams) (c : MnPick) :
    (s.consumeMn n p c).mem = s.mem := rfl

@[simp] theorem State.stopMn_mem (s : State) (n : Nat) (f : XFault) (va : Nat) (store : Bool) :
    (s.stopMn n f va store).mem = s.mem := rfl

@[simp] theorem State.sendPass_mem (s : State) (n : Nat) (p : MnParams) (a : MnPass) (fin : Option Token) (t : Token) :
    (s.sendPass n p a fin t).mem = s.mem := by
  unfold State.sendPass
  split <;> simp

@[simp] theorem State.beginPass_mem (s : State) (n : Nat) (p : MnParams) (c : MnPick) (a : MnPass) :
    (s.beginPass n p c a).mem = s.mem := by
  unfold State.beginPass
  split <;> rfl

@[simp] theorem State.failStore_mem (s : State) (n : Nat) (p : MnParams) (c : MnPick) (k : Nat) (last : Bool)
    (cause : BitVec 6) : (s.failStore n p c k last cause).mem = s.mem := rfl
@[simp] theorem State.stepStore_mem (s : State) (n k : Nat) (p : MnParams) : (s.stepStore n k p).mem = s.mem := rfl

@[simp] theorem State.issueLoad_mem (s : State) (n : Nat) (p : MnParams) (c : MnPick) (t : Token) :
    (s.issueLoad n p c t).mem = s.mem := by
  unfold State.issueLoad
  dsimp only
  split
  · simp
  · split
    · split <;> simp
    · split <;> simp
    · simp

@[simp] theorem State.passThrough_mem (s : State) (n : Nat) (p : MnParams) (c : MnPick) (t : Token) :
    (s.passThrough n p c t).mem = s.mem := by
  simp [State.passThrough, apply_ite State.mem]

@[simp] theorem State.pagedBlock_mem (s : State) (n : Nat) (p : MnParams) (k pos : Nat) :
    (s.pagedBlock n p k pos).1.mem = s.mem := by
  unfold State.pagedBlock
  dsimp only
  split
  · rfl
  · split
    · rfl
    · split <;> rfl

@[simp] theorem State.logRefused_mem (s : State) (n : Nat) (t : Token) (status : Nat) :
    (s.logRefused n t status).mem = s.mem := by
  simp [State.logRefused]

@[simp] theorem State.issuePagedLoad_mem (s : State) (n : Nat) (p : MnParams) (c : MnPick) (t : Token) :
    (s.issuePagedLoad n p c t).mem = s.mem := by
  have h := s.pagedBlock_mem n p t.k (MnParams.position t)
  unfold State.issuePagedLoad
  dsimp only
  split
  · simp
  · split
    · simp_all
    · split <;> simp_all

/-! ### Machine/NetEvents -/

@[simp] theorem State.atSwitch_mem (s : State) (k : Packet) (sw port : Nat) : (s.atSwitch k sw port).mem = s.mem := by
  unfold State.atSwitch
  split <;> simp

@[simp] theorem State.hopControl_mem (s : State) (c : Control) (sw port : Nat) :
    (s.hopControl c sw port).mem = s.mem := by
  unfold State.hopControl
  split <;> rfl

@[simp] theorem State.serveRead_mem (s : State) (k : Packet) (pa : Nat) (bypass : Bool) :
    (s.serveRead k pa bypass).mem = s.mem := by
  unfold State.serveRead
  dsimp only
  split <;> simp [apply_ite State.mem]

@[simp] theorem State.takeReply_mem (s : State) (k : Packet) (v : Word) (err : Option (BitVec 6)) :
    (s.takeReply k v err).mem = s.mem := by
  unfold State.takeReply
  split <;> rfl

@[simp] theorem State.arrivePacket_mem (s : State) (k : Packet) : (s.arrivePacket k).mem = s.mem := by
  unfold State.arrivePacket
  split <;> simp [apply_ite State.mem]

@[simp] theorem State.reask_mem (s : State) (k : Packet) : (s.reask k).mem = s.mem := rfl
@[simp] theorem State.dropControl_mem (s : State) (i : Nat) : (s.dropControl i).mem = s.mem := rfl

@[simp] theorem State.sendAck_mem (s : State) (src dst : Nat) : (s.sendAck src dst).mem = s.mem := by
  unfold State.sendAck
  dsimp only
  split <;> simp

@[simp] theorem State.completeSend_mem (s : State) (k : Packet) : (s.completeSend k).mem = s.mem := by
  unfold State.completeSend
  split <;> rfl

@[simp] theorem State.takeAck_mem (s : State) (src dst : Nat) (upto : BitVec 32) :
    (s.takeAck src dst upto).mem = s.mem := by
  unfold State.takeAck
  dsimp only
  rw [State.mapNet_mem, State.foldl_mem State.completeSend_mem]

@[simp] theorem State.loseWrite_mem (s : State) (k : Packet) (va : BitVec 48) : (s.loseWrite k va).mem = s.mem := by
  simp [State.loseWrite]

@[simp] theorem State.settleHost_mem (s : State) : s.settleHost.mem = s.mem := rfl

@[simp] theorem State.lose_mem (s : State) (k : Packet) : (s.lose k).mem = s.mem := by
  unfold State.lose
  split <;> simp

/-! ### Machine/Sync -/

@[simp] theorem State.unreached_mem (s : State) (t : Reg) (va : Word) : (s.unreached t va).mem = s.mem := by
  simp [State.unreached]

@[simp] theorem State.sendBank_mem (s : State) (reach : Reach) (scope : Nat) (acc : BankAcc) (op : Nat) :
    (s.sendBank reach scope acc op).mem = s.mem := by
  unfold State.sendBank
  split <;> simp

@[simp] theorem State.setFlag_mem (s : State) (id pa : Nat) (va : BitVec 48) (v : Word) (scope : Nat) (peer :
    Option (Nat × Nat)) : (s.setFlag id pa va v scope peer).mem = s.mem := by
  simp [State.setFlag]

@[simp] theorem State.awaitFlag_mem (s : State) (pa : Nat) (peer : Option (Nat × Nat)) (x cond : Word) :
    (s.awaitFlag pa peer x cond).mem = s.mem := rfl

@[simp] theorem State.settleOp_mem (s : State) (k : Packet) (v : Word) (e : ErrKind) :
    (s.settleOp k v e).mem = s.mem := by
  unfold State.settleOp
  split <;> rfl

/-! ### Machine/Net -/

@[simp] theorem State.sendClass_mem (s : State) (t : Reg) (w : Word) (cls : Nat) (bs : List Byte) :
    (s.sendClass t w cls bs).mem = s.mem := by
  unfold State.sendClass
  dsimp only
  split <;> simp

@[simp] theorem State.enqueueRx_mem (s : State) (k : Packet) (cls : BitVec 4) (tag : BitVec 16) :
    (s.enqueueRx k cls tag).mem = s.mem := by
  simp [State.enqueueRx]

@[simp] theorem State.arriveRx_mem (s : State) (k : Packet) (cls : BitVec 4) (tag : BitVec 16) :
    (s.arriveRx k cls tag).mem = s.mem := by
  unfold State.arriveRx
  dsimp only
  split
  · simp
  · split
    · simp
    · split <;> simp

@[simp] theorem State.arriveToken_mem (s : State) (k : Packet) (tag : BitVec 16) (p : Nat) :
    (s.arriveToken k tag p).mem = s.mem := by
  unfold State.arriveToken
  split
  · simp
  · split
    · simp
    · split <;> simp

@[simp] theorem State.releaseQueued_mem (s : State) : s.releaseQueued.mem = s.mem := by
  unfold State.releaseQueued
  dsimp only
  split
  · rfl
  · split
    · rfl
    · split
      · rfl
      · split <;> rfl

@[simp] theorem State.sendYarn_mem (s : State) (p : Nat) (y : BitVec 8 × Nat × Nat) (t : Token) :
    (s.sendYarn p y t).mem = s.mem := by
  simp [State.sendYarn]

@[simp] theorem State.sendToken_mem (s : State) (p : Nat) (q : NpParams) (t : Token) :
    (s.sendToken p q t).mem = s.mem := by
  unfold State.sendToken
  dsimp only
  split <;> simp

@[simp] theorem State.arriveYarn_mem (s : State) (k : Packet) (p : Nat) (t : Token) :
    (s.arriveYarn k p t).mem = s.mem := by
  unfold State.arriveYarn
  split <;> simp [apply_ite State.mem]

/-! ### Machine/Rnd -/

@[simp] theorem State.rndFails_mem (s : State) (t : Reg) (cls : OpClass) (status stitch : Nat) :
    (s.rndFails t cls status stitch).mem = s.mem := rfl

@[simp] theorem State.putStream_mem (s : State) (k : Nat) (e : Stream) : (s.putStream k e).mem = s.mem := rfl

@[simp] theorem State.ask_mem (s : State) (t : Reg) (cls : OpClass) (k : Nat) (op : StitchOp) :
    (s.ask t cls k op).mem = s.mem := rfl

@[simp] theorem State.restore_mem (im : Image) (id : Nat) (s : State) (x : Restored) :
    (State.restore im id s x).mem = s.mem := rfl

@[simp] theorem State.reload_mem (s : State) (t : Reg) (im : Image) (pages : List (Nat × TlbEntry))
    (l : List Restored) : (s.reload t im pages l).mem = s.mem := by
  unfold State.reload
  dsimp only
  rw [State.mapRounds_mem, State.foldl_mem (State.restore_mem im _), State.mapFab_mem, State.begin_mem]

@[simp] theorem State.rloadMap_mem (s : State) (block : Option (Bool × List Span)) :
    (s.rloadMap block).1.mem = s.mem := by
  unfold State.rloadMap
  split
  · rfl
  · next b =>
    have h := State.readSpans_mem b.1 b.2 s
    split <;> simp_all

@[simp] theorem State.turn_mem (s : State) (p : PendStitch) (e : Stream) (v : Word) : (s.turn p e v).mem = s.mem := rfl
@[simp] theorem State.turnFails_mem (s : State) (p : PendStitch) : (s.turnFails p).mem = s.mem := rfl

@[simp] theorem State.takeEffect_mem (im : Image) (s : State) (p : PendStitch) :
    (State.takeEffect im s p).mem = s.mem := by
  unfold State.takeEffect
  split <;> simp [apply_ite State.mem]

@[simp] theorem State.boundary_mem (s : State) (im : Image) : (s.boundary im).mem = s.mem := by
  unfold State.boundary
  dsimp only
  rw [State.mapCore_mem]
  split <;> simp [State.foldl_mem (State.takeEffect_mem im)]

@[simp] theorem State.thawBoundary_mem (s : State) (im : Image) : (s.thawBoundary im).mem = s.mem := by
  unfold State.thawBoundary
  dsimp only
  split <;> simp

/-! ### Machine/Smap -/

@[simp] theorem State.smFails_mem (s : State) (t : Reg) (w : Word) : (s.smFails t w).mem = s.mem := rfl
@[simp] theorem State.smDone_mem (s : State) (t : Reg) (w : Word) : (s.smDone t w).mem = s.mem := rfl
@[simp] theorem State.mapComp_mem (s : State) (f : Composer → Composer) : (s.mapComp f).mem = s.mem := rfl

@[simp] theorem State.readSymbols_mem (s : State) (d : Desc) (n : Nat) (window : Bool) (spans : List Span) :
    (s.readSymbols d n window spans).1.mem = s.mem := by
  unfold State.readSymbols
  dsimp only
  split <;> simp

@[simp] theorem State.smSend_mem (s : State) (t : Token) (op : Option Nat) : (s.smSend t op).mem = s.mem := by
  unfold State.smSend
  split <;> rfl

@[simp] theorem State.enterState_mem (s : State) (d : Desc) (k : Nat) (q : BitVec 16) :
    (s.enterState d k q).mem = s.mem := by
  unfold State.enterState
  dsimp only
  split <;> simp

@[simp] theorem State.endCompose_mem (s : State) (id : Nat) (map : List (BitVec 16)) (mask : Word) (v : Word) :
    (s.endCompose id map mask v).mem = s.mem := by
  unfold State.endCompose
  split
  · simp
  · dsimp only
    split
    · rfl
    · rw [State.settle_mem, State.foldl_mem (fun s k => s.enterState_mem ..)]

@[simp] theorem State.endMasks_mem (s : State) (id total : Nat) : (s.endMasks id total).mem = s.mem := by
  unfold State.endMasks
  split <;> rfl

@[simp] theorem State.smEmit_mem (s : State) (t : Token) (out : Target) : (s.smEmit t out).mem = s.mem := by
  simp [State.smEmit]

/-! ### Machine/Freeze -/

@[simp] theorem State.freezeAt_mem (s : State) (n : Nat) (pick : CSet → Bool) : (s.freezeAt n pick).mem = s.mem := by
  simp [State.freezeAt]

@[simp] theorem State.thawAt_mem (s : State) (n : Nat) (pick : CSet → Bool) (unlock : Bool) :
    (s.thawAt n pick unlock).mem = s.mem := by
  simp [State.thawAt]

/-! ### Machine/Queues -/

@[simp] theorem State.mapBind_mem (s : State) (queue : Nat) (f : Bind → Bind) : (s.mapBind queue f).mem = s.mem := rfl
@[simp] theorem State.setSummary_mem (s : State) (k : WorkKey) (v : Word) : (s.setSummary k v).mem = s.mem := rfl

@[simp] theorem State.foldInto_mem (s : State) (ks : List WorkKey) (bit : Word) : (s.foldInto ks bit).mem = s.mem :=
  State.foldl_mem (fun s k => s.setSummary_mem k _) ks s

@[simp] theorem State.openWork_mem (s : State) (p : Nat) (job : BitVec 16) (graph : BitVec 12) :
    (s.openWork p job graph).mem = s.mem := rfl

@[simp] theorem State.startSummaries_mem (s : State) (p : Nat) (job : BitVec 16) (graph : BitVec 12) (lid : BitVec 32) :
    (s.startSummaries p job graph lid).mem = s.mem := by
  unfold State.startSummaries
  dsimp only
  refine (State.foldl_mem (fun s k => ?_) _ _).trans (by simp)
  split <;> simp

@[simp] theorem State.childDone_mem (s : State) (parent : Option (BitVec 32)) : (s.childDone parent).mem = s.mem := by
  unfold State.childDone
  split <;> rfl

@[simp] theorem State.settleMarks_mem (s : State) : s.settleMarks.mem = s.mem := rfl
@[simp] theorem State.orphan_mem (s : State) (lid : BitVec 32) (index : Nat) : (s.orphan lid index).mem = s.mem := rfl

@[simp] theorem State.dropUnit_mem (s : State) (lid : BitVec 32) (index : Nat) :
    (s.dropUnit lid index).mem = s.mem := rfl

@[simp] theorem State.endUnit_mem (s : State) (u : UnitCtx) (status node : Nat) :
    (s.endUnit u status node).mem = s.mem := by
  unfold State.endUnit
  cases u.reserve <;> dsimp only <;> split <;> simp [apply_ite State.mem]

/-! ### Machine/Slice -/

@[simp] theorem State.elect_mem (s : State) (n : Nat) : (s.elect n).mem = s.mem := by
  unfold State.elect
  split <;> simp

@[simp] theorem State.electAll_mem (s : State) : s.electAll.mem = s.mem :=
  State.foldl_mem State.elect_mem _ s

@[simp] theorem State.mapResv_mem (s : State) (n : Nat) (f : Reservation → Reservation) :
    (s.mapResv n f).mem = s.mem := rfl

@[simp] theorem State.withdraw_mem (s : State) (t : Reg) (n : Nat) : (s.withdraw t n).mem = s.mem := by
  unfold State.withdraw
  split <;> rfl

@[simp] theorem State.dropResv_mem (s : State) (n : Nat) : (s.dropResv n).mem = s.mem := rfl

@[simp] theorem State.endWithdraw_mem (s : State) (id n : Nat) : (s.endWithdraw id n).mem = s.mem := by
  unfold State.endWithdraw
  split <;> simp

@[simp] theorem State.endLend_mem (s : State) (l : Lend) : (s.endLend l).mem = s.mem := by
  unfold State.endLend
  dsimp only
  rw [State.foldl_mem (fun s c => s.mapCoreAt_mem ..)]

@[simp] theorem State.recall_mem (s : State) (t : Reg) (n : Nat) : (s.recall t n).mem = s.mem := by
  unfold State.recall
  split <;> simp

@[simp] theorem State.endRecall_mem (s : State) (id n count : Nat) : (s.endRecall id n count).mem = s.mem := by
  unfold State.endRecall
  split <;> rfl

@[simp] theorem State.setRate_mem (s : State) (part rate : Nat) : (s.setRate part rate).mem = s.mem := by
  unfold State.setRate
  split <;> simp [apply_ite State.mem]

/-! ### Machine/Launch -/

@[simp] theorem State.halt_mem (s : State) (report : Option Word) : (s.halt report).mem = s.mem := by
  unfold State.halt
  split <;> simp [apply_ite State.mem]

@[simp] theorem State.endCounter_mem (s : State) (id level : Nat) (n : Word) :
    (s.endCounter id level n).mem = s.mem := by
  unfold State.endCounter
  split <;> rfl

@[simp] theorem State.freezeUnit_mem (s : State) (lid : BitVec 32) (index : Nat) :
    (s.freezeUnit lid index).mem = s.mem := rfl

@[simp] theorem State.unlockUnit_mem (s : State) (lid : BitVec 32) (index : Nat) :
    (s.unlockUnit lid index).mem = s.mem := rfl

@[simp] theorem State.logCancel_mem (s : State) (u : UnitCtx) (pc : Word) : (s.logCancel u pc).mem = s.mem := by
  simp [State.logCancel]

@[simp] theorem State.cancelUnit_mem (ending device : Bool) (s : State) (c : CSet × Parked) :
    (State.cancelUnit ending device s c).mem = s.mem := by
  unfold State.cancelUnit
  split <;> simp [apply_ite State.mem]

@[simp] theorem State.endCancel_mem (s : State) (id : Nat) (l : List (BitVec 32 × Nat)) (ending device : Bool) :
    (s.endCancel id l ending device).mem = s.mem := by
  unfold State.endCancel
  dsimp only
  split
  · rw [State.electAll_mem, State.settle_mem, State.foldl_mem (State.cancelUnit_mem ending device)]
  · rfl

@[simp] theorem State.clearUsage_mem (s : State) (p : Nat) (b : Word) : (s.clearUsage p b).mem = s.mem := rfl

/-! ### Machine/Matrix -/

@[simp] theorem State.passRow_mem (s : State) (t : Tile) (j r : Nat) : (s.passRow t j r).mem = s.mem := by
  unfold State.passRow
  dsimp only
  split <;> simp

@[simp] theorem State.takeRow_mem (s : State) (p : MxParams) (g j r : Nat) : (s.takeRow p g j r).mem = s.mem := by
  simp [State.takeRow]

@[simp] theorem State.enterRow_mem (s : State) (p : MxParams) (g : Nat) : (s.enterRow p g).mem = s.mem := by
  unfold State.enterRow
  dsimp only
  split <;> simp

@[simp] theorem State.accOverflow_mem (s : State) (n k : Nat) (p : AnParams) : (s.accOverflow n k p).mem = s.mem := by
  unfold State.accOverflow
  split <;> simp

@[simp] theorem State.addAn_mem (s : State) (n : Nat) (p : AnParams) (c : AnCand) : (s.addAn n p c).mem = s.mem := by
  unfold State.addAn
  dsimp only
  split
  · simp
  · split <;> simp

@[simp] theorem State.addDue_mem (n fuel : Nat) (s : State) : (State.addDue n fuel s).mem = s.mem := by
  induction fuel generalizing s with
  | zero => rfl
  | succ fuel ih =>
    unfold State.addDue
    split
    · rfl
    · split
      · rfl
      · simp [ih]

@[simp] theorem State.clearAn_mem (s : State) (n : Nat) (c : AnCand) : (s.clearAn n c).mem = s.mem := rfl

@[simp] theorem State.closeTile_mem (s : State) (p : MxParams) (n : Nat) : (s.closeTile p n).mem = s.mem := by
  unfold State.closeTile
  split <;> rfl

@[simp] theorem State.pickedOf_mem {α : Type} (s : State) (l : List α) : (State.pickedOf s l).mem = s.mem := by
  unfold State.pickedOf
  split <;> rfl

@[simp] theorem State.sendRelease_mem (s : State) (n : Nat) (r : Release) : (s.sendRelease n r).mem = s.mem := by
  unfold State.sendRelease
  split <;> simp [apply_ite State.mem]

@[simp] theorem State.endNodes_mem (s : State) : s.endNodes.mem = s.mem := by
  have h := State.foldl_mem (fun s n => State.addDue_mem n s.core.set.fab.anq.length s) (List.range 8) s
  unfold State.endNodes
  dsimp only
  split
  · rw [apply_ite State.mem, State.closeTile_mem, ite_self, h]
  · exact h

@[simp] theorem State.readRows_mem (t : Tile) (j : Nat) (l : List Nat) (s : State) :
    (State.readRows t j l s).1.mem = s.mem := by
  induction l generalizing s with
  | nil => rfl
  | cons r rest ih =>
    have h := State.readSpans_mem true (s.rowSpans t j r) s
    unfold State.readRows
    split
    · next heq => rw [heq] at h; exact h
    · next u bs heq =>
      rw [heq] at h
      have hr := (ih u).trans h
      split <;> simp_all

@[simp] theorem State.endLatch_mem (s : State) (id : Nat) (even odd : Word) (scale : BitVec 32)
    (group : Option (List (BitVec 16))) (plane : Option Bool) :
    (s.endLatch id even odd scale group plane).mem = s.mem := by
  have h := State.readRows_mem (tileOf even odd) 0 (List.range (tileOf even odd).rows) s
  unfold State.endLatch
  dsimp only
  split
  · rfl
  · split <;> simp_all

@[simp] theorem State.beginClear_mem (s : State) (t : Reg) (n : Nat) (mask : Word) :
    (s.beginClear t n mask).mem = s.mem := by
  unfold State.beginClear
  dsimp only
  split <;> simp

@[simp] theorem State.endClear_mem (s : State) (id : Nat) : (s.endClear id).mem = s.mem := by
  unfold State.endClear
  split <;> rfl

@[simp] theorem State.beginGpld_mem (s : State) (t : Reg) (bs : List Byte) (err : Option (BitVec 6 × Span)) :
    (s.beginGpld t bs err).mem = s.mem := by
  unfold State.beginGpld
  split
  · simp
  · split
    · simp
    · split
      · simp
      · split <;> simp

/-! ### Machine/Debug -/

@[simp] theorem State.dbgFails_mem (s : State) (t : Reg) (status core : Nat) :
    (s.dbgFails t status core).mem = s.mem := rfl

@[simp] theorem State.endFrost_mem (s : State) (id : Nat) (l : List Nat) (lid : Option (BitVec 32)) (thaw : Bool) :
    (s.endFrost id l lid thaw).mem = s.mem := by
  simp [State.endFrost, apply_ite State.mem]

@[simp] theorem State.endUnhold_mem (s : State) (id : Nat) : (s.endUnhold id).mem = s.mem := by
  unfold State.endUnhold
  split <;> rfl

@[simp] theorem State.channelWord_mem (s : State) (t : Reg) (v : Word) : (s.channelWord t v).mem = s.mem := by
  simp [State.channelWord, apply_ite State.mem]

/-! ### Machine/Complete -/

@[simp] theorem State.endFence_mem (s : State) (id : Nat) : (s.endFence id).mem = s.mem := by
  unfold State.endFence
  split <;> rfl

@[simp] theorem State.endSigset_mem (s : State) (id pa : Nat) (va : BitVec 48) (v : Word) (scope : Nat)
    (peer : Option (Nat × Nat)) : (s.endSigset id pa va v scope peer).mem = s.mem := by
  unfold State.endSigset
  split <;> simp

@[simp] theorem State.endLoad_mem (s : State) (id pa size : Nat) (home : Bool) (sent : Option Nat) :
    (s.endLoad id pa size home sent).mem = s.mem := by
  unfold State.endLoad
  split <;> simp

@[simp] theorem State.flip_mem (s : State) : s.flip.mem = s.mem := rfl

/-! ### Machine/HostSide -/

@[simp] theorem State.reply_mem (s : State) (c : HostCmd) (status : Byte) (data : List Byte) :
    (s.reply c status data).mem = s.mem := rfl

@[simp] theorem State.dropCommand_mem (s : State) (p : Nat) (c : HostCmd) : (s.dropCommand p c).mem = s.mem := by
  simp [State.dropCommand]

@[simp] theorem State.sendHost_mem (p : Nat) (c : HostCmd) (l : List Span) (bs : List Byte) (s : State) :
    (State.sendHost p c l bs s).1.mem = s.mem := by
  induction l generalizing bs s with
  | nil => rfl
  | cons sp rest ih => exact (ih _ _).trans (s.inject_mem _)

@[simp] theorem State.sign_mem (s : State) (c : HostCmd) (report : Nat → List Byte → Report) :
    (s.sign c report).1.mem = s.mem := by
  unfold State.sign
  split <;> rfl

@[simp] theorem State.setSink_mem (s : State) (part : Nat) (up : Bool) : (s.setSink part up).mem = s.mem := rfl

@[simp] theorem State.setEndpoint_mem (s : State) (part entry : Nat) (e : Option Endpoint) :
    (s.setEndpoint part entry e).mem = s.mem := by
  unfold State.setEndpoint
  split <;> rfl

@[simp] theorem State.letGo_mem (s : State) (n : Nat) : (s.letGo n).mem = s.mem := by
  unfold State.letGo
  dsimp only
  split <;> simp

@[simp] theorem State.correct_mem (s : State) (pa : Nat) : (s.correct pa).mem = s.mem := by
  unfold State.correct
  split <;> rfl

@[simp] theorem State.bring_mem (s : State) (pools : List Pool) (skeins : List Skein) :
    (s.bring pools skeins).mem = s.mem := rfl

@[simp] theorem State.hostTrim_mem (s : State) (port vc part : Nat) : (s.hostTrim port vc part).mem = s.mem := by
  unfold State.hostTrim
  split <;> rfl

/-! ### Machine/System -/

@[simp] theorem State.enterAsync_mem (s : State) (a : Async) : (s.enterAsync a).mem = s.mem := by
  simp [State.enterAsync]

/-! ### Machine/Clock -/

@[simp] theorem State.charge_mem (s : State) : s.charge.mem = s.mem := rfl

@[simp] theorem State.logSinks_mem (s : State) (n : Nat) : (s.logSinks n).mem = s.mem := by
  unfold State.logSinks
  dsimp only
  split
  · rfl
  · rw [State.select_mem, State.foldl_mem (fun s e => s.errToken_mem _), State.select_mem]

@[simp] theorem State.endNodesOf_mem (s : State) (n : Nat) : (s.endNodesOf n).mem = s.mem := by
  unfold State.endNodesOf
  dsimp only
  split <;> simp

end Sys2Proof.Machine
end

section
/-!
SUPPORT. The canonical form of memory, stated of a memory, of an outcome and of what a partition instruction makes; then
issue, translation, access, fetch, traces and firings keep it.
-/

namespace Sys2Proof.Machine

/-! ### The form as one predicate -/

@[simp] theorem Memory.putBytes_formed {m : Memory} (a : Nat) (bs : List Byte) (h : m.Formed) :
    (m.putBytes a bs).Formed :=
  Memory.putBytes_wf a bs h

@[simp] theorem Memory.clear_formed {m : Memory} (a n : Nat) (h : m.Formed) : (m.clear a n).Formed :=
  Memory.clear_wf a n h

@[simp] theorem Memory.clearHalf_formed {m : Memory} (n : Nat) (half : Bool) (h : m.Formed) :
    (m.clearHalf n half).Formed :=
  Memory.clearHalf_wf n half h

@[simp] theorem Memory.putHalf_formed {m : Memory} (n : Nat) (half : Bool) (spad : Memory) (h : m.Formed) :
    (m.putHalf n half spad).Formed :=
  Memory.putHalf_wf n half spad h

@[simp] theorem Memory.foldl_put_formed {m : Memory} (l : List Host.Cell) (f : Host.Cell → Nat) (h : m.Formed) :
    Memory.Formed (l.foldl (fun m x => m.put (f x) x.2) m) :=
  Memory.foldl_put_wf l f h

theorem Memory.nil_formed : Memory.Formed [] := Memory.nil_wf

/-- Where an outcome goes on, its memory is in canonical form. -/
def Out.Formed (o : Out) : Prop := ∀ t, o = .next t → t.mem.Formed

@[simp] theorem Out.formed_next (t : State) : Out.Formed (.next t) ↔ t.mem.Formed :=
  ⟨fun h => h t rfl, fun h _ e => by cases e; exact h⟩

@[simp] theorem Out.formed_fault (f : Fault) : Out.Formed (.fault f) := fun _ e => nomatch e

@[simp] theorem Out.formed_refused (r : Refusal) : Out.Formed (.refused r) := fun _ e => nomatch e

/-- Where a partition instruction's act succeeds, its memory is in canonical form. -/
def Outcome.Formed (r : Outcome) : Prop := ∀ x, r = .ok x → x.1.mem.Formed

@[simp] theorem Outcome.formed_ok (x : State × Nat) : Outcome.Formed (.ok x) ↔ x.1.mem.Formed :=
  ⟨fun h => h x rfl, fun h _ e => by cases e; exact h⟩

@[simp] theorem Outcome.formed_error (f : Failure) : Outcome.Formed (.error f) := fun _ e => nomatch e

/-! ### Issue and events -/

theorem issue_formed {i : Instr} {n : Needs} {body : State → State} {s : State} (h : s.mem.Formed)
    (hb : (body s).mem.Formed) : Out.Formed (issue i n body s) := by
  rcases issue_cases i n body s with e | e | e | ⟨r, e⟩ | e <;> rw [e] <;> simpa

theorem issueUnless_formed {held : State → Bool} {i : Instr} {n : Needs} {body : State → State} {s : State}
    (h : s.mem.Formed) (hb : (body s).mem.Formed) : Out.Formed (issueUnless held i n body s) := by
  unfold issueUnless
  split
  · simpa using h
  · exact issue_formed h hb

theorem formed_of_eq {α : Type} {x : State × α} {u : State} {a : α} (hx : x.1.mem.Formed) (heq : x = (u, a)) :
    u.mem.Formed := by
  rw [heq] at hx
  exact hx

theorem cfgIssue_formed {i : Instr} {n : Needs} {body : State → State} {s : State} (h : s.mem.Formed)
    (hb : (body s).mem.Formed) : Out.Formed (cfgIssue i n body s) :=
  issueUnless_formed h hb

theorem strmIssue_formed {i : Instr} {n : Needs} {body : State → State} {s : State} (h : s.mem.Formed)
    (hb : (body s).mem.Formed) : Out.Formed (strmIssue i n body s) :=
  issueUnless_formed h hb

theorem rndIssue_formed {i : Instr} {n : Needs} {body : State → State} {s : State} (h : s.mem.Formed)
    (hb : (body s).mem.Formed) : Out.Formed (rndIssue i n body s) :=
  issueUnless_formed h hb

theorem smapIssue_formed {i : Instr} {n : Needs} {body : State → State} {s : State} (h : s.mem.Formed)
    (hb : (body s).mem.Formed) : Out.Formed (smapIssue i n body s) :=
  issueUnless_formed h hb

theorem lnchIssue_formed {i : Instr} {n : Needs} {body : State → State} {s : State} (h : s.mem.Formed)
    (hb : (body s).mem.Formed) : Out.Formed (lnchIssue i n body s) :=
  issueUnless_formed h hb

theorem matIssue_formed {i : Instr} {n : Needs} {body : State → State} {s : State} (h : s.mem.Formed)
    (hb : (body s).mem.Formed) : Out.Formed (matIssue i n body s) :=
  issueUnless_formed h hb

theorem when_formed {due : Bool} {s : State} {body : State → State} (h : s.mem.Formed) (hb : (body s).mem.Formed) :
    Out.Formed (when due s body) := by
  unfold when
  split <;> simpa

/-! ### Access -/

@[simp] theorem State.walk_formed {s : State} (p : Part) (kind : AccKind) (va : Nat) (h : s.mem.Formed) :
    (s.walk p kind va).1.mem.Formed := by
  unfold State.walk
  dsimp only
  split
  · exact h
  · split
    · exact h
    · split
      · exact h
      · split
        · exact h
        · split
          · simpa using h
          · simp [apply_ite Memory.Formed, h]

@[simp] theorem State.throughCache_formed {s : State} (cache : List TlbEntry) (kept : Bool) (kind : AccKind) (va : Nat)
    (h : s.mem.Formed) : (s.throughCache cache kept kind va).1.mem.Formed := by
  have h1 := State.walk_formed s.part kind va h
  have h2 := State.walk_formed (s := s.chosen) s.part kind va h
  unfold State.throughCache
  split
  · split
    · exact h
    · split
      · exact h
      · split <;> simp_all
  · split <;> simp_all

@[simp] theorem State.translate_formed {s : State} (kind : AccKind) (va : Nat) (h : s.mem.Formed) :
    (s.translate kind va).1.mem.Formed :=
  State.throughCache_formed (s := s) _ _ _ _ h

/-- Translations that keep the form, made one after the other, keep it. -/
theorem State.translateAll_formed {tr : Translator} (htr : ∀ s va, s.mem.Formed → (tr s va).1.mem.Formed)
    (l : List (Nat × Nat)) {s : State} (h : s.mem.Formed) : (State.translateAll tr l s).1.mem.Formed := by
  induction l generalizing s with
  | nil => exact h
  | cons p rest ih =>
    have h1 := htr s p.1 h
    unfold State.translateAll
    split
    · exact h
    · split
      · simp_all
      · next u pa heq =>
        have h2 := ih (s := u) (by simpa [heq] using h1)
        split <;> simp_all

theorem State.resolveBy_formed {tr : Translator} (htr : ∀ s va, s.mem.Formed → (tr s va).1.mem.Formed) (va len : Nat)
    {s : State} (h : s.mem.Formed) : (s.resolveBy tr va len).1.mem.Formed := by
  have h1 := State.translateAll_formed htr (piecesOf va len) h
  unfold State.resolveBy
  split
  · split <;> exact h
  · split
    · exact h
    · split <;> simp_all

@[simp] theorem State.resolve_formed {s : State} (kind : AccKind) (va len : Nat) (h : s.mem.Formed) :
    (s.resolve kind va len).1.mem.Formed :=
  State.resolveBy_formed (fun _ va h => State.translate_formed kind va h) va len h

@[simp] theorem State.checked_formed {s : State} (kind : AccKind) (va : Word) (align len : Nat) (h : s.mem.Formed) :
    (s.checked kind va align len).1.mem.Formed := by
  have h1 := State.resolve_formed kind va.toNat len h
  unfold State.checked
  split
  · exact h
  · split
    · exact h
    · split <;> simp_all

@[simp] theorem State.land_formed {s : State} (pa : Nat) (bs : List Byte) (h : s.mem.Formed) :
    (s.land pa bs).mem.Formed := by
  simp [h]

@[simp] theorem State.apply_formed {s : State} (pa : Nat) (bs : List Byte) (h : s.mem.Formed) :
    (s.apply pa bs).mem.Formed :=
  State.apply_wf pa bs h

@[simp] theorem State.applyPhase_formed {s : State} (k : Packet) (pa : Nat) (bs : List Byte) (h : s.mem.Formed) :
    (s.applyPhase k pa bs).mem.Formed :=
  State.apply_formed (s := s.keepEarly ..) pa bs h

@[simp] theorem State.writeSpan_formed {s : State} (source : Source) (window : Bool) (sp : Span) (bs : List Byte)
    (h : s.mem.Formed) : (s.writeSpan source window sp bs).1.mem.Formed := by
  unfold State.writeSpan
  split
  · exact State.apply_formed _ _ h
  · simpa using h

@[simp] theorem State.writeSpans_formed {s : State} (source : Source) (window : Bool) (l : List Span) (bs : List Byte)
    (h : s.mem.Formed) : (State.writeSpans source window l bs s).1.mem.Formed := by
  induction l generalizing bs s with
  | nil => exact h
  | cons sp rest ih => exact ih _ (State.writeSpan_formed source window sp _ h)

@[simp] theorem State.write_formed {s : State} (source : Source) (window : Bool) (spans : List Span) (bs : List Byte)
    (h : s.mem.Formed) : (s.write source window spans bs).1.mem.Formed :=
  State.writeSpans_formed source window _ bs h

/-! ### Fetch -/

@[simp] theorem State.fetch_formed {s : State} (h : s.mem.Formed) : s.fetch.1.mem.Formed := by
  have h1 := State.translate_formed .fetch s.seq.pc.toNat h
  unfold State.fetch
  dsimp only
  split
  · exact h
  · split
    · exact h
    · split
      · simp_all
      · split
        · simp_all
        · next u pa heq _ _ =>
          have h2 := u.fetchWord_mem pa
          simp_all

@[simp] theorem State.front_formed {s : State} (h : s.mem.Formed) : s.front.1.mem.Formed := by
  have h1 := State.fetch_formed h
  unfold State.front
  split
  · split
    · exact h
    · split
      · simp_all
      · split <;> simp_all
  · exact h

/-! ### Traces -/

@[simp] theorem State.traceWrite_formed {s : State} (t : Trace) (bs : List Byte) (h : s.mem.Formed) :
    (s.traceWrite t bs).mem.Formed := by
  have h1 := State.checked_formed .write (t.buffer + BitVec.ofNat 64 (32 * (t.written % t.cap.toNat))) 1 32 h
  unfold State.traceWrite
  dsimp only
  split
  · exact h
  · split <;> simp_all

@[simp] theorem State.traceFlush_formed {s : State} (before n : Nat) (h : s.mem.Formed) :
    (State.traceFlush before n s).mem.Formed := by
  induction n generalizing s with
  | zero => exact h
  | succ n ih =>
    unfold State.traceFlush
    split
    · split
      · exact h
      · split
        · exact h
        · exact ih (State.traceWrite_formed _ _ h)
    · exact h

/-! ### Firings -/

theorem fabFire_formed {i : Instr} {act : State → SlotRec → Taken → State × List (Target × Token)} {s : State}
    (hact : ∀ s r t, (act s r t).1.mem = s.mem) (h : s.mem.Formed) : Out.Formed (fabFire i act s) := by
  unfold fabFire
  split
  · simpa using h
  · split
    · simpa using h
    · exact when_formed h (by simpa [hact] using h)

theorem fabMap_formed {i : Instr} {x y : Target} {make : Nat → Taken → Token} {s : State} (h : s.mem.Formed) :
    Out.Formed (fabMap i x y make s) :=
  fabFire_formed (fun _ _ _ => rfl) h

theorem execSel_formed {s : State} (x y : Target) (h : s.mem.Formed) : Out.Formed (execSel x y s) :=
  fabFire_formed (fun s r _ => State.foldl_mem (fun s e => s.slotError_mem r.num e) _ s) h

theorem execVcmp_formed {s : State} (x y : Target) (h : s.mem.Formed) : Out.Formed (execVcmp x y s) :=
  fabFire_formed (fun _ _ _ => by dsimp only; split <;> rfl) h

theorem execCnt_formed {s : State} (x y : Target) (h : s.mem.Formed) : Out.Formed (execCnt x y s) :=
  fabFire_formed (fun _ _ _ => by simp [apply_ite State.mem]) h

theorem execSink_formed {s : State} (x y : Target) (h : s.mem.Formed) : Out.Formed (execSink x y s) :=
  fabFire_formed (fun _ _ _ => by simp [apply_ite State.mem]) h

theorem execMerge_formed {s : State} (x y : Target) (h : s.mem.Formed) : Out.Formed (execMerge x y s) := by
  unfold execMerge
  split
  · simpa using h
  · split
    · simpa using h
    · exact when_formed h (by simpa using h)

theorem execSreg_formed {s : State} (x y : Target) (h : s.mem.Formed) : Out.Formed (execSreg x y s) := by
  unfold execSreg
  split
  · simpa using h
  · split
    · simpa using h
    · simpa using h

theorem execSregEmission_formed {s : State} (slot k : Nat) (h : s.mem.Formed) :
    Out.Formed (execSregEmission slot k s) := by
  unfold execSregEmission
  split
  · simpa using h
  · split
    · split
      · exact when_formed h (by simpa using h)
      · simpa using h
    · simpa using h

theorem eorPass_formed {s : State} (x y : Target) (h : s.mem.Formed) : Out.Formed (eorPass x y s) :=
  fabFire_formed (fun _ _ _ => by simp [apply_ite State.mem]) h

theorem execEor_formed {s : State} (x y : Target) (h : s.mem.Formed) : Out.Formed (execEor x y s) := by
  unfold execEor
  split
  · simpa using h
  · split
    · exact eorPass_formed x y h
    · exact when_formed h (by simpa using h)

theorem constInitial_formed {s : State} (im : Image) (r : SlotRec) (x y : Target) (h : s.mem.Formed) :
    Out.Formed (constInitial im r x y s) := by
  unfold constInitial
  exact when_formed h (by simpa using h)

theorem execConst_formed {s : State} (x y : Target) (h : s.mem.Formed) : Out.Formed (execConst x y s) := by
  unfold execConst
  split
  · simpa using h
  · split
    · exact constInitial_formed _ _ x y h
    · exact fabMap_formed h

/-! ### Alu, branches -/

theorem execJalr_formed {s : State} (d a : Reg) (k : BitVec 14) (h : s.mem.Formed) : Out.Formed (execJalr d a k s) :=
  issue_formed h (by simpa [apply_ite State.mem] using h)

end Sys2Proof.Machine
end

section
/-!
SUPPORT. Loading configurations, save areas, loads and stores, the CFG and STRM instructions and the copy engines keep
the form.
-/

namespace Sys2Proof.Machine

/-! ### Loader -/

@[simp] theorem State.walkFirst_formed {s : State} (P : Nat) (b : NodeBlock) (h : s.mem.Formed) :
    (s.walkFirst P b).1.mem.Formed := by
  unfold State.walkFirst
  split
  · next n p =>
    split
    · next lo _ _ =>
      have h1 := State.walk_formed s.part p.access lo.toNat h
      split
      · split <;> simp_all
      · exact h
    · exact h
  · exact h

@[simp] theorem State.walkFirsts_formed {s : State} (P : Nat) (l : List NodeBlock) (h : s.mem.Formed) :
    (State.walkFirsts P l s).1.mem.Formed := by
  induction l generalizing s with
  | nil => exact h
  | cons b rest ih => exact ih (State.walkFirst_formed P b h)

@[simp] theorem State.translateNodes_formed {s : State} (bs : List Byte) (limit : Option Nat) (h : s.mem.Formed) :
    (s.translateNodes bs limit).1.mem.Formed := by
  unfold State.translateNodes
  dsimp only
  split
  · exact State.walkFirsts_formed _ _ h
  · exact h

/-! ### Areas -/

@[simp] theorem State.area_formed {s : State} (kind : AccKind) (ptr : Word) (len : Nat) (h : s.mem.Formed) :
    (s.area kind ptr len).1.mem.Formed := by
  have h1 := State.resolve_formed kind ptr.toNat len h
  unfold State.area
  split
  · exact h
  · split <;> simp_all

@[simp] theorem State.readArea_formed {s : State} (ptr : Word) (len : Nat) (h : s.mem.Formed) :
    (s.readArea ptr len).1.mem.Formed := by
  have h1 := State.area_formed .read ptr len h
  unfold State.readArea
  split
  · simp_all
  · next u window spans heq =>
    have h2 := State.readSpans_mem window spans u
    split <;> simp_all

/-! ### Loads and stores -/

theorem loadInstr_formed {i : Instr} {d a : Reg} {imm : BitVec 14} {size : Nat} {s : State} (h : s.mem.Formed) :
    Out.Formed (loadInstr i d a imm size s) := by
  refine issue_formed h ?_
  have h1 := State.checked_formed .read (s.reg a + sx14 imm) size size h
  dsimp only
  split
  · exact h
  · split <;> simp_all

theorem storeInstr_formed {i : Instr} {d a : Reg} {imm : BitVec 14} {size : Nat} {s : State} (h : s.mem.Formed) :
    Out.Formed (storeInstr i d a imm size s) := by
  refine issue_formed h ?_
  have h1 := State.checked_formed .write (s.reg a + sx14 imm) size size h
  dsimp only
  split
  · exact h
  · split <;> simp_all

/-! ### CFG -/

@[simp] theorem State.readUpTo_formed {s : State} (va len : Nat) (h : s.mem.Formed) :
    (s.readUpTo va len).1.mem.Formed := by
  unfold State.readUpTo
  dsimp only
  split
  · next u window spans heq =>
    have h1 := formed_of_eq (State.resolve_formed _ _ _ h) heq
    have h2 := State.readSpans_mem window spans u
    split <;> simp_all
  · next u f at0 heq =>
    have h1 := formed_of_eq (State.resolve_formed _ _ _ h) heq
    split
    · next v window spans heq2 =>
      have h2 := formed_of_eq (State.resolve_formed _ _ _ h1) heq2
      have h3 := State.readSpans_mem window spans v
      split <;> simp_all
    · next heq2 => exact formed_of_eq (State.resolve_formed _ _ _ h1) heq2

theorem execCfgld_formed {s : State} (t a : Reg) (h : s.mem.Formed) : Out.Formed (execCfgld t a s) := by
  refine cfgIssue_formed h ?_
  dsimp only
  split
  · exact h
  · split
    · next heq => simpa using formed_of_eq (State.checked_formed _ _ _ _ h) heq
    · next u window spans heq =>
      have h1 := formed_of_eq (State.checked_formed _ _ _ _ h) heq
      have h2 := State.readSpans_mem window spans u
      split
      · simp_all
      · next v head heq2 =>
        have h2 : v.mem.Formed := by simp_all
        simp [h2]

@[simp] theorem State.parm_formed {s : State} (t : Reg) (q : BitVec 1) (bs : List Byte) (limit : Option Nat)
    (h : s.mem.Formed) : (s.parm t q bs limit).mem.Formed := by
  unfold State.parm
  dsimp only
  split
  · simpa using h
  · split
    · split
      · simpa using h
      · split <;> simp [h]
    · split
      · simpa using h
      · split <;> simp [h]

theorem execCfgparm_formed {s : State} (t a : Reg) (q : BitVec 1) (h : s.mem.Formed) :
    Out.Formed (execCfgparm t a q s) := by
  refine cfgIssue_formed h ?_
  dsimp only
  split
  · exact h
  · split
    · next heq => simpa using formed_of_eq (State.checked_formed _ _ _ _ h) heq
    · next u window spans heq =>
      have h1 := formed_of_eq (State.checked_formed _ _ _ _ h) heq
      have h2 := State.readSpans_mem window spans u
      split
      · simp_all
      · next v head heq2 =>
        have h2 : v.mem.Formed := by simp_all
        simp [h2]

theorem execCfgsw_formed {s : State} (t : Reg) (h : s.mem.Formed) : Out.Formed (execCfgsw t s) := by
  refine cfgIssue_formed h ?_
  split <;> simpa using h

theorem execCfgrel_formed {s : State} (t : Reg) (h : s.mem.Formed) : Out.Formed (execCfgrel t s) := by
  refine cfgIssue_formed h ?_
  split <;> simpa using h

theorem execDrain_formed {s : State} (t : Reg) (h : s.mem.Formed) : Out.Formed (execDrain t s) := by
  refine cfgIssue_formed h ?_
  split <;> simpa using h

theorem execQwait_formed {s : State} (t : Reg) (h : s.mem.Formed) : Out.Formed (execQwait t s) := by
  refine cfgIssue_formed h ?_
  split <;> simpa using h

/-! ### STRM -/

theorem execSfeed_formed {s : State} (t a b : Reg) (q : BitVec 4) (h : s.mem.Formed) :
    Out.Formed (execSfeed t a b q s) := by
  refine strmIssue_formed h ?_
  dsimp only
  split
  · exact h
  · split
    · next heq => simpa using formed_of_eq (State.checked_formed _ _ _ _ h) heq
    · next heq =>
      have h1 := formed_of_eq (State.checked_formed _ _ _ _ h) heq
      split <;> simpa using h1

theorem execSfeedt_formed {s : State} (t a b : Reg) (q : BitVec 4) (h : s.mem.Formed) :
    Out.Formed (execSfeedt t a b q s) := by
  refine strmIssue_formed h ?_
  dsimp only
  split <;> simpa using h

theorem execSdraw_formed {s : State} (t a : Reg) (q : BitVec 4) (h : s.mem.Formed) :
    Out.Formed (execSdraw t a q s) := by
  refine strmIssue_formed h ?_
  dsimp only
  split
  · exact h
  · split
    · next heq => simpa using formed_of_eq (State.checked_formed _ _ _ _ h) heq
    · next heq =>
      have h1 := formed_of_eq (State.checked_formed _ _ _ _ h) heq
      split <;> simpa using h1

@[simp] theorem State.endDraw_formed {s : State} (id port : Nat) (window : Bool) (spans : List Span) (h : s.mem.Formed)
    :
    (s.endDraw id port window spans).mem.Formed := by
  unfold State.endDraw
  split
  · exact h
  · split
    · exact h
    · exact State.write_formed _ _ _ _ h

theorem execSclose_formed {s : State} (t : Reg) (q : BitVec 4) (h : s.mem.Formed) : Out.Formed (execSclose t q s) := by
  refine strmIssue_formed h ?_
  dsimp only
  split <;> simpa using h

theorem execSstat_formed {s : State} (t a : Reg) (h : s.mem.Formed) : Out.Formed (execSstat t a s) := by
  refine strmIssue_formed h ?_
  split <;> simpa using h

theorem tagInstr_formed {i : Instr} {t a b : Reg} {full : Bool} {s : State} (h : s.mem.Formed) :
    Out.Formed (tagInstr i t a b full s) := by
  refine strmIssue_formed h ?_
  dsimp only
  split <;> simpa using h

/-! ### Copy engines -/

theorem engInstr_formed {i : Instr} {t : Reg} {regs : List Reg} {q : BitVec 4} {check : State → Option (Nat × Nat)}
    {work : State → EngWork} {s : State} (h : s.mem.Formed) : Out.Formed (engInstr i t regs q check work s) := by
  refine issue_formed h ?_
  split
  · exact h
  · split <;> simpa using h

theorem execQfence_formed {s : State} (t a : Reg) (h : s.mem.Formed) : Out.Formed (execQfence t a s) := by
  refine issue_formed h ?_
  dsimp only
  split <;> simpa using h

@[simp] theorem State.unitAt_formed {s : State} (kind : AccKind) (peers : Bool) (va : Nat) (h : s.mem.Formed) :
    (s.unitAt kind peers va).1.mem.Formed := by
  have h1 := State.resolve_formed kind va 16 h
  unfold State.unitAt
  split
  · exact h
  · split
    · exact h
    · split <;> simp_all

@[simp] theorem State.readUnit_formed {s : State} (peers : Bool) (src : EngSrc) (h : s.mem.Formed) :
    (s.readUnit peers src).1.mem.Formed := by
  unfold State.readUnit
  split
  · exact h
  · split
    · next heq => exact formed_of_eq (State.unitAt_formed _ _ _ h) heq
    · next u va heq => exact formed_of_eq (u := u) (State.unitAt_formed _ _ _ h) heq
    · next u sp heq =>
      have h1 := formed_of_eq (State.unitAt_formed _ _ _ h) heq
      have h2 := u.readSpan_mem true sp
      split <;> simp_all
    · next u sp heq =>
      have h1 := formed_of_eq (State.unitAt_formed _ _ _ h) heq
      have h2 := u.readSpan_mem false sp
      split <;> simp_all

@[simp] theorem State.gather_formed {s : State} (peers : Bool) (l : List (Nat × EngSrc)) (h : s.mem.Formed) :
    (State.gather peers l s).1.mem.Formed := by
  induction l generalizing s with
  | nil => exact h
  | cons x rest ih =>
    unfold State.gather
    split
    · next heq => exact formed_of_eq (State.readUnit_formed _ _ h) heq
    · next heq =>
      have h1 := formed_of_eq (State.readUnit_formed _ _ h) heq
      split
      · next heq2 => exact formed_of_eq (State.unitAt_formed _ _ _ h1) heq2
      · next heq2 => exact ih (formed_of_eq (State.unitAt_formed _ _ _ h1) heq2)

@[simp] theorem State.engWrite_formed {s : State} (q : Nat) (units : List (EngAt × List Byte)) (h : s.mem.Formed) :
    (s.engWrite q units).1.mem.Formed := by
  unfold State.engWrite
  simp [h]

@[simp] theorem State.copyOn_formed {s : State} (e : EngOp) (r : EngRun) (h : s.mem.Formed) :
    (s.copyOn e r).mem.Formed := by
  unfold State.copyOn
  dsimp only
  rw [State.mapSet_mem]
  exact State.engWrite_formed _ _ (State.gather_formed _ _ (by simpa using h))

@[simp] theorem State.startEngine_formed {s : State} (e : EngOp) (h : s.mem.Formed) : (s.startEngine e).mem.Formed :=
  State.copyOn_formed e _ h

theorem execEngineOperationStart_formed {s : State} (q : Nat) (h : s.mem.Formed) :
    Out.Formed (execEngineOperationStart q s) := by
  unfold execEngineOperationStart
  split
  · exact when_formed h (State.startEngine_formed _ h)
  · simpa using h

@[simp] theorem State.endEngine_formed {s : State} (id : Nat) (h : s.mem.Formed) : (s.endEngine id).mem.Formed := by
  unfold State.endEngine
  split
  · split
    · split
      · split
        · exact State.copyOn_formed _ _ h
        · exact h
      · split
        · rw [State.settle_mem, State.mapSet_mem, State.foldl_mem (fun s c => s.mapCoreAt_mem ..)]
          exact h
        · exact h
    · exact h
  · exact h

end Sys2Proof.Machine
end

section
/-!
SUPPORT. The detector's reports, block pools, translation instructions, memory nodes, packets, phases, signals and
atomics keep the form.
-/

namespace Sys2Proof.Machine

/-! ### Reports of the detector -/

theorem execCompletionReport_formed {s : State} (h : s.mem.Formed) : Out.Formed (execCompletionReport s) := by
  unfold execCompletionReport
  split
  · exact when_formed h h
  · simpa using h

theorem execDeadlockReport_formed {s : State} (h : s.mem.Formed) : Out.Formed (execDeadlockReport s) := by
  unfold execDeadlockReport
  split
  · refine when_formed h ?_
    rw [State.makeReport_mem, State.foldl_mem (fun t r => t.log_mem ..)]
    exact h
  · simpa using h

/-! ### Block pool -/

@[simp] theorem State.writePool_formed {s : State} (p : Pool) (h : s.mem.Formed) : (s.writePool p).mem.Formed := by
  unfold State.writePool
  refine State.foldl_formed (fun s w hs => ?_) _ h
  split
  · exact State.land_formed _ _ hs
  · exact hs

@[simp] theorem State.performBlk_formed {s : State} (req : BlkReq) (h : s.mem.Formed) :
    (s.performBlk req).1.mem.Formed := by
  unfold State.performBlk
  split
  · split
    · exact h
    · exact State.writePool_formed _ h
  · split
    · exact h
    · split
      · exact h
      · dsimp only
        split
        · exact h
        · exact State.writePool_formed _ h

@[simp] theorem State.endBlk_formed {s : State} (id ctrl : Nat) (req : BlkReq) (h : s.mem.Formed) :
    (s.endBlk id ctrl req).mem.Formed := by
  unfold State.endBlk
  split
  · exact State.performBlk_formed req h
  · exact h

theorem blkInstr_formed {i : Instr} {t : Reg} {regs : List Reg} {req : State → BlkReq} {s : State} (h : s.mem.Formed) :
    Out.Formed (blkInstr i t regs req s) :=
  issue_formed h h

theorem execBpmake_formed {s : State} (t a : Reg) (h : s.mem.Formed) : Out.Formed (execBpmake t a s) := by
  refine issue_formed h ?_
  dsimp only
  split
  · exact h
  · split
    · next heq => simpa using formed_of_eq (State.checked_formed _ _ _ _ h) heq
    · next u window spans heq =>
      have h1 := formed_of_eq (State.checked_formed _ _ _ _ h) heq
      have h2 := State.readSpans_mem window spans u
      split <;> simp_all

/-! ### Translation -/

theorem execTinval_formed {s : State} (t a b : Reg) (q : BitVec 1) (h : s.mem.Formed) :
    Out.Formed (execTinval t a b q s) := by
  refine issue_formed h ?_
  dsimp only
  split
  · exact h
  · split <;> exact h

@[simp] theorem State.lookAt_formed {s : State} (t : Reg) (va : Nat) (h : s.mem.Formed) :
    (s.lookAt t va).mem.Formed := by
  have h1 := State.walk_formed s.part .look va h
  unfold State.lookAt
  split
  · exact h
  · split
    · split <;> exact h
    · split
      · exact h
      · split <;> simp_all

theorem execTlook_formed {s : State} (t a : Reg) (q : BitVec 1) (h : s.mem.Formed) :
    Out.Formed (execTlook t a q s) := by
  refine issue_formed h ?_
  split
  · exact State.lookAt_formed t _ h
  · exact h

theorem execGeneratorFault_formed {s : State} (n : Nat) (h : s.mem.Formed) : Out.Formed (execGeneratorFault n s) := by
  unfold execGeneratorFault
  split
  · exact when_formed h h
  · simpa using h

theorem execGenres_formed {s : State} (t a : Reg) (q : BitVec 4) (h : s.mem.Formed) :
    Out.Formed (execGenres t a q s) := by
  refine issue_formed h ?_
  dsimp only
  split <;> simpa using h

/-! ### Memory nodes -/

@[simp] theorem State.translateMn_formed {s : State} (n : Nat) (kept : Bool) (kind : AccKind) (va : Nat)
    (h : s.mem.Formed) : (s.translateMn n kept kind va).1.mem.Formed :=
  State.throughCache_formed (s := s) _ _ _ _ h

@[simp] theorem State.resolveMn_formed {s : State} (n : Nat) (kind : AccKind) (va len : Nat) (h : s.mem.Formed) :
    (s.resolveMn n kind va len).1.mem.Formed :=
  State.resolveBy_formed (fun _ va h => State.translateMn_formed n _ kind va h) va len h

@[simp] theorem State.readChunk_formed {s : State} (n : Nat) (c : Chunk) (h : s.mem.Formed) :
    (s.readChunk n c).1.mem.Formed := by
  unfold State.readChunk
  split
  · exact h
  · split
    · next heq => exact formed_of_eq (State.resolveMn_formed _ _ _ _ h) heq
    · next u window spans heq =>
      have h1 := formed_of_eq (State.resolveMn_formed _ _ _ _ h) heq
      have h2 := State.readSpans_mem window spans u
      split <;> simp_all

@[simp] theorem State.readChunks_formed {s : State} (n : Nat) (l : List Chunk) (h : s.mem.Formed) :
    (State.readChunks n l s).1.mem.Formed := by
  induction l generalizing s with
  | nil => exact h
  | cons c rest ih =>
    unfold State.readChunks
    split
    · next heq => exact formed_of_eq (State.readChunk_formed _ _ h) heq
    · next u bs heq =>
      have h1 := ih (formed_of_eq (State.readChunk_formed _ _ h) heq)
      split <;> simp_all

@[simp] theorem State.readKeyRow_formed {s : State} (n : Nat) (p : MnParams) (a : MnPass) (h : s.mem.Formed) :
    (s.readKeyRow n p a).1.mem.Formed := by
  unfold State.readKeyRow
  split
  · next heq => exact formed_of_eq (State.readChunks_formed _ _ h) heq
  · next heq =>
    have h1 := formed_of_eq (State.readChunks_formed _ _ h) heq
    dsimp only
    split
    · exact h1
    · split
      · next heq2 => exact formed_of_eq (State.readChunks_formed _ _ h1) heq2
      · next heq2 =>
        have h2 := formed_of_eq (State.readChunks_formed _ _ h1) heq2
        split
        · exact h2
        · split
          · next heq3 => exact formed_of_eq (State.readChunks_formed _ _ h2) heq3
          · next heq3 => exact formed_of_eq (State.readChunks_formed _ _ h2) heq3

@[simp] theorem State.readPass_formed {s : State} (n : Nat) (p : MnParams) (a : MnPass) (h : s.mem.Formed) :
    (s.readPass n p a).1.mem.Formed := by
  unfold State.readPass
  split
  · exact h
  · split
    · exact State.readKeyRow_formed n p a h
    · split
      · next heq => exact formed_of_eq (State.readChunks_formed _ _ h) heq
      · next heq => exact formed_of_eq (State.readChunks_formed _ _ h) heq

@[simp] theorem State.loadEnds_formed {s : State} (n : Nat) (p : MnParams) (a : MnPass) (h : s.mem.Formed) :
    (s.loadEnds n p a).1.mem.Formed := by
  have h1 := State.readChunks_formed n [.at a.block 4] h
  unfold State.loadEnds
  split
  · split <;> simp_all
  · exact h

@[simp] theorem State.emitPass_formed {s : State} (n : Nat) (p : MnParams) (a : MnPass) (h : s.mem.Formed) :
    (s.emitPass n p a).mem.Formed := by
  have h1 : (if decide (a.idx + 1 ≥ a.total) = true then s.loadEnds n p a
      else (s, .ok (Token.order a.stitch false))).1.mem.Formed := by
    split
    · exact State.loadEnds_formed n p a h
    · exact h
  unfold State.emitPass
  dsimp only
  split
  · next heq => simpa using formed_of_eq h1 heq
  · next heq => exact formed_of_eq h1 heq
  · next heq =>
    have h2 := State.readPass_formed n p a (formed_of_eq h1 heq)
    split <;> simp_all

@[simp] theorem State.pageAhead_formed {s : State} (p : MnParams) (n : Nat) (at0 : Int) (h : s.mem.Formed) :
    (State.pageAhead p n s at0).mem.Formed := by
  unfold State.pageAhead
  dsimp only
  split
  · exact State.translateMn_formed _ _ _ _ h
  · exact h

@[simp] theorem State.walkAhead_formed {s : State} (n k m : Nat) (h : s.mem.Formed) :
    (s.walkAhead n k m).mem.Formed := by
  unfold State.walkAhead
  split
  · exact h
  · split
    · exact h
    · split
      · exact h
      · exact State.foldl_formed (fun s v hs => State.pageAhead_formed _ n v hs) _ h

@[simp] theorem State.performStore_formed {s : State} (n : Nat) (p : MnParams) (c : MnPick) (k : Nat) (last : Bool)
    (va : Nat) (pl : Payload) (h : s.mem.Formed) : (s.performStore n p c k last va pl).mem.Formed := by
  unfold State.performStore
  split
  · next u f heq => exact formed_of_eq (u := u) (State.resolveMn_formed _ _ _ _ h) heq
  · next heq =>
    have h1 := formed_of_eq (State.resolveMn_formed _ _ _ _ h) heq
    split
    · simpa using h1
    · split
      · exact h
      · exact State.write_formed _ _ _ _ h1

@[simp] theorem State.issueStore_formed {s : State} (n : Nat) (p : MnParams) (c : MnPick) (t : Token) (d : Option Token)
    (h : s.mem.Formed) : (s.issueStore n p c t d).mem.Formed := by
  unfold State.issueStore
  dsimp only
  split
  · split <;> exact h
  · split
    · split
      · exact h
      · split <;> simp [h]
    · split
      · exact h
      · exact State.performStore_formed _ _ _ _ _ _ _ h

@[simp] theorem State.askPass_formed {s : State} (n : Nat) (p : MnParams) (a : MnPass) (h : s.mem.Formed) :
    (s.askPass n p a).mem.Formed := by
  unfold State.askPass
  split
  · exact State.emitPass_formed n p a h
  · exact State.emitPass_formed n p a h

theorem State.stepMn_formed {s : State} (im : Image) (n : Nat) (q : MnParams) (x : MnAct)
    {begins : State → MnPick → Token → Option Token → State} (hb : ∀ c t d, (begins s c t d).mem.Formed)
    (h : s.mem.Formed) : (s.stepMn im n q x begins).mem.Formed := by
  unfold State.stepMn
  split
  · split
    · exact State.askPass_formed n q _ h
    · exact h
  · split
    · exact h
    · split
      · split
        · exact h
        · exact hb _ _ _
      · split
        · exact h
        · exact hb _ _ _
      · simpa using h
      · exact h

theorem execMemoryNodeRequest_formed {s : State} (n : Nat) (h : s.mem.Formed) :
    Out.Formed (execMemoryNodeRequest n s) := by
  unfold execMemoryNodeRequest
  split
  · split
    · refine when_formed h ?_
      simp only [State.publish_mem]
      refine State.stepMn_formed _ _ _ _ (fun c t d => ?_) h
      split <;> simp [h]
    · simpa using h
  · simpa using h

@[simp] theorem State.issuePagedStore_formed {s : State} (n : Nat) (p : MnParams) (c : MnPick) (t : Token)
    (d : Option Token) (h : s.mem.Formed) : (s.issuePagedStore n p c t d).mem.Formed := by
  have h1 := s.pagedBlock_mem n p t.k (MnParams.position t)
  unfold State.issuePagedStore
  dsimp only
  split
  · exact h
  · split
    · simp_all
    · split <;> simp_all

theorem execPagedRequest_formed {s : State} (n : Nat) (h : s.mem.Formed) : Out.Formed (execPagedRequest n s) := by
  unfold execPagedRequest
  split
  · split
    · refine when_formed h (State.stepMn_formed _ _ _ _ (fun c t d => ?_) h)
      split <;> simp [h]
    · simpa using h
  · simpa using h

theorem execMemoryNodeCompletion_formed {s : State} (n : Nat) (h : s.mem.Formed) :
    Out.Formed (execMemoryNodeCompletion n s) := by
  unfold execMemoryNodeCompletion
  split
  · simpa using h
  · split
    · exact when_formed h (by simpa using h)
    · simpa using h

theorem execWalkAhead_formed {s : State} (n : Nat) (h : s.mem.Formed) : Out.Formed (execWalkAhead n s) := by
  unfold execWalkAhead
  split
  · exact when_formed h (State.walkAhead_formed _ _ _ h)
  · simpa using h

/-! ### Packets -/

theorem execPacketAtSwitch_formed {s : State} (i sw port : Nat) (h : s.mem.Formed) :
    Out.Formed (execPacketAtSwitch i sw port s) := by
  unfold execPacketAtSwitch
  split
  · split
    · exact when_formed h h
    · exact when_formed h (by simpa using h)
  · exact when_formed h (by simpa using h)
  · simpa using h

theorem execPacketDelivery_formed {s : State} (i : Nat) (h : s.mem.Formed) : Out.Formed (execPacketDelivery i s) := by
  unfold execPacketDelivery
  split
  · exact when_formed h (by simpa using h)
  · simpa using h

theorem execTrimNotice_formed {s : State} (i : Nat) (h : s.mem.Formed) : Out.Formed (execTrimNotice i s) := by
  unfold execTrimNotice
  split
  · exact when_formed h (by simpa using h)
  · simpa using h

theorem execReask_formed {s : State} (i : Nat) (h : s.mem.Formed) : Out.Formed (execReask i s) := by
  unfold execReask
  split
  · exact when_formed h (by simpa using h)
  · simpa using h

theorem execRetransmission_formed {s : State} (i : Nat) (h : s.mem.Formed) : Out.Formed (execRetransmission i s) := by
  unfold execRetransmission
  split
  · exact when_formed h (by simpa using h)
  · simpa using h

theorem execAckReceived_formed {s : State} (i : Nat) (h : s.mem.Formed) : Out.Formed (execAckReceived i s) := by
  unfold execAckReceived
  split
  · split
    · exact when_formed h (by simpa using h)
    · simpa using h
  · simpa using h

theorem execLossNotice_formed {s : State} (i : Nat) (h : s.mem.Formed) : Out.Formed (execLossNotice i s) := by
  unfold execLossNotice
  split
  · split
    · refine when_formed h ?_
      split <;> simpa using h
    · simpa using h
  · simpa using h

/-! ### Phases, signals and atomics -/

theorem boundaryInstr_formed {i : Instr} {t : Reg} {bar : Bool} {s : State} (h : s.mem.Formed) :
    Out.Formed (boundaryInstr i t bar s) := by
  refine issue_formed h ?_
  split <;> exact h

@[simp] theorem State.reach_formed {s : State} (kind : AccKind) (va : Word) (size scope : Nat) (h : s.mem.Formed) :
    (s.reach kind va size scope).1.mem.Formed := by
  have h1 := State.translate_formed kind va.toNat h
  unfold State.reach
  split
  · exact h
  · split
    · exact h
    · split
      · exact h
      · split
        · simp_all
        · split <;> simp_all

theorem execSigset_formed {s : State} (t a b : Reg) (q : BitVec 3) (h : s.mem.Formed) :
    Out.Formed (execSigset t a b q s) := by
  have h1 := State.reach_formed .write (s.reg a) 8 q.toNat h
  refine issue_formed h ?_
  dsimp only
  split
  · exact h
  · split <;> simp_all

theorem execSigwait_formed {s : State} (t a b : Reg) (q : BitVec 3) (h : s.mem.Formed) :
    Out.Formed (execSigwait t a b q s) := by
  have h1 := State.reach_formed .read (s.reg a) 8 q.toNat h
  refine issue_formed h ?_
  dsimp only
  split
  · exact h
  · split
    · simp_all
    · split
      · simp_all
      · split <;> simp_all

theorem execSigwaitTest_formed {s : State} (i : Nat) (h : s.mem.Formed) : Out.Formed (execSigwaitTest i s) := by
  unfold execSigwaitTest
  split
  · exact when_formed h (by simpa using h)
  · simpa using h

theorem execSigwaitTimeout_formed {s : State} (i : Nat) (h : s.mem.Formed) : Out.Formed (execSigwaitTimeout i s) := by
  unfold execSigwaitTimeout
  split
  · exact when_formed h h
  · simpa using h

theorem execPhaseBoundary_formed {s : State} (lid : BitVec 32) (h : s.mem.Formed) :
    Out.Formed (execPhaseBoundary lid s) := by
  unfold execPhaseBoundary
  split
  · exact when_formed h h
  · simpa using h

theorem bankInstr_formed {i : Instr} {t a : Reg} {regs : List Reg} {kind : BankKind} {wide quiet : Bool} {scope : Nat}
    {x y : State → Word} {s : State} (h : s.mem.Formed) :
    Out.Formed (bankInstr i t a regs kind wide quiet scope x y s) := by
  have h1 := State.reach_formed (if kind = .load then .read else .write) (s.reg a) (if wide then 8 else 4) scope h
  refine issue_formed h ?_
  dsimp only
  split
  · exact h
  · split <;> simp_all

@[simp] theorem State.bankAccess_formed {s : State} (k : Packet) (acc : BankAcc) (h : s.mem.Formed) :
    (s.bankAccess k acc).mem.Formed := by
  unfold State.bankAccess
  dsimp only
  generalize (if acc.wide then 8 else 4) = n
  split
  · simpa using h
  · split
    · simpa using h
    · split <;> simp [h]

theorem execHomeBankAccess_formed {s : State} (i : Nat) (h : s.mem.Formed) : Out.Formed (execHomeBankAccess i s) := by
  unfold execHomeBankAccess
  split
  · split
    · exact when_formed h (State.bankAccess_formed _ _ h)
    · simpa using h
  · simpa using h

end Sys2Proof.Machine
end

section
/-!
SUPPORT. Network ports, the RND instructions with the ends of their drains, and state maps keep the form.
-/

namespace Sys2Proof.Machine

/-! ### Network instructions and events -/

theorem execSendrc_formed {s : State} (t a b : Reg) (q : BitVec 4) (h : s.mem.Formed) :
    Out.Formed (execSendrc t a b q s) := by
  refine issue_formed h ?_
  dsimp only
  split
  · exact h
  · split
    · next heq => simpa using formed_of_eq (State.checked_formed _ _ _ _ h) heq
    · next u window spans heq =>
      have h1 := formed_of_eq (State.checked_formed _ _ _ _ h) heq
      have h2 := State.readSpans_mem window spans u
      split
      · exact h1
      · split
        · exact h
        · split <;> simp_all

theorem maskInstr_formed {i : Instr} {t a : Reg} {f : BitVec 16 → BitVec 16 → BitVec 16} {s : State} (h : s.mem.Formed)
    :
    Out.Formed (maskInstr i t a f s) :=
  issue_formed h h

theorem execRcrecv_formed {s : State} (t a : Reg) (q : BitVec 4) (h : s.mem.Formed) :
    Out.Formed (execRcrecv t a q s) := by
  refine issue_formed h ?_
  dsimp only
  split
  · exact h
  · split
    · next heq => simpa using formed_of_eq (State.checked_formed _ _ _ _ h) heq
    · next heq =>
      have h1 := formed_of_eq (State.checked_formed _ _ _ _ h) heq
      split <;> exact h1

@[simp] theorem State.endReceive_formed {s : State} (id : Nat) (cls : BitVec 4) (window : Bool) (spans : List Span)
    (h : s.mem.Formed) : (s.endReceive id cls window spans).mem.Formed := by
  unfold State.endReceive
  split
  · exact h
  · split
    · exact h
    · split
      · exact h
      · exact State.write_formed _ _ _ _ h

theorem execRouteClassArrival_formed {s : State} (i : Nat) (h : s.mem.Formed) :
    Out.Formed (execRouteClassArrival i s) := by
  unfold execRouteClassArrival
  split
  · split
    · exact when_formed h (by simpa using h)
    · simpa using h
  · simpa using h

theorem execHandler1Arrival_formed {s : State} (i : Nat) (h : s.mem.Formed) :
    Out.Formed (execHandler1Arrival i s) := by
  unfold execHandler1Arrival
  split
  · split
    · exact when_formed h (by simpa using h)
    · simpa using h
  · simpa using h

theorem execNetworkPortSend_formed {s : State} (p : Nat) (h : s.mem.Formed) :
    Out.Formed (execNetworkPortSend p s) := by
  unfold execNetworkPortSend
  split
  · refine when_formed h ?_
    split
    · simpa using h
    · split <;> simpa using h
  · simpa using h

theorem execYarnTokenArrival_formed {s : State} (i : Nat) (h : s.mem.Formed) :
    Out.Formed (execYarnTokenArrival i s) := by
  unfold execYarnTokenArrival
  split
  · split
    · exact when_formed h (by simpa using h)
    · simpa using h
  · simpa using h

theorem execYbind_formed {s : State} (t a : Reg) (q : BitVec 1) (h : s.mem.Formed) :
    Out.Formed (execYbind t a q s) := by
  refine issue_formed h ?_
  dsimp only
  split <;> exact h

/-! ### Stitches -/

@[simp] theorem State.castOn_formed {s : State} (t : Reg) (im : Image) (k : Nat) (e : Stream) (h : s.mem.Formed) :
    (s.castOn t im k e).mem.Formed := by
  have h1 := State.readArea_formed e.state im.areaLen h
  unfold State.castOn
  dsimp only
  split
  · exact h
  · split
    · simp_all
    · split <;> simp_all

@[simp] theorem State.caston_formed {s : State} (t b : Reg) (rec : Option (List Byte)) (h : s.mem.Formed) :
    (s.caston t b rec).mem.Formed := by
  unfold State.caston
  split
  · exact h
  · split
    · exact h
    · exact State.castOn_formed _ _ _ _ h

theorem execCaston_formed {s : State} (t a b : Reg) (h : s.mem.Formed) : Out.Formed (execCaston t a b s) := by
  unfold execCaston
  refine issueUnless_formed h ?_
  dsimp only
  split
  · split <;> simp [h]
  · split
    · exact h
    · split
      · next heq => simpa using formed_of_eq (State.checked_formed _ _ _ _ h) heq
      · next u window spans heq =>
        have h1 := formed_of_eq (State.checked_formed _ _ _ _ h) heq
        have h2 := State.readSpans_mem window spans u
        split
        · simp_all
        · split <;> simp_all

theorem oneStitch_formed {i : Instr} {t a : Reg} {need : Status → Bool} {body : Image → Nat → State → State} {s : State}
    (hb : ∀ im k, (body im k s).mem.Formed) (h : s.mem.Formed) : Out.Formed (oneStitch i t a need body s) := by
  refine rndIssue_formed h ?_
  split
  · exact h
  · split
    · exact h
    · split
      · exact hb _ _
      · exact h

@[simp] theorem State.areaToWrite_formed {s : State} (ptr : Word) (len : Nat) (h : s.mem.Formed) :
    (s.areaToWrite ptr len).1.mem.Formed := by
  unfold State.areaToWrite
  split
  · next heq => exact formed_of_eq (State.area_formed _ _ _ h) heq
  · exact h

theorem execBindoff_formed {s : State} (t a : Reg) (q : BitVec 1) (h : s.mem.Formed) :
    Out.Formed (execBindoff t a q s) := by
  refine oneStitch_formed (fun im k => ?_) h
  split
  · exact h
  · split
    · next heq => simpa using formed_of_eq (State.areaToWrite_formed _ _ h) heq
    · next heq => simpa using formed_of_eq (State.areaToWrite_formed _ _ h) heq

theorem execStrd_formed {s : State} (t a : Reg) (q : BitVec 2) (h : s.mem.Formed) : Out.Formed (execStrd t a q s) := by
  unfold execStrd
  refine issueUnless_formed h ?_
  split <;> exact h

theorem execStwr_formed {s : State} (t a b : Reg) (q : BitVec 2) (h : s.mem.Formed) :
    Out.Formed (execStwr t a b q s) := by
  refine rndIssue_formed h ?_
  split
  · exact h
  · split <;> exact h

@[simp] theorem State.areasToWrite_formed {s : State} (len : Nat) (l : List Nat) (h : s.mem.Formed) :
    (State.areasToWrite len l s).1.mem.Formed := by
  induction l generalizing s with
  | nil => exact h
  | cons k rest ih =>
    unfold State.areasToWrite
    split
    · next heq => exact formed_of_eq (State.areaToWrite_formed _ _ h) heq
    · next u r heq =>
      have h1 := ih (formed_of_eq (State.areaToWrite_formed _ _ h) heq)
      split <;> simp_all

theorem execRsave_formed {s : State} (t : Reg) (h : s.mem.Formed) : Out.Formed (execRsave t s) := by
  refine rndIssue_formed h ?_
  split
  · exact h
  · split
    · exact h
    · next heq => simpa using formed_of_eq (State.areasToWrite_formed _ _ h) heq

@[simp] theorem State.restored_formed {s : State} (im : Image) (l : List (Nat × Nat × Word)) (seen : List Nat)
    (h : s.mem.Formed) : (State.restored im l seen s).1.mem.Formed := by
  induction l generalizing seen s with
  | nil => exact h
  | cons x rest ih =>
    unfold State.restored
    split
    · exact h
    · split
      · next heq => exact formed_of_eq (State.readArea_formed _ _ h) heq
      · next heq =>
        have h1 := formed_of_eq (State.readArea_formed _ _ h) heq
        split
        · exact h1
        · split
          · exact h1
          · have h2 := ih (x.2.1 :: seen) h1
            split <;> simp_all

@[simp] theorem State.rload_formed {s : State} (t : Reg) (r : Except Word Image) (pages : List (Nat × TlbEntry))
    (map : List (Nat × Nat × Word)) (h : s.mem.Formed) : (s.rload t r pages map).mem.Formed := by
  unfold State.rload
  split
  · exact h
  · next im =>
    have h1 := State.restored_formed im map [] h
    split <;> simp_all

@[simp] theorem State.rloadFrom_formed {s : State} (t : Reg) (va : Word) (window : Bool) (spans : List Span)
    (map : Option (List (Nat × Nat × Word))) (h : s.mem.Formed) : (s.rloadFrom t va window spans map).mem.Formed := by
  have h1 := State.readSpans_mem window spans s
  unfold State.rloadFrom
  split
  · simp_all
  · next u head heq =>
    have h2 : u.mem.Formed := by simp_all
    have h3 := fun bs cut => State.translateNodes_formed bs cut
      (State.readUpTo_formed (va.toNat + 64) (imageLen head - 64) h2)
    dsimp only
    split
    · rw [State.readFails_mem]
      exact h3 _ _
    · exact State.rload_formed _ _ _ _ (h3 _ _)

@[simp] theorem State.rloadBy_formed {s u : State} (t : Reg) (va : Word) (window : Bool) (spans : List Span)
    (block : Option (Bool × List Span)) (h : s.mem.Formed) (hu : u.mem.Formed) :
    (s.rloadBy u t va window spans block).mem.Formed := by
  unfold State.rloadBy
  split
  · exact hu
  · dsimp only
    split
    · exact h
    · rw [State.advance_mem]
      exact State.rloadFrom_formed _ _ _ _ _ (by simpa using hu)

theorem execRload_formed {s : State} (t a b : Reg) (h : s.mem.Formed) : Out.Formed (execRload t a b s) := by
  refine rndIssue_formed h ?_
  dsimp only
  split
  · exact h
  · split
    · next heq => simpa using formed_of_eq (State.checked_formed _ _ _ _ h) heq
    · next u window spans heq =>
      have h1 := formed_of_eq (State.checked_formed _ _ _ _ h) heq
      split
      · exact State.rloadBy_formed _ _ _ _ _ h h1
      · split
        · next heq2 => simpa using formed_of_eq (State.checked_formed _ _ _ _ h1) heq2
        · next heq2 => exact State.rloadBy_formed _ _ _ _ _ h (formed_of_eq (State.checked_formed _ _ _ _ h1) heq2)

theorem execRoundBoundary_formed {s : State} (h : s.mem.Formed) : Out.Formed (execRoundBoundary s) := by
  unfold execRoundBoundary
  split
  · refine when_formed h ?_
    split <;> simpa using h
  · simpa using h

@[simp] theorem State.writeImage_formed {s : State} (im : Image) (k : Nat) (st : Status) (area : Bool × List Span)
    (h : s.mem.Formed) : (s.writeImage im k st area).mem.Formed :=
  State.write_formed _ _ _ _ h

@[simp] theorem State.endBindoff_formed {s : State} (im : Image) (d : Drain) (h : s.mem.Formed) :
    (s.endBindoff im d).mem.Formed := by
  unfold State.endBindoff
  dsimp only
  split
  · exact State.writeImage_formed _ _ _ _ h
  · exact h

theorem execBindoffDrainEnd_formed {s : State} (k : Nat) (h : s.mem.Formed) :
    Out.Formed (execBindoffDrainEnd k s) := by
  unfold execBindoffDrainEnd
  split
  · exact when_formed h (State.endBindoff_formed _ _ h)
  · simpa using h

@[simp] theorem State.endRsave_formed {s : State} (im : Image) (v : Save) (h : s.mem.Formed) :
    (s.endRsave im v).mem.Formed := by
  unfold State.endRsave
  dsimp only
  rw [State.settle_mem, State.mapRounds_mem]
  exact State.foldl_formed (fun s x hs => State.writeImage_formed _ _ _ _ hs) _ h

theorem execRsaveDrainEnd_formed {s : State} (h : s.mem.Formed) : Out.Formed (execRsaveDrainEnd s) := by
  unfold execRsaveDrainEnd
  split
  · exact when_formed h (State.endRsave_formed _ _ h)
  · simpa using h

/-! ### State maps -/

@[simp] theorem State.smSpans_formed {s : State} (below : Bool) (l : List (Nat × Nat)) (h : s.mem.Formed) :
    (State.smSpans below l s).1.mem.Formed := by
  induction l generalizing s with
  | nil => exact h
  | cons p rest ih =>
    have h1 : (if below && inWindowPart p.1 then (s, .error (.access, p.1)) else s.resolve .read p.1 p.2 :
        State × Except (XFault × Nat) (Bool × List Span)).1.mem.Formed := by
      split
      · exact h
      · exact State.resolve_formed _ _ _ h
    have h2 := ih h1
    unfold State.smSpans
    dsimp only
    split <;> next heq _ => exact formed_of_eq h2 heq

@[simp] theorem State.smRead_formed {s : State} (va n : Nat) (h : s.mem.Formed) : (s.smRead va n).1.mem.Formed := by
  have h1 := State.smSpans_formed (!inWindowPart va) (piecesOf va n) h
  unfold State.smRead
  dsimp only
  split
  · exact h1
  · split
    · next heq => have h2 := formed_of_eq (by rw [State.readSpans_mem]; exact h1) heq; exact h2
    · next heq => have h2 := formed_of_eq (by rw [State.readSpans_mem]; exact h1) heq; exact h2

theorem execSmcfgBind_formed {s : State} (t a : Reg) (h : s.mem.Formed) : Out.Formed (execSmcfgBind t a s) := by
  refine smapIssue_formed h ?_
  dsimp only
  split
  · exact h
  · split
    · next heq => simpa using formed_of_eq (State.checked_formed _ _ _ _ h) heq
    · next u window spans heq =>
      have h1 := formed_of_eq (State.checked_formed _ _ _ _ h) heq
      have h2 := State.readSpans_mem window spans u
      split
      · simp_all
      · split <;> simp_all

theorem execSmcfgWriteStates_formed {s : State} (t a b : Reg) (h : s.mem.Formed) :
    Out.Formed (execSmcfgWriteStates t a b s) := by
  refine smapIssue_formed h ?_
  split
  · exact h
  · split <;> exact h

theorem execSmcfgReadState_formed {s : State} (t a : Reg) (h : s.mem.Formed) :
    Out.Formed (execSmcfgReadState t a s) := by
  refine smapIssue_formed h ?_
  dsimp only
  split
  · exact h
  · split <;> exact h

@[simp] theorem State.readMap_formed {s : State} (d : Desc) (v : Nat) (h : s.mem.Formed) :
    (s.readMap d v).1.mem.Formed := by
  unfold State.readMap
  split
  · next heq => exact formed_of_eq (State.smRead_formed _ _ h) heq
  · next heq =>
    dsimp only
    split
    · exact formed_of_eq (State.smRead_formed _ _ h) heq
    · exact formed_of_eq (State.smRead_formed _ _ h) heq

@[simp] theorem State.flagged_formed {s : State} (d : Desc) (v : Nat) (h : s.mem.Formed) :
    (s.flagged d v).1.mem.Formed := by
  have h1 := State.smRead_formed (d.idMap.toNat + v / 8) 1 h
  unfold State.flagged
  split
  · split <;> simp_all
  · exact h

@[simp] theorem State.mapOf_formed {s : State} (d : Desc) (v : Nat) (h : s.mem.Formed) :
    (s.mapOf d v).1.mem.Formed := by
  unfold State.mapOf
  split
  · next heq => exact formed_of_eq (State.flagged_formed _ _ h) heq
  · next heq => exact formed_of_eq (State.flagged_formed _ _ h) heq
  · next heq =>
    have h1 := State.readMap_formed d v (formed_of_eq (State.flagged_formed _ _ h) heq)
    split <;> simp_all

@[simp] theorem State.evalMaps_formed {s : State} (d : Desc) (fuel : Nat) (l : List Nat) (h : s.mem.Formed) :
    (State.evalMaps d fuel l s).1.mem.Formed := by
  induction fuel generalizing l s with
  | zero => cases l <;> exact h
  | succ fuel ih =>
    match l with
    | [] => exact h
    | [v] => exact State.mapOf_formed d v h
    | v :: w :: rest =>
      unfold State.evalMaps
      dsimp only
      split
      · next heq => exact formed_of_eq (ih _ h) heq
      · next heq =>
        have h1 := formed_of_eq (ih _ h) heq
        split
        · exact h1
        · split
          · next heq2 => exact formed_of_eq (ih _ h1) heq2
          · next heq2 => exact formed_of_eq (ih _ h1) heq2

@[simp] theorem State.writeUnits_formed {s : State} (bs : List Byte) (va n : Nat) (h : s.mem.Formed) :
    (State.writeUnits bs va n s).1.mem.Formed := by
  induction n generalizing bs va s with
  | zero => exact h
  | succ n ih =>
    unfold State.writeUnits
    split
    · next heq => exact formed_of_eq (State.resolve_formed _ _ _ h) heq
    · next heq => exact ih _ _ (State.write_formed _ _ _ _ (formed_of_eq (State.resolve_formed _ _ _ h) heq))

@[simp] theorem State.compose_formed {s : State} (t : Reg) (d : Desc) (q : BitVec 2) (mask : Word) (words : List Nat)
    (h : s.mem.Formed) : (s.compose t d q mask words).mem.Formed := by
  unfold State.compose
  split
  · next heq => simpa using formed_of_eq (State.evalMaps_formed _ _ _ h) heq
  · next u m rows heq =>
    have h1 := formed_of_eq (State.evalMaps_formed _ _ _ h) heq
    have h2 : (if q.getLsbD 0 && d.buffer != 0 then State.writeUnits (d.mapBytes m) d.buffer.toNat (d.rowPitch / 16) u
        else (u, none)).1.mem.Formed := by
      split
      · exact State.writeUnits_formed _ _ _ h1
      · exact h1
    dsimp only
    split
    · next heq2 => simpa using formed_of_eq h2 heq2
    · next heq2 =>
      have h3 := formed_of_eq h2 heq2
      split <;> exact h3

theorem execSmcomp_formed {s : State} (t a b : Reg) (q : BitVec 2) (h : s.mem.Formed) :
    Out.Formed (execSmcomp t a b q s) := by
  refine smapIssue_formed h ?_
  dsimp only
  split
  · exact h
  · split
    · exact h
    · split
      · next heq => simpa using formed_of_eq (State.checked_formed _ _ _ _ h) heq
      · next u window spans heq =>
        have h1 := formed_of_eq (State.checked_formed _ _ _ _ h) heq
        split
        · exact h1
        · next d _ =>
          have h2 := u.readSymbols_mem d (s.reg b).toNat window spans
          split <;> simp_all

@[simp] theorem State.stepAll_formed {s : State} (d : Desc) (l : List (Nat × Nat)) (h : s.mem.Formed) :
    (State.stepAll d l s).1.mem.Formed := by
  induction l generalizing s with
  | nil => exact h
  | cons x rest ih =>
    unfold State.stepAll
    split
    · next heq => exact formed_of_eq (State.mapOf_formed _ _ h) heq
    · next heq =>
      have h1 := ih (formed_of_eq (State.mapOf_formed _ _ h) heq)
      split <;> simp_all

@[simp] theorem State.smstep_formed {s : State} (t : Reg) (d : Desc) (l : List (Nat × Nat)) (h : s.mem.Formed) :
    (s.smstep t d l).mem.Formed := by
  unfold State.smstep
  split
  · next heq => simpa using formed_of_eq (State.stepAll_formed _ _ h) heq
  · next heq =>
    rw [State.smDone_mem, State.foldl_mem (fun s x => by simp)]
    exact formed_of_eq (State.stepAll_formed _ _ h) heq

theorem execSmstep_formed {s : State} (t a b : Reg) (q : BitVec 1) (h : s.mem.Formed) :
    Out.Formed (execSmstep t a b q s) := by
  refine smapIssue_formed h ?_
  split
  · exact h
  · split
    · exact h
    · split
      · exact h
      · exact State.smstep_formed _ _ _ h

@[simp] theorem State.maskTokens_formed {s : State} (d : Desc) (k : Nat) (q : BitVec 16) (first n : Nat) (last : Bool)
    (h : s.mem.Formed) : (s.maskTokens d k q first n last).1.mem.Formed := by
  unfold State.maskTokens
  split
  · exact h
  · split
    · next heq => exact formed_of_eq (State.smRead_formed _ _ h) heq
    · next heq => exact formed_of_eq (State.smRead_formed _ _ h) heq

@[simp] theorem State.arrivalMask_formed {s : State} (d : Desc) (k : Nat) (q : BitVec 16) (last : Bool) (n c : Nat)
    (h : s.mem.Formed) : (State.arrivalMask d k q last n c s).1.mem.Formed := by
  induction n generalizing c s with
  | zero => exact h
  | succ n ih =>
    unfold State.arrivalMask
    dsimp only
    refine ih _ ?_
    split
    · next heq => exact formed_of_eq (State.maskTokens_formed _ _ _ _ _ _ h) heq
    · next heq => exact formed_of_eq (State.maskTokens_formed _ _ _ _ _ _ h) heq

theorem execSmmask_formed {s : State} (t a b : Reg) (q : BitVec 1) (h : s.mem.Formed) :
    Out.Formed (execSmmask t a b q s) := by
  refine smapIssue_formed h ?_
  split
  · exact h
  · exact h
  · dsimp only
    split
    · exact h
    · split
      · exact h
      · split
        · next heq => simpa using formed_of_eq (State.maskTokens_formed _ _ _ _ _ _ h) heq
        · next heq =>
          rw [State.advance_mem, State.foldl_mem (fun v x => v.smSend_mem ..), State.begin_mem]
          exact formed_of_eq (State.maskTokens_formed _ _ _ _ _ _ h) heq

@[simp] theorem State.arrivalStep_formed {s : State} (p : SmParams) (d : Desc) (t : Token) (h : s.mem.Formed) :
    (s.arrivalStep p d t).mem.Formed := by
  unfold State.arrivalStep
  split
  · next heq => simpa using formed_of_eq (State.mapOf_formed _ _ h) heq
  · next heq =>
    have h1 := formed_of_eq (State.mapOf_formed _ _ h) heq
    dsimp only
    split
    · rw [State.foldl_mem (fun v x => v.smSend_mem ..)]
      exact State.arrivalMask_formed _ _ _ _ _ _ (by simpa using h1)
    · simpa using h1

@[simp] theorem State.smArrive_formed {s : State} (p : SmParams) (t : Token) (h : s.mem.Formed) :
    (s.smArrive p t).mem.Formed := by
  unfold State.smArrive
  dsimp only
  split
  · simpa using h
  · split
    · simpa using h
    · split
      · simpa using h
      · split
        · exact State.arrivalStep_formed _ _ _ h
        · exact h

theorem execComposerArrival_formed {s : State} (h : s.mem.Formed) : Out.Formed (execComposerArrival s) := by
  unfold execComposerArrival
  split
  · simpa using h
  · refine when_formed h ?_
    dsimp only
    split
    · simpa using h
    · exact State.smArrive_formed _ _ h
    · split
      · exact State.smArrive_formed _ _ h
      · simpa using h
    · exact h

end Sys2Proof.Machine
end

section
/-!
SUPPORT. Freezing, slicing, queues, dispatch, swaps and the partition and launch instructions keep the form.
-/

namespace Sys2Proof.Machine

/-! ### Halves of a scratchpad, and sets away from their cores -/

theorem execCoreFreeze_formed {s : State} (h : s.mem.Formed) : Out.Formed (execCoreFreeze s) := by
  unfold execCoreFreeze
  split
  · exact when_formed h h
  · exact when_formed h h
  · simpa using h

@[simp] theorem State.clearHalf_formed {s : State} (n : Nat) (half : Bool) (h : s.mem.Formed) :
    (s.clearHalf n half).mem.Formed :=
  Memory.clearHalf_formed n half h

@[simp] theorem State.clearCore_formed {s : State} (n : Nat) (h : s.mem.Formed) : (s.clearCore n).mem.Formed :=
  Memory.clear_formed _ _ h

@[simp] theorem State.streamOut_formed {s : State} (part n : Nat) (c : CSet) (h : s.mem.Formed) :
    (s.streamOut part n c).mem.Formed := by
  unfold State.streamOut
  split
  · exact State.apply_formed _ _ h
  · exact h

@[simp] theorem State.takeShadow_formed {s : State} (n : Nat) (h : s.mem.Formed) : (s.takeShadow n).1.mem.Formed := by
  unfold State.takeShadow
  dsimp only
  split
  · exact h
  · exact State.clearHalf_formed _ _ (by simpa using h)

@[simp] theorem State.putShadow_formed {s : State} (n : Nat) (c : CSet) (h : s.mem.Formed) :
    (s.putShadow n c).mem.Formed :=
  Memory.putHalf_formed _ _ _ (State.clearHalf_formed _ _ h)

/-! ### Queues and dispatch -/

@[simp] theorem State.dispAt_formed {s : State} (p : Part) (kind : AccKind) (va : Nat) (h : s.mem.Formed) :
    (s.dispAt p kind va).1.mem.Formed := by
  have h1 := State.walk_formed p kind va h
  unfold State.dispAt
  split
  · exact h
  · split <;> simp_all

@[simp] theorem State.dispRead_formed {s : State} (p : Part) (va n : Nat) (h : s.mem.Formed) :
    (s.dispRead p va n).1.mem.Formed := by
  unfold State.dispRead
  split
  · next heq => exact formed_of_eq (State.dispAt_formed _ _ _ h) heq
  · next heq =>
    have h1 := formed_of_eq (State.dispAt_formed _ _ _ h) heq
    split
    · simpa using h1
    · exact h1

@[simp] theorem State.dispWrite_formed {s : State} (p : Part) (va : Nat) (bs : List Byte) (h : s.mem.Formed) :
    (s.dispWrite p va bs).mem.Formed := by
  unfold State.dispWrite
  split
  · next heq => exact State.apply_formed _ _ (formed_of_eq (State.dispAt_formed _ _ _ h) heq)
  · next heq => exact formed_of_eq (State.dispAt_formed _ _ _ h) heq

@[simp] theorem State.writeHeader_formed {s : State} (b : Bind) (off : Nat) (bs : List Byte) (h : s.mem.Formed) :
    (s.writeHeader b off bs).mem.Formed :=
  State.dispWrite_formed _ _ _ h

@[simp] theorem State.record_formed {s : State} (b : Bind) (i : BitVec 32) (h : s.mem.Formed) :
    (s.record b i).1.mem.Formed :=
  State.dispRead_formed _ _ _ h

@[simp] theorem State.seeTail_formed {s : State} (n queue : Nat) (h : s.mem.Formed) :
    (State.seeTail n queue s).mem.Formed := by
  induction n generalizing s with
  | zero => exact h
  | succ n ih =>
    unfold State.seeTail
    split
    · exact h
    · next b _ =>
      refine ih ?_
      rw [State.mapBind_mem, State.openWork_mem]
      exact State.record_formed b b.tail h

@[simp] theorem State.readTail_formed {s : State} (b : Bind) (h : s.mem.Formed) : (s.readTail b).mem.Formed := by
  unfold State.readTail
  split
  · exact h
  · split
    · next heq => exact formed_of_eq (State.dispRead_formed _ _ _ h) heq
    · next heq =>
      have h1 := formed_of_eq (State.dispRead_formed _ _ _ h) heq
      dsimp only
      split
      · exact State.writeHeader_formed _ _ _ h1
      · exact State.seeTail_formed _ _ h1

@[simp] theorem State.readTails_formed {s : State} (h : s.mem.Formed) : s.readTails.mem.Formed :=
  State.foldl_formed (fun _ b hs => State.readTail_formed b.2 hs) _ h

@[simp] theorem State.refuse_formed {s : State} (q : Queued) (w : Word) (h : s.mem.Formed) :
    (s.refuse q w).mem.Formed := by
  unfold State.refuse
  simp [h]

@[simp] theorem State.copyArgs_formed {s : State} (n : Nat) (sliced half : Bool) (bs : List Byte) (h : s.mem.Formed) :
    (s.copyArgs n sliced half bs).mem.Formed :=
  State.foldl_formed (fun _ _ hs => State.apply_formed _ _ hs) _ h

@[simp] theorem State.startUnit_formed {s : State} (n : Nat) (p : Part) (u : UnitCtx) (r : LaunchRec)
    (h : s.mem.Formed) :
    (s.startUnit n p u r).mem.Formed := by
  unfold State.startUnit
  dsimp only
  split
  · exact State.copyArgs_formed _ _ _ _ (by simpa using h)
  · split
    · exact State.copyArgs_formed _ _ _ _ (by simp [h])
    · split
      · exact State.copyArgs_formed _ _ _ _ (by simp [h])
      · exact State.streamOut_formed _ _ _ h

@[simp] theorem State.bindRecord_formed {s : State} (q : Queued) (cores : List Nat) (h : s.mem.Formed) :
    (s.bindRecord q cores).mem.Formed := by
  unfold State.bindRecord
  dsimp only
  refine State.foldl_formed (fun _ _ hs => State.startUnit_formed _ _ _ _ hs) _ ?_
  simp [apply_ite State.mem, h]

@[simp] theorem State.dispatch_formed {s : State} (h : s.mem.Formed) : s.dispatch.mem.Formed := by
  have h1 : s.readTails.settleMarks.mem.Formed := by simp [h]
  unfold State.dispatch
  dsimp only
  split
  · exact State.refuse_formed _ _ h1
  · split
    · exact h1
    · split
      · refine State.bindRecord_formed _ _ ?_
        rw [State.foldl_mem (fun s x => s.mapBind_mem ..)]
        exact h1
      · exact h1

@[simp] theorem State.countAlone_formed {s : State} (l : Launch) (h : s.mem.Formed) : (s.countAlone l).mem.Formed := by
  unfold State.countAlone
  split
  · next heq => exact State.dispWrite_formed _ _ _ (formed_of_eq (State.dispRead_formed _ _ _ h) heq)
  · next heq => exact formed_of_eq (State.dispRead_formed _ _ _ h) heq

@[simp] theorem State.countDone_formed {s : State} (l : Launch) (h : s.mem.Formed) : (s.countDone l).mem.Formed := by
  unfold State.countDone
  split
  · split <;> simp [h]
  · exact State.countAlone_formed _ h

@[simp] theorem State.completeLaunch_formed {s : State} (l : Launch) (h : s.mem.Formed) :
    (s.completeLaunch l).mem.Formed := by
  unfold State.completeLaunch
  simp [h]

theorem execLaunchCompletion_formed {s : State} (lid : BitVec 32) (h : s.mem.Formed) :
    Out.Formed (execLaunchCompletion lid s) := by
  unfold execLaunchCompletion
  split
  · exact when_formed h (State.completeLaunch_formed _ h)
  · simpa using h

/-! ### Swaps of a sliced core's sets -/

@[simp] theorem State.recallSwap_formed {s : State} (lend : Nat) (h : s.mem.Formed) :
    (s.recallSwap lend).mem.Formed := by
  have h1 := State.takeShadow_formed (s := s.mapCore Core.swap) s.core.num h
  unfold State.recallSwap
  dsimp only
  split
  · split <;> simp_all
  · simp_all

@[simp] theorem State.exchange_formed {s : State} (n : Nat) (e : Nat × Nat × CSet) (h : s.mem.Formed) :
    (s.exchange n e).mem.Formed := by
  have h1 := State.takeShadow_formed n h
  unfold State.exchange
  dsimp only
  refine State.putShadow_formed _ _ ?_
  dsimp only
  split <;> simp [h1]

@[simp] theorem State.swapNow_formed {s : State} (h : s.mem.Formed) : s.swapNow.mem.Formed := by
  unfold State.swapNow
  dsimp only
  split
  · split <;> simp [h]
  · split
    · exact h
    · split
      · exact h
      · split <;> simp [h]

theorem execShadowSwap_formed {s : State} (h : s.mem.Formed) : Out.Formed (execShadowSwap s) :=
  when_formed h (State.swapNow_formed h)

theorem execYield_formed {s : State} (h : s.mem.Formed) : Out.Formed (execYield s) := by
  refine issue_formed h ?_
  split
  · exact State.swapNow_formed h
  · exact h

theorem execReservationPeriodStart_formed {s : State} (n : Nat) (h : s.mem.Formed) :
    Out.Formed (execReservationPeriodStart n s) := by
  unfold execReservationPeriodStart
  split
  · exact when_formed h (by simpa using h)
  · simpa using h

theorem execReservationBudgetSpent_formed {s : State} (n : Nat) (h : s.mem.Formed) :
    Out.Formed (execReservationBudgetSpent n s) := by
  unfold execReservationBudgetSpent
  split
  · exact when_formed h (by simpa using h)
  · simpa using h

/-! ### Partition instructions -/

@[simp] theorem State.answer_formed {s : State} (t : Reg) (r : Outcome) (hr : Outcome.Formed r) (h : s.mem.Formed) :
    (s.answer t r).mem.Formed := by
  unfold State.answer
  split
  · exact hr _ rfl
  · exact h

theorem blockInstr_formed {i : Instr} {t a : Reg} {regs : List Reg} {align len : Nat} {addr : State → Word}
    {act : State → List Byte → Outcome} {s : State} (hact : ∀ u bs, u.mem.Formed → Outcome.Formed (act u bs))
    (h : s.mem.Formed) : Out.Formed (blockInstr i t a regs align len addr act s) := by
  refine lnchIssue_formed h ?_
  dsimp only
  split
  · exact h
  · split
    · next heq => simpa using formed_of_eq (State.checked_formed _ _ _ _ h) heq
    · next u window spans heq =>
      have h1 := formed_of_eq (State.checked_formed _ _ _ _ h) heq
      have h2 := State.readSpans_mem window spans u
      split <;> simp_all

theorem State.slice_formed {s : State} (on : Bool) (bs : List Byte) (h : s.mem.Formed) :
    Outcome.Formed (s.slice on bs) := by
  unfold State.slice
  dsimp only
  split
  · simp
  · split
    · simp
    · rw [Outcome.formed_ok]
      exact State.foldl_formed (fun _ _ hs => by simp [hs]) _ h

theorem State.offer_formed {s : State} (bs : List Byte) (h : s.mem.Formed) : Outcome.Formed (s.offer bs) := by
  unfold State.offer
  dsimp only
  split
  · simp
  · split
    · simp
    · split <;> simp [h]

theorem State.lend_formed {s : State} (bs : List Byte) (h : s.mem.Formed) : Outcome.Formed (s.lend bs) := by
  unfold State.lend
  dsimp only
  split
  · simp
  · split
    · simp
    · split
      · simp
      · split
        · simp
        · split
          · simp
          · split
            · simp
            · rw [Outcome.formed_ok]
              exact State.foldl_formed (fun _ _ hs => by simp [hs]) _ h

theorem execPslice_formed {s : State} (t a : Reg) (q : BitVec 1) (h : s.mem.Formed) : Out.Formed (execPslice t a q s) :=
  blockInstr_formed (fun _ bs hu => State.slice_formed _ bs hu) h

theorem execPresv_formed {s : State} (t a : Reg) (q : BitVec 1) (h : s.mem.Formed) :
    Out.Formed (execPresv t a q s) := by
  unfold execPresv
  split
  · exact blockInstr_formed (fun _ bs hu => State.offer_formed bs hu) h
  · exact lnchIssue_formed h (by simpa using h)

theorem execPlend_formed {s : State} (t a : Reg) (h : s.mem.Formed) : Out.Formed (execPlend t a s) :=
  blockInstr_formed (fun _ bs hu => State.lend_formed bs hu) h

theorem execPrecall_formed {s : State} (t a : Reg) (h : s.mem.Formed) : Out.Formed (execPrecall t a s) :=
  lnchIssue_formed h (by simpa using h)

@[simp] theorem State.endStream_formed {s : State} (e : Nat × Nat × CSet) (h : s.mem.Formed) :
    (s.endStream e).mem.Formed := by
  unfold State.endStream
  dsimp only
  refine State.clearCore_formed _ ?_
  dsimp only
  split <;> simp [h]

theorem execSetStreamEnd_formed {s : State} (h : s.mem.Formed) : Out.Formed (execSetStreamEnd s) := by
  unfold execSetStreamEnd
  split <;> simp [h]

@[simp] theorem State.standOn_formed {s : State} (n : Nat) (c : CSet) (p : Parked) (h : s.mem.Formed) :
    (s.standOn n c p).mem.Formed := by
  unfold State.standOn
  dsimp only
  split
  · exact Memory.putHalf_formed _ _ _ (State.clearHalf_formed _ _ h)
  · split
    · exact State.putShadow_formed _ _ h
    · exact h

@[simp] theorem State.resumeOn_formed {s : State} (i n : Nat) (c : CSet) (h : s.mem.Formed) :
    (s.resumeOn i n c).mem.Formed := by
  unfold State.resumeOn
  dsimp only
  refine State.standOn_formed _ _ _ ?_
  cases c.unit <;> exact h

theorem execSuspendedUnitResume_formed {s : State} (i : Nat) (h : s.mem.Formed) :
    Out.Formed (execSuspendedUnitResume i s) := by
  unfold execSuspendedUnitResume
  split
  · split <;> simp [h]
  · simpa using h

/-! ### Launch instructions -/

theorem execHalt_formed {s : State} (h : s.mem.Formed) : Out.Formed (execHalt s) := by
  refine issue_formed h ?_
  split
  · exact h
  · split
    · simpa using h
    · split <;> simpa using h

@[simp] theorem State.enqueue_formed {s : State} (b : Bind) (bs : List Byte) (h : s.mem.Formed) :
    (s.enqueue b bs).mem.Formed := by
  unfold State.enqueue
  exact State.writeHeader_formed _ _ _ (State.dispWrite_formed _ _ _ h)

@[simp] theorem State.launchRecord_formed {s : State} (t : Reg) (queue : Nat) (bs : List Byte) (h : s.mem.Formed) :
    (s.launchRecord t queue bs).mem.Formed := by
  unfold State.launchRecord
  split
  · exact h
  · split
    · exact h
    · split
      · exact h
      · dsimp only
        split
        · exact State.enqueue_formed _ _ h
        · split
          · exact State.enqueue_formed _ _ h
          · exact h

theorem execLaunch_formed {s : State} (t a b : Reg) (h : s.mem.Formed) : Out.Formed (execLaunch t a b s) := by
  refine issue_formed h ?_
  dsimp only
  split
  · exact h
  · split
    · next heq => simpa using formed_of_eq (State.checked_formed _ _ _ _ h) heq
    · next u window spans heq =>
      have h1 := formed_of_eq (State.checked_formed _ _ _ _ h) heq
      have h2 := State.readSpans_mem window spans u
      split <;> simp_all

theorem execLwait_formed {s : State} (t a : Reg) (q : BitVec 2) (h : s.mem.Formed) :
    Out.Formed (execLwait t a q s) := by
  refine issue_formed h ?_
  split <;> exact h

theorem execCntrd_formed {s : State} (t a : Reg) (q : BitVec 3) (h : s.mem.Formed) :
    Out.Formed (execCntrd t a q s) := by
  refine issue_formed h ?_
  dsimp only
  split
  · split <;> exact h
  · split <;> exact h

@[simp] theorem State.cancel_formed {s : State} (t : Reg) (k : WorkKey) (ending : Bool) (h : s.mem.Formed) :
    (s.cancel t k ending).mem.Formed := by
  unfold State.cancel
  dsimp only
  rw [State.begin_mem, State.foldl_mem (fun s u => s.freezeUnit_mem ..)]
  split <;> exact State.readTails_formed h

theorem execCancel_formed {s : State} (t a : Reg) (q : BitVec 4) (h : s.mem.Formed) :
    Out.Formed (execCancel t a q s) := by
  refine issue_formed h ?_
  split
  · exact h
  · rw [State.advance_mem]
    exact State.cancel_formed _ _ _ h

@[simp] theorem State.bind_formed {s : State} (i : Nat) (b : Bind) (h : s.mem.Formed) : (s.bind i b).mem.Formed := by
  have h1 := State.dispRead_formed (s.partOf b.part) b.ring.toNat 16 h
  unfold State.bind
  dsimp only
  split
  · exact h1
  · split
    · exact State.writeHeader_formed _ _ _ h1
    · exact State.seeTail_formed _ _ h1

theorem State.qbind_formed {s : State} (i : Nat) (bs : List Byte) (h : s.mem.Formed) :
    Outcome.Formed (s.qbind i bs) := by
  unfold State.qbind
  dsimp only
  split
  · simp
  · split
    · simp
    · split
      · simp
      · rw [Outcome.formed_ok]
        dsimp only
        split
        · exact State.bind_formed _ _ h
        · exact h

theorem State.qunbind_formed {s : State} (i : Nat) (h : s.mem.Formed) : Outcome.Formed (s.qunbind i) := by
  unfold State.qunbind
  split <;> simp [h]

theorem execQbind_formed {s : State} (t a b : Reg) (q : BitVec 1) (h : s.mem.Formed) :
    Out.Formed (execQbind t a b q s) := by
  unfold execQbind
  split
  · exact blockInstr_formed (fun _ bs hu => State.qbind_formed _ bs hu) h
  · exact lnchIssue_formed h (State.answer_formed _ _ (State.qunbind_formed _ h) h)

@[simp] theorem State.passCores_formed {s : State} (p : Nat) (mask : BitVec 256) (h : s.mem.Formed) :
    (s.passCores p mask).mem.Formed :=
  State.foldl_formed (fun _ n hs => State.clearCore_formed n hs) _ h

theorem State.pcreate_formed {s : State} (bs : List Byte) (h : s.mem.Formed) : Outcome.Formed (s.pcreate bs) := by
  unfold State.pcreate
  dsimp only
  split
  · simp
  · split
    · simp
    · split
      · simp
      · simp
      · split
        · simp
        · rw [Outcome.formed_ok]
          exact State.passCores_formed _ _ h

theorem execPcreate_formed {s : State} (t a : Reg) (h : s.mem.Formed) : Out.Formed (execPcreate t a s) :=
  blockInstr_formed (fun _ bs hu => State.pcreate_formed bs hu) h

theorem State.grantHead_formed {s : State} (p : Part) (bs : List Byte) (h : s.mem.Formed) :
    Outcome.Formed (s.grantHead p bs) := by
  unfold State.grantHead
  dsimp only
  split
  · simp
  · split <;> simp [h]

theorem State.grantCores_formed {s : State} (p : Part) (bs : List Byte) (h : s.mem.Formed) :
    Outcome.Formed (s.grantCores p bs) := by
  unfold State.grantCores
  dsimp only
  split
  · simp
  · split <;> simp [h]

theorem State.release_formed {s : State} (p : Part) (h : s.mem.Formed) : Outcome.Formed (s.release p) := by
  unfold State.release
  split <;> simp [h]

theorem State.grantBases_formed {s : State} (p : Part) (bs : List Byte) (h : s.mem.Formed) :
    Outcome.Formed (s.grantBases p bs) := by
  unfold State.grantBases
  dsimp only
  split
  · simp
  · split <;> simp [h]

theorem State.grant_formed {s : State} (p : Part) (q : Nat) (b : Word) (bs : List Byte) (h : s.mem.Formed) :
    Outcome.Formed (s.grant p q b bs) := by
  unfold State.grant
  split
  · exact State.grantHead_formed p bs h
  · exact State.grantCores_formed p bs h
  · simpa using h
  · split <;> simp [h]
  · exact State.release_formed p h
  · simpa using h
  · exact State.grantBases_formed p bs h

theorem State.pgrant_formed {s : State} (a b : Word) (q : Nat) (bs : List Byte) (h : s.mem.Formed) :
    Outcome.Formed (s.pgrant a b q bs) := by
  unfold State.pgrant
  split
  · exact State.grant_formed _ _ _ _ h
  · simp

theorem grantWrite_formed {i : Instr} {t a b : Reg} {s : State} (h : s.mem.Formed) :
    Out.Formed (grantWrite i t a b s) := by
  refine lnchIssue_formed h ?_
  dsimp only
  split
  · exact h
  · split
    · next heq => simpa using formed_of_eq (State.checked_formed _ _ _ _ h) heq
    · next u window spans heq =>
      have h1 := formed_of_eq (State.checked_formed _ _ _ _ h) heq
      split <;> simp [h1]

theorem execPgrant_formed {s : State} (t a b : Reg) (q : BitVec 3) (h : s.mem.Formed) :
    Out.Formed (execPgrant t a b q s) := by
  unfold execPgrant
  split
  · exact grantWrite_formed h
  · split
    · exact lnchIssue_formed h (State.answer_formed _ _ (State.pgrant_formed _ _ _ _ h) h)
    · exact blockInstr_formed (fun _ bs hu => State.pgrant_formed _ _ _ bs hu) h

theorem execDispatchAdmit_formed {s : State} (h : s.mem.Formed) : Out.Formed (execDispatchAdmit s) := by
  simp [execDispatchAdmit, h]

end Sys2Proof.Machine
end

section
/-!
SUPPORT. Matrix nodes, debug instructions, completions, the host's side, the steward and reset keep the form.
-/

namespace Sys2Proof.Machine

/-! ### Matrix -/

theorem execMxBlockEntry_formed {s : State} (k : Nat) (h : s.mem.Formed) : Out.Formed (execMxBlockEntry k s) := by
  unfold execMxBlockEntry
  split
  · simpa using h
  · exact when_formed h h

theorem execPlaneSwap_formed {s : State} (h : s.mem.Formed) : Out.Formed (execPlaneSwap s) :=
  when_formed h h

theorem execTileSourceRow_formed {s : State} (h : s.mem.Formed) : Out.Formed (execTileSourceRow s) := by
  unfold execTileSourceRow
  split
  · simpa using h
  · dsimp only
    split
    · simpa using h
    · exact when_formed h (by simpa using h)

theorem execAccumulatorAddition_formed {s : State} (n : Nat) (h : s.mem.Formed) :
    Out.Formed (execAccumulatorAddition n s) := by
  unfold execAccumulatorAddition
  split
  · simpa using h
  · split <;> simpa using h

@[simp] theorem State.writeRow_formed {s : State} (p : MxParams) (n k g : Nat) (lanes : BitVec 4096)
    (mark : Option (BitVec 6)) (h : s.mem.Formed) : (s.writeRow p n k g lanes mark).mem.Formed := by
  unfold State.writeRow
  dsimp only
  rw [State.closeTile_mem, State.mapFab_mem]
  split
  · exact State.write_formed _ _ _ _ h
  · exact h

@[simp] theorem State.startRelease_formed {s : State} (im : Image) (n : Nat) (p : AnParams) (k : Nat)
    (lanes : BitVec 4096) (mark : Option (BitVec 6)) (w : AnWork) (h : s.mem.Formed) :
    (s.startRelease im n p k lanes mark w).mem.Formed := by
  unfold State.startRelease
  split
  · exact State.writeRow_formed _ _ _ _ _ _ h
  · exact h

@[simp] theorem State.beginRelease_formed {s : State} (im : Image) (n : Nat) (p : AnParams) (c : AnCand)
    (h : s.mem.Formed) : (s.beginRelease im n p c).mem.Formed := by
  unfold State.beginRelease
  dsimp only
  split
  · simpa using h
  · exact State.startRelease_formed _ _ _ _ _ _ _ (by simpa using h)

theorem execAccumulatorRelease_formed {s : State} (n : Nat) (h : s.mem.Formed) :
    Out.Formed (execAccumulatorRelease n s) := by
  unfold execAccumulatorRelease
  split
  · simpa using h
  · split
    · exact when_formed h (by simpa using h)
    · split
      · simpa using h
      · rw [Out.formed_next]
        exact State.beginRelease_formed _ _ _ _ (by simpa using h)

theorem execPairRelease_formed {s : State} (n k : Nat) (h : s.mem.Formed) : Out.Formed (execPairRelease n k s) := by
  unfold execPairRelease
  split
  · simpa using h
  · split
    · dsimp only
      rw [Out.formed_next]
      exact State.startRelease_formed _ _ _ _ _ _ _ (by simpa using h)
    · simpa using h

theorem execGpFiring_formed {s : State} (k : Nat) (h : s.mem.Formed) : Out.Formed (execGpFiring k s) := by
  unfold execGpFiring
  split
  · simpa using h
  · split
    · simpa using h
    · split
      · exact when_formed h h
      · exact when_formed h h

@[simp] theorem State.beginMxw_formed {s : State} (t : Reg) (even odd b : Word) (q : BitVec 3) (h : s.mem.Formed) :
    (s.beginMxw t even odd b q).mem.Formed := by
  unfold State.beginMxw
  dsimp only
  split
  · split
    · next heq => simpa using formed_of_eq (State.checked_formed _ _ _ _ h) heq
    · next u window spans heq =>
      have h1 := formed_of_eq (State.checked_formed _ _ _ _ h) heq
      have h2 := State.readSpans_mem window spans u
      split <;> simp_all
  · exact h

theorem execMxw_formed {s : State} (t a b : Reg) (q : BitVec 3) (h : s.mem.Formed) :
    Out.Formed (execMxw t a b q s) := by
  unfold execMxw
  refine issueUnless_formed h ?_
  dsimp only
  split
  · exact h
  · split
    · exact h
    · split
      · exact h
      · exact State.beginMxw_formed _ _ _ _ _ h

theorem execMxclr_formed {s : State} (t a : Reg) (q : BitVec 3) (h : s.mem.Formed) :
    Out.Formed (execMxclr t a q s) := by
  refine matIssue_formed h ?_
  split <;> simpa using h

theorem execAccrd_formed {s : State} (t a b : Reg) (q : BitVec 3) (h : s.mem.Formed) :
    Out.Formed (execAccrd t a b q s) := by
  refine matIssue_formed h ?_
  dsimp only
  split
  · exact h
  · split
    · next heq => simpa using formed_of_eq (State.checked_formed _ _ _ _ h) heq
    · next heq =>
      have h1 := formed_of_eq (State.checked_formed _ _ _ _ h) heq
      split
      · exact h1
      · split <;> exact h1

@[simp] theorem State.endAccrd_formed {s : State} (id n k : Nat) (window : Bool) (spans : List Span) (h : s.mem.Formed)
    :
    (s.endAccrd id n k window spans).mem.Formed := by
  unfold State.endAccrd
  split
  · exact h
  · exact State.write_formed _ _ _ _ h

theorem execGpld_formed {s : State} (t a : Reg) (h : s.mem.Formed) : Out.Formed (execGpld t a s) := by
  refine matIssue_formed h ?_
  dsimp only
  split
  · exact h
  · split
    · next heq => simpa using formed_of_eq (State.checked_formed _ _ _ _ h) heq
    · next heq => simpa using formed_of_eq (State.checked_formed _ _ _ _ h) heq

/-! ### Debugging -/

theorem execFreeze_formed {s : State} (t a : Reg) (q : BitVec 1) (h : s.mem.Formed) :
    Out.Formed (execFreeze t a q s) := by
  refine issue_formed h ?_
  split
  · exact h
  · rw [State.advance_mem, State.begin_mem, State.foldl_mem (fun u n => u.freezeAt_mem ..)]
    exact h

theorem execThawResume_formed {s : State} (t a : Reg) (q : BitVec 1) (h : s.mem.Formed) :
    Out.Formed (execThawResume t a q s) := by
  refine issue_formed h ?_
  split
  · exact h
  · split
    · exact h
    · dsimp only
      rw [State.advance_mem, State.begin_mem, State.foldl_mem (fun u n => u.thawAt_mem ..)]
      exact h

theorem execThawReleaseHold_formed {s : State} (t : Reg) (h : s.mem.Formed) : Out.Formed (execThawReleaseHold t s) := by
  refine issue_formed h ?_
  split <;> exact h

@[simp] theorem State.vacate_formed {s : State} (acts : CSet → Bool) (n : Nat) (h : s.mem.Formed) :
    (s.vacate acts n).mem.Formed := by
  unfold State.vacate
  dsimp only
  split
  · exact State.clearCore_formed _ h
  · rw [State.setCore_mem]
    split <;> split <;> simp [h]

theorem execThawVacate_formed {s : State} (t a : Reg) (q : BitVec 1) (h : s.mem.Formed) :
    Out.Formed (execThawVacate t a q s) := by
  refine issue_formed h ?_
  split
  · exact h
  · split
    · exact h
    · split
      · exact h
      · rw [State.advance_mem, State.later_mem]
        exact State.foldl_formed (fun _ n hs => State.vacate_formed _ n hs) _ h

@[simp] theorem State.skout_formed {s : State} (t : Reg) (n : Nat) (va : Word) (h : s.mem.Formed) :
    (s.skout t n va).mem.Formed := by
  unfold State.skout
  split
  · exact h
  · split
    · exact h
    · split
      · exact h
      · dsimp only
        split
        · next heq => simpa using formed_of_eq (State.resolve_formed _ _ _ h) heq
        · next heq =>
          have h1 := formed_of_eq (State.resolve_formed _ _ _ h) heq
          rw [State.spent_mem, State.later_mem]
          exact State.write_formed _ _ _ _ (by simpa using h1)

theorem execSkout_formed {s : State} (t a b : Reg) (h : s.mem.Formed) : Out.Formed (execSkout t a b s) := by
  refine issue_formed h ?_
  dsimp only
  split
  · exact h
  · split
    · next heq => simpa using formed_of_eq (State.checked_formed _ _ _ _ h) heq
    · next heq => simp [formed_of_eq (State.checked_formed _ _ _ _ h) heq]

@[simp] theorem State.install_formed {s : State} (n : Nat) (sk : Skein) (f : Nat → Nat) (h : s.mem.Formed) :
    (s.install n sk f).mem.Formed := by
  unfold State.install
  dsimp only
  split
  · refine State.standOn_formed _ _ _ ?_
    split <;> exact h
  · refine Memory.foldl_put_formed _ _ (Memory.clear_formed _ _ ?_)
    split <;> exact h

@[simp] theorem State.skinFrom_formed {s : State} (t : Reg) (n : Nat) (va : Word) (head : List Byte) (h : s.mem.Formed)
    :
    (s.skinFrom t n va head).mem.Formed := by
  unfold State.skinFrom
  dsimp only
  split
  · exact h
  · split
    · exact h
    · split
      · next heq => simpa using formed_of_eq (State.resolve_formed _ _ _ h) heq
      · next u window spans heq =>
        have h1 := formed_of_eq (State.resolve_formed _ _ _ h) heq
        have h2 := State.readSpans_mem window spans u
        split
        · simp_all
        · split <;> simp_all

theorem execSkin_formed {s : State} (t a b : Reg) (h : s.mem.Formed) : Out.Formed (execSkin t a b s) := by
  refine issue_formed h ?_
  dsimp only
  split
  · exact h
  · split
    · next heq => simpa using formed_of_eq (State.checked_formed _ _ _ _ h) heq
    · next u window spans heq =>
      have h1 := formed_of_eq (State.checked_formed _ _ _ _ h) heq
      have h2 := State.readSpans_mem window spans u
      split
      · exact h1
      · split <;> simp_all

theorem execBrkn_formed {s : State} (t a b : Reg) (q : BitVec 2) (h : s.mem.Formed) :
    Out.Formed (execBrkn t a b q s) := by
  refine issue_formed h ?_
  dsimp only
  split <;> exact h

theorem execTrcon_formed {s : State} (t a : Reg) (h : s.mem.Formed) : Out.Formed (execTrcon t a s) := by
  refine issue_formed h ?_
  dsimp only
  split
  · exact h
  · split
    · next heq => simpa using formed_of_eq (State.checked_formed _ _ _ _ h) heq
    · next u window spans heq =>
      have h1 := formed_of_eq (State.checked_formed _ _ _ _ h) heq
      have h2 := State.readSpans_mem window spans u
      split
      · simp_all
      · split <;> simp_all

theorem execTrcoff_formed {s : State} (t : Reg) (h : s.mem.Formed) : Out.Formed (execTrcoff t s) := by
  have h1 := State.traceFlush_formed (s.cycle + 1) 64 h
  refine issue_formed h ?_
  dsimp only
  split
  · split
    · exact h1
    · exact h
  · exact h

theorem execWalk_formed {s : State} (t a : Reg) (h : s.mem.Formed) : Out.Formed (execWalk t a s) := by
  refine issue_formed h ?_
  split
  · exact h
  · dsimp only
    split
    · split <;> exact h
    · exact h

theorem execTsrd_formed {s : State} (t a : Reg) (q : BitVec 2) (h : s.mem.Formed) : Out.Formed (execTsrd t a q s) := by
  refine issue_formed h ?_
  split <;> simpa using h

/-! ### Completions -/

@[simp] theorem State.completeAway_formed {s : State} (id : Nat) (w : Wait) (h : s.mem.Formed) :
    (s.completeAway id w).mem.Formed := by
  unfold State.completeAway
  split
  · split <;> exact h
  all_goals simp [h]

@[simp] theorem State.completeHere_formed {s : State} (id : Nat) (w : Wait) (h : s.mem.Formed) :
    (s.completeHere id w).mem.Formed := by
  unfold State.completeHere
  split
  all_goals simp [h]

@[simp] theorem State.completeOn_formed {s : State} (id : Nat) (h : s.mem.Formed) : (s.completeOn id).mem.Formed := by
  unfold State.completeOn
  split
  · split <;> simp [h]
  · split
    · rw [State.flip_mem]
      exact State.completeAway_formed _ _ (by simpa using h)
    · exact h

/-- An act on the set of an ended unit keeps the form if it does on a current core's. -/
theorem State.asOrphan_formed {s : State} (i : Nat) {act : State → State}
    (hact : ∀ s, s.mem.Formed → (act s).mem.Formed) (h : s.mem.Formed) : (s.asOrphan i act).mem.Formed := by
  unfold State.asOrphan
  dsimp only
  split
  · rw [State.onCore_mem]
    split <;> refine hact _ ?_ <;> split <;> simpa using h
  · exact h

@[simp] theorem State.completeOrphan_formed {s : State} (id : Nat) (h : s.mem.Formed) :
    (s.completeOrphan id).mem.Formed := by
  unfold State.completeOrphan
  split
  · exact h
  · dsimp only
    split
    · exact h
    · simpa using h
    · simpa using h
    · simpa using h
    · split
      · exact h
      · exact State.asOrphan_formed _ (fun _ hs => State.completeAway_formed _ _ hs) h
    · exact State.asOrphan_formed _ (fun _ hs => State.completeAway_formed _ _ hs) h

theorem execTokenCompletion_formed {s : State} (id : Nat) (h : s.mem.Formed) :
    Out.Formed (execTokenCompletion id s) := by
  unfold execTokenCompletion
  split
  · simp [h]
  · simp [h]

/-! ### The host's side -/

theorem hostAct_formed {c : HostCmd} {level : Nat} {unused : Bool} {act : Part → State → State} {s : State}
    (hact : ∀ p, (act p s).mem.Formed) (h : s.mem.Formed) : Out.Formed (hostAct c level unused act s) := by
  unfold hostAct
  split
  · simpa using h
  · split
    · simpa using h
    · split
      · simpa using h
      · split
        · simpa using h
        · simpa using hact _

theorem hostCommand_formed {c : HostCmd} {level : Nat} {unused : Bool} {act : Part → State → Effect} {s : State}
    (hact : ∀ p, (act p s).1.mem.Formed) (h : s.mem.Formed) : Out.Formed (hostCommand c level unused act s) := by
  unfold hostCommand
  split
  · simpa using h
  · exact hostAct_formed (fun p => hact p) h

@[simp] theorem State.hostApply_formed {s : State} (p pa : Nat) (bs : List Byte) (h : s.mem.Formed) :
    (s.hostApply p pa bs).mem.Formed := by
  have h1 := State.apply_formed pa
    ((List.range bs.length).map (fun i => if s.childTail (pa + i) then s.mem.get (pa + i) else bs.getD i 0)) h
  unfold State.hostApply
  dsimp only
  split
  · exact h1
  · rw [State.logOpen_mem]
    exact h1

theorem execWriteArrival_formed {s : State} (i : Nat) (h : s.mem.Formed) : Out.Formed (execWriteArrival i s) := by
  unfold execWriteArrival
  split
  · split
    · refine when_formed h ?_
      rw [State.settleHost_mem, State.handOver_mem]
      split
      · exact h
      · split <;> simp [h]
    · simpa using h
  · simpa using h

@[simp] theorem State.hostAt_formed {s : State} (p : Part) (kind : AccKind) (va : Nat) (h : s.mem.Formed) :
    (s.hostAt p kind va).1.mem.Formed := by
  have h1 := State.walk_formed p kind va h
  unfold State.hostAt
  split
  · exact h
  · split <;> simp_all

@[simp] theorem State.hostSpans_formed {s : State} (p : Part) (l : List (Nat × Nat)) (h : s.mem.Formed) :
    (State.hostSpans p l s).1.mem.Formed := by
  induction l generalizing s with
  | nil => exact h
  | cons x rest ih =>
    unfold State.hostSpans
    split
    · next heq => exact formed_of_eq (State.hostAt_formed _ _ _ h) heq
    · next heq => exact ih (formed_of_eq (State.hostAt_formed _ _ _ h) heq)

@[simp] theorem State.hostWrite_formed {s : State} (p : Part) (c : HostCmd) (h : s.mem.Formed) :
    (s.hostWrite p c).mem.Formed := by
  unfold State.hostWrite
  dsimp only
  split <;> simp [h]

theorem execWrite_formed {s : State} (c : HostCmd) (h : s.mem.Formed) : Out.Formed (execWrite c s) := by
  refine hostAct_formed (fun p => ?_) h
  split <;> simp [h]

@[simp] theorem State.hostRead_formed {s : State} (p : Part) (l : List (Nat × Nat)) (h : s.mem.Formed) :
    (State.hostRead p l s).1.mem.Formed := by
  induction l generalizing s with
  | nil => exact h
  | cons x rest ih =>
    unfold State.hostRead
    split
    · next heq => exact formed_of_eq (State.hostAt_formed _ _ _ h) heq
    · next u pa heq =>
      have h1 := formed_of_eq (State.hostAt_formed _ _ _ h) heq
      split
      · simpa using h1
      · have h2 := ih h1
        split <;> simp_all

theorem execRead_formed {s : State} (c : HostCmd) (h : s.mem.Formed) : Out.Formed (execRead c s) := by
  refine hostCommand_formed (fun p => ?_) h
  have h1 := State.hostRead_formed p (piecesOf c.operand.toNat c.length.toNat) h
  split
  · exact h
  · split <;> simp_all

theorem execLogep_formed {s : State} (c : HostCmd) (h : s.mem.Formed) : Out.Formed (execLogep c s) := by
  refine hostCommand_formed (fun p => ?_) h
  split
  · split <;> exact h
  · exact h

theorem execTimebase_formed {s : State} (c : HostCmd) (h : s.mem.Formed) : Out.Formed (execTimebase c s) :=
  hostCommand_formed (fun _ => h) h

theorem execWinmap_formed {s : State} (c : HostCmd) (h : s.mem.Formed) : Out.Formed (execWinmap c s) := by
  refine hostCommand_formed (fun p => ?_) h
  dsimp only
  split <;> exact h

theorem dirtyCommand_formed {c : HostCmd} {mine : Bool} {act : Part → State → Effect} {s : State}
    (hact : ∀ p, (act p s).1.mem.Formed) (h : s.mem.Formed) : Out.Formed (dirtyCommand c mine act s) := by
  unfold dirtyCommand
  split
  · exact hostCommand_formed hact h
  · simpa using h

theorem execSnapshot_formed {s : State} (c : HostCmd) (h : s.mem.Formed) : Out.Formed (execSnapshot c s) := by
  refine hostCommand_formed (fun p => ?_) h
  dsimp only
  split <;> simpa using h

theorem execAttest_formed {s : State} (c : HostCmd) (h : s.mem.Formed) : Out.Formed (execAttest c s) := by
  refine hostCommand_formed (fun p => ?_) h
  split <;> simpa using h

theorem execAdopt_formed {s : State} (c : HostCmd) (h : s.mem.Formed) : Out.Formed (execAdopt c s) := by
  refine hostCommand_formed (fun p => ?_) h
  split <;> exact h

theorem execLogMessage_formed {s : State} (part : Nat) (h : s.mem.Formed) : Out.Formed (execLogMessage part s) := by
  unfold execLogMessage
  split
  · exact when_formed h h
  · split
    · split
      · exact when_formed h h
      · simpa using h
    · simpa using h

@[simp] theorem State.made_formed {s : State} (r : Outcome) (hr : Outcome.Formed r) (h : s.mem.Formed) :
    (s.made r).mem.Formed := by
  unfold State.made
  split
  · exact hr _ rfl
  · exact h

theorem State.byBlock_formed {s : State} (len : Nat) (block : List Byte) {act : State → List Byte → Outcome}
    (hact : Outcome.Formed (act s block)) (h : s.mem.Formed) : (s.byBlock len block act).mem.Formed := by
  unfold State.byBlock
  split
  · exact State.made_formed _ hact h
  · exact h

@[simp] theorem State.steward_formed {s : State} (a : StewardAct) (h : s.mem.Formed) : (s.steward a).mem.Formed := by
  unfold State.steward
  split
  · simpa using h
  · exact State.byBlock_formed _ _ (State.qbind_formed _ _ h) h
  · exact State.made_formed _ (State.qunbind_formed _ h) h
  · exact State.byBlock_formed _ _ (State.pcreate_formed _ h) h
  · split
    · exact State.byBlock_formed _ _ (State.pgrant_formed _ _ _ _ h) h
    · exact h
  · exact State.byBlock_formed _ _ (State.slice_formed _ _ h) h
  · exact State.byBlock_formed _ _ (State.offer_formed _ h) h
  · simpa using h
  · exact State.byBlock_formed _ _ (State.lend_formed _ h) h
  · next n => cases s.lendNamed n <;> simpa using h

theorem execMemoryError_formed {s : State} (pa : Nat) (h : s.mem.Formed) : Out.Formed (execMemoryError pa s) := by
  unfold execMemoryError
  split
  · simpa using h
  · split
    · simpa using h
    · split <;> simpa using h

theorem execReset_formed (s : State) : Out.Formed (execReset s) :=
  (Out.formed_next _).mpr Memory.nil_formed

theorem execCoolantOver75_formed {s : State} (h : s.mem.Formed) : Out.Formed (execCoolantOver75 s) := by
  unfold execCoolantOver75
  simp [State.foldl_mem (fun (s : State) n => s.freezeAt_mem n _), h]

theorem execTrapEntry_formed {s : State} (h : s.mem.Formed) : Out.Formed (execTrapEntry s) := by
  unfold execTrapEntry
  split <;> simpa using h

end Sys2Proof.Machine
end

section
/-!
SUPPORT. Every instruction, event and host command keeps the form: the arms of `exec`, each by the lemma of its family.
-/

namespace Sys2Proof.Machine

/-! ### Every instruction and event -/

theorem aluRR_formed {i : Instr} {d a b : Reg} {f : Word → Word → Word} {s : State} (h : s.mem.Formed) :
    Out.Formed (aluRR i d a b f s) :=
  issue_formed h h

theorem aluR_formed {i : Instr} {d a : Reg} {f : Word → Word} {s : State} (h : s.mem.Formed) :
    Out.Formed (aluR i d a f s) :=
  issue_formed h h

theorem aluMul_formed {i : Instr} {d a b : Reg} {f : Word → Word → Word} {s : State} (h : s.mem.Formed) :
    Out.Formed (aluMul i d a b f s) :=
  issue_formed h h

theorem aluDiv_formed {i : Instr} {d a b : Reg} {f : Word → Word → Word} {s : State} (h : s.mem.Formed) :
    Out.Formed (aluDiv i d a b f s) :=
  issue_formed h (by simpa using h)

theorem branchOn_formed {i : Instr} {a b : Reg} {o : BitVec 11} {c : Word → Word → Bool} {s : State} (h : s.mem.Formed)
    :
    Out.Formed (branchOn i a b o c s) :=
  issue_formed h (by simpa using h)

theorem intFire_formed {i : Instr} {m : BitVec 2} {x y : Target} {op : Nat → Nat → Nat → Nat} {s : State}
    (h : s.mem.Formed) : Out.Formed (intFire i m x y op s) :=
  fabMap_formed h

theorem intFire1_formed {i : Instr} {m : BitVec 2} {x y : Target} {op : Nat → Nat → Nat → Nat} {s : State}
    (h : s.mem.Formed) : Out.Formed (intFire1 i m x y op s) :=
  fabMap_formed h

theorem fpFire_formed {i : Instr} {m : BitVec 2} {x y : Target} {op : FFmt → Nat → Nat → Nat} {s : State}
    (h : s.mem.Formed) : Out.Formed (fpFire i m x y op s) :=
  fabMap_formed h

theorem fpFire1_formed {i : Instr} {m : BitVec 2} {x y : Target} {op : FFmt → Nat → Nat} {s : State}
    (h : s.mem.Formed) : Out.Formed (fpFire1 i m x y op s) :=
  fabMap_formed h

theorem fpFireK_formed {i : Instr} {m : BitVec 2} {x y : Target} {op : FFmt → Nat → Nat → Nat} {s : State}
    (h : s.mem.Formed) : Out.Formed (fpFireK i m x y op s) :=
  fabMap_formed h

theorem fpFireSign_formed {i : Instr} {m : BitVec 2} {x y : Target} {op : FFmt → Nat → Nat} {s : State}
    (h : s.mem.Formed) : Out.Formed (fpFireSign i m x y op s) :=
  fabMap_formed h

theorem atomicInstr_formed {i : Instr} {t a b : Reg} {q : BitVec 4} {kind : BankKind} {quiet : Bool} {s : State}
    (h : s.mem.Formed) : Out.Formed (atomicInstr i t a b q kind quiet s) :=
  bankInstr_formed h

/-- Every instruction, event and host command keeps memory in its canonical form. -/
theorem exec_formed (i : Instr) {s : State} (h : s.mem.Formed) : Out.Formed (exec i s) := by
  cases i with
  | add | sub | and | or | xor | andn | shl | shr | sra | min | max | minu | maxu | cmpeq | cmpne | cmplt | cmpltu
  | cmple | cmpleu =>
    simp only [exec_add, exec_sub, exec_and, exec_or, exec_xor, exec_andn, exec_shl, exec_shr, exec_sra, exec_min,
      exec_max, exec_minu, exec_maxu, exec_cmpeq, exec_cmpne, exec_cmplt, exec_cmpltu, exec_cmple, exec_cmpleu]
    exact aluRR_formed h
  | clz | popc | addi | andi | ori | xori | shli | shri | srai | cmplti | cmpeqi | sext | zext =>
    simp only [exec_clz, exec_popc, exec_addi, exec_andi, exec_ori, exec_xori, exec_shli, exec_shri, exec_srai,
      exec_cmplti, exec_cmpeqi, exec_sext, exec_zext]
    exact aluR_formed h
  | mul | mulh | mulhu =>
    simp only [exec_mul, exec_mulh, exec_mulhu]
    exact aluMul_formed h
  | divs | divu | rems | remu =>
    simp only [exec_divs, exec_divu, exec_rems, exec_remu]
    exact aluDiv_formed h
  | lui | addpc | lih | jal | nop | tokwait | mfs | mts =>
    simp only [exec_lui, exec_addpc, exec_lih, exec_jal, exec_nop, exec_tokwait, exec_mfs, exec_mts]
    exact issue_formed h h
  | beq | bne | blt | bge | bltu | bgeu =>
    simp only [exec_beq, exec_bne, exec_blt, exec_bge, exec_bltu, exec_bgeu]
    exact branchOn_formed h
  | btr =>
    simp only [exec_btr]
    exact issue_formed h (by simpa using h)
  | jalr => exact execJalr_formed _ _ _ h
  | ldw | ldd =>
    simp only [exec_ldw, exec_ldd]
    exact loadInstr_formed h
  | stw | std =>
    simp only [exec_stw, exec_std]
    exact storeInstr_formed h
  | halt => exact execHalt_formed h
  | yield => exact execYield_formed h
  | trap =>
    simp only [exec_trap]
    exact issue_formed h (by simpa using h)
  | eret =>
    simp only [exec_eret]
    exact issue_formed h (by simpa using h)
  | cfgld => exact execCfgld_formed _ _ h
  | cfgsw => exact execCfgsw_formed _ h
  | cfgparm => exact execCfgparm_formed _ _ _ h
  | cfgrel => exact execCfgrel_formed _ h
  | drain => exact execDrain_formed _ h
  | qwait => exact execQwait_formed _ h
  | sfeed => exact execSfeed_formed _ _ _ _ h
  | sfeedt => exact execSfeedt_formed _ _ _ _ h
  | sdraw => exact execSdraw_formed _ _ _ h
  | sclose => exact execSclose_formed _ _ h
  | sstat => exact execSstat_formed _ _ h
  | tagset | tagclr =>
    simp only [exec_tagset, exec_tagclr]
    exact tagInstr_formed h
  | caston => exact execCaston_formed _ _ _ h
  | bindoff => exact execBindoff_formed _ _ _ h
  | slip | unslip | lift =>
    simp only [exec_slip, exec_unslip, exec_lift]
    exact oneStitch_formed (fun _ _ => h) h
  | rsave => exact execRsave_formed _ h
  | rload => exact execRload_formed _ _ _ h
  | strd => exact execStrd_formed _ _ _ h
  | stwr => exact execStwr_formed _ _ _ _ h
  | acopy | acopy2 | afill | acopyb =>
    simp only [exec_acopy, exec_acopy2, exec_afill, exec_acopyb]
    exact engInstr_formed h
  | qfence => exact execQfence_formed _ _ h
  | tinval => exact execTinval_formed _ _ _ _ h
  | tlook => exact execTlook_formed _ _ _ h
  | genres => exact execGenres_formed _ _ _ h
  | mxw => exact execMxw_formed _ _ _ _ h
  | mxclr => exact execMxclr_formed _ _ _ h
  | accrd => exact execAccrd_formed _ _ _ _ h
  | gpld => exact execGpld_formed _ _ h
  | balloc | bfree | btapp | bttrim | btlook | btfork | btdrop | bpstat =>
    simp only [exec_balloc, exec_bfree, exec_btapp, exec_bttrim, exec_btlook, exec_btfork, exec_btdrop, exec_bpstat]
    exact blkInstr_formed h
  | bpmake => exact execBpmake_formed _ _ h
  | phb | bar =>
    simp only [exec_phb, exec_bar]
    exact boundaryInstr_formed h
  | fence =>
    simp only [exec_fence]
    exact issue_formed h (by simpa using h)
  | sigset => exact execSigset_formed _ _ _ _ h
  | sigwait => exact execSigwait_formed _ _ _ _ h
  | aadd | aand | aor | axor | amin | amax | aminu | amaxu | axchg | radd | rmin | rmax =>
    simp only [exec_aadd, exec_aand, exec_aor, exec_axor, exec_amin, exec_amax, exec_aminu, exec_amaxu, exec_axchg,
      exec_radd, exec_rmin, exec_rmax]
    exact atomicInstr_formed h
  | acas | aaddf | ald | raddf =>
    simp only [exec_acas, exec_aaddf, exec_ald, exec_raddf]
    exact bankInstr_formed h
  | sendrc => exact execSendrc_formed _ _ _ _ h
  | rcmask | rcumask =>
    simp only [exec_rcmask, exec_rcumask]
    exact maskInstr_formed h
  | rcrecv => exact execRcrecv_formed _ _ _ h
  | ybind => exact execYbind_formed _ _ _ h
  | smcfgBind => exact execSmcfgBind_formed _ _ h
  | smcfgWriteStates => exact execSmcfgWriteStates_formed _ _ _ h
  | smcfgReadState => exact execSmcfgReadState_formed _ _ h
  | smcomp => exact execSmcomp_formed _ _ _ _ h
  | smstep => exact execSmstep_formed _ _ _ _ h
  | smmask => exact execSmmask_formed _ _ _ _ h
  | launch => exact execLaunch_formed _ _ _ h
  | lwait => exact execLwait_formed _ _ _ h
  | cancel => exact execCancel_formed _ _ _ h
  | cntrd => exact execCntrd_formed _ _ _ h
  | pcreate => exact execPcreate_formed _ _ h
  | pgrant => exact execPgrant_formed _ _ _ _ h
  | presv => exact execPresv_formed _ _ _ h
  | qbind => exact execQbind_formed _ _ _ _ h
  | plend => exact execPlend_formed _ _ h
  | precall => exact execPrecall_formed _ _ h
  | pslice => exact execPslice_formed _ _ _ h
  | freeze => exact execFreeze_formed _ _ _ h
  | thawResume => exact execThawResume_formed _ _ _ h
  | thawReleaseHold => exact execThawReleaseHold_formed _ h
  | thawVacate => exact execThawVacate_formed _ _ _ h
  | skout => exact execSkout_formed _ _ _ h
  | skin => exact execSkin_formed _ _ _ h
  | brkn => exact execBrkn_formed _ _ _ _ h
  | trcon => exact execTrcon_formed _ _ h
  | trcoff => exact execTrcoff_formed _ h
  | walk => exact execWalk_formed _ _ h
  | tsrd => exact execTsrd_formed _ _ _ h
  | vadd | vsub | vmul | vmin | vmax | vminu | vmaxu | vand | vor | vxor | vshl | vshr | vsra | vadds | vsubs =>
    simp only [exec_vadd, exec_vsub, exec_vmul, exec_vmin, exec_vmax, exec_vminu, exec_vmaxu, exec_vand, exec_vor,
      exec_vxor, exec_vshl, exec_vshr, exec_vsra, exec_vadds, exec_vsubs]
    exact intFire_formed h
  | vabs | vneg | vaddk | vmulk =>
    simp only [exec_vabs, exec_vneg, exec_vaddk, exec_vmulk]
    exact intFire1_formed h
  | fadd | fsub | fmul | fmax | fmin =>
    simp only [exec_fadd, exec_fsub, exec_fmul, exec_fmax, exec_fmin]
    exact fpFire_formed h
  | frcp | frsq | fexp2 | flog2 =>
    simp only [exec_frcp, exec_frsq, exec_fexp2, exec_flog2]
    exact fpFire1_formed h
  | faddk | fmulk =>
    simp only [exec_faddk, exec_fmulk]
    exact fpFireK_formed h
  | fabs | fneg =>
    simp only [exec_fabs, exec_fneg]
    exact fpFireSign_formed h
  | vmad | vsgadd | vdot4 | fma | fmac | cvt | bperm | b3dec | nibx | pack | unpk | masksel | lsum | lmax | largmax
  | lbcast | lrot | lscan | onehot | lextr | ordj | dup | delay | idx =>
    simp only [exec_vmad, exec_vsgadd, exec_vdot4, exec_fma, exec_fmac, exec_cvt, exec_bperm, exec_b3dec, exec_nibx,
      exec_pack, exec_unpk, exec_masksel, exec_lsum, exec_lmax, exec_largmax, exec_lbcast, exec_lrot, exec_lscan,
      exec_onehot, exec_lextr, exec_ordj, exec_dup, exec_delay, exec_idx]
    exact fabMap_formed h
  | steer | gate | pnot | stitch =>
    simp only [exec_steer, exec_gate, exec_pnot, exec_stitch]
    exact fabFire_formed (fun _ _ _ => rfl) h
  | vcmp => exact execVcmp_formed _ _ h
  | sel => exact execSel_formed _ _ h
  | merge => exact execMerge_formed _ _ h
  | sreg => exact execSreg_formed _ _ h
  | cnt => exact execCnt_formed _ _ h
  | eor => exact execEor_formed _ _ h
  | const => exact execConst_formed _ _ h
  | sink => exact execSink_formed _ _ h
  | sregEmission => exact execSregEmission_formed _ _ h
  | roundBoundary => exact execRoundBoundary_formed h
  | bindoffDrainEnd => exact execBindoffDrainEnd_formed _ h
  | rsaveDrainEnd => exact execRsaveDrainEnd_formed h
  | mxBlockEntry => exact execMxBlockEntry_formed _ h
  | planeSwap => exact execPlaneSwap_formed h
  | tileSourceRow => exact execTileSourceRow_formed h
  | accumulatorAddition => exact execAccumulatorAddition_formed _ h
  | accumulatorRelease => exact execAccumulatorRelease_formed _ h
  | pairRelease => exact execPairRelease_formed _ _ h
  | gpFiring => exact execGpFiring_formed _ h
  | memoryNodeRequest => exact execMemoryNodeRequest_formed _ h
  | memoryNodeCompletion => exact execMemoryNodeCompletion_formed _ h
  | pagedRequest => exact execPagedRequest_formed _ h
  | generatorFault => exact execGeneratorFault_formed _ h
  | networkPortSend => exact execNetworkPortSend_formed _ h
  | yarnTokenArrival => exact execYarnTokenArrival_formed _ h
  | composerArrival => exact execComposerArrival_formed h
  | completionReport => exact execCompletionReport_formed h
  | deadlockReport => exact execDeadlockReport_formed h
  | tokenCompletion => exact execTokenCompletion_formed _ h
  | engineOperationStart => exact execEngineOperationStart_formed _ h
  | trapEntry => exact execTrapEntry_formed h
  | coreFreeze => exact execCoreFreeze_formed h
  | writeArrival => exact execWriteArrival_formed _ h
  | phaseBoundary => exact execPhaseBoundary_formed _ h
  | homeBankAccess => exact execHomeBankAccess_formed _ h
  | sigwaitTest => exact execSigwaitTest_formed _ h
  | sigwaitTimeout => exact execSigwaitTimeout_formed _ h
  | packetAtSwitch => exact execPacketAtSwitch_formed _ _ _ h
  | packetDelivery => exact execPacketDelivery_formed _ h
  | trimNotice => exact execTrimNotice_formed _ h
  | reask => exact execReask_formed _ h
  | retransmission => exact execRetransmission_formed _ h
  | acknowledgement =>
    simp only [exec_acknowledgement]
    exact when_formed h (by simpa using h)
  | ackReceived => exact execAckReceived_formed _ h
  | lossNotice => exact execLossNotice_formed _ h
  | routeClassArrival => exact execRouteClassArrival_formed _ h
  | handler1Arrival => exact execHandler1Arrival_formed _ h
  | dispatchAdmit => exact execDispatchAdmit_formed h
  | launchCompletion => exact execLaunchCompletion_formed _ h
  | shadowSwap => exact execShadowSwap_formed h
  | reservationPeriodStart => exact execReservationPeriodStart_formed _ h
  | suspendedUnitResume => exact execSuspendedUnitResume_formed _ h
  | tensionRateChange =>
    simp only [exec_tensionRateChange]
    exact (Out.formed_next _).mpr (by simpa using h)
  | memoryError => exact execMemoryError_formed _ h
  | logMessage => exact execLogMessage_formed _ h
  | write => exact execWrite_formed _ h
  | read => exact execRead_formed _ h
  | logep => exact execLogep_formed _ h
  | timebase => exact execTimebase_formed _ h
  | winmap => exact execWinmap_formed _ h
  | dirtyStart | dirtyRead | dirtyStop =>
    simp only [exec_dirtyStart, exec_dirtyRead, exec_dirtyStop]
    exact dirtyCommand_formed (fun _ => h) h
  | snapshot => exact execSnapshot_formed _ h
  | attest => exact execAttest_formed _ h
  | adopt => exact execAdopt_formed _ h
  | reset => exact execReset_formed s
  | coolantOver65 =>
    simp only [exec_coolantOver65]
    exact (Out.formed_next _).mpr (by simpa using h)
  | coolantOver75 => exact execCoolantOver75_formed h
  | setStreamEnd => exact execSetStreamEnd_formed h
  | reservationBudgetSpent => exact execReservationBudgetSpent_formed _ h

end Sys2Proof.Machine
end

section
/-!
SUPPORT. Every turn of a step keeps the form.
-/

namespace Sys2Proof.Machine

/-! ### The clock -/

@[simp] theorem State.flushTrace_formed {s : State} (n : Nat) (h : s.mem.Formed) : (s.flushTrace n).mem.Formed := by
  unfold State.flushTrace
  split
  · rw [State.onCore_mem]
    exact State.traceFlush_formed _ _ (by simpa using h)
  · exact h

@[simp] theorem State.tick_formed {s : State} (h : s.mem.Formed) : s.tick.mem.Formed := by
  unfold State.tick
  dsimp only
  rw [State.charge_mem]
  refine State.foldl_formed (fun _ n hs => State.flushTrace_formed n hs) _ ?_
  rw [State.foldl_mem (fun s n => s.logSinks_mem n)]
  dsimp only
  rw [State.foldl_mem (fun s n => s.endNodesOf_mem n)]
  exact h

@[simp] theorem State.pass_formed {s : State} (n : Nat) (h : s.mem.Formed) : (State.pass n s).mem.Formed := by
  induction n generalizing s with
  | zero => exact h
  | succ n ih => exact ih (State.tick_formed h)

/-! ### Acts -/

theorem execAcknowledgement_formed {s : State} (src dst : Nat) (h : s.mem.Formed) :
    Out.Formed (execAcknowledgement src dst s) :=
  when_formed h (by simpa using h)

/-- An act keeps memory in its canonical form. -/
def Act.KeepsForm (f : Act) : Prop := ∀ s : State, s.mem.Formed → Out.Formed (f s)

theorem State.coreEvents_keepForm (s : State) : ∀ f ∈ s.coreEvents, Act.KeepsForm f := by
  unfold State.coreEvents
  cases s.core.set.fab.running <;>
  simp only [List.forall_mem_append, List.forall_mem_cons, List.forall_mem_map, List.forall_mem_flatMap]
  all_goals simp +contextual [Act.KeepsForm, execRoundBoundary_formed, execCoreFreeze_formed, execShadowSwap_formed,
    execSregEmission_formed, execBindoffDrainEnd_formed, execRsaveDrainEnd_formed, execTokenCompletion_formed,
    execEngineOperationStart_formed, execPlaneSwap_formed, execTileSourceRow_formed, execMxBlockEntry_formed,
    execAccumulatorAddition_formed, execAccumulatorRelease_formed, execPairRelease_formed, execGpFiring_formed,
    execMemoryNodeCompletion_formed, execMemoryNodeRequest_formed, execWalkAhead_formed, execPagedRequest_formed,
    execGeneratorFault_formed, execNetworkPortSend_formed, execCompletionReport_formed, execDeadlockReport_formed]

theorem State.moduleEvents_keepForm (s : State) : ∀ f ∈ s.moduleEvents, Act.KeepsForm f := by
  unfold State.moduleEvents
  simp only [List.forall_mem_append, List.forall_mem_cons, List.forall_mem_map, List.forall_mem_flatMap, and_assoc]
  refine ⟨fun c _ => ?_, fun k _ => ?_, ?_⟩
  · cases c.nextHop <;>
    simp +contextual [Act.KeepsForm, execPacketAtSwitch_formed, execAckReceived_formed, execLossNotice_formed]
  · cases k.nextHop <;>
    simp +contextual [Act.KeepsForm, execPacketAtSwitch_formed, execPacketDelivery_formed, execTrimNotice_formed,
      execWriteArrival_formed, execHomeBankAccess_formed, execRouteClassArrival_formed, execHandler1Arrival_formed,
      execYarnTokenArrival_formed, execReask_formed, execRetransmission_formed]
  · simp +contextual [Act.KeepsForm, execAcknowledgement_formed, execSigwaitTest_formed, execSigwaitTimeout_formed,
      execHandler1Arrival_formed, execPhaseBoundary_formed, execLaunchCompletion_formed,
      execReservationPeriodStart_formed, execReservationBudgetSpent_formed, execSetStreamEnd_formed,
      execSuspendedUnitResume_formed, execDispatchAdmit_formed, execTokenCompletion_formed, execLogMessage_formed]

theorem stepFire_keepsForm (slot : Nat) : Act.KeepsForm (stepFire slot) := by
  intro s h
  unfold stepFire
  split
  · exact exec_formed _ h
  · simpa using h

theorem State.coreTurn_keepsForm {s : State} {f : Act} (hf : s.coreTurn = some f) : Act.KeepsForm f := by
  have hmem := List.mem_of_find?_eq_some hf
  rw [List.mem_append, List.mem_map] at hmem
  rcases hmem with hev | ⟨slot, _, rfl⟩
  · exact s.coreEvents_keepForm f hev
  · exact stepFire_keepsForm slot

theorem execCommand_keepsForm (code : Byte) (c : HostCmd) : Act.KeepsForm (execCommand code c) := by
  intro s h
  unfold execCommand
  split
  · exact execWrite_formed c h
  · exact execRead_formed c h
  · exact execLogep_formed c h
  · exact execTimebase_formed c h
  · exact execWinmap_formed c h
  · split
    · exact dirtyCommand_formed (fun _ => h) h
    · split <;> exact dirtyCommand_formed (fun _ => h) h
  · exact execSnapshot_formed c h
  · exact execAttest_formed c h
  · exact execAdopt_formed c h
  · exact hostCommand_formed (fun _ => h) h

/-! ### Issue -/

theorem issueInstr_keepsForm (i : Instr) : Act.KeepsForm (issueInstr i) := by
  intro s h
  have hi := exec_formed i h
  unfold issueInstr
  split
  · next t heq => simpa using hi t heq
  · simp
  · simp

theorem stepIssue_keepsForm : Act.KeepsForm stepIssue := by
  intro s h
  have hf := State.front_formed h
  unfold stepIssue
  split
  · next t i heq => exact issueInstr_keepsForm i t (formed_of_eq hf heq)
  · next t heq => simpa using formed_of_eq hf heq

/-! ### One step -/

theorem stepDefault_keepsForm : Act.KeepsForm stepDefault := by
  intro s h
  have hselect (n : Nat) : Out.Formed (.next (s.select n)) := by simpa using h
  unfold stepDefault
  split
  · next f hf => exact State.coreTurn_keepsForm hf s h
  · split
    · next f hf => exact s.moduleEvents_keepForm f (List.mem_of_find?_eq_some hf) s h
    · split
      · exact hselect _
      · split
        · split
          · exact stepIssue_keepsForm s h
          · exact hselect _
        · split
          · split
            · exact execComposerArrival_formed h
            · exact hselect _
          · simpa using State.pass_formed 1 h

theorem stepTurn_keepsForm (t : Turn) : Act.KeepsForm (stepTurn t) := by
  intro s h
  cases t with
  | core c => simpa [stepTurn] using h
  | tick n => simpa [stepTurn] using State.pass_formed n h
  | fire slot => exact stepFire_keepsForm slot s h
  | issue => exact stepIssue_keepsForm s h
  | event e => exact exec_formed e h
  | ahead n k m => simpa [stepTurn] using State.walkAhead_formed n k m h
  | command code c =>
    simp only [stepTurn]
    split
    · simpa using h
    · exact execCommand_keepsForm code c s h
  | steward a => simpa [stepTurn] using State.steward_formed a h
  | record r => exact (Out.formed_next _).mpr h
  | corrected pa => simpa [stepTurn] using h
  | brought pools skeins => simpa [stepTurn] using h
  | sink part up => simpa [stepTurn] using h
  | hostFlow port vc part => simpa [stepTurn] using h

theorem step_keepsForm : Act.KeepsForm step := by
  intro s h
  unfold step
  split
  · split
    · exact execReset_formed _
    · simp
  · split
    · next t rest _ => exact stepTurn_keepsForm t { s with sched := rest } h
    · exact stepDefault_keepsForm s h

end Sys2Proof.Machine

open Sys2Proof Sys2Proof.Machine in
/-- Settles O59: whichever turn is next, what it does keeps the form, act by act. -/
theorem everyStepKeepsTheMemoryForm : Obligations.EveryStepKeepsTheMemoryForm :=
  fun s t h hs => Memory.formed_iff.mp (step_keepsForm s (Memory.formed_iff.mpr h) t hs)
end

section
/-!
SUPPORT. Below the level an instruction needs (R6, R20, R325): where nothing it waits for is pending, it traps with PRIV
and has no other effect.
-/

namespace Sys2Proof.Machine

/-! ### Below the level an instruction needs (R6, R20) -/

theorem State.stalled_eq_false {s : State} {n : Needs} (hr : ∀ r ∈ n.dest :: n.reads, s.seq.pending r = false)
    (hb : s.core.set.barred = false) : s.stalled n = false := by
  rw [List.forall_mem_cons] at hr
  obtain ⟨hd, hr⟩ := hr
  simpa [State.stalled, hd, hb] using hr

/-- PRIV comes before the error bits of the registers read (R325). -/
theorem issue_below_level {i : Instr} {n : Needs} {body : State → State} {s : State} {w : BitVec 32}
    (he : encode i = some w) (hw : i.wellFormed = true) (hs : s.stalled n = false) (hl : s.seq.level.toNat < n.level) :
    issue i n body s = .next (s.trap causePriv (BitVec.setWidth 64 w)) := by
  simp [issue, hw, hs, hl, wordOf, he]

theorem lnchIssue_below_level {i : Instr} {n : Needs} {body : State → State} {s : State} {w : BitVec 32}
    (he : encode i = some w) (hw : i.wellFormed = true) (hu : s.unfinished [.lnch] = false)
    (hs : s.stalled n = false) (hl : s.seq.level.toNat < n.level) :
    lnchIssue i n body s = .next (s.trap causePriv (BitVec.setWidth 64 w)) := by
  rw [lnchIssue, issueUnless, hu, Bool.and_false, if_neg Bool.false_ne_true]
  exact issue_below_level he hw hs hl

theorem blockInstr_below_level {i : Instr} {t a : Reg} {regs : List Reg} {align len : Nat} {addr : State → Word}
    {act : State → List Byte → Outcome} {s : State} {w : BitVec 32} (he : encode i = some w)
    (hw : i.wellFormed = true) (hu : s.unfinished [.lnch] = false) (hs : s.stalled ⟨a :: regs, t, 2⟩ = false)
    (hl : s.seq.level.toNat < 2) :
    blockInstr i t a regs align len addr act s = .next (s.trap causePriv (BitVec.setWidth 64 w)) :=
  lnchIssue_below_level he hw hu hs hl

section Partition
variable {s : State} {t a b : Reg} (hu : s.unfinished [.lnch] = false) (hl : s.seq.level.toNat < 2)
include hu hl

theorem execPgrant_below_level (q : BitVec 3) (hab : s.stalled ⟨[a, b], t, 2⟩ = false)
    (hba : s.stalled ⟨[b, a], t, 2⟩ = false) : ∃ w, encode (.pgrant t a b q) = some w ∧
      execPgrant t a b q s = .next (s.trap causePriv (BitVec.setWidth 64 w)) := by
  refine ⟨_, rfl, ?_⟩
  unfold execPgrant
  split
  · exact lnchIssue_below_level rfl rfl hu hab hl
  · split
    · exact lnchIssue_below_level rfl rfl hu hab hl
    · exact blockInstr_below_level rfl rfl hu hba hl

theorem execPresv_below_level (q : BitVec 1) (hs : s.stalled ⟨[a], t, 2⟩ = false) :
    ∃ w, encode (.presv t a q) = some w ∧
      execPresv t a q s = .next (s.trap causePriv (BitVec.setWidth 64 w)) := by
  refine ⟨_, rfl, ?_⟩
  unfold execPresv
  split
  · exact blockInstr_below_level rfl rfl hu hs hl
  · exact lnchIssue_below_level rfl rfl hu hs hl

theorem execQbind_below_level (q : BitVec 1) (hs : s.stalled ⟨[a, b], t, 2⟩ = false) :
    ∃ w, encode (.qbind t a b q) = some w ∧
      execQbind t a b q s = .next (s.trap causePriv (BitVec.setWidth 64 w)) := by
  refine ⟨_, rfl, ?_⟩
  unfold execQbind
  split
  · exact blockInstr_below_level rfl rfl hu hs hl
  · exact lnchIssue_below_level rfl rfl hu hs hl

end Partition

end Sys2Proof.Machine

open Sys2Proof Sys2Proof.Machine in
/-- Settles O16: each form is an `issue`, or a `lnchIssue` that nothing holds back, whose level is above the unit's. -/
theorem privilegedInstructionsTrap : Obligations.PrivilegedInstructionsTrap := by
  intro s t a b q1 q2 q3 q4 ht ha hb h0 hbar hu i level hmem hl
  have hs (n : Needs) (hn : ∀ r ∈ n.dest :: n.reads, r ∈ [t, a, b, 0]) : s.stalled n = false := by
    refine State.stalled_eq_false (fun r hr => ?_) hbar
    have := hn r hr
    simp only [List.mem_cons, List.not_mem_nil, or_false] at this
    rcases this with rfl | rfl | rfl | rfl <;> assumption
  simp only [List.mem_cons, List.not_mem_nil, or_false, Prod.mk.injEq] at hmem
  rcases hmem with ⟨rfl, rfl⟩ | ⟨rfl, rfl⟩ | ⟨rfl, rfl⟩ | ⟨rfl, rfl⟩ | ⟨rfl, rfl⟩ | ⟨rfl, rfl⟩ | ⟨rfl, rfl⟩ |
    ⟨rfl, rfl⟩ | ⟨rfl, rfl⟩ | ⟨rfl, rfl⟩ | ⟨rfl, rfl⟩ | ⟨rfl, rfl⟩ | ⟨rfl, rfl⟩ | ⟨rfl, rfl⟩ | ⟨rfl, rfl⟩ |
    ⟨rfl, rfl⟩ | ⟨rfl, rfl⟩ | ⟨rfl, rfl⟩ | partition
  iterate 18
    simp only [exec_eret, exec_mts, exec_tinval, exec_genres, exec_bpmake, exec_freeze, exec_thawResume,
      exec_thawReleaseHold, exec_thawVacate, exec_skout, exec_skin, exec_brkn, exec_trcon, exec_trcoff, exec_walk]
    exact ⟨_, rfl, issue_below_level rfl rfl (hs _ (by simp)) hl⟩
  rcases partition with ⟨rfl, rfl⟩ | ⟨rfl, rfl⟩ | ⟨rfl, rfl⟩ | ⟨rfl, rfl⟩ | ⟨rfl, rfl⟩ | ⟨rfl, rfl⟩ | ⟨rfl, rfl⟩
  · exact ⟨_, rfl, blockInstr_below_level rfl rfl hu (hs _ (by simp)) hl⟩
  · exact execPgrant_below_level hu hl q3 (hs _ (by simp)) (hs _ (by simp))
  · exact execPresv_below_level hu hl q1 (hs _ (by simp))
  · exact execQbind_below_level hu hl q1 (hs _ (by simp))
  · exact ⟨_, rfl, blockInstr_below_level rfl rfl hu (hs _ (by simp)) hl⟩
  · exact ⟨_, rfl, lnchIssue_below_level rfl rfl hu (hs _ (by simp)) hl⟩
  · exact ⟨_, rfl, blockInstr_below_level rfl rfl hu (hs _ (by simp)) hl⟩
end

section
/-!
SUPPORT. The events of a machine that does nothing: what is due where no configuration runs (R121), and right after
reset (R13, R262, R310).
-/

namespace Sys2Proof.Machine

/-! ### An event that leaves the state as it is (assumption 6) -/

theorem State.find_isDue_of_unchanged {s : State} {l : List Act} (h : ∀ f ∈ l, f s = .next s) :
    l.find? s.isDue = none :=
  List.find?_eq_none.mpr fun f hf => by simp [State.isDue, h f hf]

/-! ### Where no configuration runs, no event of the fabric changes the state -/

section Unconfigured
variable {s : State} (h : s.core.set.fab.running = none)
include h

theorem State.liveAn_unconfigured (n : Nat) : s.liveAn n = none := by simp [State.liveAn, h]

theorem State.liveMn_unconfigured (n : Nat) : s.liveMn n = none := by simp [State.liveMn, h]

theorem CSet.port_unconfigured (p : Nat) : s.core.set.port p = none := by simp [CSet.port, h]

theorem execRoundBoundary_unconfigured : execRoundBoundary s = .next s := by simp [execRoundBoundary, h]

theorem execRsaveDrainEnd_unconfigured : execRsaveDrainEnd s = .next s := by simp [execRsaveDrainEnd, h]

theorem execTileSourceRow_unconfigured : execTileSourceRow s = .next s := by simp [execTileSourceRow, h]

theorem execMxBlockEntry_unconfigured (k : Nat) : execMxBlockEntry k s = .next s := by simp [execMxBlockEntry, h]

theorem execAccumulatorAddition_unconfigured (n : Nat) : execAccumulatorAddition n s = .next s := by
  simp [execAccumulatorAddition, State.liveAn_unconfigured h]

theorem execAccumulatorRelease_unconfigured (n : Nat) : execAccumulatorRelease n s = .next s := by
  simp [execAccumulatorRelease, State.liveAn_unconfigured h]

theorem execPairRelease_unconfigured (n k : Nat) : execPairRelease n k s = .next s := by
  simp [execPairRelease, State.liveAn_unconfigured h]

theorem execGpFiring_unconfigured (k : Nat) : execGpFiring k s = .next s := by simp [execGpFiring, h]

theorem execMemoryNodeCompletion_unconfigured (n : Nat) : execMemoryNodeCompletion n s = .next s := by
  simp [execMemoryNodeCompletion, h]

theorem execMemoryNodeRequest_unconfigured (n : Nat) : execMemoryNodeRequest n s = .next s := by
  simp [execMemoryNodeRequest, State.liveMn_unconfigured h]

theorem execPagedRequest_unconfigured (n : Nat) : execPagedRequest n s = .next s := by
  simp [execPagedRequest, State.liveMn_unconfigured h]

theorem execNetworkPortSend_unconfigured (p : Nat) : execNetworkPortSend p s = .next s := by
  simp [execNetworkPortSend, CSet.port_unconfigured h]

theorem execCompletionReport_unconfigured : execCompletionReport s = .next s := by simp [execCompletionReport, h]

theorem execDeadlockReport_unconfigured : execDeadlockReport s = .next s := by simp [execDeadlockReport, h]

theorem State.firingSlots_unconfigured : s.firingSlots = [] := by simp [State.firingSlots, h]

end Unconfigured

/-! ### Right after reset -/

theorem State.reset_running : State.reset.core.set.fab.running = none := rfl

/-- The events of a core whose set has no configuration, no operation and no drain. -/
theorem State.reset_coreEvents :
    State.reset.coreEvents = [execRoundBoundary, execCoreFreeze, execShadowSwap, execRsaveDrainEnd] ++
      (List.range 16).map execEngineOperationStart ++ [execPlaneSwap, execTileSourceRow] ++
      (List.range 64).map execMxBlockEntry ++ (List.range 8).map execAccumulatorAddition ++
      (List.range 8).map execAccumulatorRelease ++
      (List.range 8).flatMap (fun n => (List.range 64).map (execPairRelease n)) ++ (List.range 64).map execGpFiring ++
      (List.range 16).flatMap (fun n =>
        [execMemoryNodeCompletion n, execMemoryNodeRequest n, execWalkAhead n, execPagedRequest n,
          execGeneratorFault n]) ++
      [execNetworkPortSend 0, execNetworkPortSend 1, execCompletionReport, execDeadlockReport] := rfl

/-- The events of a module with no packet, launch or reservation. -/
theorem State.reset_moduleEvents :
    State.reset.moduleEvents =
      [execHandler1Arrival 0, execSetStreamEnd, execDispatchAdmit, execLogMessage 0, execLogMessage operatorSink] := rfl

/-- No freeze, swap, engine operation, plane swap, pass or stopped generator stands at reset. -/
theorem State.reset_coreEvents_unchanged : ∀ f ∈ State.reset.coreEvents, f State.reset = .next State.reset := by
  have h := State.reset_running
  have freeze : execCoreFreeze State.reset = .next State.reset := rfl
  have swap : execShadowSwap State.reset = .next State.reset := rfl
  have engine (q : Nat) : execEngineOperationStart q State.reset = .next State.reset := rfl
  have planes : execPlaneSwap State.reset = .next State.reset := rfl
  have pass (n : Nat) : execWalkAhead n State.reset = .next State.reset := rfl
  have fault (n : Nat) : execGeneratorFault n State.reset = .next State.reset := rfl
  intro f hf
  simp only [State.reset_coreEvents, List.mem_append, List.mem_cons, List.not_mem_nil, or_false, List.mem_map,
    List.mem_flatMap, or_assoc] at hf
  rcases hf with rfl | rfl | rfl | rfl | ⟨q, -, rfl⟩ | rfl | rfl | ⟨k, -, rfl⟩ | ⟨n, -, rfl⟩ | ⟨n, -, rfl⟩ |
    ⟨n, -, k, -, rfl⟩ | ⟨k, -, rfl⟩ | ⟨n, -, rfl | rfl | rfl | rfl | rfl⟩ | rfl | rfl | rfl | rfl
  · exact execRoundBoundary_unconfigured h
  · exact freeze
  · exact swap
  · exact execRsaveDrainEnd_unconfigured h
  · exact engine q
  · exact planes
  · exact execTileSourceRow_unconfigured h
  · exact execMxBlockEntry_unconfigured h k
  · exact execAccumulatorAddition_unconfigured h n
  · exact execAccumulatorRelease_unconfigured h n
  · exact execPairRelease_unconfigured h n k
  · exact execGpFiring_unconfigured h k
  · exact execMemoryNodeCompletion_unconfigured h n
  · exact execMemoryNodeRequest_unconfigured h n
  · exact pass n
  · exact execPagedRequest_unconfigured h n
  · exact fault n
  · exact execNetworkPortSend_unconfigured h 0
  · exact execNetworkPortSend_unconfigured h 1
  · exact execCompletionReport_unconfigured h
  · exact execDeadlockReport_unconfigured h

/-- No packet arrives, no set streams in or out, dispatch has no work, and no log record waits. -/
theorem State.reset_moduleEvents_unchanged : ∀ f ∈ State.reset.moduleEvents, f State.reset = .next State.reset := by
  have arrival : execHandler1Arrival 0 State.reset = .next State.reset := rfl
  have stream : execSetStreamEnd State.reset = .next State.reset := rfl
  have dispatch : execDispatchAdmit State.reset = .next State.reset := rfl
  have log : execLogMessage 0 State.reset = .next State.reset := rfl
  have operator : execLogMessage operatorSink State.reset = .next State.reset := rfl
  simp [State.reset_moduleEvents, arrival, stream, dispatch, log, operator]

theorem State.reset_coreTurn : State.reset.coreTurn = none := by
  rw [State.coreTurn, State.firingSlots_unconfigured State.reset_running, List.map_nil, List.append_nil]
  exact State.find_isDue_of_unchanged State.reset_coreEvents_unchanged

theorem State.reset_moduleTurn : State.reset.moduleEvents.find? State.reset.isDue = none :=
  State.find_isDue_of_unchanged State.reset_moduleEvents_unchanged

theorem State.canIssue_eq_false {s : State} (h : s.core.set.unit = none) : s.canIssue = false := by
  simp [State.canIssue, h]

end Sys2Proof.Machine

open Sys2Proof Sys2Proof.Machine in
/-- Settles O60: the fields are those of `State.reset`, and each event that may be due leaves it as it is. -/
theorem resetLeavesTheMachineIdle : Obligations.ResetLeavesTheMachineIdle :=
  ⟨by decide, rfl, rfl, rfl, rfl, rfl, rfl, rfl, rfl, rfl, rfl, rfl, rfl, rfl, rfl, rfl,
    ⟨Part.device, rfl, rfl⟩, State.canIssue_eq_false rfl, Option.isNone_iff_eq_none.mpr State.reset_coreTurn,
    Option.isNone_iff_eq_none.mpr State.reset_moduleTurn⟩
end

section
/-!
SUPPORT. The decoders and the encoder are inverse to each other (R28 to R38). A word is the encoding of given fields
exactly where reading its fields gives them back: with that, each row of a decoder is compared with its row of `encode`.
-/

namespace Sys2Proof

variable {w : BitVec 32} {i j : Instr}

/-! ### A word and its fields (R28, R35): formats R, I, U, X and B, and the fabric word -/

/-- A word is the concatenation of two fields iff reading the fields out of it gives them. -/
theorem eq_append_iff (m n : Nat) {a : BitVec m} {b : BitVec n} {w : BitVec (m + n)} :
    w = a ++ b ↔ w.extractLsb' n m = a ∧ w.extractLsb' 0 n = b := by
  constructor
  · rintro rfl
    exact ⟨BitVec.extractLsb'_append_eq_left, BitVec.extractLsb'_append_eq_right⟩
  · rintro ⟨rfl, rfl⟩
    simp [BitVec.extractLsb'_append_extractLsb'_eq_extractLsb']

theorem extractLsb'_extractLsb'_eq {n i j k l : Nat} (w : BitVec n) (h : k + l ≤ j) :
    (w.extractLsb' i j).extractLsb' k l = w.extractLsb' (i + k) l := by
  ext x hx
  simp only [BitVec.getElem_extractLsb', BitVec.getLsbD_extractLsb', Nat.add_assoc]
  simp; omega

@[simp] theorem encR_eq_iff {op : BitVec 6} {d a b : Reg} {fn : BitVec 8} :
    encR op d a b fn = w ↔ wMajor w = op ∧ wD w = d ∧ wA w = a ∧ wB w = b ∧ wFn w = fn := by
  rw [eq_comm, encR, eq_append_iff 24 8, eq_append_iff 18 6, eq_append_iff 12 6, eq_append_iff 6 6]
  simp [wMajor, wD, wA, wB, wFn, extractLsb'_extractLsb'_eq, and_assoc]

@[simp] theorem encI_eq_iff {op : BitVec 6} {d a : Reg} {k : BitVec 14} :
    encI op d a k = w ↔ wMajor w = op ∧ wD w = d ∧ wA w = a ∧ wImm14 w = k := by
  rw [eq_comm, encI, eq_append_iff 18 14, eq_append_iff 12 6, eq_append_iff 6 6]
  simp [wMajor, wD, wA, wImm14, extractLsb'_extractLsb'_eq, and_assoc]

@[simp] theorem encU_eq_iff {op : BitVec 6} {d : Reg} {k : BitVec 20} :
    encU op d k = w ↔ wMajor w = op ∧ wD w = d ∧ wImm20 w = k := by
  rw [eq_comm, encU, eq_append_iff 12 20, eq_append_iff 6 6]
  simp [wMajor, wD, wImm20, extractLsb'_extractLsb'_eq, and_assoc]

@[simp] theorem encX_eq_iff {op : BitVec 6} {t a b : Reg} {q sub : BitVec 4} :
    encX op t a b q sub = w ↔ wMajor w = op ∧ wD w = t ∧ wA w = a ∧ wB w = b ∧ wQ w = q ∧ wSub w = sub := by
  rw [eq_comm, encX, eq_append_iff 28 4, eq_append_iff 24 4, eq_append_iff 18 6, eq_append_iff 12 6, eq_append_iff 6 6]
  simp [wMajor, wD, wA, wB, wQ, wSub, extractLsb'_extractLsb'_eq, and_assoc]

@[simp] theorem encB_eq_iff {cc : BitVec 3} {a b : Reg} {o : BitVec 11} :
    encB cc a b o = w ↔ wMajor w = 0x10 ∧ wCc w = cc ∧ wBrA w = a ∧ wBrB w = b ∧ wOff w = o := by
  rw [eq_comm, encB, eq_append_iff 21 11, eq_append_iff 15 6, eq_append_iff 9 6, eq_append_iff 6 3]
  simp [wMajor, wCc, wBrA, wBrB, wOff, extractLsb'_extractLsb'_eq, and_assoc]

@[simp] theorem encF_eq_iff {op : BitVec 8} {m : BitVec 2} {x y : Target} :
    encF op m x y = w ↔ fOpcode w = op ∧ fMod w = m ∧ fX w = x ∧ fY w = y := by
  rw [eq_comm, encF, eq_append_iff 21 11, eq_append_iff 10 11, eq_append_iff 8 2]
  simp [fOpcode, fMod, fX, fY, extractLsb'_extractLsb'_eq, and_assoc]

/-! ### Fields that one instruction uses in part: q of 1, 2 or 3 bits, a shift count, the mod bit of NIBX -/

@[simp] theorem wQ_eq_append1_iff {r : BitVec 3} {q : BitVec 1} :
    wQ w = r ++ q ↔ w.extractLsb' 5 3 = r ∧ w.extractLsb' 4 1 = q := by
  rw [eq_append_iff 3 1]
  simp [wQ, extractLsb'_extractLsb'_eq]

@[simp] theorem wQ_eq_append2_iff {r q : BitVec 2} :
    wQ w = r ++ q ↔ w.extractLsb' 6 2 = r ∧ w.extractLsb' 4 2 = q := by
  rw [eq_append_iff 2 2]
  simp [wQ, extractLsb'_extractLsb'_eq]

@[simp] theorem wQ_eq_append3_iff {r : BitVec 1} {q : BitVec 3} :
    wQ w = r ++ q ↔ w.extractLsb' 7 1 = r ∧ w.extractLsb' 4 3 = q := by
  rw [eq_append_iff 1 3]
  simp [wQ, extractLsb'_extractLsb'_eq]

@[simp] theorem wImm14_eq_append_iff {r : BitVec 8} {n : BitVec 6} :
    wImm14 w = r ++ n ↔ w.extractLsb' 6 8 = r ∧ w.extractLsb' 0 6 = n := by
  rw [eq_append_iff 8 6]
  simp [wImm14, extractLsb'_extractLsb'_eq]

@[simp] theorem fMod_eq_append_iff {r m : BitVec 1} :
    fMod w = r ++ m ↔ w.extractLsb' 23 1 = r ∧ w.extractLsb' 22 1 = m := by
  rw [eq_append_iff 1 1]
  simp [fMod, extractLsb'_extractLsb'_eq]

/-- The one bit of q that THAW's two rows tell apart. -/
theorem extractLsb'_4_1_eq : w.extractLsb' 4 1 = (wQ w).extractLsb' 0 1 := by
  simp [wQ, extractLsb'_extractLsb'_eq]

/-! ### What a decoder answers -/

@[simp] theorem whenZero_eq_ok_iff {ok : Bool} : whenZero ok j = .ok i ↔ ok = true ∧ j = i := by
  cases ok <;> simp [whenZero]

@[simp] theorem whenMod_eq_ok_iff {ok : Bool} : whenMod ok j = .ok i ↔ ok = true ∧ j = i := by
  cases ok <;> simp [whenMod]

theorem decodeWord_eq_ok_iff : decodeWord w = .ok i ↔ decodeFields w = .ok i ∧ i.wellFormed = true := by
  unfold decodeWord
  cases decodeFields w with
  | error e => simp
  | ok j =>
    simp only [whenWellFormed, Except.ok.injEq]
    split <;> simp <;> rintro rfl <;> simp [*]

/-- What `r` accepts, if it accepts the word w, is an instruction of the sequencer that w encodes. -/
def Spells (w : BitVec 32) (r : Except Reject Instr) : Prop :=
  ∀ i, r = .ok i → encode i = some w ∧ i.inFabricMap = false

@[simp] theorem spells_error (e : Reject) : Spells w (.error e) := by
  simp [Spells]

@[simp] theorem spells_ok_iff : Spells w (.ok i) ↔ encode i = some w ∧ i.inFabricMap = false := by
  simp [Spells]

@[simp] theorem spells_whenZero_iff {ok : Bool} :
    Spells w (whenZero ok i) ↔ (ok = true → encode i = some w ∧ i.inFabricMap = false) := by
  cases ok <;> simp [whenZero]

/-! ### From a word to the instruction that it encodes, one major opcode at a time -/

theorem decodeAlu_spells (hm : wMajor w = 0x00) : Spells w (decodeAlu w) := by
  unfold decodeAlu
  split <;> simp +contextual [encode, Instr.inFabricMap, *]

theorem decodeBr_spells (hm : wMajor w = 0x10) : Spells w (decodeBr w) := by
  unfold decodeBr
  split <;> simp +contextual [encode, Instr.inFabricMap, *]

theorem decodeSys_spells (hm : wMajor w = 0x18) : Spells w (decodeSys w) := by
  unfold decodeSys
  split <;> simp +contextual [encode, Instr.inFabricMap, *]

theorem decodeCfg_spells (hm : wMajor w = 0x1c) : Spells w (decodeCfg w) := by
  unfold decodeCfg
  split <;> simp +contextual [encode, Instr.inFabricMap, *]

theorem decodeStrm_spells (hm : wMajor w = 0x1d) : Spells w (decodeStrm w) := by
  unfold decodeStrm
  split <;> simp +contextual [encode, Instr.inFabricMap, *]

theorem decodeRnd_spells (hm : wMajor w = 0x24) : Spells w (decodeRnd w) := by
  unfold decodeRnd
  split <;> simp +contextual [encode, Instr.inFabricMap, *]

theorem decodeEng_spells (hm : wMajor w = 0x28) : Spells w (decodeEng w) := by
  unfold decodeEng
  split <;> simp +contextual [encode, Instr.inFabricMap, *]

theorem decodeXlat_spells (hm : wMajor w = 0x29) : Spells w (decodeXlat w) := by
  unfold decodeXlat
  split <;> simp +contextual [encode, Instr.inFabricMap, *]

theorem decodeMat_spells (hm : wMajor w = 0x2c) : Spells w (decodeMat w) := by
  unfold decodeMat
  split <;> simp +contextual [encode, Instr.inFabricMap, *]

theorem decodeBlk_spells (hm : wMajor w = 0x30) : Spells w (decodeBlk w) := by
  unfold decodeBlk
  split <;> simp +contextual [encode, Instr.inFabricMap, *]

theorem decodeSync_spells (hm : wMajor w = 0x34) : Spells w (decodeSync w) := by
  unfold decodeSync
  split <;> simp +contextual [encode, Instr.inFabricMap, *]

theorem decodeAtom_spells (hm : wMajor w = 0x35) : Spells w (decodeAtom w) := by
  unfold decodeAtom
  split <;> simp +contextual [encode, Instr.inFabricMap, *]

theorem decodeRed_spells (hm : wMajor w = 0x36) : Spells w (decodeRed w) := by
  unfold decodeRed
  split <;> simp +contextual [encode, Instr.inFabricMap, *]

theorem decodeNet_spells (hm : wMajor w = 0x3a) : Spells w (decodeNet w) := by
  unfold decodeNet
  split <;> simp +contextual [encode, Instr.inFabricMap, *]

theorem decodeSmap_spells (hm : wMajor w = 0x3c) : Spells w (decodeSmap w) := by
  unfold decodeSmap
  split
  case h_1 => split <;> simp +contextual [encode, Instr.inFabricMap, *]
  all_goals simp +contextual [encode, Instr.inFabricMap, *]

theorem decodeLnch_spells (hm : wMajor w = 0x3d) : Spells w (decodeLnch w) := by
  unfold decodeLnch
  split <;> simp +contextual [encode, Instr.inFabricMap, *]

theorem decodeDbg_spells (hm : wMajor w = 0x3e) : Spells w (decodeDbg w) := by
  unfold decodeDbg
  split
  case h_2 => split <;> simp +contextual [encode, Instr.inFabricMap, extractLsb'_4_1_eq, *]
  all_goals simp +contextual [encode, Instr.inFabricMap, *]

theorem decodeFields_spells : Spells w (decodeFields w) := by
  unfold decodeFields
  split <;> simp +contextual [encode, Instr.inFabricMap, decodeAlu_spells, decodeBr_spells, decodeSys_spells,
    decodeCfg_spells, decodeStrm_spells, decodeRnd_spells, decodeEng_spells, decodeXlat_spells, decodeMat_spells,
    decodeBlk_spells, decodeSync_spells, decodeAtom_spells, decodeRed_spells, decodeNet_spells, decodeSmap_spells,
    decodeLnch_spells, decodeDbg_spells, *]

theorem decodeFabric_spells (h : decodeFabric w = .ok i) :
    i.wellFormed = true ∧ i.inFabricMap = true ∧ encode i = some w := by
  unfold decodeFabric at h
  split at h <;> simp at h <;> obtain ⟨hmod, rfl⟩ := h
  all_goals simp [Instr.wellFormed, encode, Instr.inFabricMap, *]

/-! ### From an instruction to the decoder's row for its word -/

theorem decodeFields_of_alu (hm : wMajor w = 0x00) : decodeFields w = decodeAlu w := by rw [decodeFields, hm]; rfl
theorem decodeFields_of_br (hm : wMajor w = 0x10) : decodeFields w = decodeBr w := by rw [decodeFields, hm]; rfl
theorem decodeFields_of_sys (hm : wMajor w = 0x18) : decodeFields w = decodeSys w := by rw [decodeFields, hm]; rfl
theorem decodeFields_of_cfg (hm : wMajor w = 0x1c) : decodeFields w = decodeCfg w := by rw [decodeFields, hm]; rfl
theorem decodeFields_of_strm (hm : wMajor w = 0x1d) : decodeFields w = decodeStrm w := by rw [decodeFields, hm]; rfl
theorem decodeFields_of_rnd (hm : wMajor w = 0x24) : decodeFields w = decodeRnd w := by rw [decodeFields, hm]; rfl
theorem decodeFields_of_eng (hm : wMajor w = 0x28) : decodeFields w = decodeEng w := by rw [decodeFields, hm]; rfl
theorem decodeFields_of_xlat (hm : wMajor w = 0x29) : decodeFields w = decodeXlat w := by rw [decodeFields, hm]; rfl
theorem decodeFields_of_mat (hm : wMajor w = 0x2c) : decodeFields w = decodeMat w := by rw [decodeFields, hm]; rfl
theorem decodeFields_of_blk (hm : wMajor w = 0x30) : decodeFields w = decodeBlk w := by rw [decodeFields, hm]; rfl
theorem decodeFields_of_sync (hm : wMajor w = 0x34) : decodeFields w = decodeSync w := by rw [decodeFields, hm]; rfl
theorem decodeFields_of_atom (hm : wMajor w = 0x35) : decodeFields w = decodeAtom w := by rw [decodeFields, hm]; rfl
theorem decodeFields_of_red (hm : wMajor w = 0x36) : decodeFields w = decodeRed w := by rw [decodeFields, hm]; rfl
theorem decodeFields_of_net (hm : wMajor w = 0x3a) : decodeFields w = decodeNet w := by rw [decodeFields, hm]; rfl
theorem decodeFields_of_smap (hm : wMajor w = 0x3c) : decodeFields w = decodeSmap w := by rw [decodeFields, hm]; rfl
theorem decodeFields_of_lnch (hm : wMajor w = 0x3d) : decodeFields w = decodeLnch w := by rw [decodeFields, hm]; rfl
theorem decodeFields_of_dbg (hm : wMajor w = 0x3e) : decodeFields w = decodeDbg w := by rw [decodeFields, hm]; rfl

/-- The sequencer's decoder reads every operand of an instruction back from its word. THAW has two rows for each of its
forms, one per value of q, and TSRD's a is zero but where q is 3. -/
theorem decodeFields_of_encode (hw : i.wellFormed = true) (hf : i.inFabricMap = false) (h : encode i = some w) :
    decodeFields w = .ok i := by
  cases i
  case vadd | vsub | vmul | vmad | vmin | vmax | vminu | vmaxu | vand | vor | vxor | vshl | vshr | vsra | vabs |
      vneg | vaddk | vmulk | vsgadd | vadds | vsubs | vdot4 | fadd | fsub | fmul | fma | fmax | fmin | frcp |
      frsq | fexp2 | flog2 | faddk | fmulk | fmac | fabs | fneg | cvt | bperm | b3dec | nibx | pack | unpk |
      vcmp | sel | steer | gate | merge | masksel | pnot | lsum | lmax | largmax | lbcast | lrot | lscan |
      onehot | lextr | sreg | cnt | eor | ordj | dup | const | sink | stitch | delay | idx =>
    cases hf
  case thawResume t a q | thawVacate t a q =>
    simp only [encode, Option.some.injEq, encX_eq_iff] at h
    obtain rfl | rfl : q = 0 ∨ q = 1 := BitVec.eq_zero_or_eq_one q
    all_goals simp [decodeFields_of_dbg, decodeDbg, extractLsb'_4_1_eq, h]
  -- a step of a block or a command of the host has no word
  all_goals simp [encode] at h
  case addi | andi | ori | xori | shli | shri | srai | cmplti | cmpeqi | sext | zext | jalr | ldw | ldd | stw |
      std | mfs | mts | lui | addpc | lih | jal =>
    simp [decodeFields, h]
  case add | sub | mul | mulh | mulhu | divs | divu | rems | remu | and | or | xor | andn | shl | shr | sra |
      min | max | minu | maxu | cmpeq | cmpne | cmplt | cmpltu | cmple | cmpleu | clz | popc =>
    simp [decodeFields_of_alu, decodeAlu, h]
  case beq | bne | blt | bge | bltu | bgeu | btr =>
    simp [decodeFields_of_br, decodeBr, h]
  case nop | halt | yield | trap | eret | tokwait =>
    simp [decodeFields_of_sys, decodeSys, h]
  case cfgld | cfgsw | cfgparm | cfgrel | drain | qwait =>
    simp [decodeFields_of_cfg, decodeCfg, h]
  case sfeed | sfeedt | sdraw | sclose | sstat | tagset | tagclr =>
    simp [decodeFields_of_strm, decodeStrm, h]
  case caston | bindoff | slip | unslip | lift | rsave | rload | strd | stwr =>
    simp [decodeFields_of_rnd, decodeRnd, h]
  case acopy | acopy2 | afill | qfence | acopyb =>
    simp [decodeFields_of_eng, decodeEng, h]
  case tinval | tlook | genres =>
    simp [decodeFields_of_xlat, decodeXlat, h]
  case mxw | mxclr | accrd | gpld =>
    simp [decodeFields_of_mat, decodeMat, h]
  case balloc | bfree | btapp | bttrim | btlook | btfork | btdrop | bpstat | bpmake =>
    simp [decodeFields_of_blk, decodeBlk, h]
  case phb | bar | fence | sigset | sigwait =>
    simp [decodeFields_of_sync, decodeSync, h]
  case aadd | aand | aor | axor | amin | amax | aminu | amaxu | axchg | acas | aaddf | ald =>
    simp [decodeFields_of_atom, decodeAtom, h]
  case radd | rmin | rmax | raddf =>
    simp [decodeFields_of_red, decodeRed, h]
  case sendrc | rcmask | rcumask | rcrecv | ybind =>
    simp [decodeFields_of_net, decodeNet, h]
  case smcfgBind | smcfgWriteStates | smcfgReadState | smcomp | smstep | smmask =>
    simp [decodeFields_of_smap, decodeSmap, h]
  case launch | lwait | cancel | cntrd | pcreate | pgrant | presv | qbind | plend | precall | pslice =>
    simp [decodeFields_of_lnch, decodeLnch, h]
  case freeze | thawReleaseHold | skout | skin | brkn | trcon | trcoff | walk =>
    simp [decodeFields_of_dbg, decodeDbg, h]
  case tsrd t a q =>
    simp [Instr.wellFormed] at hw
    simp [decodeFields_of_dbg, decodeDbg, h, hw]

/-- The fabric's decoder reads every operand of an operation back from its word. -/
theorem decodeFabric_of_encode (hw : i.wellFormed = true) (hf : i.inFabricMap = true) (h : encode i = some w) :
    decodeFabric w = .ok i := by
  cases i
  case vadd | vsub | vmul | vmad | vmin | vmax | vminu | vmaxu | vand | vor | vxor | vshl | vshr | vsra | vabs |
      vneg | vaddk | vmulk | vsgadd | vadds | vsubs | fadd | fsub | fmul | fma | fmax | fmin | frcp | frsq |
      fexp2 | flog2 | faddk | fmulk | fmac | fabs | fneg =>
    obtain ⟨hop, rfl, rfl, rfl⟩ := encF_eq_iff.mp (Option.some.inj h)
    rw [decodeFabric, hop]
    exact whenMod_eq_ok_iff.mpr ⟨hw, rfl⟩
  case vdot4 | cvt | bperm | b3dec | pack | unpk | vcmp | sel | steer | gate | merge | masksel | pnot | lsum |
      lmax | largmax | lbcast | lrot | lscan | onehot | lextr | sreg | cnt | eor | ordj | dup | const | sink |
      stitch | delay | idx =>
    obtain ⟨hop, hmod, rfl, rfl⟩ := encF_eq_iff.mp (Option.some.inj h)
    rw [decodeFabric, hop]
    exact whenMod_eq_ok_iff.mpr ⟨beq_iff_eq.mpr hmod, rfl⟩
  case nibx =>
    obtain ⟨hop, hmod, rfl, rfl⟩ := encF_eq_iff.mp (Option.some.inj h)
    obtain ⟨hr, rfl⟩ := fMod_eq_append_iff.mp hmod
    rw [decodeFabric, hop]
    exact whenMod_eq_ok_iff.mpr ⟨beq_iff_eq.mpr hr, rfl⟩
  all_goals cases hf

end Sys2Proof

open Sys2Proof in
/-- Settles O56: every row of `encode` answers the row of a decoder with the same fields, and the other way round. -/
theorem decodeAndEncodeAgree : Obligations.DecodeAndEncodeAgree := by
  intro i w
  refine ⟨fun hw h => ?_, fun h => ?_, decodeFabric_spells⟩
  · cases hf : i.inFabricMap
    · exact decodeWord_eq_ok_iff.mpr ⟨decodeFields_of_encode hw hf h, hw⟩
    · exact decodeFabric_of_encode hw hf h
  · obtain ⟨hfields, hw⟩ := decodeWord_eq_ok_iff.mp h
    obtain ⟨he, hf⟩ := decodeFields_spells i hfields
    exact ⟨hw, hf, he⟩
end

section
/-!
SUPPORT. Words that the decoder of the sequencer refuses (R31, R33): a major opcode that R31 does not assign, and a BTR
whose B field is not zero.
-/

namespace Sys2Proof

theorem decodeWord_of_decodeFields_error {w : BitVec 32} {e : Reject} (h : decodeFields w = .error e) :
    decodeWord w = .error e := by
  rw [decodeWord, h]

theorem decodeWord_major_3f (r : BitVec 26) : decodeWord (0x3F#6 ++ r) = .error .unassignedMajor := by
  have hm : wMajor (0x3F#6 ++ r) = 0x3F := BitVec.extractLsb'_append_eq_left
  apply decodeWord_of_decodeFields_error
  rw [decodeFields, hm]
  rfl

theorem decodeWord_encB_btr {a b : Reg} {o : BitVec 11} (hb : b ≠ 0) :
    decodeWord (encB 6 a b o) = .error .reservedField := by
  obtain ⟨hm, hcc, -, hB, -⟩ := encB_eq_iff.mp (rfl : encB 6 a b o = encB 6 a b o)
  apply decodeWord_of_decodeFields_error
  rw [decodeFields_of_br hm, decodeBr, hcc, hB]
  show whenZero (b == 0) _ = _
  rw [beq_false_of_ne hb]
  rfl

end Sys2Proof

open Sys2Proof in
/-- Settles O57: the words of fixed fields are decoded, and the two refusals hold of every value of the other fields. -/
theorem decodedWordsAreRight : Obligations.DecodedWordsAreRight :=
  ⟨by decide, by decide, by decide, by decide, by decide, by decide, fun r => ⟨_, decodeWord_major_3f r⟩,
    fun _ _ _ hb => ⟨_, decodeWord_encB_btr hb⟩⟩
end

section
/-!
SUPPORT. What a walk, a translation and a log record leave of the current core: all of it, but for the cached
translations (R164, R331).
-/

namespace Sys2Proof.Machine

@[simp] theorem State.log_core (s : State) (p : Nat) (r : LogRec) : (s.log p r).core = s.core := by
  unfold State.log
  dsimp only
  split <;> rfl

@[simp] theorem State.report_core (s : State) (p core pa n : Nat) (cause : BitVec 6) :
    (s.report p core pa n cause).core = s.core := by
  simp [State.report]

@[simp] theorem State.walk_core (s : State) (p : Part) (kind : AccKind) (va : Nat) :
    (s.walk p kind va).1.core = s.core := by
  unfold State.walk
  cases walkTables s.mem p.root va with
  | none => rfl
  | some l =>
    dsimp only
    split_ifs <;> simp

@[simp] theorem State.throughCache_core (s : State) (cache : List TlbEntry) (kept : Bool) (kind : AccKind) (va : Nat) :
    (s.throughCache cache kept kind va).1.core = s.core := by
  have h := s.walk_core s.part kind va
  have hc := s.chosen.walk_core s.part kind va
  unfold State.throughCache
  repeat' split
  all_goals simp_all

@[simp] theorem State.translate_seq (s : State) (kind : AccKind) (va : Nat) : (s.translate kind va).1.seq = s.seq :=
  congrArg (fun k => k.set.seq) (s.throughCache_core s.core.set.tlb false kind va)

end Sys2Proof.Machine
end

section
/-!
SUPPORT. What a step runs (R28, R34, R104, R325): an instruction's word as its bytes in memory, and the turns of `step`.
-/

namespace Sys2Proof.Machine

/-! ### The four bytes of an instruction in their location of eight (R2, R28) -/

theorem toNat_append_eq {m n : Nat} (x : BitVec m) (y : BitVec n) : (x ++ y).toNat = x.toNat * 2 ^ n + y.toNat := by
  rw [BitVec.toNat_append, ← Nat.shiftLeft_add_eq_or_of_lt y.isLt, Nat.shiftLeft_eq]

theorem wordOfBytes_eq (b0 b1 b2 b3 : Byte) : wordOfBytes b0 b1 b2 b3 = BitVec.ofNat 32 (leNat [b0, b1, b2, b3]) := by
  apply BitVec.eq_of_toNat_eq
  rw [wordOfBytes, toNat_append_eq, toNat_append_eq, toNat_append_eq]
  simp only [leNat, BitVec.toNat_ofNat]
  omega

theorem leNat_lt (bs : List Byte) : leNat bs < 256 ^ bs.length := by
  induction bs with
  | nil => simp [leNat]
  | cons b bs ih =>
    rw [leNat, List.length_cons, Nat.pow_succ]
    have := b.isLt
    omega

theorem leNat_append (xs ys : List Byte) : leNat (xs ++ ys) = leNat xs + 256 ^ xs.length * leNat ys := by
  induction xs with
  | nil => simp [leNat]
  | cons x xs ih =>
    rw [List.cons_append, leNat, ih, leNat, List.length_cons, Nat.pow_succ]
    ring

@[simp] theorem Memory.getBytes_length (m : Memory) (a n : Nat) : (m.getBytes a n).length = n := by
  simp [Memory.getBytes]

theorem Memory.nat_lt (m : Memory) (a n : Nat) : m.nat a n < 256 ^ n := by
  simpa [Memory.nat] using leNat_lt (m.getBytes a n)

theorem Memory.nat_add (m : Memory) (a n k : Nat) : m.nat a (n + k) = m.nat a n + 256 ^ n * m.nat (a + n) k := by
  have h : m.getBytes a (n + k) = m.getBytes a n ++ m.getBytes (a + n) k := by
    simp [Memory.getBytes, List.range_add, Nat.add_assoc]
  simp [Memory.nat, h, leNat_append]

theorem Memory.word_toNat (m : Memory) (a : Nat) : (m.word a).toNat = m.nat a 4 + 2 ^ 32 * m.nat (a + 4) 4 := by
  have hlt : m.nat a 8 < 2 ^ 64 := m.nat_lt a 8
  rw [Memory.word, BitVec.toNat_ofNat, Nat.mod_eq_of_lt hlt, m.nat_add a 4 4]
  rfl

/-- An aligned word of four bytes is the half of its location's eight at which it stands. -/
theorem Memory.half_word (m : Memory) {pa : Nat} (h : pa % 4 = 0) :
    BitVec.ofNat 32 ((m.word (pa / 8 * 8)).toNat / 2 ^ (8 * (pa % 8))) =
      wordOfBytes (m.get pa) (m.get (pa + 1)) (m.get (pa + 2)) (m.get (pa + 3)) := by
  have hlo := m.nat_lt (pa / 8 * 8) 4
  have hb : wordOfBytes (m.get pa) (m.get (pa + 1)) (m.get (pa + 2)) (m.get (pa + 3)) = BitVec.ofNat 32 (m.nat pa 4) :=
    wordOfBytes_eq ..
  rw [hb, m.word_toNat]
  apply BitVec.eq_of_toNat_eq
  simp only [BitVec.toNat_ofNat]
  obtain h8 | h8 : pa % 8 = 0 ∨ pa % 8 = 4 := by omega
  · rw [h8, show pa / 8 * 8 = pa by omega]
    omega
  · rw [h8, show pa / 8 * 8 + 4 = pa by omega]
    omega

/-! ### Fetch (R104) -/

/-- Where no older copy of the location was fetched, the word is its four bytes in memory. -/
theorem State.fetchWord_of_uncached {s : State} {pa : Nat} (h : pa % 4 = 0)
    (hc : lookup (pa / 8 * 8) s.core.set.icache = none) :
    (s.fetchWord pa).2 = wordOfBytes (s.mem.get pa) (s.mem.get (pa + 1)) (s.mem.get (pa + 2)) (s.mem.get (pa + 3)) := by
  rw [State.fetchWord, hc]
  exact s.mem.half_word h

theorem State.fetch_of_translate {s t : State} {pa : Nat} (hva : s.seq.pc.toNat < windowBase)
    (hw : s.part.windowAt s.seq.pc.toNat = none) (ht : s.translate .fetch s.seq.pc.toNat = (t, .ok pa))
    (hr : t.readError pa 4 = none) : s.fetch = ((t.fetchWord pa).1, .ok (t.fetchWord pa).2) := by
  simp [State.fetch, ht, hw, hr, Nat.not_le.mpr hva]

/-- A fetch that faults leaves the PC. -/
theorem State.fetch_error_seq {s t : State} {cause : BitVec 8} (h : s.fetch = (t, .error cause)) : t.seq = s.seq := by
  have htr := s.translate_seq .fetch s.seq.pc.toNat
  unfold State.fetch at h
  dsimp only at h
  split at h
  · cases h; rfl
  · split at h
    · cases h; rfl
    · split at h
      · cases h; simp_all
      · split at h
        · cases h; simp_all [State.seq]
        · cases h

/-! ### The turn to issue -/

section Issue

variable {s t : State} (hi : s.canIssue = true)
include hi

theorem stepIssue_of_async {a : Async} (ha : s.nextAsync = some a) : stepIssue s = issueInstr .trapEntry s := by
  simp [stepIssue, State.front, hi, ha]

theorem stepIssue_of_fetch_error (ha : s.nextAsync = none) {cause : BitVec 8} (hf : s.fetch = (t, .error cause)) :
    stepIssue s = .next ((t.trap cause t.seq.pc).occupy 1) := by
  simp [stepIssue, State.front, hi, ha, hf]

theorem stepIssue_of_refused_word (ha : s.nextAsync = none) {w : BitVec 32} {e : Reject} (hf : s.fetch = (t, .ok w))
    (hd : decodeWord w = .error e) : stepIssue s = .next ((t.trap causeIllegal (BitVec.setWidth 64 w)).occupy 1) := by
  simp [stepIssue, State.front, hi, ha, hf, hd]

theorem stepIssue_of_decoded_word (ha : s.nextAsync = none) {w : BitVec 32} {i : Instr} (hf : s.fetch = (t, .ok w))
    (hd : decodeWord w = .ok i) : stepIssue s = issueInstr i t := by
  simp [stepIssue, State.front, hi, ha, hf, hd]

end Issue

theorem issueInstr_of_next {i : Instr} {s t : State} (h : exec i s = .next t) :
    issueInstr i s = .next (t.occupy (occupancy i s t)) := by
  rw [issueInstr, h]

theorem issueInstr_of_fault {i : Instr} {s : State} {f : Fault} (h : exec i s = .fault f) :
    issueInstr i s = .fault f := by
  rw [issueInstr, h]

theorem issueInstr_of_refused {i : Instr} {s : State} {r : Refusal} (h : exec i s = .refused r) :
    issueInstr i s = .refused r := by
  rw [issueInstr, h]

/-! ### The turns of a step -/

theorem step_in_reset {s : State} (hr : s.host.inReset = true) (h : ∀ r, s.sched ≠ .event .reset :: r) :
    step s = .fault .heldInReset := by
  unfold step
  rw [if_pos hr]
  split
  · next r heq => exact absurd heq (h r)
  · rfl

theorem step_of_turn {s : State} {t : Turn} {rest : List Turn} (hr : s.host.inReset = false)
    (hs : s.sched = t :: rest) : step s = stepTurn t { s with sched := rest } := by
  simp [step, hr, hs]

theorem stepFire_of_slot {s : State} {slot : Nat} {i : Instr} (h : s.slotInstr slot = some i) :
    stepFire slot s = exec i { s with firing := slot } := by
  rw [stepFire, h]

/-- With no turn listed and nothing due, the sequencer of the current core issues. -/
theorem step_default_issues {s : State} (hr : s.host.inReset = false) (hs : s.sched = []) (hcore : s.coreTurn = none)
    (hmodule : s.moduleEvents.find? s.isDue = none) (hdue : s.dueCore = none) (hi : s.canIssue = true) :
    step s = stepIssue s := by
  simp [step, hr, hs, stepDefault, hcore, hmodule, hdue, State.issuers, hi]

end Sys2Proof.Machine

open Sys2Proof Sys2Proof.Machine in
/-- Settles O58: a listed turn is `stepTurn`'s, and the turn to issue is what `State.front` gives, case by case. -/
theorem stepRunsDecodedInstruction : Obligations.StepRunsDecodedInstruction := by
  intro s rest u
  refine ⟨step_in_reset, fun hr => ⟨fun hs hi => ?issue, ?fetch, fun e hs => step_of_turn hr hs,
    fun slot i hs hslot => ?fire, fun hs hcore hmodule hdue hi => ?default⟩⟩
  case issue =>
    have hstep : step s = stepIssue u := step_of_turn hr hs
    rw [hstep]
    refine ⟨fun a ha v hv => ?_, fun ha => ⟨fun t w i hf hd => ?_, fun t w e hf hd => ?_, fun t cause hf => ?_⟩⟩
    · rw [stepIssue_of_async hi ha, issueInstr_of_next hv]
      rfl
    · rw [stepIssue_of_decoded_word hi ha hf hd]
      exact ⟨fun _ => issueInstr_of_next, fun _ => issueInstr_of_fault, fun _ => issueInstr_of_refused⟩
    · exact stepIssue_of_refused_word hi ha hf hd
    · rw [stepIssue_of_fetch_error hi ha hf, State.fetch_error_seq hf]
  case fetch =>
    intro t pa hva hw ht hread halign hc
    refine ⟨_, ?_, t.fetchWord_mem pa⟩
    rw [State.fetch_of_translate hva hw ht hread, State.fetchWord_of_uncached halign hc]
  case fire =>
    rw [step_of_turn hr hs]
    exact stepFire_of_slot hslot
  case default =>
    rw [step_default_issues hr hs hcore hmodule hdue hi, step_of_turn (s := { s with sched := [.issue] }) hr rfl]
    show stepIssue s = stepIssue { s with sched := [] }
    rw [← hs]
end

section
/-!
SUPPORT. The CFG instructions where nothing of the unit holds them back (R112 to R118): what each begins, and what it
leaves in the fabric.
-/

namespace Sys2Proof.Machine

/-! ### Work that begins (R87, R89) -/

@[simp] theorem Seq.setPending_pc (q : Seq) (r : Reg) : (q.setPending r).pc = q.pc := by
  unfold Seq.setPending
  split <;> rfl

/-- An instruction that changes the fabric only and then begins its operation. -/
theorem State.began_mapFab_begin (s : State) (f : Fabric → Fabric) (t : Reg) (cls : OpClass) (w : Wait) :
    s.began ((s.mapFab f).begin t cls w).advance t cls w := by
  simp [State.began]

theorem State.began_begin (s : State) (t : Reg) (cls : OpClass) (w : Wait) :
    s.began (s.begin t cls w).advance t cls w :=
  s.began_mapFab_begin id t cls w

theorem State.begin_advance_fab (s : State) (t : Reg) (cls : OpClass) (w : Wait) :
    (s.begin t cls w).advance.core.set.fab = s.core.set.fab := by
  simp

theorem State.failsAs_began (s : State) (t : Reg) (cls : OpClass) (n : Nat) :
    s.began (s.failsAs t cls n).advance t cls (.ready (BitVec.ofNat 64 (2 ^ 63 + n)) .clear (s.cycle + 1)) := by
  have h : statusWord n 0 = BitVec.ofNat 64 (2 ^ 63 + n) := by simp [statusWord]
  rw [← h]
  exact s.began_begin t cls _

/-- A CFG instruction that nothing holds back has its effect. -/
theorem cfgIssue_next {i : Instr} {n : Needs} {body : State → State} {s : State} (hfree : s.cfgFree)
    (hw : i.wellFormed = true) (h : s.mayIssue n.reads n.dest n.level) : cfgIssue i n body s = .next (body s) := by
  obtain ⟨hprog, howed, hmove⟩ := hfree
  exact issueUnless_next (by simp [hprog, howed, hmove]) hw h

/-! ### An entry of a list by key replaced -/

@[simp] theorem lookup_insert_self {α β : Type} [DecidableEq α] (k : α) (v : β) (l : List (α × β)) :
    lookup k (insert k v l) = some v := by
  induction l with
  | nil => simp [insert, lookup]
  | cons p l ih =>
    unfold insert
    split
    · simp [lookup]
    · simp [lookup, *]

theorem lookup_insert_of_ne {α β : Type} [DecidableEq α] {k j : α} (h : k ≠ j) (v : β) (l : List (α × β)) :
    lookup j (insert k v l) = lookup j l := by
  induction l with
  | nil => simp [insert, lookup, h]
  | cons p l ih =>
    unfold insert
    split
    · next hk => simp [lookup, h, hk.trans_ne h]
    · simp [lookup, ih]

/-! ### Every input port closed (R116) -/

/-- An input port closed in a fabric's list, as `Fabric.closeAll` closes each. -/
def closePort (l : List (Nat × PortRec)) (q : Nat) : List (Nat × PortRec) :=
  insert q { (lookup q l).getD .zero with closed := true } l

/-- The list has the port closed, as `Fabric.portClosed` reads it. -/
def closedIn (l : List (Nat × PortRec)) (p : Nat) : Bool := ((lookup p l).map (fun r => r.closed)).getD false

theorem closedIn_closePort_self (l : List (Nat × PortRec)) (p : Nat) : closedIn (closePort l p) p = true := by
  simp [closedIn, closePort]

theorem closedIn_closePort {l : List (Nat × PortRec)} {p : Nat} (q : Nat) (h : closedIn l p = true) :
    closedIn (closePort l q) p = true := by
  by_cases hq : q = p
  · rw [hq, closedIn_closePort_self]
  · rwa [closedIn, closePort, lookup_insert_of_ne hq]

theorem closedIn_closePorts {p : Nat} (qs : List Nat) {l : List (Nat × PortRec)} (h : p ∈ qs ∨ closedIn l p = true) :
    closedIn (qs.foldl closePort l) p = true := by
  induction qs generalizing l with
  | nil => simpa using h
  | cons q qs ih =>
    apply ih
    rcases h with h | h
    · rcases List.mem_cons.mp h with rfl | h
      · exact .inr (closedIn_closePort_self l p)
      · exact .inl h
    · exact .inr (closedIn_closePort q h)

theorem Fabric.closeAll_inPorts (f : Fabric) : f.closeAll.inPorts = (List.range 16).foldl closePort f.inPorts := by
  unfold Fabric.closeAll
  delta closePort
  with_reducible rfl

theorem Fabric.portClosed_eq (f : Fabric) (p : Nat) : f.portClosed p = closedIn f.inPorts p := rfl

theorem Fabric.portClosed_closeAll (f : Fabric) {p : Nat} (hp : p < 16) : f.closeAll.portClosed p = true := by
  rw [Fabric.portClosed_eq, Fabric.closeAll_inPorts]
  exact closedIn_closePorts (List.range 16) (.inl (List.mem_range.mpr hp))

/-! ### CFGLD (R112, R117) -/

theorem State.stage_ok (s : State) (t : Reg) (im : Image) (pages : List (Nat × TlbEntry)) :
    s.stage t (.ok im) pages =
      (s.mapFab (fun f => { f with staged := some im, pages := pages, mark := none })).later t .cfg im.gid .clear 1 := rfl

theorem State.stage_error (s : State) (t : Reg) (w : Word) (pages : List (Nat × TlbEntry)) :
    s.stage t (.error w) pages = (s.mapFab (fun f => { f with mark := some w })).later t .cfg w .cfgbad 1 := rfl

section Cfg

variable {s : State} {t a : Reg} (hfree : s.cfgFree)
include hfree

/-- Where the header and the image can be read, CFGLD stages what the loader answers. -/
theorem exec_cfgld_of_read (hiss : s.mayIssue [a] t 0) (hheld : s.readHeld (s.reg a) = false) {u v r x : State}
    {w : Bool} {sp : List Span} {head rest : List Byte} {limit : Option Nat} {pages : List (Nat × TlbEntry)}
    (hcheck : s.checked .read (s.reg a) 64 64 = (u, .ok (w, sp))) (hhead : State.readSpans w sp u = (v, head, none))
    (hrest : v.readUpTo ((s.reg a).toNat + 64) (imageLen head - 64) = (r, rest, limit))
    (hnodes : r.translateNodes (head ++ rest) (limit.map (fun n => n - (s.reg a).toNat)) = (x, pages)) :
    exec (.cfgld t a) s = .next (x.stage t
      (x.loadImage (head ++ rest) (limit.map (fun n => n - (s.reg a).toNat))) pages).advance := by
  rw [exec_cfgld, execCfgld, cfgIssue_next hfree rfl hiss]
  simp [hheld, hcheck, hhead, hrest, hnodes]

/-! ### CFGPARM (R117, R118) -/

/-- Where the block can be read, CFGPARM does with it what its q says. -/
theorem exec_cfgparm_of_read (q : BitVec 1) (hiss : s.mayIssue [a] t 0) (hheld : s.readHeld (s.reg a) = false)
    {u v x : State} {w : Bool} {sp : List Span} {head rest : List Byte}
    (hcheck : s.checked .read (s.reg a) 8 8 = (u, .ok (w, sp))) (hhead : State.readSpans w sp u = (v, head, none))
    (hrest : v.readUpTo ((s.reg a).toNat + 8) (blockRest head) = (x, rest, none)) :
    exec (.cfgparm t a q) s = .next (x.parm t q (head ++ rest) none).advance := by
  rw [exec_cfgparm, execCfgparm, cfgIssue_next hfree rfl hiss]
  simp [hheld, hcheck, hhead, hrest]

/-! ### CFGSW, CFGREL, DRAIN and QWAIT (R112, R116) -/

variable (hiss : s.mayIssue [] t 0)
include hiss

theorem exec_cfgsw_of_mark {w : Word} (hm : s.core.set.fab.mark = some w) :
    exec (.cfgsw t) s = .next ((s.mapFab (fun f => { f with mark := none })).trap causeCfgbad w) := by
  rw [exec_cfgsw, execCfgsw, cfgIssue_next hfree rfl hiss]
  simp only [hm]

theorem exec_cfgsw_of_unstaged (hm : s.core.set.fab.mark = none) (hs : s.core.set.fab.staged = none) :
    exec (.cfgsw t) s = .next (s.failsAs t .cfg 0x20).advance := by
  rw [exec_cfgsw, execCfgsw, cfgIssue_next hfree rfl hiss]
  simp only [hm, hs]

theorem exec_cfgsw_of_idle {im : Image} (hm : s.core.set.fab.mark = none) (hs : s.core.set.fab.staged = some im)
    (hr : s.core.set.fab.running = none) :
    exec (.cfgsw t) s =
      .next ((s.mapFab (fun f => f.run im s.cycle f.pages)).later t .cfg im.roundWord .clear 1).advance := by
  rw [exec_cfgsw, execCfgsw, cfgIssue_next hfree rfl hiss]
  simp only [hm, hs, hr, State.switchConfig]

theorem exec_cfgsw_of_running {im : Image} (hm : s.core.set.fab.mark = none) (hs : s.core.set.fab.staged = some im)
    (hr : s.core.set.fab.running.isSome) : exec (.cfgsw t) s = .next (s.begin t .cfg .cfgsw).advance := by
  obtain ⟨run, hr⟩ := Option.isSome_iff_exists.mp hr
  rw [exec_cfgsw, execCfgsw, cfgIssue_next hfree rfl hiss]
  simp only [hm, hs, hr]

theorem exec_cfgrel_eq : exec (.cfgrel t) s =
    .next (if s.core.set.fab.running.isSome then s.begin t .cfg .cfgrel else s.failsAs t .cfg 0x22).advance := by
  rw [exec_cfgrel, execCfgrel, cfgIssue_next hfree rfl hiss]
  cases s.core.set.fab.running <;> rfl

theorem exec_drain_eq : exec (.drain t) s =
    .next (if s.core.set.fab.running.isSome then (s.mapFab Fabric.closeAll).begin t .cfg .drain
      else s.failsAs t .cfg 0x22).advance := by
  rw [exec_drain, execDrain, cfgIssue_next hfree rfl hiss]
  cases s.core.set.fab.running <;> rfl

theorem exec_qwait_eq : exec (.qwait t) s =
    .next (if s.core.set.fab.running.isSome then s.begin t .cfg .qwait else s.later t .cfg 1 .clear 1).advance := by
  rw [exec_qwait, execQwait, cfgIssue_next hfree rfl hiss]
  cases s.core.set.fab.running <;> rfl

end Cfg

/-! ### A block in place (R118) -/

@[simp] theorem State.walkFirst_core (s : State) (P : Nat) (b : NodeBlock) :
    (s.walkFirst P b).1.core = s.core := by
  unfold State.walkFirst
  split
  · split
    · split
      · next _ p _ lo _ _ _ =>
        have h := s.walk_core s.part p.access lo.toNat
        split <;> simp_all
      · rfl
    · rfl
  · rfl

theorem State.parm_staged {s z : State} {t : Reg} {bs : List Byte} {im new : Image} {pages : List (Nat × TlbEntry)}
    (hbad : firstBad Bad.field (blockBads bs) = none) (hs : s.core.set.fab.staged = some im)
    (hwalk : s.walkFirst im.P (nodeOf (field bs 0 2) bs) = (z, pages)) (hload : z.loadBlock im bs false = .ok new) :
    s.parm t 0 bs none = (z.mapFab (fun f => { f with
      staged := some new
      pages := pages ++ f.pages.filter (fun e => !pages.any (fun x => x.1 == e.1)) })).later t .cfg 0 .clear 1 := by
  simp [State.parm, hbad, hs, hwalk, hload]

theorem State.parm_running {s z : State} {t : Reg} {bs : List Byte} {im new : Image} {pages : List (Nat × TlbEntry)}
    (hbad : firstBad Bad.field (blockBads bs) = none) (hr : s.core.set.fab.running = some im)
    (hwalk : s.walkFirst im.P (nodeOf (field bs 0 2) bs) = (z, pages)) (hload : z.loadBlock im bs true = .ok new) :
    s.parm t 1 bs none = z.begin t .cfg (.parm (nodeOf (field bs 0 2) bs) 0) := by
  simp [State.parm, hbad, hr, hwalk, hload]

end Sys2Proof.Machine

open Sys2Proof Sys2Proof.Machine in
/-- Settles O19: each form begins its operation, from the state that its reads leave, and changes the fabric as said. -/
theorem cfgInstructionsComplete : Obligations.CfgInstructionsComplete := by
  intro s t a q hfree f fails
  refine ⟨fun hiss hheld => ⟨?cfgld, ?cfgparm⟩, fun hiss => ⟨?unstaged, ?staged, ?marked, ?idle, ?running⟩⟩
  case cfgld =>
    intro u v r x w sp head rest limit pages hcheck hhead hrest hnodes
    refine ⟨_, exec_cfgld_of_read hfree hiss hheld hcheck hhead hrest hnodes, ?_⟩
    split
    · next im hload =>
      rw [hload, State.stage_ok]
      exact ⟨rfl, rfl, rfl, x.began_mapFab_begin _ t .cfg _⟩
    · next e hload =>
      rw [hload, State.stage_error]
      exact ⟨rfl, rfl, x.began_mapFab_begin _ t .cfg _⟩
  case cfgparm =>
    intro u v x w sp head rest limit hcheck hhead hrest hbad hlimit
    subst hlimit
    have hexec := exec_cfgparm_of_read hfree q hiss hheld hcheck hhead hrest
    refine ⟨fun im new z pages hq hs hwalk hload => ?_, fun im new z pages hq hr hwalk hload => ?_⟩ <;> subst hq
    · rw [State.parm_staged hbad hs hwalk hload] at hexec
      exact ⟨_, hexec, rfl, z.began_mapFab_begin _ t .cfg _⟩
    · rw [State.parm_running hbad hr hwalk hload] at hexec
      have hz : z.core = x.core := by
        rw [← x.walkFirst_core im.P (nodeOf (field (head ++ rest) 0 2) (head ++ rest)), hwalk]
      refine ⟨_, hexec, ?_, z.began_begin t .cfg _⟩
      rw [State.begin_advance_fab, hz, hr]
  case unstaged =>
    exact fun hm hs => ⟨_, exec_cfgsw_of_unstaged hfree hiss hm hs, s.failsAs_began t .cfg _⟩
  case staged =>
    exact fun im hm hs => ⟨
      fun hr => ⟨_, exec_cfgsw_of_idle hfree hiss hm hs hr, rfl, rfl, rfl, s.began_mapFab_begin _ t .cfg _⟩,
      fun hr => ⟨_, exec_cfgsw_of_running hfree hiss hm hs hr, s.begin_advance_fab t .cfg _, s.began_begin t .cfg _⟩⟩
  case marked => exact fun w hm => exec_cfgsw_of_mark hfree hiss hm
  case idle =>
    intro hr
    have hr : s.core.set.fab.running.isSome = false := by simpa using hr
    have hrel := exec_cfgrel_eq hfree hiss
    have hdrain := exec_drain_eq hfree hiss
    have hqwait := exec_qwait_eq hfree hiss
    rw [hr] at hrel hdrain hqwait
    exact ⟨⟨_, hrel, s.failsAs_began t .cfg _⟩, ⟨_, hdrain, s.failsAs_began t .cfg _⟩, _, hqwait, s.began_begin t .cfg _⟩
  case running =>
    intro hr
    have hrel := exec_cfgrel_eq hfree hiss
    have hdrain := exec_drain_eq hfree hiss
    have hqwait := exec_qwait_eq hfree hiss
    rw [if_pos hr] at hrel hdrain hqwait
    exact ⟨⟨_, hrel, s.begin_advance_fab t .cfg _, s.began_begin t .cfg _⟩,
      ⟨_, hqwait, s.begin_advance_fab t .cfg _, s.began_begin t .cfg _⟩,
      _, hdrain, s.began_mapFab_begin _ t .cfg _, fun p hp => Fabric.portClosed_closeAll _ hp⟩
end

section
/-!
SUPPORT. A firing whose result goes to both targets (R120 to R123): what it leaves of the fabric and the sequencer, and
the tokens it sends.
-/

namespace Sys2Proof.Machine

/-! ### What debugging changes of the set of a core that fires (R340, R341) -/

/-- `d` is `c` but for the asynchronous causes that stand. -/
def CSet.sameButAsyncs (c d : CSet) : Prop := d = { c with asyncs := d.asyncs }

theorem CSet.sameButAsyncs_refl (c : CSet) : c.sameButAsyncs c := rfl

theorem CSet.sameButAsyncs.trans {c d e : CSet} (h : c.sameButAsyncs d) (k : d.sameButAsyncs e) :
    c.sameButAsyncs e := by
  unfold CSet.sameButAsyncs at h k ⊢
  rw [h] at k
  exact k

theorem CSet.sameButAsyncs.fab_eq {c d : CSet} (h : c.sameButAsyncs d) : d.fab = c.fab := by rw [h]
theorem CSet.sameButAsyncs.seq_eq {c d : CSet} (h : c.sameButAsyncs d) : d.seq = c.seq := by rw [h]

@[simp] theorem State.trace_set (s : State) (r : LogRec) : (s.trace r).core.set = s.core.set := by
  unfold State.trace
  split <;> rfl

theorem State.breakAt_sameButAsyncs (s : State) (n : Nat) (w : Word) :
    s.core.set.sameButAsyncs (s.breakAt n w).core.set := rfl

theorem State.breakpoint_sameButAsyncs (slot k : Nat) (s : State) (n : Nat) :
    s.core.set.sameButAsyncs (State.breakpoint slot k s n).core.set := by
  unfold State.breakpoint
  split
  · dsimp only
    split
    · split
      · rw [State.trace_set]
        exact s.breakAt_sameButAsyncs n _
      · exact CSet.sameButAsyncs_refl _
    · exact CSet.sameButAsyncs_refl _
  · exact CSet.sameButAsyncs_refl _

theorem State.breakpoints_sameButAsyncs (slot k : Nat) (l : List Nat) (s : State) :
    s.core.set.sameButAsyncs (l.foldl (State.breakpoint slot k) s).core.set := by
  induction l generalizing s with
  | nil => exact CSet.sameButAsyncs_refl _
  | cons n l ih => exact (State.breakpoint_sameButAsyncs slot k s n).trans (ih _)

theorem State.fired_sameButAsyncs (s : State) (slot : Nat) (taken : Token) (result : Option Token) :
    s.core.set.sameButAsyncs (s.fired slot taken result).core.set := by
  have htraced : ∀ u : State, u.core.set = s.core.set → s.core.set.sameButAsyncs
      (if taken.isData then (List.range 4).foldl (State.breakpoint slot taken.k) u else u).core.set := by
    intro u hu
    rw [← hu]
    split
    · exact State.breakpoints_sameButAsyncs slot taken.k (List.range 4) u
    · exact CSet.sameButAsyncs_refl _
  unfold State.fired
  apply htraced
  split
  · split
    · rw [State.spent_core, State.trace_set]
    · rfl
  · rfl

/-! ### Tokens that leave (R120) -/

@[simp] theorem Fabric.send_held (f : Fabric) (box now latency : Nat) (t : Target) (k : Token) :
    (f.send box now latency t k).held = f.held := by
  unfold Fabric.send
  split <;> rfl

theorem Fabric.mem_flights_send {f : Fabric} {g : Flight} (box now latency : Nat) (t : Target) (k : Token)
    (h : g ∈ f.flights) : g ∈ (f.send box now latency t k).flights := by
  unfold Fabric.send
  split
  · exact h
  · exact List.mem_append_left _ h

theorem Fabric.send_sends (f : Fabric) (box now latency : Nat) {t : Target} (k : Token) (ht : t ≠ noTarget) :
    ∃ g ∈ (f.send box now latency t k).flights, g.tgt = t ∧ g.tok = k := by
  unfold Fabric.send
  rw [if_neg ht]
  exact ⟨_, List.mem_append_right _ (List.mem_singleton.mpr rfl), rfl, rfl⟩

/-- The tokens of a list leave one after another, as `State.emit` has them leave. -/
def Fabric.sendAll (f : Fabric) (box now latency : Nat) (outs : List (Target × Token)) : Fabric :=
  outs.foldl (fun f o => f.send box now latency o.1 o.2) f

theorem State.emit_fired_fab (s : State) (slot latency : Nat) (outs : List (Target × Token)) (taken : Token)
    (result : Option Token) : ((s.emit slot latency outs).fired slot taken result).core.set.fab =
      s.core.set.fab.sendAll (boxOf (.slot slot 0)) s.cycle latency outs :=
  ((s.emit slot latency outs).fired_sameButAsyncs slot taken result).fab_eq

theorem State.emit_fired_seq (s : State) (slot latency : Nat) (outs : List (Target × Token)) (taken : Token)
    (result : Option Token) : ((s.emit slot latency outs).fired slot taken result).core.set.seq = s.core.set.seq :=
  ((s.emit slot latency outs).fired_sameButAsyncs slot taken result).seq_eq

@[simp] theorem Fabric.sendAll_held (f : Fabric) (box now latency : Nat) (outs : List (Target × Token)) :
    (f.sendAll box now latency outs).held = f.held := by
  induction outs generalizing f with
  | nil => rfl
  | cons o outs ih => exact (ih _).trans (f.send_held box now latency o.1 o.2)

theorem Fabric.mem_flights_sendAll {f : Fabric} {g : Flight} (box now latency : Nat) (outs : List (Target × Token))
    (h : g ∈ f.flights) : g ∈ (f.sendAll box now latency outs).flights := by
  induction outs generalizing f with
  | nil => exact h
  | cons o outs ih => exact ih (Fabric.mem_flights_send box now latency o.1 o.2 h)

theorem Fabric.sendAll_sends (f : Fabric) (box now latency : Nat) {outs : List (Target × Token)} {o : Target × Token}
    (h : o ∈ outs) (ht : o.1 ≠ noTarget) :
    ∃ g ∈ (f.sendAll box now latency outs).flights, g.tgt = o.1 ∧ g.tok = o.2 := by
  induction outs generalizing f with
  | nil => cases h
  | cons q outs ih =>
    rcases List.mem_cons.mp h with rfl | h
    · obtain ⟨g, hg, hsent⟩ := f.send_sends box now latency o.2 ht
      exact ⟨g, Fabric.mem_flights_sendAll box now latency outs hg, hsent⟩
    · exact ih (f.send box now latency q.1 q.2) h

/-! ### A firing (R120, R123) -/

variable {s : State} {i : Instr} {im : Image} {r : SlotRec} {x : Taken}

/-- A slot that may fire takes its tokens and sends what `act` says, where that is all that `act` does. -/
theorem fabFire_firesWith {act : State → SlotRec → Taken → State × List (Target × Token)}
    {outs : List (Target × Token)} (hexec : exec i s = fabFire i act s) (hact : ∀ u, act u r x = (u, outs))
    (h : s.fires i im r x) : s.firesWith i im r x outs := by
  obtain ⟨hslot, hpick, hmay, heor⟩ := h
  have hdue : (s.core.set.mayFire im s.cycle r && !s.core.set.fab.eorDue.any (fun e => e.1 == r.num)) = true := by
    rw [hmay, heor]
    rfl
  unfold fabFire at hexec
  simp only [hslot, hpick, when_next hdue, hact] at hexec
  refine ⟨_, hexec, ?held, fun o ho ht => ?sent, ?flights, State.emit_fired_seq .., fun _ => by simp⟩
  case held =>
    rw [State.emit_fired_fab, Fabric.sendAll_held]
    rfl
  case sent =>
    unfold State.sends
    rw [State.emit_fired_fab]
    exact Fabric.sendAll_sends (h := ho) (ht := ht) ..
  case flights =>
    rintro rfl
    rw [State.emit_fired_fab]
    rfl

theorem fabMap_firesWith {tx ty : Target} {make : Nat → Taken → Token} (hexec : exec i s = fabMap i tx ty make s)
    (h : s.fires i im r x) :
    s.firesWith i im r x [(tx, x.result (make r.konst.toNat)), (ty, x.result (make r.konst.toNat))] :=
  fabFire_firesWith hexec (fun _ => rfl) h

/-! ### The result (R123) -/

theorem Taken.result_of_error {e : Token} (make : Taken → Token) (h : x.list.find? Token.isError = some e) :
    x.result make = x.fail e.tag.cause 0 := by
  simp [Taken.result, h]

theorem Taken.result_of_clean (make : Taken → Token) (h : x.list.find? Token.isError = none) :
    x.result make = make x := by
  simp [Taken.result, h]

end Sys2Proof.Machine
end

section
/-!
SUPPORT. Lanes (R60): lane j of a payload made lane by lane, and the firings on floating-point lanes (R70, R137), one
lemma for each shared form of the model.
-/

namespace Sys2Proof.Machine

/-! ### Lane j of a payload -/

/-- Lane j of width w. -/
def laneOf (w : Nat) (p : Payload) (j : Nat) : Nat := (p.extractLsb' (w * j) w).toNat

theorem laneOf_eq (w : Nat) (p : Payload) (j : Nat) : laneOf w p j = p.toNat / 2 ^ (w * j) % 2 ^ w := by
  rw [laneOf, BitVec.extractLsb'_toNat, Nat.shiftRight_eq_div_pow]

theorem lanes_eq (w : Nat) (p : Payload) : lanes w p = (List.range (1024 / w)).map (laneOf w p) := by
  rw [lanes, funext (laneOf_eq w p)]

theorem joinLanes_lane (w : Nat) (ls : List Nat) (j : Nat) :
    joinLanes w ls / 2 ^ (w * j) % 2 ^ w = ls.getD j 0 % 2 ^ w := by
  induction ls generalizing j with
  | nil => simp [joinLanes]
  | cons v ls ih =>
    have hv : v % 2 ^ w < 2 ^ w := Nat.mod_lt _ (Nat.two_pow_pos w)
    cases j with
    | zero => simp [joinLanes]
    | succ j =>
      have hrest : joinLanes w (v :: ls) / 2 ^ w = joinLanes w ls := by
        rw [joinLanes, Nat.add_mul_div_left _ _ (Nat.two_pow_pos w), Nat.div_eq_of_lt hv, Nat.zero_add]
      rw [Nat.mul_succ, Nat.add_comm, Nat.pow_add, ← Nat.div_div_eq_div_mul, hrest, ih, List.getD_cons_succ]

theorem lane_fits {w j : Nat} (h : j < 1024 / w) : w * j + w ≤ 1024 := by
  have hw : w * (1024 / w) ≤ 1024 := Nat.mul_div_le 1024 w
  calc w * j + w = w * (j + 1) := (Nat.mul_succ w j).symm
    _ ≤ w * (1024 / w) := Nat.mul_le_mul_left w h
    _ ≤ 1024 := hw

/-- A field that lies below bit n is there in a word of n bits. -/
theorem extractLsb'_ofNat_toNat {n k w : Nat} (v : Nat) (h : k + w ≤ n) :
    ((BitVec.ofNat n v).extractLsb' k w).toNat = v / 2 ^ k % 2 ^ w := by
  have hsplit : 2 ^ n = 2 ^ k * 2 ^ (n - k) := by
    rw [← Nat.pow_add, Nat.add_sub_cancel' (Nat.le_of_add_right_le h)]
  have hdvd : 2 ^ w ∣ 2 ^ (n - k) := Nat.pow_dvd_pow 2 (Nat.le_sub_of_add_le' h)
  rw [BitVec.extractLsb'_toNat, BitVec.toNat_ofNat, Nat.shiftRight_eq_div_pow, hsplit, Nat.mod_mul_right_div_self,
    Nat.mod_mod_of_dvd _ hdvd]

theorem ofLanes_lane {w j : Nat} (ls : List Nat) (h : j < 1024 / w) :
    laneOf w (ofLanes w ls) j = ls.getD j 0 % 2 ^ w := by
  rw [laneOf, ofLanes, extractLsb'_ofNat_toNat _ (lane_fits h), joinLanes_lane]

section Lanes

variable {w j : Nat} (h : j < 1024 / w)
include h

theorem map1_lane (f : Nat → Nat) (l : Payload) : laneOf w (map1 w f l) j = f (laneOf w l j) % 2 ^ w := by
  simp [map1, ofLanes_lane _ h, lanes_eq, h]

theorem map2_lane (f : Nat → Nat → Nat) (l r : Payload) :
    laneOf w (map2 w f l r) j = f (laneOf w l j) (laneOf w r j) % 2 ^ w := by
  simp [map2, ofLanes_lane _ h, lanes_eq, h]

theorem map3_lane (f : Nat → Nat → Nat → Nat) (l r p : Payload) :
    laneOf w (map3 w f l r p) j = f (laneOf w l j) (laneOf w r j) (laneOf w p j) % 2 ^ w := by
  simp [map3, ofLanes_lane _ h, lanes_eq, h, List.zip]

end Lanes

theorem bitAt_toNat {n : Nat} (v : BitVec n) (b : Nat) : bitAt v.toNat b = v.getLsbD b := by
  rw [bitAt, BitVec.getLsbD, Nat.testBit_eq_decide_div_mod_eq]
  rfl

/-! ### A firing that makes its result lane by lane -/

/-- A slot that may fire sends to both targets an error token, where a consumed token is one, and else a data token with
`f j` in each lane j. -/
def State.firesLanes (s : State) (im : Image) (r : SlotRec) (x : Taken) (tx ty : Target) (i : Instr) (w : Nat)
    (f : Nat → Nat) : Prop :=
  s.fires i im r x →
    (∀ e, x.list.find? Token.isError = some e →
      s.firesWith i im r x [(tx, x.fail e.tag.cause 0), (ty, x.fail e.tag.cause 0)]) ∧
    (x.list.find? Token.isError = none → ∃ p : Payload, (∀ j < 1024 / w, laneOf w p j = f j % 2 ^ w) ∧
      s.firesWith i im r x [(tx, x.data p), (ty, x.data p)])

section Firings

variable {s : State} {im : Image} {r : SlotRec} {x : Taken} {m : BitVec 2} {tx ty : Target} {i : Instr}

theorem fabMap_firesLanes {w : Nat} {f : Nat → Nat} {make : Nat → Taken → Payload}
    (hexec : exec i s = fabMap i tx ty (fun k t => t.data (make k t)) s)
    (hlane : ∀ j < 1024 / w, laneOf w (make r.konst.toNat x) j = f j % 2 ^ w) : s.firesLanes im r x tx ty i w f := by
  intro h
  have hsent := fabMap_firesWith hexec h
  refine ⟨fun e he => ?_, fun hclean => ⟨_, hlane, ?_⟩⟩
  · rwa [Taken.result_of_error _ he] at hsent
  · rwa [Taken.result_of_clean _ hclean] at hsent

theorem fpFire_firesLanes {op : FFmt → Nat → Nat → Nat} (hexec : exec i s = fpFire i m tx ty op s) :
    s.firesLanes im r x tx ty i (fpFormat m).width (fun j => (fpFormat m).on2 (r.konst.getLsbD 0) (op (fpFormat m))
      (laneOf (fpFormat m).width x.l.payload j) (laneOf (fpFormat m).width x.rp j)) :=
  fabMap_firesLanes hexec (fun j hj => by rw [map2_lane hj, bitAt_toNat])

theorem fpFire1_firesLanes {op : FFmt → Nat → Nat} (hexec : exec i s = fpFire1 i m tx ty op s) :
    s.firesLanes im r x tx ty i (fpFormat m).width (fun j => (fpFormat m).on1 (r.konst.getLsbD 0) (op (fpFormat m))
      (laneOf (fpFormat m).width x.l.payload j)) :=
  fabMap_firesLanes hexec (fun j hj => by rw [map1_lane hj, bitAt_toNat])

/-- The constant operand and its flush, as they stand in the slot's constant. -/
theorem fpConst_konst (m : BitVec 2) (k : BitVec 32) :
    fpConst m k.toNat = (if m = 0 then k.toNat else k.toNat % 65536, decide (m ≠ 0) && k.getLsbD 16) := by
  by_cases hm : m = 0
  · rw [fpConst, if_pos hm, if_pos hm, Nat.mod_eq_of_lt k.isLt]
    simp [hm]
  · rw [fpConst, if_neg hm, if_neg hm, bitAt_toNat, decide_eq_true hm, Bool.true_and]

theorem fpFireK_firesLanes {op : FFmt → Nat → Nat → Nat} (hexec : exec i s = fpFireK i m tx ty op s) :
    s.firesLanes im r x tx ty i (fpFormat m).width (fun j =>
      (fpFormat m).on2 (decide (m ≠ 0) && r.konst.getLsbD 16) (op (fpFormat m))
        (laneOf (fpFormat m).width x.l.payload j) (if m = 0 then r.konst.toNat else r.konst.toNat % 65536)) :=
  fabMap_firesLanes hexec (fun j hj => by rw [map1_lane hj, fpConst_konst])

theorem fpFireSign_firesLanes {op : FFmt → Nat → Nat} (hexec : exec i s = fpFireSign i m tx ty op s) :
    s.firesLanes im r x tx ty i (fpFormat m).width (fun j =>
      op (fpFormat m) (laneOf (fpFormat m).width x.l.payload j)) :=
  fabMap_firesLanes hexec (fun j hj => by rw [map1_lane hj])

theorem fma_firesLanes : s.firesLanes im r x tx ty (.fma m tx ty) (fpFormat m).width (fun j =>
    (fpFormat m).on3 (r.konst.getLsbD 0) (fpFormat m).fma (laneOf (fpFormat m).width x.l.payload j)
      (laneOf (fpFormat m).width x.rp j) (laneOf (fpFormat m).width x.pp j)) :=
  fabMap_firesLanes (exec_fma m tx ty s) (fun j hj => by rw [map3_lane hj, bitAt_toNat])

/-- FMAC in FP32 is FMA. -/
theorem fmac_firesLanes_fp32 : s.firesLanes im r x tx ty (.fmac 0 tx ty) 32 (fun j =>
    fp32.on3 (r.konst.getLsbD 0) fp32.fma (laneOf 32 x.l.payload j) (laneOf 32 x.rp j) (laneOf 32 x.pp j)) :=
  fabMap_firesLanes (exec_fmac 0 tx ty s) (fun j hj => by
    rw [fmacPayload, if_pos rfl, map3_lane hj, bitAt_toNat])

/-- FMAC in a pair mode adds the products of the two 16-bit lanes that stand in a lane of FP32. -/
theorem fmac_firesLanes_pair (hm : m ≠ 0) : s.firesLanes im r x tx ty (.fmac m tx ty) 32 (fun j =>
    fmacPair (fpFormat m) (r.konst.getLsbD 0) (laneOf 16 x.l.payload (2 * j)) (laneOf 16 x.rp (2 * j))
      (laneOf 16 x.l.payload (2 * j + 1)) (laneOf 16 x.rp (2 * j + 1)) (laneOf 32 x.pp j)) :=
  fabMap_firesLanes (exec_fmac m tx ty s) (fun j hj => by
    rw [fmacPayload, if_neg hm, ofLanes_lane _ hj]
    simp [laneOf_eq, lane32, bitAt_toNat, show j < 32 from hj])

end Firings

end Sys2Proof.Machine

open Sys2Proof Sys2Proof.Machine in
/-- Settles O51: each opcode is one of the model's shared forms of floating-point lanes, or FMA, or FMAC. -/
theorem floatLaneFirings : Obligations.FloatLaneFirings := by
  intro s im r x m tx ty bad fires g w k fl a b c dec
  refine ⟨?fadd, ?fsub, ?fmul, ?fma, ?maxMin, ?functions, ⟨?faddk, ?fmulk⟩, ?fabs, ?fneg, ?fmacOne, ?fmacPair⟩
  case fadd => exact fpFire_firesLanes (exec_fadd m tx ty s)
  case fsub => exact fpFire_firesLanes (exec_fsub m tx ty s)
  case fmul => exact fpFire_firesLanes (exec_fmul m tx ty s)
  case fma => exact fma_firesLanes
  case maxMin =>
    intro i f h
    simp only [List.mem_cons, Prod.mk.injEq, List.not_mem_nil, or_false] at h
    obtain ⟨rfl, rfl⟩ | ⟨rfl, rfl⟩ := h
    · exact fpFire_firesLanes (exec_fmax m tx ty s)
    · exact fpFire_firesLanes (exec_fmin m tx ty s)
  case functions =>
    intro i f h
    simp only [List.mem_cons, Prod.mk.injEq, List.not_mem_nil, or_false] at h
    obtain ⟨rfl, rfl⟩ | ⟨rfl, rfl⟩ | ⟨rfl, rfl⟩ | ⟨rfl, rfl⟩ := h
    · exact fpFire1_firesLanes (exec_frcp m tx ty s)
    · exact fpFire1_firesLanes (exec_frsq m tx ty s)
    · exact fpFire1_firesLanes (exec_fexp2 m tx ty s)
    · exact fpFire1_firesLanes (exec_flog2 m tx ty s)
  case faddk => exact fpFireK_firesLanes (exec_faddk m tx ty s)
  case fmulk => exact fpFireK_firesLanes (exec_fmulk m tx ty s)
  case fabs => exact fpFireSign_firesLanes (exec_fabs m tx ty s)
  case fneg => exact fpFireSign_firesLanes (exec_fneg m tx ty s)
  case fmacOne =>
    intro hm
    subst hm
    exact fmac_firesLanes_fp32
  case fmacPair => exact fun hm => fmac_firesLanes_pair hm
end

section
/-!
SUPPORT. The instructions that only compute (R95 to R99): each form has its effect where its operands are available, and
its value is that of its row.
-/

namespace Sys2Proof.Machine

/-! ### Issue with fewer registers or a lower level -/

theorem State.mayIssue.mono {s : State} {rs rs' : List Reg} {d : Reg} {l l' : Nat} (h : s.mayIssue rs d l)
    (hr : ∀ r ∈ rs', r ∈ rs) (hl : l' ≤ l) : s.mayIssue rs' d l' := by
  obtain ⟨hreads, hdest, hbar, hlevel⟩ := h
  exact ⟨fun r hr' => hreads r (hr r hr'), hdest, hbar, hl.trans hlevel⟩

/-! ### The forms -/

section Forms

variable {i : Instr} {s : State} {d a b : Reg} (hw : i.wellFormed = true)
include hw

theorem aluRR_next (f : Word → Word → Word) (h : s.mayIssue [a, b] d 0) :
    aluRR i d a b f s = .next ((s.setReg d (f (s.reg a) (s.reg b))).advance) :=
  issue_next hw h

theorem aluR_next (f : Word → Word) (h : s.mayIssue [a] d 0) :
    aluR i d a f s = .next ((s.setReg d (f (s.reg a))).advance) :=
  issue_next hw h

theorem aluMul_next (f : Word → Word → Word) (h : s.mayIssue [a, b] d 0) :
    aluMul i d a b f s = .next ((s.later d .other (f (s.reg a) (s.reg b)) .clear 3).advance) :=
  issue_next hw h

theorem aluDiv_next (f : Word → Word → Word) (h : s.mayIssue [a, b] d 0) :
    aluDiv i d a b f s =
      .next (((s.setDz (s.reg b == 0)).later d .other (f (s.reg a) (s.reg b)) .clear 34).advance) :=
  issue_next hw h

end Forms

/-! ### The values of R95 -/

theorem boolWord_decide (p : Prop) [Decidable p] : boolWord (decide p) = if p then 1 else 0 := by
  simp [boolWord]

theorem boolWord_beq (x y : Word) : boolWord (x == y) = if x = y then 1 else 0 := by
  simp [boolWord]

theorem boolWord_bne (x y : Word) : boolWord (x != y) = if x ≠ y then 1 else 0 := by
  simp [boolWord]

/-- CLZ of a word with a bit set counts the zeros above it. -/
theorem clzValue_bounds {x : Word} (h : x ≠ 0) :
    (clzValue x).toNat < 64 ∧ 2 ^ (63 - (clzValue x).toNat) ≤ x.toNat ∧ x.toNat < 2 ^ (64 - (clzValue x).toNat) := by
  have hx : x.toNat ≠ 0 := fun h0 => h (BitVec.eq_of_toNat_eq h0)
  have hlog : Nat.log2 x.toNat < 64 := (Nat.log2_lt hx).mpr x.isLt
  have hval : (clzValue x).toNat = 63 - Nat.log2 x.toNat := by
    rw [clzValue, if_neg h, BitVec.toNat_ofNat]
    omega
  rw [hval, show 63 - (63 - Nat.log2 x.toNat) = Nat.log2 x.toNat by omega,
    show 64 - (63 - Nat.log2 x.toNat) = Nat.log2 x.toNat + 1 by omega]
  exact ⟨by omega, Nat.log2_self_le hx, Nat.lt_log2_self⟩

theorem countOnes_eq_length_filter (x : Word) (n : Nat) :
    countOnes x n = ((List.range n).filter (fun i => x.getLsbD i)).length := by
  induction n with
  | zero => rfl
  | succ n ih => cases hx : x.getLsbD n <;> simp [countOnes, List.range_succ, ih, hx]

/-! ### The values of R96 -/

theorem divValues_of_zero {x y : Word} (h : y = 0) : divsValue x y = BitVec.allOnes 64 ∧
    divuValue x y = BitVec.allOnes 64 ∧ remsValue x y = BitVec.allOnes 64 ∧ remuValue x y = BitVec.allOnes 64 := by
  simp [divsValue, divuValue, remsValue, remuValue, h]

theorem divuValue_of_ne_zero {x y : Word} (h : y ≠ 0) : divuValue x y = x / y := by
  rw [divuValue, if_neg h]
  exact BitVec.eq_of_toNat_eq (by simp [Nat.mod_eq_of_lt ((Nat.div_le_self ..).trans_lt x.isLt)])

theorem remuValue_of_ne_zero {x y : Word} (h : y ≠ 0) : remuValue x y = x % y := by
  rw [remuValue, if_neg h]
  exact BitVec.eq_of_toNat_eq (by simp [Nat.mod_eq_of_lt ((Nat.mod_le ..).trans_lt x.isLt)])

theorem divsValue_of_ne_zero {x y : Word} (h : y ≠ 0) : divsValue x y = BitVec.ofInt 64 (x.toInt.tdiv y.toInt) :=
  if_neg h

theorem remsValue_of_ne_zero {x y : Word} (h : y ≠ 0) :
    remsValue x y = BitVec.ofInt 64 (x.toInt - x.toInt.tdiv y.toInt * y.toInt) := by
  rw [remsValue, if_neg h, Int.tmod_def, mul_comm]

/-! ### The values of R97 -/

theorem getLsbD_zextValue (x : Word) (n : Nat) {j : Nat} (hj : j < 64) :
    (zextValue x n).getLsbD j = (decide (j ≤ n) && x.getLsbD j) := by
  rw [zextValue, BitVec.getLsbD_ofNat, Nat.testBit_mod_two_pow, BitVec.testBit_toNat]
  simp [hj]

theorem sintOf_eq_toInt (n v : Nat) : sintOf (n + 1) v = (BitVec.ofNat (n + 1) v).toInt := by
  rw [sintOf, BitVec.toInt_eq_toNat_cond, BitVec.toNat_ofNat, Nat.add_sub_cancel]
  simp only [Nat.pow_succ, Nat.mul_comm (2 ^ n) 2, Nat.mul_lt_mul_left (show 0 < 2 by omega), pow_succ (2 : Int) n]
  push_cast
  rw [mul_comm (2 ^ n : Int) 2]

theorem sextValue_eq (x : Word) (n : Nat) : sextValue x n = (BitVec.ofNat (n + 1) x.toNat).signExtend 64 := by
  rw [sextValue, sintOf_eq_toInt]
  rfl

theorem getLsbD_sextValue (x : Word) (n : Nat) {j : Nat} (hj : j < 64) :
    (sextValue x n).getLsbD j = x.getLsbD (min j n) := by
  rw [sextValue_eq, BitVec.getLsbD_signExtend, BitVec.msb_eq_getLsbD_last]
  by_cases h : j < n + 1
  · simp [hj, h, show min j n = j by omega]
  · simp [hj, h, show min j n = n by omega]

end Sys2Proof.Machine

open Sys2Proof Sys2Proof.Machine in
/-- Settles O1: each opcode is one of the model's shared forms, with the value of its row. -/
theorem aluResults : Obligations.AluResults := by
  intro s d a b h x y answers
  have ha : s.mayIssue [a] d 0 := h.mono (by simp) le_rfl
  have of2 (f : Word → Word → Word) {i : Instr} (hw : i.wellFormed = true) (hi : exec i s = aluRR i d a b f s) :
      answers i (f x y) := hi.trans (aluRR_next hw f h)
  have of1 (f : Word → Word) {i : Instr} (hw : i.wellFormed = true) (hi : exec i s = aluR i d a f s) :
      answers i (f x) := hi.trans (aluR_next hw f ha)
  refine ⟨of2 _ rfl (exec_add d a b s), of2 _ rfl (exec_sub d a b s), of2 _ rfl (exec_and d a b s),
    of2 _ rfl (exec_or d a b s), of2 _ rfl (exec_xor d a b s), of2 _ rfl (exec_andn d a b s),
    of2 _ rfl (exec_shl d a b s), of2 _ rfl (exec_shr d a b s), of2 _ rfl (exec_sra d a b s),
    ?min, ?max, ?minu, ?maxu, ?cmpeq, ?cmpne, ?cmplt, ?cmpltu, ?cmple, ?cmpleu, ?mul, ?clz, ?popc⟩
  case min => simpa [BitVec.slt] using of2 _ rfl (exec_min d a b s)
  case max => simpa [BitVec.slt] using of2 _ rfl (exec_max d a b s)
  case minu => simpa [BitVec.ult] using of2 _ rfl (exec_minu d a b s)
  case maxu => simpa [BitVec.ult] using of2 _ rfl (exec_maxu d a b s)
  case cmpeq => simpa only [boolWord_beq] using of2 _ rfl (exec_cmpeq d a b s)
  case cmpne => simpa only [boolWord_bne] using of2 _ rfl (exec_cmpne d a b s)
  case cmplt => simpa only [BitVec.slt, boolWord_decide] using of2 _ rfl (exec_cmplt d a b s)
  case cmpltu => simpa only [BitVec.ult, boolWord_decide] using of2 _ rfl (exec_cmpltu d a b s)
  case cmple => simpa only [BitVec.sle, boolWord_decide] using of2 _ rfl (exec_cmple d a b s)
  case cmpleu => simpa only [BitVec.ule, boolWord_decide] using of2 _ rfl (exec_cmpleu d a b s)
  case mul =>
    intro i v hmem
    simp only [List.mem_cons, Prod.mk.injEq, List.not_mem_nil, or_false] at hmem
    obtain ⟨rfl, rfl⟩ | ⟨rfl, rfl⟩ | ⟨rfl, rfl⟩ := hmem
    · exact (exec_mul d a b s).trans (aluMul_next rfl _ h)
    · exact (exec_mulh d a b s).trans (aluMul_next rfl _ h)
    · exact (exec_mulhu d a b s).trans (aluMul_next rfl _ h)
  case clz => exact ⟨clzValue x, of1 clzValue rfl rfl, fun hx => if_pos hx, clzValue_bounds⟩
  case popc =>
    rw [← countOnes_eq_length_filter]
    exact of1 popcValue rfl rfl

open Sys2Proof Sys2Proof.Machine in
/-- Settles O2: a division sets DZ where the divisor is zero, and its value is that of R96 by the divisor. -/
theorem divisionResults : Obligations.DivisionResults := by
  intro s d a b h x y z answers
  have of (f : Word → Word → Word) {i : Instr} (hw : i.wellFormed = true) (hi : exec i s = aluDiv i d a b f s) :
      answers i (s.setDz (y == 0)) (f x y) 34 := hi.trans (aluDiv_next hw f h)
  have hs : answers (.divs d a b) _ (divsValue x y) 34 := of divsValue rfl rfl
  have hu : answers (.divu d a b) _ (divuValue x y) 34 := of divuValue rfl rfl
  have hrs : answers (.rems d a b) _ (remsValue x y) 34 := of remsValue rfl rfl
  have hru : answers (.remu d a b) _ (remuValue x y) 34 := of remuValue rfl rfl
  have nonzero (hy : y ≠ 0) : answers (.divs d a b) s (BitVec.ofInt 64 (x.toInt.tdiv y.toInt)) 34 ∧
      answers (.divu d a b) s (x / y) 34 ∧
      answers (.rems d a b) s (BitVec.ofInt 64 (x.toInt - x.toInt.tdiv y.toInt * y.toInt)) 34 ∧
      answers (.remu d a b) s (x % y) 34 := by
    have hz : s.setDz (y == 0) = s := by rw [beq_false_of_ne hy]; rfl
    rw [hz] at hs hu hrs hru
    rw [← divsValue_of_ne_zero hy, ← divuValue_of_ne_zero hy, ← remsValue_of_ne_zero hy, ← remuValue_of_ne_zero hy]
    exact ⟨hs, hu, hrs, hru⟩
  refine ⟨fun hy => ?zero, nonzero, fun hx hy => ?overflow⟩
  case zero =>
    have hz : s.setDz (y == 0) = z := by rw [hy]; rfl
    obtain ⟨e1, e2, e3, e4⟩ := divValues_of_zero (x := x) hy
    rw [hz] at hs hu hrs hru
    rw [e1] at hs
    rw [e2] at hu
    rw [e3] at hrs
    rw [e4] at hru
    exact ⟨hs, hu, hrs, hru⟩
  case overflow =>
    have hone : y.toInt = -1 := by rw [hy]; rfl
    obtain ⟨h1, -, h2, -⟩ := nonzero (by rw [hy]; decide)
    have hxv : x = BitVec.ofInt 64 (-2 ^ 63) := by rw [← hx, BitVec.ofInt_toInt]
    rw [hone, hx] at h1 h2
    rw [hxv]
    exact ⟨h1, h2⟩

open Sys2Proof Sys2Proof.Machine in
/-- Settles O3: each immediate form is one of the model's, with the value of its row. -/
theorem immediateResults : Obligations.ImmediateResults := by
  intro s d a i n u answers x k
  refine ⟨fun h => ?imm,
    fun h => ⟨(exec_lui d u s).trans (issue_next rfl h), (exec_addpc d u s).trans (issue_next rfl h)⟩,
    fun h => (exec_lih d u s).trans (issue_next rfl h)⟩
  case imm =>
    have of (f : Word → Word) {i : Instr} (hw : i.wellFormed = true) (hi : exec i s = aluR i d a f s) :
        answers i (f x) := hi.trans (aluR_next hw f h)
    refine ⟨of (· + k) rfl (exec_addi d a i s), of (· &&& k) rfl (exec_andi d a i s),
      of (· ||| k) rfl (exec_ori d a i s), of (· ^^^ k) rfl (exec_xori d a i s),
      of (· <<< n.toNat) rfl (exec_shli d a n s), of (· >>> n.toNat) rfl (exec_shri d a n s),
      of (·.sshiftRight n.toNat) rfl (exec_srai d a n s), ?cmplti, ?cmpeqi, ?sext, ?zext⟩
    case cmplti => simpa only [BitVec.slt, boolWord_decide] using of (fun v => boolWord (v.slt k)) rfl (exec_cmplti d a i s)
    case cmpeqi => simpa only [boolWord_beq] using of (fun v => boolWord (v == k)) rfl (exec_cmpeqi d a i s)
    case sext => exact ⟨sextValue x n.toNat, of _ rfl (exec_sext d a n s), fun j hj => getLsbD_sextValue x n.toNat hj⟩
    case zext => exact ⟨zextValue x n.toNat, of _ rfl (exec_zext d a n s), fun j hj => getLsbD_zextValue x n.toNat hj⟩
end

section
/-!
SUPPORT. What a write of one register that moves on leaves of the machine (R85, R87), and branches and jumps (R100,
R101).
-/

namespace Sys2Proof.Machine

/-! ### A register written (R85, R88) -/

@[simp] theorem Seq.read_zero (q : Seq) : q.read 0 = 0 := rfl
@[simp] theorem Seq.err_zero (q : Seq) : q.err 0 = .clear := rfl

theorem Reg.toNat_ne {r d : Reg} (h : r ≠ d) : d.toNat ≠ r.toNat := fun e => h (BitVec.eq_of_toNat_eq e.symm)

theorem Seq.read_write_of_ne (q : Seq) {r d : Reg} (h : r ≠ d) (v : Word) : (q.write d v).read r = q.read r := by
  unfold Seq.write
  split
  · rfl
  · simp [Seq.read, Reg.toNat_ne h]

theorem Seq.err_write_of_ne (q : Seq) {r d : Reg} (h : r ≠ d) (v : Word) : (q.write d v).err r = q.err r := by
  unfold Seq.write
  split
  · rfl
  · simp [Seq.err, Reg.toNat_ne h]

@[simp] theorem Seq.write_pend (q : Seq) (d : Reg) (v : Word) : (q.write d v).pend = q.pend := by
  unfold Seq.write
  split <;> rfl

/-- The levels, the flags and the trap registers are no register. -/
theorem Seq.sameFlags_write (q : Seq) (d : Reg) (v : Word) : q.sameFlags (q.write d v) := by
  unfold Seq.sameFlags Seq.write
  split <;> exact ⟨rfl, rfl, rfl, rfl, rfl, rfl⟩

/-! ### Branches (R100) -/

theorem branchOn_next {i : Instr} (hw : i.wellFormed = true) {s : State} {a b : Reg} (o : BitVec 11)
    (c : Word → Word → Bool) (h : s.mayIssue [a, b] 0 0) :
    branchOn i a b o c s = .next (s.branch (c (s.reg a) (s.reg b)) o) :=
  issue_next hw h

@[simp] theorem State.branch_true (s : State) (o : BitVec 11) :
    s.branch true o = s.setPc (s.seq.pc + 4 * BitVec.signExtend 64 o) := rfl

@[simp] theorem State.branch_false (s : State) (o : BitVec 11) : s.branch false o = s.setPc (s.seq.pc + 4) := rfl

/-! ### JALR (R101) -/

theorem execJalr_next {s : State} {d a : Reg} (k : BitVec 14) (h : s.mayIssue [a] d 0) :
    execJalr d a k s = .next (if (s.reg a + sx14 k).toNat % 4 ≠ 0 then s.trap causeAlign (s.reg a + sx14 k)
      else (s.setReg d (s.seq.pc + 4)).setPc (s.reg a + sx14 k)) :=
  issue_next rfl h

end Sys2Proof.Machine

open Sys2Proof Sys2Proof.Machine in
/-- Settles O4: each of the forms answers its operands' value in d, and that write leaves the rest as it is. -/
theorem registerInstructionsFrame : Obligations.RegisterInstructionsFrame := by
  intro s t d a b k n u h i hmem hwf ht
  suffices hv : ∃ v, exec i s = .next ((s.setReg d v).advance) by
    obtain ⟨v, hv⟩ := hv
    rw [hv] at ht
    cases ht
    exact ⟨fun r hr => ⟨s.seq.read_write_of_ne hr v, s.seq.err_write_of_ne hr v⟩, rfl, s.seq.write_pend d v,
      s.seq.sameFlags_write d v, fun _ => rfl, rfl⟩
  have h2 : s.mayIssue [a, b] d 0 := h.mono (by simp) le_rfl
  have h1 : s.mayIssue [a] d 0 := h.mono (by simp) le_rfl
  have h0 : s.mayIssue [] d 0 := h.mono (by simp) le_rfl
  have of2 (f : Word → Word → Word) {i : Instr} (hi : exec i s = aluRR i d a b f s) (hw : i.wellFormed = true) :
      ∃ v, exec i s = .next ((s.setReg d v).advance) := ⟨_, hi.trans (aluRR_next hw f h2)⟩
  have of1 (f : Word → Word) {i : Instr} (hi : exec i s = aluR i d a f s) (hw : i.wellFormed = true) :
      ∃ v, exec i s = .next ((s.setReg d v).advance) := ⟨_, hi.trans (aluR_next hw f h1)⟩
  simp only [List.mem_cons, List.not_mem_nil, or_false] at hmem
  rcases hmem with rfl | rfl | rfl | rfl | rfl | rfl | rfl | rfl | rfl | rfl | rfl | rfl | rfl | rfl | rfl | rfl | rfl |
    rfl | rfl | rfl | rfl | rfl | rfl | rfl | rfl | rfl | rfl | rfl | rfl | rfl | rfl | rfl | rfl | rfl | rfl | rfl
  exacts [of2 _ (exec_add d a b s) hwf, of2 _ (exec_sub d a b s) hwf, of2 _ (exec_and d a b s) hwf,
    of2 _ (exec_or d a b s) hwf, of2 _ (exec_xor d a b s) hwf, of2 _ (exec_andn d a b s) hwf,
    of2 _ (exec_shl d a b s) hwf, of2 _ (exec_shr d a b s) hwf, of2 _ (exec_sra d a b s) hwf,
    of2 _ (exec_min d a b s) hwf, of2 _ (exec_max d a b s) hwf, of2 _ (exec_minu d a b s) hwf,
    of2 _ (exec_maxu d a b s) hwf, of2 _ (exec_cmpeq d a b s) hwf, of2 _ (exec_cmpne d a b s) hwf,
    of2 _ (exec_cmplt d a b s) hwf, of2 _ (exec_cmpltu d a b s) hwf, of2 _ (exec_cmple d a b s) hwf,
    of2 _ (exec_cmpleu d a b s) hwf, of1 _ (exec_clz d a s) hwf, of1 _ (exec_popc d a s) hwf,
    of1 _ (exec_addi d a k s) hwf, of1 _ (exec_andi d a k s) hwf, of1 _ (exec_ori d a k s) hwf,
    of1 _ (exec_xori d a k s) hwf, of1 _ (exec_shli d a n s) hwf, of1 _ (exec_shri d a n s) hwf,
    of1 _ (exec_srai d a n s) hwf, of1 _ (exec_cmplti d a k s) hwf, of1 _ (exec_cmpeqi d a k s) hwf,
    of1 _ (exec_sext d a n s) hwf, of1 _ (exec_zext d a n s) hwf,
    ⟨_, (exec_lui d u s).trans (issue_next hwf h0)⟩, ⟨_, (exec_addpc d u s).trans (issue_next hwf h0)⟩,
    ⟨_, (exec_lih d u s).trans (issue_next hwf (h.mono (by simp) le_rfl))⟩,
    ⟨_, (exec_mfs d k s).trans (issue_next hwf h0)⟩]

open Sys2Proof Sys2Proof.Machine in
/-- Settles O5: each opcode is a comparing branch of the model, and BTR is one on the pending bit alone. -/
theorem branchResults : Obligations.BranchResults := by
  intro s a b o answers x y
  have of_taken {i : Instr} {c : Bool} {p : Prop} (hc : c = true ↔ p) (hi : exec i s = .next (s.branch c o)) :
      answers i p := by
    refine ⟨fun hp => ?taken, fun hp => ?not⟩
    case taken => rw [hi, hc.mpr hp, State.branch_true]
    case not => rw [hi, Bool.eq_false_iff.mpr (mt hc.mp hp), State.branch_false]
  refine ⟨fun h => ?compare, fun h => ?btr⟩
  case compare =>
    have of (c : Word → Word → Bool) {i : Instr} {p : Prop} (hi : exec i s = branchOn i a b o c s)
        (hw : i.wellFormed = true) (hc : c x y = true ↔ p) : answers i p :=
      of_taken hc (hi.trans (branchOn_next hw o c h))
    exact ⟨of _ (exec_beq a b o s) rfl (by simp), of _ (exec_bne a b o s) rfl (by simp),
      of _ (exec_blt a b o s) rfl (by simp [BitVec.slt]), of _ (exec_bge a b o s) rfl (by simp [BitVec.sle]),
      of _ (exec_bltu a b o s) rfl (by simp [BitVec.ult]), of _ (exec_bgeu a b o s) rfl (by simp [BitVec.ule])⟩
  case btr => exact of_taken (by simp) ((exec_btr a o s).trans (issue_next rfl h))

open Sys2Proof Sys2Proof.Machine in
/-- Settles O6: JAL and a JALR to an aligned target link and jump; an address above the space is in no part of it. -/
theorem jumpResults : Obligations.JumpResults := by
  intro s d a i k
  refine ⟨fun h => (exec_jal d i s).trans (issue_next rfl h), fun h => ?jalr, fun va hva hpc hlt => ?fetch⟩
  case jalr =>
    have hexec := (exec_jalr d a k s).trans (execJalr_next k h)
    exact ⟨fun h0 => hexec.trans (congrArg _ (if_neg (not_not.mpr h0))), fun h0 => hexec.trans (congrArg _ (if_pos h0))⟩
  case fetch =>
    have hpc : s.seq.pc.toNat = va := by rw [hpc, BitVec.toNat_ofNat, Nat.mod_eq_of_lt hlt]
    have hwin : s.seq.pc.toNat ≥ windowBase := by rw [hpc]; exact le_trans (by decide) hva
    simp only [State.fetch, if_pos hwin]
    rfl
end

section
/-!
SUPPORT. A store in the scratchpad window and a SIGWAIT of the same unit on a flag there (R105, R238): the scratchpad is
also part of the global space (R165), so that a flag may lie in it.
-/

namespace Sys2Proof.Machine

/-- A unit on core 0 whose SIGWAIT into s2 has arrived at the first location of the core's own scratchpad and waits
there for the value 7; s1 names that location in the window, and s3 is 7. -/
def flagInPad : State :=
  { State.reset with
    core := { Core.idle 0 with set := { CSet.empty with
      unit := some UnitCtx.none
      seq := ((Seq.zero.write 1 0xFFFF00000000).write 3 7).setPending 2
      ops := [⟨8, 2, .other, .sigwait⟩] } }
    net := { Net.empty with
      nextId := 9
      waits := [⟨0, 0, 0, 8, scratchBase, 7, 0, none, some 0, true, none⟩] } }

theorem flagInPad_mayIssue : flagInPad.mayIssue [1, 3] 0 0 := by
  refine ⟨?_, ?_, ?_, ?_⟩ <;> decide +kernel

/-- The store writes 7 to the flag, so that the SIGWAIT is over: its operation no longer waits. -/
theorem flagInPad_std_ops {t : State} (h : exec (.std 3 1 0) flagInPad = .next t) :
    t.core.set.ops = [⟨8, 2, .other, .ready 7 .clear 1⟩] := by
  have hops : (match exec (.std 3 1 0) flagInPad with | .next u => some u.core.set.ops | _ => none) =
      some [⟨8, 2, .other, .ready 7 .clear 1⟩] := by decide +kernel
  rw [h] at hops
  exact Option.some.inj hops

end Sys2Proof.Machine

open Sys2Proof Sys2Proof.Machine in
/-- Refutes O7: the store of `flagInPad` is the write that the unit's own SIGWAIT waits for, and it changes that
operation, so that the operations of the unit are not what they were. -/
theorem not_windowLoadsAndStores : ¬ Obligations.WindowLoadsAndStores := by
  intro h
  obtain ⟨-, -, hstore⟩ := h flagInPad 3 1 0 8 (by decide +kernel) (by decide +kernel) (by decide +kernel)
  obtain ⟨t, ht, -, -, -, hops⟩ := hstore (by decide) flagInPad_mayIssue (.std 3 1 0) (.inr ⟨rfl, rfl⟩)
  rw [flagInPad_std_ops ht] at hops
  exact absurd hops (by decide)
end

section
/-!
SUPPORT. The address checks of a scalar access (R103), and what a load and a store of a global address leave on their
way (R102, R107, R229).
-/

namespace Sys2Proof.Machine

/-- s0 is never pending (R85). -/
theorem State.mayIssue.to_zero {s : State} {rs : List Reg} {d : Reg} {l : Nat} (h : s.mayIssue rs d l) :
    s.mayIssue rs 0 l := by
  obtain ⟨hreads, -, hbar, hlevel⟩ := h
  exact ⟨hreads, rfl, hbar, hlevel⟩

/-! ### The checks at issue (R103) -/

/-- An aligned access of 4 or 8 bytes stays in one piece of 16. -/
theorem piecesOf_aligned {va n : Nat} (hn : n = 4 ∨ n = 8) (h : va % n = 0) : piecesOf va n = [(va, n)] := by
  have hone : (va + n + 15) / 16 - va / 16 = 1 := by rcases hn with rfl | rfl <;> omega
  have hlo : max va (16 * (va / 16)) = va := by omega
  have hlen : min (va + n) (16 * (va / 16 + 1)) - va = n := by rcases hn with rfl | rfl <;> omega
  simp [piecesOf, hone, hlo, hlen]

theorem toNat_lt_of_global {va : Word} {n : Nat} (h : va.toNat + n ≤ windowBase) : va.toNat < 2 ^ 48 := by
  have hbase : windowBase = 0xFFFF00000000 := rfl
  omega

section Checked

variable {s u : State} {kind : AccKind} {va : Word} {n : Nat}

theorem State.checked_misaligned (h : va.toNat % n ≠ 0) : s.checked kind va n n = (s, .error causeAlign) := by
  simp [State.checked, h]

variable (halign : va.toNat % n = 0)
include halign

theorem State.checked_of_resolve (hlt : va.toNat < 2 ^ 48) {r : Bool × List Span}
    (hr : s.resolve kind va.toNat n = (u, .ok r)) : s.checked kind va n n = (u, .ok r) := by
  rw [State.checked, if_neg (not_not.mpr halign), if_neg (Nat.not_le.mpr hlt), hr]

theorem State.checked_of_resolve_error (hlt : va.toNat < 2 ^ 48) {f : XFault × Nat}
    (hr : s.resolve kind va.toNat n = (u, .error f)) : s.checked kind va n n = (u, .error f.1.cause) := by
  rw [State.checked, if_neg (not_not.mpr halign), if_neg (Nat.not_le.mpr hlt), hr]

theorem State.checked_beyond_window (hn : 0 < n) (h : va.toNat ≥ windowBase + windowSize s.core.sliced) :
    s.checked kind va n n = (s, .error causeAccess) := by
  by_cases hlt : va.toNat < 2 ^ 48
  · have hin : inWindowPart va.toNat = true := decide_eq_true (by omega)
    have hout : ¬ (va.toNat - windowBase + n ≤ windowSize s.core.sliced) := by omega
    have hr : s.resolve kind va.toNat n = (s, .error (.access, va.toNat)) := by
      simp [State.resolve, State.resolveBy, hin, hout]
    exact State.checked_of_resolve_error halign hlt hr
  · rw [State.checked, if_neg (not_not.mpr halign), if_pos (Nat.not_lt.mp hlt)]

variable (hn : n = 4 ∨ n = 8) (hglobal : va.toNat + n ≤ windowBase)
include hn hglobal

/-- Of a global address the one piece is translated, unless it lies in a remote window. -/
theorem State.resolve_global {r : Except (XFault × Nat) (List Span)}
    (h : State.translateAll (fun s va => s.translate kind va) [(va.toNat, n)] s = (u, r)) :
    s.resolve kind va.toNat n = (u, r.map (fun sp => (false, sp))) := by
  have hbase : windowBase = 0xFFFF00000000 := rfl
  have hin : inWindowPart va.toNat = false := decide_eq_false (by omega)
  rw [State.resolve, State.resolveBy, hin, if_neg Bool.false_ne_true, if_neg (Nat.not_lt.mpr hglobal),
    piecesOf_aligned hn halign, h]
  cases r <;> rfl

theorem State.checked_remote (hw : (s.part.windowAt va.toNat).isSome) :
    s.checked kind va n n = (s, .error causeAccess) := by
  refine State.checked_of_resolve_error halign (toNat_lt_of_global hglobal)
    (f := (.access, va.toNat)) (State.resolve_global halign hn hglobal (r := .error (.access, va.toNat)) ?_)
  simp [State.translateAll, hw]

variable (hw : s.part.windowAt va.toNat = none)
include hw

theorem State.checked_of_translate {pa : Nat} (ht : s.translate kind va.toNat = (u, .ok pa)) :
    s.checked kind va n n = (u, .ok (false, [⟨va.toNat, pa, n⟩])) := by
  refine State.checked_of_resolve halign (toNat_lt_of_global hglobal)
    (State.resolve_global halign hn hglobal (r := .ok [⟨va.toNat, pa, n⟩]) ?_)
  simp [State.translateAll, hw, ht]

theorem State.checked_of_fault {f : XFault} (ht : s.translate kind va.toNat = (u, .error f)) :
    s.checked kind va n n = (u, .error f.cause) := by
  refine State.checked_of_resolve_error halign (toNat_lt_of_global hglobal)
    (f := (f, va.toNat)) (State.resolve_global halign hn hglobal (r := .error (f, va.toNat)) ?_)
  simp [State.translateAll, hw, ht]

end Checked

/-! ### The two forms (R102) -/

/-- An access of one of the scalar opcodes: its kind, and the exec of its form. -/
inductive ScalarForm (i : Instr) (d a : Reg) (imm : BitVec 14) (n : Nat) : AccKind → Prop where
  | load (h : ∀ s, exec i s = loadInstr i d a imm n s) : ScalarForm i d a imm n .read
  | store (h : ∀ s, exec i s = storeInstr i d a imm n s) : ScalarForm i d a imm n .write

section Forms

variable {s u : State} {i : Instr} {d a : Reg} {imm : BitVec 14} {n : Nat} (hw : i.wellFormed = true)
  (hheld : s.globalHeld (s.reg a + sx14 imm) = false)
include hw hheld

theorem loadInstr_of_global {va pa : Nat} (h : s.mayIssue [a] d 0)
    (hc : s.checked .read (s.reg a + sx14 imm) n n = (u, .ok (false, [⟨va, pa, n⟩]))) :
    loadInstr i d a imm n s = .next (u.beginLoad d pa n).advance := by
  rw [loadInstr, issue_next hw h]
  simp only [hheld, hc]
  rfl

theorem storeInstr_of_spans {w : Bool} {sp : List Span} (h : s.mayIssue [a, d] 0 0)
    (hc : s.checked .write (s.reg a + sx14 imm) n n = (u, .ok (w, sp))) :
    storeInstr i d a imm n s = .next (u.write .sequencer w sp (leBytes n (s.reg d).toNat)).1.advance := by
  rw [storeInstr, issue_next hw h]
  simp only [hheld, hc]
  rfl

/-- A check that fails is the access's trap, with the address. -/
theorem ScalarForm.traps {kind : AccKind} {cause : BitVec 8} (hf : ScalarForm i d a imm n kind)
    (h : s.mayIssue [a, d] d 0) (hc : s.checked kind (s.reg a + sx14 imm) n n = (u, .error cause)) :
    exec i s = .next (u.trap cause (s.reg a + sx14 imm)) := by
  cases hf with
  | load hi =>
    rw [hi, loadInstr, issue_next hw (h.mono (by simp) le_rfl : s.mayIssue [a] d 0)]
    simp only [hheld, hc]
    rfl
  | store hi =>
    rw [hi, storeInstr, issue_next hw (h.to_zero : s.mayIssue [a, d] 0 0)]
    simp only [hheld, hc]
    rfl

end Forms

/-! ### What leaves for the home (R102, R107, R229) -/

@[simp] theorem State.inject_core (s : State) (k : Packet) : (s.inject k).core = s.core := by
  unfold State.inject
  dsimp only
  split <;> rfl

theorem State.inject_packets (s : State) (k : Packet) :
    (s.inject k).net.packets = s.net.packets ++ [{ k with id := s.net.nextId, seq := s.pairSeq k.src k.dst }] := by
  unfold State.inject
  dsimp only
  split <;> rfl

@[simp] theorem leBytes_length (n v : Nat) : (leBytes n v).length = n := by
  induction n generalizing v with
  | zero => rfl
  | succ n ih => simp [leBytes, ih]

theorem State.write_global (s : State) (source : Source) (sp : Span) (bs : List Byte) :
    (s.write source false [sp] bs).1 = (s.dropSnaps sp.pa sp.n).inject
      (s.unitPacket (homeOf s.host.pins sp.pa) 0 (bs.take sp.n) (.write source sp.pa (BitVec.ofNat 48 sp.va)) none) := rfl

/-- The operation of a load is no write of the unit. -/
theorem State.ownCells_begin_load (s : State) (d : Reg) (cls : OpClass) (pa n : Nat) (own : List Host.Cell) (home : Bool)
    (sent : Option Nat) : (s.begin d cls (.load pa n own home sent)).ownCells = s.ownCells := by
  have h : (s.begin d cls (.load pa n own home sent)).ownWrites = s.ownWrites := by
    simp [State.ownWrites, State.unit, CSet.poOf]
  unfold State.ownCells State.ownByte
  rw [h]

/-- With no snapshot copy of the location, a load that performs asks its home. -/
theorem State.performLoad_of_unsnapped {s : State} {pa : Nat} (h : lookup (pa / 8 * 8) s.core.set.snaps = none)
    (id n : Nat) (home : Bool) : s.performLoad id pa n home =
      (s.rewait id (.load pa n (s.ownCells id pa n) home (some s.net.nextId))).inject
        { s.unitPacket (homeOf s.host.pins pa) 0 [] (.read pa home) (some id) with phase := s.phaseAt id } := by
  unfold State.performLoad
  dsimp only
  rw [h]

@[simp] theorem State.performLoad_seq (s : State) (id pa n : Nat) (home : Bool) :
    (s.performLoad id pa n home).seq = s.seq := by
  unfold State.performLoad
  dsimp only
  repeat' split
  all_goals simp only [State.seq, State.inject_core]
  all_goals rfl

theorem State.beginLoad_seq (s : State) (d : Reg) (pa n : Nat) : (s.beginLoad d pa n).seq = s.seq.setPending d := by
  unfold State.beginLoad
  dsimp only
  split
  · rfl
  · rw [State.performLoad_seq]
    rfl

section BeginLoad

variable {s : State} {d : Reg} {pa n : Nat} (hb : s.core.set.boundaryBefore s.net.nextId = false)
  (hs : lookup (pa / 8 * 8) s.core.set.snaps = none)
include hb hs

/-- A load that nothing holds back asks its home at once. -/
theorem State.beginLoad_eq : s.beginLoad d pa n =
    ((s.begin d .other (.load pa n [] s.unit.bypass none)).rewait s.net.nextId
      (.load pa n (s.ownCells s.net.nextId pa n) s.unit.bypass (some (s.net.nextId + 1)))).inject
      { s.unitPacket (homeOf s.host.pins pa) 0 [] (.read pa s.unit.bypass) (some s.net.nextId) with
        phase := (s.begin d .other (.load pa n [] s.unit.bypass none)).phaseAt s.net.nextId } := by
  unfold State.beginLoad
  dsimp only
  rw [hb, if_neg Bool.false_ne_true,
    State.performLoad_of_unsnapped (s := s.begin d .other (.load pa n [] s.unit.bypass none)) hs,
    State.ownCells_begin_load]
  rfl

theorem State.beginLoad_op : ⟨s.net.nextId, d, .other,
    .load pa n (s.ownCells s.net.nextId pa n) s.unit.bypass (some (s.net.nextId + 1))⟩ ∈
      (s.beginLoad d pa n).core.set.ops := by
  rw [State.beginLoad_eq hb hs, State.inject_core]
  exact List.mem_map.mpr ⟨⟨s.net.nextId, d, .other, .load pa n [] s.unit.bypass none⟩,
    List.mem_append_right _ (List.mem_singleton_self _), if_pos rfl⟩

theorem State.beginLoad_packets : ∃ k, (s.beginLoad d pa n).net.packets = s.net.packets ++ [k] ∧
    k.body = .read pa s.unit.bypass ∧ k.op = some s.net.nextId ∧ k.dst = homeOf s.host.pins pa := by
  rw [State.beginLoad_eq hb hs, State.inject_packets]
  exact ⟨_, rfl, rfl, rfl, rfl⟩

end BeginLoad

end Sys2Proof.Machine

open Sys2Proof Sys2Proof.Machine in
/-- Settles O9: the first check that fails is the trap of a load and of a store alike. -/
theorem addressChecksInOrder : Obligations.AddressChecksInOrder := by
  intro s d a i va hheld j n kind hmem h
  obtain ⟨hn, hwf, hform⟩ : (n = 4 ∨ n = 8) ∧ j.wellFormed = true ∧ ScalarForm j d a i n kind := by
    simp only [List.mem_cons, Prod.mk.injEq, List.not_mem_nil, or_false] at hmem
    obtain ⟨rfl, rfl, rfl⟩ | ⟨rfl, rfl, rfl⟩ | ⟨rfl, rfl, rfl⟩ | ⟨rfl, rfl, rfl⟩ := hmem
    · exact ⟨.inl rfl, rfl, .load (exec_ldw d a i)⟩
    · exact ⟨.inr rfl, rfl, .load (exec_ldd d a i)⟩
    · exact ⟨.inl rfl, rfl, .store (exec_stw d a i)⟩
    · exact ⟨.inr rfl, rfl, .store (exec_std d a i)⟩
  have trapOf {u : State} {cause : BitVec 8} (hc : s.checked kind va n n = (u, .error cause)) :
      exec j s = .next (u.trap cause va) := hform.traps hwf hheld h hc
  refine ⟨fun hmis => trapOf (State.checked_misaligned hmis), fun halign => ⟨fun hbeyond => ?beyond, fun hglobal =>
    ⟨fun hremote => trapOf (State.checked_remote halign hn hglobal hremote), fun u f hw ht => ?fault⟩⟩⟩
  case beyond => exact trapOf (State.checked_beyond_window halign (by omega) hbeyond)
  case fault =>
    have := trapOf (State.checked_of_fault halign hn hglobal hw ht)
    cases f <;> exact this

open Sys2Proof Sys2Proof.Machine in
/-- Settles O8: the check answers the one span that the translation gives, and the form sends its packet from there. -/
theorem globalLoadsAndStores : Obligations.GlobalLoadsAndStores := by
  intro s u d a i n pa va hn hend halign hwin hfence hfull
  have hheld : s.globalHeld va = false := by simp [State.globalHeld, hfence, hfull]
  refine ⟨fun h ht => ?store, fun h ht => ?load⟩
  case store =>
    have hc : s.checked .write va n n = (u, .ok (false, [⟨va.toNat, pa, n⟩])) :=
      State.checked_of_translate halign hn hend hwin ht
    have hexec : exec (if n = 4 then .stw d a i else .std d a i) s =
        .next (u.write .sequencer false [⟨va.toNat, pa, n⟩] (leBytes n (s.reg d).toNat)).1.advance := by
      obtain rfl | rfl := hn
      · rw [if_pos rfl]
        exact (exec_stw d a i s).trans (storeInstr_of_spans (i := .stw d a i) rfl hheld h hc)
      · rw [if_neg (by decide)]
        exact (exec_std d a i s).trans (storeInstr_of_spans (i := .std d a i) rfl hheld h hc)
    rw [State.write_global, List.take_of_length_le (leBytes_length n _).le] at hexec
    refine ⟨_, _, hexec, State.inject_packets _ _, rfl, rfl, rfl, rfl, rfl, State.inject_mem _ _, ?_⟩
    simp [State.seq, State.dropSnaps]
  case load =>
    have hc : s.checked .read va n n = (u, .ok (false, [⟨va.toNat, pa, n⟩])) :=
      State.checked_of_translate halign hn hend hwin ht
    have hexec : exec (if n = 4 then .ldw d a i else .ldd d a i) s = .next (u.beginLoad d pa n).advance := by
      obtain rfl | rfl := hn
      · rw [if_pos rfl]
        exact (exec_ldw d a i s).trans (loadInstr_of_global (i := .ldw d a i) rfl hheld h hc)
      · rw [if_neg (by decide)]
        exact (exec_ldd d a i s).trans (loadInstr_of_global (i := .ldd d a i) rfl hheld h hc)
    refine ⟨_, hexec, ?_, State.beginLoad_mem u d pa n,
      fun hb hs => ⟨State.beginLoad_op hb hs, State.beginLoad_packets hb hs⟩⟩
    show { (u.beginLoad d pa n).seq with pc := (u.beginLoad d pa n).seq.pc + 4 } = _
    rw [State.beginLoad_seq, Seq.setPending_pc]
end

section
/-!
SUPPORT. A translation of a page that is not cached is the walk of the partition's tables (R162 to R164).
-/

namespace Sys2Proof.Machine

/-! ### The walk (R162, R163) -/

theorem State.walk_of_no_leaf {s : State} {p : Part} {va : Nat} (h : walkTables s.mem p.root va = none) (kind : AccKind) :
    s.walk p kind va = (s, .error .page) := by
  rw [State.walk, h]

section Leaf

variable {s : State} {p : Part} {kind : AccKind} {va : Nat} {l : Leaf} (h : walkTables s.mem p.root va = some l)
include h

theorem State.walk_of_forbidden (ha : pteAllows kind l.pte = false) : s.walk p kind va = (s, .error .access) := by
  rw [State.walk, h]
  simp [ha]

theorem State.walk_of_granted (ha : pteAllows kind l.pte = true) (hg : s.granted p (l.page + va % l.size) = true)
    (hc : kind = .write → p.inCounters (l.page + va % l.size) = false) (hk : kind ≠ .look)
    (hf : pinFits s.host.pins l = true) : s.walk p kind va =
      ({ s with
        mem := s.mem.putBytes l.slot (leBytes 8 (markPte kind l.pte))
        host := { s.host with pins := addPin s.host.pins l p.num va } }, .ok l) := by
  have hcount : (decide (kind = .write) && p.inCounters (l.page + va % l.size)) = false := by
    by_cases hw : kind = .write <;> simp [hw, hc]
  rw [State.walk, h]
  simp [ha, hg, hcount, hk, hf]

end Leaf

/-- The A bit is set but for TLOOK. -/
theorem markPte_testBit_5 {kind : AccKind} (hk : kind ≠ .look) (e : Nat) : (markPte kind e).testBit 5 = true := by
  rw [Nat.testBit_eq_decide_div_mod_eq, decide_eq_true_eq]
  cases kind
  case look => exact absurd rfl hk
  all_goals
    simp only [markPte, bitAt, beq_iff_eq]
    split_ifs <;> omega

/-- The D bit is set for a write. -/
theorem markPte_write_testBit_6 (e : Nat) : (markPte .write e).testBit 6 = true := by
  rw [Nat.testBit_eq_decide_div_mod_eq, decide_eq_true_eq]
  simp only [markPte, bitAt, beq_iff_eq]
  split_ifs <;> omega

/-! ### Past the cache (R164) -/

section Uncached

variable {s u : State} {kind : AccKind} {va : Nat} (hc : ∀ e ∈ s.core.set.tlb, e.vpn ≠ va / 65536)
include hc

theorem find_uncached : s.core.set.tlb.find? (fun e => e.vpn == va / 65536 && e.allows kind) = none := by
  rw [List.find?_eq_none]
  intro e he
  simp [hc e he]

theorem State.translate_of_walk_error {f : XFault} (h : s.walk s.part kind va = (s, .error f)) :
    s.translate kind va = (s, .error f) := by
  rw [State.translate, State.throughCache, find_uncached hc, h]
  rfl

theorem State.translate_of_walk_ok {l : Leaf} (h : s.walk s.part kind va = (u, .ok l)) :
    ∃ v, s.translate kind va = (v, .ok (l.page + va % l.size)) ∧ v.mem = u.mem := by
  rw [State.translate, State.throughCache, find_uncached hc, h]
  exact ⟨_, rfl, rfl⟩

end Uncached

end Sys2Proof.Machine

open Sys2Proof Sys2Proof.Machine in
/-- Settles O10: with nothing cached the translation is the walk, which the leaf decides. -/
theorem translationFaults : Obligations.TranslationFaults := by
  intro s kind va hc
  refine ⟨fun h => State.translate_of_walk_error hc (State.walk_of_no_leaf h kind), fun l h =>
    ⟨fun ha => State.translate_of_walk_error hc (State.walk_of_forbidden h ha), fun ha hg hcount hk hf => ?granted⟩⟩
  obtain ⟨u, hu, hmem⟩ := State.translate_of_walk_ok hc (State.walk_of_granted h ha hg hcount hk hf)
  refine ⟨u, hu, hmem, markPte_testBit_5 hk l.pte, ?_⟩
  rintro rfl
  exact markPte_write_testBit_6 l.pte
end

section
/-!
SUPPORT. The special registers (R92 to R94), and what ends a unit (R110, R305): the choice made again on sliced cores
changes no set and no halt status.
-/

namespace Sys2Proof.Machine

/-! ### Special registers read (R92, R93) -/

theorem Seq.level_toNat_ge_two {q : Seq} (h0 : q.level ≠ 0) (h1 : q.level ≠ 1) : q.level.toNat ≥ 2 := by
  have h0 : q.level.toNat ≠ 0 := fun h => h0 (BitVec.eq_of_toNat_eq h)
  have h1 : q.level.toNat ≠ 1 := fun h => h1 (BitVec.eq_of_toNat_eq h)
  omega

theorem Seq.trapReg_eq (q : Seq) (f : TrapRegs → Word) :
    q.trapReg f = if q.level = 0 then 0 else if q.level = 1 then f q.tenant else f q.device := by
  unfold Seq.trapReg Seq.levelRegs
  by_cases h0 : q.level = 0
  · simp [h0]
  · by_cases h1 : q.level = 1
    · simp [h1]
    · have h2 := Seq.level_toNat_ge_two h0 h1
      rw [if_neg (by omega), if_pos h2, if_neg h0, if_neg h1]

theorem boolToNat_mul (b : Bool) (n : Nat) : b.toNat * n = if b then n else 0 := by
  cases b <;> simp

theorem State.status_eq (s : State) : s.status = BitVec.ofNat 64 (s.seq.level.toNat + (if s.seq.te then 4 else 0) +
    (if s.seq.dz then 8 else 0) + (if s.part.narrow then 16 else 0)) := by
  rw [State.status, boolToNat_mul, boolToNat_mul, boolToNat_mul]

theorem State.argBase_eq (s : State) : s.argBase = if s.core.sliced then 0xFFFF000BFFD0 else 0xFFFF0017FFD0 := by
  unfold State.argBase
  cases s.core.sliced <;> rfl

/-! ### Special registers written (R92, R93) -/

theorem Seq.mapLevelRegs_of_tenant {q : Seq} (h : q.level = 1) (f : TrapRegs → TrapRegs) :
    q.mapLevelRegs f = { q with tenant := f q.tenant } := by
  simp [Seq.mapLevelRegs, h]

theorem Seq.mapLevelRegs_of_device {q : Seq} (h : q.level = 2) (f : TrapRegs → TrapRegs) :
    q.mapLevelRegs f = { q with device := f q.device } := by
  simp [Seq.mapLevelRegs, h]

theorem Seq.writeStatus_eq (q : Seq) (v : Word) :
    q.writeStatus v = { q with te := if q.level = 0 then q.te else v.getLsbD 2, dz := v.getLsbD 3 } := by
  by_cases h0 : q.level = 0
  · simp [Seq.writeStatus, h0]
  · have h1 : q.level.toNat ≥ 1 := Nat.one_le_iff_ne_zero.mpr (fun h => h0 (BitVec.eq_of_toNat_eq h))
    rw [Seq.writeStatus, if_pos h1, if_neg h0]

theorem State.mapSeq_congr {s : State} {f g : Seq → Seq} (h : f s.seq = g s.seq) : s.mapSeq f = s.mapSeq g :=
  congrArg (fun q => ({ s with core := { s.core with set := { s.core.set with seq := q } } } : State)) h

/-- MTS where its operand is available: it writes at the level that its number needs. -/
theorem exec_mts_next {s : State} {a : Reg} {n : BitVec 14} (hw : specialWritable n = true)
    (h : s.mayIssue [a] 0 (mtsLevel n)) :
    exec (.mts a n) s = .next ((s.mapSeq (fun q => q.writeSpecial n (s.reg a))).advance) :=
  (exec_mts a n s).trans (issue_next hw h)

/-- MTS of a trap register at unit level is PRIV (R92, R94). -/
theorem exec_mts_below_level {s : State} {a : Reg} {n : BitVec 14} (hw : specialWritable n = true)
    (h : s.mayIssue [a] 0 0) (hl : s.seq.level.toNat < mtsLevel n) :
    exec (.mts a n) s = .next (s.trap causePriv (BitVec.setWidth 64 (encI 0x1a 0 a n))) := by
  obtain ⟨hr, hd, hb, -⟩ := h
  have hs : s.stalled ⟨[a], 0, mtsLevel n⟩ = false :=
    State.stalled_eq_false (List.forall_mem_cons.mpr ⟨hd, fun r hmem => (hr r hmem).1⟩) hb
  exact (exec_mts a n s).trans (issue_below_level rfl hw hs hl)

theorem decodeFields_mts {w : BitVec 32} (hm : wMajor w = 0x1a) (hd : wD w = 0) :
    decodeFields w = .ok (.mts (wA w) (wImm14 w)) := by
  unfold decodeFields
  rw [hm]
  exact if_pos (beq_iff_eq.mpr hd)

theorem decodeWord_mts_of_unlisted {a : Reg} {n : BitVec 14} (h : specialWritable n = false) :
    decodeWord (encI 0x1a 0 a n) = .error .illFormed := by
  obtain ⟨hmajor, hd, ha, hn⟩ := encI_eq_iff.mp (rfl : encI 0x1a 0 a n = _)
  rw [decodeWord, decodeFields_mts hmajor hd, ha, hn]
  exact if_neg (by simp [Instr.wellFormed, h])

/-! ### ERET (R326) -/

theorem wspan_0_2 (w : Word) : wspan w 0 2 = w.toNat % 4 := by
  simp [wspan, bitSpan]

theorem wspan_8_2 (w : Word) : wspan w 8 2 = w.toNat / 256 % 4 := rfl

theorem wspan_32_32 (w : Word) : wspan w 32 32 = w.toNat / 2 ^ 32 := by
  have := w.isLt
  simp only [wspan, bitSpan]
  omega

theorem Seq.levelRegs_eq {q : Seq} (h : 1 ≤ q.level.toNat) :
    q.levelRegs = if q.level = 1 then q.tenant else q.device := by
  by_cases h1 : q.level = 1
  · simp [Seq.levelRegs, h1]
  · have h0 : q.level ≠ 0 := by
      intro h0
      rw [h0] at h
      exact absurd h (by decide)
    rw [Seq.levelRegs, if_pos (Seq.level_toNat_ge_two h0 h1), if_neg h1]

/-- The level returned to is no higher than the current one, and 3 is read as the current one. -/
theorem returnLevel_eq (l : BitVec 2) (before : Nat) :
    BitVec.ofNat 2 (min (if before = 3 then l.toNat else before) l.toNat) =
      if before < l.toNat then BitVec.ofNat 2 before else l := by
  have hlt := l.isLt
  by_cases h3 : before = 3
  · rw [if_pos h3, if_neg (by omega), Nat.min_self, BitVec.ofNat_toNat, BitVec.setWidth_eq]
  · rw [if_neg h3]
    split_ifs with hl
    · rw [Nat.min_eq_left hl.le]
    · rw [Nat.min_eq_right (Nat.not_lt.mp hl), BitVec.ofNat_toNat, BitVec.setWidth_eq]

theorem Seq.leaveTrap_eq {q : Seq} {r : TrapRegs} (h : q.levelRegs = r) : q.leaveTrap = { q with
    te := r.cause.getLsbD 10
    level := if r.cause.toNat / 256 % 4 < q.level.toNat then BitVec.ofNat 2 (r.cause.toNat / 256 % 4) else q.level
    pc := r.pc } := by
  subst h
  rw [← returnLevel_eq]
  rfl

/-! ### The choice on sliced cores (R316) -/

theorem State.coreAt_num (s : State) (n : Nat) : (s.coreAt n).num = n := by
  unfold State.coreAt
  split
  · assumption
  · cases h : s.others.find? (fun c => c.num == n) with
    | none => rfl
    | some k => simpa using List.find?_some h

/-- A change of core n that keeps its set and its number keeps the current core's set. -/
theorem State.mapCoreAt_set {s : State} {n : Nat} {f : Core → Core} (hset : ∀ k, (f k).set = k.set)
    (hnum : ∀ k, (f k).num = k.num) : (s.mapCoreAt n f).core.set = s.core.set := by
  unfold State.mapCoreAt State.setCore
  rw [hnum, State.coreAt_num]
  split
  · next h => simp [State.coreAt, h, hset]
  · rfl

@[simp] theorem State.mapCoreAt_disp (s : State) (n : Nat) (f : Core → Core) : (s.mapCoreAt n f).disp = s.disp := by
  unfold State.mapCoreAt State.setCore
  split <;> rfl

theorem State.elect_set (s : State) (n : Nat) : (s.elect n).core.set = s.core.set := by
  unfold State.elect
  split
  · exact State.mapCoreAt_set (fun k => by split <;> rfl) (fun k => by split <;> rfl)
  · exact State.mapCoreAt_set (fun _ => rfl) (fun _ => rfl)

theorem State.elect_halts (s : State) (n : Nat) : (s.elect n).disp.halts = s.disp.halts := by
  unfold State.elect
  split <;> simp

/-- What each choice keeps, all of them keep. -/
theorem State.electAll_keeps {α : Type} {g : State → α} (h : ∀ s n, g (State.elect s n) = g s) (s : State) :
    g s.electAll = g s := by
  unfold State.electAll
  induction maskCores (s.disp.resvs.foldl (fun m r => m ||| r.cores) 0) generalizing s with
  | nil => rfl
  | cons n l ih => rw [List.foldl_cons, ih, h]

theorem State.electAll_set (s : State) : s.electAll.core.set = s.core.set :=
  State.electAll_keeps (g := fun s => s.core.set) State.elect_set s

theorem State.electAll_halts (s : State) : s.electAll.disp.halts = s.disp.halts :=
  State.electAll_keeps (g := fun s => s.disp.halts) State.elect_halts s

/-! ### The end of a unit (R110, R305) -/

@[simp] theorem State.foldInto_core (s : State) (ks : List WorkKey) (bit : Word) : (s.foldInto ks bit).core = s.core := by
  unfold State.foldInto
  induction ks generalizing s with
  | nil => rfl
  | cons k ks ih => exact ih _

theorem State.endUnit_core (s : State) (u : UnitCtx) (status node : Nat) :
    (s.endUnit u status node).core = s.core.dropUnit u.lid u.index := by
  unfold State.endUnit
  cases u.reserve <;> dsimp only
  all_goals
    split
    · split
      · rfl
      · exact State.foldInto_core ..
    · rfl

theorem State.endUnit_halt (s : State) (u : UnitCtx) (status node : Nat) :
    lookup (u.lid, u.index) (s.endUnit u status node).disp.halts =
      some (BitVec.ofNat 64 (status + u.index % 65536 * 2 ^ 16 + node * 2 ^ 32)) :=
  lookup_insert_self ..

theorem Core.dropUnit_unit {k : Core} {u : UnitCtx} (h : k.set.unit = some u) :
    (k.dropUnit u.lid u.index).set.unit = none := by
  have hruns : k.set.runsUnit u.lid u.index = true := by simp [CSet.runsUnit, h]
  unfold Core.dropUnit
  rw [if_pos hruns]
  rfl

/-- A unit that has ended has left its core, and its halt status stands. -/
theorem State.endUnit_leaves {s x : State} {u : UnitCtx} (hx : x.core = s.core) (hu : s.core.set.unit = some u)
    (status node : Nat) : ((x.endUnit u status node).electAll).core.set.unit = none ∧
      lookup (u.lid, u.index) (x.endUnit u status node).electAll.disp.halts =
        some (BitVec.ofNat 64 (status + u.index % 65536 * 2 ^ 16 + node * 2 ^ 32)) := by
  rw [State.electAll_set, State.electAll_halts, State.endUnit_core, hx]
  exact ⟨Core.dropUnit_unit hu, State.endUnit_halt x u status node⟩

/-- HALT waits for pending bits, engine operations and waiting MXWs, and for nothing else (R110, R207). -/
theorem CSet.haltWaits_eq_false {c : CSet} (hp : c.seq.pend = 0) (he : c.eng = [])
    (hl : ∀ o ∈ c.ops, ∀ x y v g p, o.wait ≠ .latch x y v g p) : c.haltWaits = false := by
  rw [CSet.haltWaits, hp, he]
  refine Bool.or_eq_false_iff.mpr ⟨rfl, List.any_eq_false.mpr fun o ho => ?_⟩
  split
  · next h => exact absurd h (hl o ho _ _ _ _ _)
  · exact Bool.false_ne_true

/-- HALT that nothing of the unit holds back ends it, or waits for the detector's report. -/
theorem exec_halt_next {s : State} (h : s.mayIssue [] 0 0) (hw : s.core.set.haltWaits = false) :
    exec .halt s = .next (match s.core.set.fab.running with
      | none => s.halt none
      | some _ => match s.standing with
        | some w => s.halt (some w)
        | none => s.mapSet (fun c => { c with halting := true })) := by
  rw [exec_halt, execHalt, issue_next rfl h, hw]
  rfl

end Sys2Proof.Machine

open Sys2Proof Sys2Proof.Machine in
/-- Settles O11: MFS writes what `State.special` reads, which is the row's value for each number. -/
theorem specialRegisterReads : Obligations.SpecialRegisterReads := by
  intro s d h copy n v hmem
  have hcopy (f : TrapRegs → Word) : s.seq.trapReg f = copy f := s.seq.trapReg_eq f
  have of {n : BitVec 14} {v : Word} (hw : (Instr.mfs d n).wellFormed = true) (hv : s.special n = v) :
      exec (.mfs d n) s = .next ((s.setReg d v).advance) := by
    rw [← hv]
    exact (exec_mfs d n s).trans (issue_next hw h)
  simp only [List.mem_cons, Prod.mk.injEq, List.not_mem_nil, or_false] at hmem
  obtain ⟨rfl, rfl⟩ | ⟨rfl, rfl⟩ | ⟨rfl, rfl⟩ | ⟨rfl, rfl⟩ | ⟨rfl, rfl⟩ | ⟨rfl, rfl⟩ | ⟨rfl, rfl⟩ | ⟨rfl, rfl⟩ |
    ⟨rfl, rfl⟩ | ⟨rfl, rfl⟩ | ⟨rfl, rfl⟩ | ⟨rfl, rfl⟩ | ⟨rfl, rfl⟩ | ⟨rfl, rfl⟩ | ⟨rfl, rfl⟩ := hmem
  · exact of rfl rfl
  · exact of rfl rfl
  · exact of rfl rfl
  · exact of rfl rfl
  · exact of rfl rfl
  · exact of rfl rfl
  · refine of rfl ?_
    cases hr : s.core.set.fab.running <;> simp [State.special, hr]
  · exact of rfl rfl
  · exact of rfl (hcopy _)
  · exact of rfl (hcopy _)
  · exact of rfl (hcopy _)
  · exact of rfl (hcopy _)
  · exact of rfl s.status_eq
  · exact of rfl s.argBase_eq
  · exact of rfl rfl

open Sys2Proof Sys2Proof.Machine in
/-- Settles O12: MTS writes through `Seq.writeSpecial`, whose effect the level decides, and no other number decodes. -/
theorem specialRegisterWrites : Obligations.SpecialRegisterWrites := by
  intro s a
  refine ⟨fun h => ?status, fun n f hmem => ?trapRegs, fun n hn => ?unlisted⟩
  case status =>
    rw [exec_mts_next rfl h]
    exact congrArg (fun t : State => Host.Outcome.next t.advance)
      (State.mapSeq_congr (Seq.writeStatus_eq s.seq (s.reg a)))
  case trapRegs =>
    obtain ⟨hw, hlevel, hwrite⟩ : specialWritable n = true ∧ mtsLevel n = 1 ∧
        ∀ q : Seq, q.writeSpecial n (s.reg a) = q.mapLevelRegs f := by
      simp only [List.mem_cons, Prod.mk.injEq, List.not_mem_nil, or_false] at hmem
      obtain ⟨rfl, rfl⟩ | ⟨rfl, rfl⟩ | ⟨rfl, rfl⟩ | ⟨rfl, rfl⟩ := hmem <;> exact ⟨rfl, rfl, fun _ => rfl⟩
    have hexec (h : s.mayIssue [a] 0 1) :
        exec (.mts a n) s = .next ((s.mapSeq (fun q => q.mapLevelRegs f)).advance) := by
      rw [exec_mts_next hw (hlevel ▸ h)]
      simp only [hwrite]
    refine ⟨fun h hl => ?tenant, fun h hl => ?device, fun h hl => ?unit⟩
    case tenant =>
      rw [hexec h]
      exact congrArg (fun t : State => Host.Outcome.next t.advance) (State.mapSeq_congr (Seq.mapLevelRegs_of_tenant hl f))
    case device =>
      rw [hexec h]
      exact congrArg (fun t : State => Host.Outcome.next t.advance) (State.mapSeq_congr (Seq.mapLevelRegs_of_device hl f))
    case unit => exact exec_mts_below_level hw h (by rw [hl, hlevel]; decide)
  case unlisted =>
    exact decodeWord_mts_of_unlisted (by simp [specialWritable]; omega)

open Sys2Proof Sys2Proof.Machine in
/-- Settles O13: each form issues, and its effect is the one named, case by case. -/
theorem sysInstructions : Obligations.SysInstructions := by
  intro s a u halts
  refine ⟨fun h => (exec_nop s).trans (issue_next rfl h), fun h hd => ?yield, fun h hd => ?yieldSwap,
    fun h => (exec_tokwait a s).trans (issue_next rfl h), fun hp => ?tokwait,
    fun h => (exec_trap a s).trans (issue_next rfl h), fun h => ?eret, fun h hu hpend heng hlatch => ?halt⟩
  case yield =>
    rw [exec_yield, execYield, issue_next rfl h, hd]
    rfl
  case yieldSwap =>
    rw [exec_yield, execYield, issue_next rfl h, hd]
    rfl
  case tokwait =>
    have hs : s.stalled ⟨[], a, 0⟩ = true := by simp [State.stalled, hp]
    simp [execTokwait, issue, hs, Instr.wellFormed]
  case eret =>
    intro r before
    have hr : s.seq.levelRegs = r := Seq.levelRegs_eq h.2.2.2
    have hexec : exec .eret s = .next s.returnFromTrap := (exec_eret s).trans (issue_next rfl h)
    rw [State.returnFromTrap, wspan_0_2, hr] at hexec
    refine ⟨fun hmis => by rwa [if_pos hmis] at hexec, fun hal => ?_⟩
    rw [if_neg (not_not.mpr hal)] at hexec
    refine ⟨_, hexec, rfl, ?_⟩
    exact Seq.leaveTrap_eq hr
  case halt =>
    have hw : s.core.set.haltWaits = false := CSet.haltWaits_eq_false hpend heng hlatch
    have hexec := exec_halt_next h hw
    have hunit : s.unit = u := by simp [State.unit, hu]
    refine ⟨fun hrun => ?idle, fun hrun w hstand => ?report, fun hrun hstand => ?waits⟩
    case idle =>
      rw [hrun] at hexec
      exact ⟨_, hexec, hunit ▸ State.endUnit_leaves rfl (hunit ▸ hu) 0 0⟩
    case report =>
      obtain ⟨im, hrun⟩ := Option.ne_none_iff_exists'.mp hrun
      simp only [hrun, hstand, State.halt, wspan_0_2, wspan_32_32] at hexec
      split_ifs at hexec ⊢
      · exact ⟨_, hexec, hunit ▸ State.endUnit_leaves (State.log_core ..) (hunit ▸ hu) _ _⟩
      · exact ⟨_, hexec, hunit ▸ State.endUnit_leaves rfl (hunit ▸ hu) _ _⟩
    case waits =>
      obtain ⟨im, hrun⟩ := Option.ne_none_iff_exists'.mp hrun
      simpa only [hrun, hstand] using hexec
end

section
/-!
SUPPORT. The first read of a register whose error bit is set (R88, R325), and the completion of an operation (R87 to
R89).
-/

namespace Sys2Proof.Machine

/-! ### The lowest register with an error bit (R325) -/

theorem Seq.firstErr_of_one {q : Seq} {r : Reg} (h : q.err r ≠ .clear) : q.firstErr [r] = some r := by
  simp [Seq.firstErr, lowerErr, h]

/-- Of two registers read, the one whose error bit is set alone, or the lower of both. -/
theorem Seq.firstErr_of_two {q : Seq} {a b r : Reg} (h : q.err r ≠ .clear)
    (hr : (r = a ∧ (q.err b = .clear ∨ a.toNat ≤ b.toNat)) ∨ (r = b ∧ (q.err a = .clear ∨ b.toNat ≤ a.toNat))) :
    q.firstErr [a, b] = some r := by
  simp only [Seq.firstErr, List.foldl_cons, List.foldl_nil]
  obtain ⟨rfl, hb | hle⟩ | ⟨rfl, ha | hle⟩ := hr
  · rw [lowerErr_clear hb]
    simp [lowerErr, h]
  · simp [lowerErr, h, Nat.not_lt.mpr hle]
  · rw [lowerErr_clear ha]
    simp [lowerErr, h]
  · by_cases ha : q.err a = .clear
    · rw [lowerErr_clear ha]
      simp [lowerErr, h]
    · by_cases hab : r = a
      · subst hab
        simp [lowerErr, h]
      · have hlt : r.toNat < a.toNat := lt_of_le_of_ne hle (fun e => hab (BitVec.eq_of_toNat_eq e))
        simp [lowerErr, h, ha, hlt]

/-- Where nothing stalls an instruction that may issue at unit level, its first register with an error bit traps. -/
theorem issue_errTrap {i : Instr} {n : Needs} {body : State → State} {s : State} {r : Reg} (hw : i.wellFormed = true)
    (hs : s.stalled n = false) (hl : n.level = 0) (he : s.seq.firstErr n.reads = some r) :
    issue i n body s = .next (s.errTrap r) := by
  simp [issue, hw, hs, hl, he]

theorem Seq.setErr_of_ne_zero (q : Seq) {r : Reg} (h : r ≠ 0) (e : ErrKind) :
    q.setErr r e = { q with errs := q.errs.set r.toNat e (by have := r.isLt; omega) } := if_neg h

/-! ### An operation completed (R87, R88) -/

section Complete

variable (q : Seq) (t : Reg) (v : Word) (e : ErrKind)

theorem Seq.complete_pc : (q.complete t v e).pc = q.pc := by
  unfold Seq.complete Seq.clearPending Seq.setErr Seq.write
  split <;> rfl

theorem Seq.complete_of_zero : q.complete 0 v e = q.clearPending 0 := rfl

theorem Seq.pending_complete_of_ne {r : Reg} (h : r ≠ t) : (q.complete t v e).pending r = q.pending r := by
  have hpend : ((q.write t v).setErr t e).pend = q.pend := by
    unfold Seq.setErr
    split <;> simp
  have hbit : (regBit t).getLsbD r.toNat = false := by
    have hr := r.isLt
    simp only [regBit, BitVec.getLsbD_shiftLeft]
    have := Reg.toNat_ne h
    by_cases hlt : r.toNat < t.toNat
    · simp [hlt]
    · simp [show r.toNat - t.toNat ≠ 0 by omega]
  have hr := r.isLt
  simp only [Seq.pending, Seq.complete, Seq.clearPending, hpend, BitVec.getLsbD_and, BitVec.getLsbD_not, hbit]
  simp [show r.toNat < 64 by omega]

theorem Seq.read_complete_of_ne {r : Reg} (h : r ≠ t) : (q.complete t v e).read r = q.read r := by
  rw [← q.read_write_of_ne h v]
  unfold Seq.complete Seq.setErr
  split <;> rfl

theorem Seq.err_complete_of_ne {r : Reg} (h : r ≠ t) : (q.complete t v e).err r = q.err r := by
  rw [← q.err_write_of_ne h v]
  unfold Seq.complete Seq.setErr
  split
  · rfl
  · simp [Seq.err, Seq.clearPending, Reg.toNat_ne h]

theorem Seq.pending_complete_self : (q.complete t v e).pending t = false := by
  have ht := t.isLt
  simp [Seq.pending, Seq.complete, Seq.clearPending, regBit]

variable {t} (h : t ≠ 0)
include h

theorem Seq.read_complete_self : (q.complete t v e).read t = v := by
  rw [Seq.complete, Seq.setErr, if_neg h, Seq.write, if_neg h, Seq.read, if_neg h]
  exact Vector.getElem_set_self _

theorem Seq.err_complete_self : (q.complete t v e).err t = e := by
  rw [Seq.complete, Seq.setErr, if_neg h, Seq.err, if_neg h]
  exact Vector.getElem_set_self _

end Complete

/-! ### TOKEN_COMPLETION of an operation of the current core (R87, R88) -/

theorem State.select_self (s : State) : s.select s.core.num = s := if_pos rfl

/-- An act on the current core that keeps its number is the act alone. -/
theorem State.onCore_self {s : State} {f : State → State} (h : (f s).core.num = s.core.num) :
    s.onCore s.core.num f = f s := by
  rw [State.onCore, State.select_self, ← h, State.select_self]

theorem State.coreOfOp_current {s : State} {id : Nat} {o : Op} (h : s.core.set.op id = some o) :
    s.coreOfOp id = some s.core.num := by
  have hcur : s.core.sets.any (fun c => (c.op id).isSome) = true := by simp [Core.sets, h]
  simp [State.coreOfOp, State.cores, hcur]

/-- A value that is due completes its operation, whether the set runs or stands still. -/
theorem State.completeOn_of_ready {s : State} {o : Op} {v : Word} {e : ErrKind} {due : Nat}
    (h : s.core.set.op o.id = some o) (hw : o.wait = .ready v e due) :
    s.completeOn o.id = if due ≤ s.cycle then s.finish o.id v e else s := by
  unfold State.completeOn
  rw [h]
  dsimp only
  rw [hw]
  split <;> rfl

theorem exec_tokenCompletion_of_ready {s : State} {o : Op} {v : Word} {e : ErrKind} {due : Nat}
    (h : s.core.set.op o.id = some o) (hw : o.wait = .ready v e due) :
    exec (.tokenCompletion o.id) s = .next (if due ≤ s.cycle then s.finish o.id v e else s) := by
  have hon := State.completeOn_of_ready h hw
  have hnum : (s.completeOn o.id).core.num = s.core.num := by
    rw [hon]
    split <;> rfl
  rw [exec_tokenCompletion, execTokenCompletion, State.coreOfOp_current h]
  exact congrArg _ ((State.onCore_self hnum).trans hon)

theorem CSet.finish_of_op {c : CSet} {o : Op} (h : c.op o.id = some o) (v : Word) (e : ErrKind) :
    c.finish o.id v e = { c with ops := c.ops.filter (fun p => p.id ≠ o.id), seq := c.seq.complete o.t v e } := by
  rw [CSet.op] at h
  rw [CSet.finish, h]

end Sys2Proof.Machine

open Sys2Proof Sys2Proof.Machine in
/-- Settles O17: the instruction stops at `firstErr`, and `errTrap` is the trap of the error's kind. -/
theorem tokenTrapClearsItsErrorBit : Obligations.TokenTrapClearsItsErrorBit := by
  intro s d a b r k ha hb hd hbar hr he u trapped
  have hu : (if s.seq.trapTarget false = .lock then s else s.mapSeq (fun q => q.setErr r .clear)) = u := by
    simp only [Seq.setErr_of_ne_zero _ hr]
    rfl
  have htrap : s.errTrap r = trapped := by
    simp only [State.errTrap, hu]
    rfl
  refine ⟨fun hra => ?addi, fun hrab => ?add⟩
  case addi =>
    have hs : s.stalled ⟨[a], d, 0⟩ = false := State.stalled_eq_false (by simp [ha, hd]) hbar
    rw [← htrap, exec_addi, execAddi, aluR]
    exact issue_errTrap rfl hs rfl (hra ▸ Seq.firstErr_of_one he)
  case add =>
    have hs : s.stalled ⟨[a, b], d, 0⟩ = false := State.stalled_eq_false (by simp [ha, hb, hd]) hbar
    rw [← htrap, exec_add, execAdd, aluRR]
    exact issue_errTrap rfl hs rfl (Seq.firstErr_of_two he hrab)

open Sys2Proof Sys2Proof.Machine in
/-- Settles O18: the completion of an operation is `CSet.finish`, which is `Seq.complete` of its register. -/
theorem completionWritesTheRegister : Obligations.CompletionWritesTheRegister := by
  refine ⟨fun s o v e due h hw => ⟨fun hdue => ?due, fun hdue => ?early⟩, fun c o v e h => ?effect⟩
  case due =>
    have hexec := exec_tokenCompletion_of_ready h hw
    rw [if_pos hdue] at hexec
    exact ⟨_, hexec, rfl, rfl, rfl⟩
  case early =>
    have hexec := exec_tokenCompletion_of_ready h hw
    rwa [if_neg (Nat.not_le.mpr hdue)] at hexec
  case effect =>
    intro d
    have hd : d = { c with ops := c.ops.filter (fun p => p.id ≠ o.id), seq := c.seq.complete o.t v e } :=
      CSet.finish_of_op h v e
    rw [hd]
    refine ⟨rfl, c.seq.complete_pc o.t v e, fun r hr => ⟨c.seq.read_complete_of_ne o.t v e hr,
      c.seq.err_complete_of_ne o.t v e hr, c.seq.pending_complete_of_ne o.t v e hr⟩,
      fun ht => ⟨c.seq.read_complete_self v e ht, c.seq.err_complete_self v e ht, c.seq.pending_complete_self o.t v e⟩,
      fun ht => ?_⟩
    rw [ht, Seq.complete_of_zero]
    exact ⟨rfl, rfl, rfl⟩
end

section
/-!
SUPPORT. A launch whose identifier an earlier one, still running, has too (R299: an identifier holds 16 bits of the
record's index): the argument block of its unit completes a SIGWAIT of the earlier unit (R238).
-/

namespace Sys2Proof.Machine

/-- The queue of both launches: 65,536 records lie behind its head. -/
def reusedQueue : Bind where
  queue := 5
  rank := 0
  part := 0
  owner := 7
  weight := 1
  child := false
  ring := 0x200400
  depth := 4
  resv := none
  job := 9
  tail := 0x10001
  head := 0x10000
  done := 0xFFFF
  stopped := false
  reserves := 0
  bypass := 0

/-- Where the argument block of core 0 begins. -/
def flagInArgs : Nat := windowPa 0 false false (argOffset false)

/-- Core 0 is free, and a record for one core is at the head of the queue. The unit of the queue's record 0 still runs on
core 1, and waits for the value 0 of a flag, now 1, that lies where core 0's argument block goes. -/
def identifierReused : State :=
  { State.reset with
    others := [{ Core.idle 1 with set := { CSet.empty with
      unit := some { UnitCtx.none with lid := 0x50000, owner := 7 }
      seq := Seq.zero.setPending 2
      ops := [⟨8, 2, .other, .sigwait⟩] } }]
    mem := ((((Memory.putBytes [] 0 (leBytes 8 0x80001)).putBytes 0x80008 (leBytes 8 0x20007F)).putBytes 0x200400
      (leBytes 4 0x10001)).putBytes 0x200440 (leBytes 6 0x200000 ++ leBytes 2 1)).putBytes flagInArgs [1]
    net := { Net.empty with
      nextId := 9
      waits := [⟨1, 0x50000, 0, 8, flagInArgs, 0, 0, none, some 0, true, none⟩] }
    disp := { Disp.empty with
      binds := [(0, reusedQueue)]
      launches := [⟨0x50000, 5, 0, 7, 9, 0, none, true, 1, [1], 0, 0, 0, 0x200400⟩] } }

/-- Dispatch refuses nothing, and picks the record for core 0. -/
theorem identifierReused_pick :
    let u := identifierReused.readTails.settleMarks
    let v := { u with disp := { u.disp with deficits := refill u.candidates u.disp.deficits } }
    u.toRefuse = none ∧ u.writesDue = false ∧ (u.coreAt 0).sliced = false ∧
      (v.pickRecord [] (v.disp.order v.candidates)).map (fun x => x.2) = some ([0], []) := by
  decide +kernel

/-- The write of the argument block ends the wait, and the new unit, of the same identifier and index, acquires too. -/
theorem identifierReused_bypass :
    ((identifierReused.dispatch.electAll).coreAt 0).set.unit.map (fun c => c.bypass) = some true := by
  decide +kernel

end Sys2Proof.Machine

open Sys2Proof Sys2Proof.Machine in
/-- Refutes O47: in `identifierReused` the unit that starts on core 0 has acquired before its first instruction, so that
it is not as `newUnit` makes it. -/
theorem not_dispatchAdmitsAndCompletes : ¬ Obligations.DispatchAdmitsAndCompletes := by
  intro h
  obtain ⟨-, hadmit, -⟩ := h identifierReused
  obtain ⟨hrefuse, hdue, hwhole, hpick⟩ := identifierReused_pick
  obtain ⟨⟨q, cores, ahead⟩, hpick, hcores⟩ := Option.map_eq_some_iff.mp hpick
  cases hcores
  obtain ⟨t, ht, -, hunits⟩ := hadmit q [0] hrefuse hdue hpick (List.nodup_singleton 0)
  obtain ⟨hunit, -⟩ := hunits 0 0 rfl hwhole
  rw [exec_dispatchAdmit, execDispatchAdmit] at ht
  have hbypass := identifierReused_bypass
  rw [Host.Outcome.next.inj ht, hunit] at hbypass
  exact absurd hbypass (by simp [newUnit, UnitCtx.none])
end

section
/-!
SUPPORT. The firings on integer lanes (R136): the model's lane operations are those of words of the lane's width.
-/

namespace Sys2Proof.Machine

/-! ### Lane values as words -/

theorem bitsOf_eq_ofInt (w : Nat) (i : Int) : bitsOf w i = (BitVec.ofInt w i).toNat :=
  (BitVec.toNat_ofInt i).symm

theorem bitsOf_natCast (w n : Nat) : bitsOf w n = n % 2 ^ w := by
  rw [bitsOf_eq_ofInt, BitVec.ofInt_natCast, BitVec.toNat_ofNat]

theorem sintOf_toNat {w : Nat} (a : BitVec w) : sintOf w a.toNat = a.toInt := by
  cases w with
  | zero => simp [sintOf, BitVec.of_length_zero]
  | succ n => rw [sintOf_eq_toInt, BitVec.ofNat_toNat, BitVec.setWidth_eq]

section Values

variable {w : Nat} (a b c : BitVec w)

theorem laneAdd_toNat : laneAdd w a.toNat b.toNat = (a + b).toNat := by
  rw [laneAdd, ← Nat.cast_add, bitsOf_natCast, BitVec.toNat_add]

theorem laneSub_toNat : laneSub w a.toNat b.toNat = (a - b).toNat := by
  rw [laneSub, bitsOf_eq_ofInt, Int.sub_eq_add_neg, BitVec.ofInt_add, BitVec.ofInt_neg, BitVec.ofInt_natCast,
    BitVec.ofInt_natCast, BitVec.ofNat_toNat, BitVec.ofNat_toNat, BitVec.setWidth_eq, BitVec.setWidth_eq,
    ← BitVec.sub_eq_add_neg]

theorem laneMul_toNat : laneMul w a.toNat b.toNat = (a * b).toNat := by
  rw [laneMul, ← Nat.cast_mul, bitsOf_natCast, BitVec.toNat_mul]

theorem laneMin_toNat : laneMin w a.toNat b.toNat = (if a.toInt < b.toInt then a else b).toNat := by
  rw [laneMin, sintOf_toNat, sintOf_toNat, apply_ite BitVec.toNat]

theorem laneMax_toNat : laneMax w a.toNat b.toNat = (if b.toInt < a.toInt then a else b).toNat := by
  rw [laneMax, sintOf_toNat, sintOf_toNat, apply_ite BitVec.toNat]

theorem laneMinu_toNat : laneMinu a.toNat b.toNat = (if a.toNat < b.toNat then a else b).toNat := by
  rw [laneMinu, apply_ite BitVec.toNat]

theorem laneMaxu_toNat : laneMaxu a.toNat b.toNat = (if b.toNat < a.toNat then a else b).toNat := by
  rw [laneMaxu, apply_ite BitVec.toNat]

theorem laneShl_toNat : laneShl w a.toNat b.toNat = (a <<< (b.toNat % w)).toNat := by
  rw [laneShl, BitVec.toNat_shiftLeft, Nat.shiftLeft_eq, ← bitsOf_natCast]
  push_cast
  rfl

theorem laneShr_toNat : laneShr w a.toNat b.toNat = (a >>> (b.toNat % w)).toNat := by
  rw [laneShr, BitVec.toNat_ushiftRight, Nat.shiftRight_eq_div_pow]

theorem laneSra_toNat : laneSra w a.toNat b.toNat = (a.sshiftRight (b.toNat % w)).toNat := by
  rw [laneSra, sintOf_toNat, bitsOf_eq_ofInt, BitVec.sshiftRight, Int.shiftRight_eq_div_pow]
  push_cast
  rfl

theorem laneNeg_toNat : laneNeg w a.toNat = (-a).toNat := by
  rw [laneNeg, sintOf_toNat, bitsOf_eq_ofInt, BitVec.ofInt_neg, BitVec.ofInt_toInt]

theorem laneAbs_toNat : laneAbs w a.toNat = (if a.toInt < 0 then -a else a).toNat := by
  rw [laneAbs, sintOf_toNat]
  split
  · next h => rw [Int.ofNat_natAbs_of_nonpos h.le, ← sintOf_toNat, ← laneNeg, laneNeg_toNat]
  · next h => rw [Int.natAbs_of_nonneg (not_lt.mp h), bitsOf_eq_ofInt, BitVec.ofInt_toInt]

theorem laneSgadd_toNat (hw : 0 < w) : laneSgadd w a.toNat b.toNat c.toNat =
    (if c = 1 then a + b else if c = BitVec.allOnes w then a - b else a).toNat := by
  have hone : c.toNat = 1 ↔ c = 1 := by
    rw [← BitVec.toNat_inj]
    simp [Nat.mod_eq_of_lt (Nat.one_lt_two_pow hw.ne')]
  have hall : c.toNat = 2 ^ w - 1 ↔ c = BitVec.allOnes w := by
    rw [← BitVec.toNat_inj, BitVec.toNat_allOnes]
  simp only [laneSgadd, hone, hall, laneAdd_toNat, laneSub_toNat, apply_ite BitVec.toNat]

theorem laneAdds_toNat : laneAdds w a.toNat b.toNat =
    (BitVec.ofInt w (max (-(2 ^ (w - 1))) (min (2 ^ (w - 1) - 1) (a.toInt + b.toInt)))).toNat := by
  rw [laneAdds, satSigned, sintOf_toNat, sintOf_toNat, bitsOf_eq_ofInt]

theorem laneSubs_toNat : laneSubs w a.toNat b.toNat =
    (BitVec.ofInt w (max (-(2 ^ (w - 1))) (min (2 ^ (w - 1) - 1) (a.toInt - b.toInt)))).toNat := by
  rw [laneSubs, satSigned, sintOf_toNat, sintOf_toNat, bitsOf_eq_ofInt]

end Values

theorem intWidth_pos (m : BitVec 2) : 0 < intWidth m := by
  unfold intWidth
  split <;> decide

/-- A field of lane j is a field of the payload. -/
theorem laneOf_field {w k n : Nat} (p : Payload) (j : Nat) (h : k + n ≤ w) :
    laneOf w p j / 2 ^ k % 2 ^ n = (p.extractLsb' (w * j + k) n).toNat := by
  have hsub : (p.extractLsb' (w * j) w).extractLsb' k n = p.extractLsb' (w * j + k) n := by
    ext i hi
    simp [show k + i < w by omega, Nat.add_assoc]
  rw [laneOf, ← hsub, BitVec.extractLsb'_toNat _ _ (p.extractLsb' (w * j) w), Nat.shiftRight_eq_div_pow]

theorem dot4_lane (k : Nat) (l r : Payload) (j : Nat) :
    let byte (v : Payload) (b : Nat) : BitVec 8 := v.extractLsb' (32 * j + 8 * b) 8
    let left (b : Nat) : Int := if bitAt k 0 then (byte l b).toNat else (byte l b).toInt
    dot4 k (laneOf 32 l j) (laneOf 32 r j) = (BitVec.ofInt 32 (left 0 * (byte r 0).toInt + left 1 * (byte r 1).toInt
      + left 2 * (byte r 2).toInt + left 3 * (byte r 3).toInt)).toNat := by
  intro byte left
  have hbyte : ∀ (p : Payload) (b : Nat), b < 4 → laneOf 32 p j / 2 ^ (8 * b) % 256 = (byte p b).toNat :=
    fun p b hb => laneOf_field p j (show 8 * b + 8 ≤ 32 by omega)
  have hleft : ∀ b, left b = if k % 2 = 1 then ((byte l b).toNat : Int) else (byte l b).toInt := by
    intro b
    simp [left, bitAt]
  rw [dot4, bitsOf_eq_ofInt]
  simp only [show List.range 4 = [0, 1, 2, 3] from rfl, List.map_cons, List.map_nil, List.foldl_cons, List.foldl_nil,
    zero_add, hbyte _ 0 (by decide), hbyte _ 1 (by decide), hbyte _ 2 (by decide), hbyte _ 3 (by decide), sintOf_toNat,
    hleft]

/-! ### A firing whose lanes are given as words -/

section Firings

variable {s : State} {im : Image} {r : SlotRec} {x : Taken} {m : BitVec 2} {tx ty : Target} {i : Instr}

/-- The lanes of a firing as words of their width. -/
theorem State.firesLanes.words {w : Nat} {f : Nat → Nat} {g : Nat → BitVec w} (h : s.firesLanes im r x tx ty i w f)
    (hg : ∀ j, f j = (g j).toNat) : s.fires i im r x →
      (∀ e, x.list.find? Token.isError = some e →
        s.firesWith i im r x [(tx, x.fail e.tag.cause 0), (ty, x.fail e.tag.cause 0)]) ∧
      (x.list.find? Token.isError = none → ∃ p : Payload, (∀ j < 1024 / w, p.extractLsb' (w * j) w = g j) ∧
        s.firesWith i im r x [(tx, x.data p), (ty, x.data p)]) := by
  intro hf
  obtain ⟨hbad, hok⟩ := h hf
  refine ⟨hbad, fun hclean => ?_⟩
  obtain ⟨p, hp, hsent⟩ := hok hclean
  refine ⟨p, fun j hj => BitVec.eq_of_toNat_eq ?_, hsent⟩
  rw [← Nat.mod_eq_of_lt (g j).isLt, ← hg j]
  exact hp j hj

theorem intFire_firesLanes {op : Nat → Nat → Nat → Nat} (hexec : exec i s = intFire i m tx ty op s) :
    s.firesLanes im r x tx ty i (intWidth m) (fun j =>
      op (intWidth m) (laneOf (intWidth m) x.l.payload j) (laneOf (intWidth m) x.rp j)) :=
  fabMap_firesLanes hexec (fun _ hj => map2_lane hj _ _ _)

theorem intFire1_firesLanes {op : Nat → Nat → Nat → Nat} (hexec : exec i s = intFire1 i m tx ty op s) :
    s.firesLanes im r x tx ty i (intWidth m) (fun j =>
      op (intWidth m) (BitVec.ofNat (intWidth m) r.konst.toNat).toNat (laneOf (intWidth m) x.l.payload j)) :=
  fabMap_firesLanes hexec (fun j hj => by rw [map1_lane hj, BitVec.toNat_ofNat])

theorem vmad_firesLanes : s.firesLanes im r x tx ty (.vmad m tx ty) (intWidth m) (fun j =>
    laneAdd (intWidth m) (laneMul (intWidth m) (laneOf (intWidth m) x.l.payload j) (laneOf (intWidth m) x.rp j))
      (laneOf (intWidth m) x.pp j)) :=
  fabMap_firesLanes (exec_vmad m tx ty s) (fun _ hj => map3_lane hj _ _ _ _)

theorem vsgadd_firesLanes : s.firesLanes im r x tx ty (.vsgadd m tx ty) (intWidth m) (fun j =>
    laneSgadd (intWidth m) (laneOf (intWidth m) x.l.payload j) (laneOf (intWidth m) x.rp j)
      (laneOf (intWidth m) x.pp j)) :=
  fabMap_firesLanes (exec_vsgadd m tx ty s) (fun _ hj => map3_lane hj _ _ _ _)

theorem vdot4_firesLanes : s.firesLanes im r x tx ty (.vdot4 tx ty) 32 (fun j =>
    dot4 r.konst.toNat (laneOf 32 x.l.payload j) (laneOf 32 x.rp j)) :=
  fabMap_firesLanes (exec_vdot4 tx ty s) (fun _ hj => map2_lane hj _ _ _)

end Firings

end Sys2Proof.Machine

open Sys2Proof Sys2Proof.Machine in
/-- Settles O50: each opcode is one of the model's shared forms of integer lanes, with the operation of R136 on words. -/
theorem integerLaneFirings : Obligations.IntegerLaneFirings := by
  intro s im r x m tx ty bad fires
  refine ⟨?lanes, vdot4_firesLanes.words fun j => ?dot4⟩
  case dot4 =>
    rw [dot4_lane, bitAt_toNat]
  case lanes =>
    rintro w rfl i f h
    simp only [List.mem_cons, Prod.mk.injEq, List.not_mem_nil, or_false] at h
    obtain ⟨rfl, rfl⟩ | ⟨rfl, rfl⟩ | ⟨rfl, rfl⟩ | ⟨rfl, rfl⟩ | ⟨rfl, rfl⟩ | ⟨rfl, rfl⟩ | ⟨rfl, rfl⟩ | ⟨rfl, rfl⟩ |
      ⟨rfl, rfl⟩ | ⟨rfl, rfl⟩ | ⟨rfl, rfl⟩ | ⟨rfl, rfl⟩ | ⟨rfl, rfl⟩ | ⟨rfl, rfl⟩ | ⟨rfl, rfl⟩ | ⟨rfl, rfl⟩ |
      ⟨rfl, rfl⟩ | ⟨rfl, rfl⟩ | ⟨rfl, rfl⟩ | ⟨rfl, rfl⟩ | ⟨rfl, rfl⟩ := h
    · exact (intFire_firesLanes (exec_vadd m tx ty s)).words fun j => laneAdd_toNat _ _
    · exact (intFire_firesLanes (exec_vsub m tx ty s)).words fun j => laneSub_toNat _ _
    · exact (intFire_firesLanes (exec_vmul m tx ty s)).words fun j => laneMul_toNat _ _
    · exact vmad_firesLanes.words fun j => by
        simp only [laneOf, laneMul_toNat, laneAdd_toNat]
    · exact (intFire_firesLanes (exec_vmin m tx ty s)).words fun j => laneMin_toNat _ _
    · exact (intFire_firesLanes (exec_vmax m tx ty s)).words fun j => laneMax_toNat _ _
    · exact (intFire_firesLanes (exec_vminu m tx ty s)).words fun j => laneMinu_toNat _ _
    · exact (intFire_firesLanes (exec_vmaxu m tx ty s)).words fun j => laneMaxu_toNat _ _
    · exact (intFire_firesLanes (exec_vand m tx ty s)).words fun j => (BitVec.toNat_and _ _).symm
    · exact (intFire_firesLanes (exec_vor m tx ty s)).words fun j => (BitVec.toNat_or _ _).symm
    · exact (intFire_firesLanes (exec_vxor m tx ty s)).words fun j => (BitVec.toNat_xor _ _).symm
    · exact (intFire_firesLanes (exec_vshl m tx ty s)).words fun j => laneShl_toNat _ _
    · exact (intFire_firesLanes (exec_vshr m tx ty s)).words fun j => laneShr_toNat _ _
    · exact (intFire_firesLanes (exec_vsra m tx ty s)).words fun j => laneSra_toNat _ _
    · exact (intFire1_firesLanes (exec_vabs m tx ty s)).words fun j => laneAbs_toNat _
    · exact (intFire1_firesLanes (exec_vneg m tx ty s)).words fun j => laneNeg_toNat _
    · exact (intFire1_firesLanes (exec_vaddk m tx ty s)).words fun j => laneAdd_toNat _ _
    · exact (intFire1_firesLanes (exec_vmulk m tx ty s)).words fun j => laneMul_toNat _ _
    · exact vsgadd_firesLanes.words fun j => laneSgadd_toNat _ _ _ (intWidth_pos m)
    · exact (intFire_firesLanes (exec_vadds m tx ty s)).words fun j => laneAdds_toNat _ _
    · exact (intFire_firesLanes (exec_vsubs m tx ty s)).words fun j => laneSubs_toNat _ _
end

section
/-!
SUPPORT. STRM instructions (R113, R114, R130 to R133): what each does at issue, where no earlier work holds it back.
-/

namespace Sys2Proof.Machine

/-! ### Ranges of tile tags (R132) -/

/-- The mask of `count` tags from n on. -/
theorem getLsbD_tagMask {n count k : Nat} (hk : k < 1024) :
    (BitVec.ofNat 1024 ((2 ^ count - 1) * 2 ^ n)).getLsbD k = decide (n ≤ k ∧ k < n + count) := by
  rw [BitVec.getLsbD_ofNat, Nat.testBit_mul_two_pow, Nat.testBit_two_pow_sub_one]
  by_cases h : n ≤ k
  · simp [hk, h, Nat.sub_lt_iff_lt_add' h]
  · simp [h]

theorem CSet.getLsbD_setTags (c : CSet) (n count : Nat) (full : Bool) {k : Nat} (hk : k < 1024) :
    (c.setTags n count full).tags.getLsbD k = if n ≤ k ∧ k < n + count then full else c.tags.getLsbD k := by
  have hmask := getLsbD_tagMask (n := n) (count := count) hk
  unfold CSet.setTags CSet.putUnitTags putTags
  cases full
  · rw [if_neg Bool.false_ne_true, BitVec.getLsbD_and, BitVec.getLsbD_not, hmask]
    by_cases h : n ≤ k ∧ k < n + count <;> simp [h, hk]
  · rw [if_pos rfl, BitVec.getLsbD_or, hmask]
    by_cases h : n ≤ k ∧ k < n + count <;> simp [h]

theorem CSet.getLsbD_tagWord (c : CSet) (n : Nat) {k : Nat} (hk : k < 64) :
    (c.tagWord n).getLsbD k = c.tags.getLsbD (n + k) := by
  rw [CSet.tagWord, BitVec.getLsbD_ofNat, Nat.testBit_div_two_pow, BitVec.testBit_toNat]
  simp [hk, Nat.add_comm]

/-! ### The fields of a feed's operand (R130) -/

theorem feedTarget_eq (v : Word) : feedTarget v = v.extractLsb' 16 11 := by
  rw [feedTarget, wspan, bitSpan, ← extractLsb'_ofNat_toNat (n := 64) _ (by decide), BitVec.ofNat_toNat,
    BitVec.ofNat_toNat, BitVec.setWidth_eq, BitVec.setWidth_eq]

theorem feedTag_eq (v : Word) : feedTag v = Tag.ofBits (wspan v 0 16) := rfl

/-! ### Issue -/

/-- An instruction that changes tags only and then begins its operation. -/
theorem State.began_setTags_begin (s : State) (n count : Nat) (full : Bool) (t : Reg) (cls : OpClass) (w : Wait) :
    s.began ((s.mapSet (fun c => c.setTags n count full)).begin t cls w).advance t cls w := by
  simp [State.began, CSet.setTags, CSet.putUnitTags]

/-- A STRM instruction that nothing holds back has its effect. -/
theorem strmIssue_next {i : Instr} {n : Needs} {body : State → State} {s : State} (hfree : s.strmFree)
    (hw : i.wellFormed = true) (h : s.mayIssue n.reads n.dest n.level) : strmIssue i n body s = .next (body s) := by
  obtain ⟨hprog, hmove⟩ := hfree
  exact issueUnless_next (by simp [hprog, hmove]) hw h

section Strm

variable {s : State} {t a b : Reg} (hfree : s.strmFree)
include hfree

/-! ### SFEED and SFEEDT (R114, R130) -/

theorem exec_sfeed_of_checked (q : BitVec 4) (hiss : s.mayIssue [a, b] t 0) (hheld : s.readHeld (s.reg a) = false)
    {u : State} {w : Bool} {sp : List Span} (hcheck : s.checked .read (s.reg a) 16 128 = (u, .ok (w, sp))) :
    exec (.sfeed t a b q) s = .next ((s.feedStatus q.toNat (s.reg b)).elim
      (u.begin t .strm (.feed q.toNat w sp (feedTag (s.reg b)) (feedTarget (s.reg b)) s.unit.phase s.unit.bypass))
      (u.failsAs t .strm)).advance := by
  rw [exec_sfeed, execSfeed, strmIssue_next hfree rfl hiss]
  simp only [hheld, hcheck]
  cases s.feedStatus q.toNat (s.reg b) <;> rfl

theorem exec_sfeedt_of_status (q : BitVec 4) (hiss : s.mayIssue [a, a + 1, b] t 0) (heven : a.isEven = true) {n : Nat}
    (hst : (s.feedStatus q.toNat (s.reg b)).or
      ((tileOf (s.reg a) (s.reg (a + 1))).feedStatus (windowSize s.core.sliced)) = some n) :
    exec (.sfeedt t a b q) s = .next (s.failsAs t .strm n).advance := by
  rw [exec_sfeedt, execSfeedt, strmIssue_next (i := .sfeedt t a b q) hfree heven hiss]
  cases hfeed : s.feedStatus q.toNat (s.reg b) with
  | some m => simp_all
  | none => simp_all [pairOf]

theorem exec_sfeedt_of_valid (q : BitVec 4) (hiss : s.mayIssue [a, a + 1, b] t 0) (heven : a.isEven = true)
    (hfeed : s.feedStatus q.toNat (s.reg b) = none)
    (htile : (tileOf (s.reg a) (s.reg (a + 1))).feedStatus (windowSize s.core.sliced) = none) :
    exec (.sfeedt t a b q) s = .next (s.begin t .strm (.feedTile q.toNat (s.reg a) (s.reg (a + 1)) (feedTag (s.reg b))
      (feedTarget (s.reg b)) 0)).advance := by
  rw [exec_sfeedt, execSfeedt, strmIssue_next (i := .sfeedt t a b q) hfree heven hiss]
  simp only [pairOf, hfeed, htile]

/-! ### SDRAW, SCLOSE and SSTAT (R131, R133) -/

theorem exec_sdraw_of_checked (q : BitVec 4) (hiss : s.mayIssue [a] t 0) (hheld : s.globalHeld (s.reg a) = false)
    {u : State} {w : Bool} {sp : List Span} (hcheck : s.checked .write (s.reg a) 16 128 = (u, .ok (w, sp))) :
    exec (.sdraw t a q) s = .next (if s.core.set.fab.running.isNone then u.failsAs t .strm 0x22
      else u.begin t .strm (.draw q.toNat w sp)).advance := by
  rw [exec_sdraw, execSdraw, strmIssue_next hfree rfl hiss]
  simp only [hheld, hcheck]
  cases s.core.set.fab.running <;> rfl

theorem exec_sclose_eq (q : BitVec 4) (hiss : s.mayIssue [] t 0) :
    exec (.sclose t q) s = .next (if s.core.set.fab.running.isNone then s.failsAs t .strm 0x22
      else (s.mapFab (fun f => { f with inPorts := closePort f.inPorts q.toNat })).later t .strm 0 .clear 2).advance := by
  rw [exec_sclose, execSclose, strmIssue_next hfree rfl hiss]
  cases s.core.set.fab.running <;> rfl

theorem exec_sstat_eq (hiss : s.mayIssue [a] t 0) :
    exec (.sstat t a) s = .next (if (s.reg a).toNat > 63 then s.failsAs t .strm 0x27
      else s.later t .strm (s.core.set.fab.statusOf (s.reg a).toNat) .clear 2).advance := by
  rw [exec_sstat, execSstat, strmIssue_next hfree rfl hiss]
  split <;> simp_all

/-! ### TAGSET and TAGCLR (R132) -/

theorem tagInstr_next {i : Instr} (hw : i.wellFormed = true) (full : Bool) (hiss : s.mayIssue [a, b] t 0) :
    tagInstr i t a b full s = .next (if (s.reg b).toNat > 64 ∨ (s.reg a).toNat + (s.reg b).toNat > 1024
      then s.failsAs t .strm 0x27
      else (s.mapSet (fun c => c.setTags (s.reg a).toNat (s.reg b).toNat full)).later t .strm
        (s.core.set.tagWord (s.reg a).toNat) .clear 2).advance := by
  rw [tagInstr, strmIssue_next hfree hw hiss]
  split <;> simp_all

end Strm

end Sys2Proof.Machine

open Sys2Proof Sys2Proof.Machine in
/-- Settles O20: each form fails with the status its checks give, or begins its operation and changes the ports or the
tags as said. -/
theorem streamInstructionsComplete : Obligations.StreamInstructionsComplete := by
  intro s t a b q hfree f fails va tag tgt
  have htgt : feedTarget (s.reg b) = tgt := feedTarget_eq (s.reg b)
  refine ⟨?sfeed, ?sfeedt, ?sdraw, ?closeIdle, ?close, ?sstat, ?tags⟩
  case sfeed =>
    intro hiss hheld u w sp hcheck
    have hexec := exec_sfeed_of_checked hfree q hiss hheld hcheck
    refine ⟨fun n hn => ?_, fun hn => ?_⟩ <;> rw [hn] at hexec
    · exact ⟨_, hexec, u.failsAs_began t .strm n⟩
    · rw [htgt] at hexec
      exact ⟨_, hexec, u.began_begin t .strm _⟩
  case sfeedt =>
    intro hiss heven
    have hstatus : ∀ n, (s.feedStatus q.toNat (s.reg b)).or
        ((tileOf va (s.reg (a + 1))).feedStatus (windowSize s.core.sliced)) = some n → fails (.sfeedt t a b q) s n :=
      fun n hn => ⟨_, exec_sfeedt_of_status hfree q hiss heven hn, s.failsAs_began t .strm n⟩
    refine ⟨fun n hn => hstatus n (by rw [hn]; rfl), fun hn => ?_, fun hn htile => ?_⟩
    · intro tl size
      have htl : tileOf va (s.reg (a + 1)) = tl := rfl
      have hsize : windowSize s.core.sliced = size := rfl
      rw [htl, hsize, hn] at hstatus
      refine ⟨fun hv => hstatus _ ?_, fun hv hu _ => hstatus _ ?_, fun hv hu hf => hstatus _ ?_⟩
      · simp [Tile.feedStatus, hv]
      · simp [Tile.feedStatus, hv, hu]
      · simp [Tile.feedStatus, hv, hf, Nat.not_lt.mpr hu]
    · have hexec := exec_sfeedt_of_valid hfree q hiss heven hn htile
      rw [htgt] at hexec
      exact ⟨_, hexec, s.began_begin t .strm _⟩
  case sdraw =>
    intro hiss hheld u w sp hcheck
    have hexec := exec_sdraw_of_checked hfree q hiss hheld hcheck
    refine ⟨fun hr => ?_, fun hr => ?_⟩
    · rw [if_pos (by simpa using hr)] at hexec
      exact ⟨_, hexec, u.failsAs_began t .strm _⟩
    · rw [if_neg (by simpa [Option.isSome_iff_ne_none] using hr)] at hexec
      exact ⟨_, hexec, u.began_begin t .strm _⟩
  case closeIdle =>
    intro hiss hr
    have hexec := exec_sclose_eq hfree q hiss
    rw [if_pos (by simpa using hr)] at hexec
    exact ⟨_, hexec, s.failsAs_began t .strm _⟩
  case close =>
    intro hiss hr
    have hexec := exec_sclose_eq hfree q hiss
    rw [if_neg (by simpa [Option.isSome_iff_ne_none] using hr)] at hexec
    refine ⟨_, hexec, ?_, s.began_mapFab_begin _ t .strm _⟩
    rw [State.later, State.begin_advance_fab, Fabric.portClosed_eq]
    exact closedIn_closePort_self _ _
  case sstat =>
    intro hiss
    have hexec := exec_sstat_eq hfree hiss
    refine ⟨fun hn => ?_, fun hn => ?_⟩
    · rw [if_neg (Nat.not_lt.mpr hn)] at hexec
      exact ⟨_, hexec, s.begin_advance_fab t .strm _, s.began_begin t .strm _⟩
    · rw [if_pos hn] at hexec
      exact ⟨_, hexec, s.failsAs_began t .strm _⟩
  case tags =>
    intro hiss full i hi
    have hexec : exec i s = tagInstr i t a b full s ∧ i.wellFormed = true := by
      simp only [List.mem_cons, Prod.mk.injEq, List.not_mem_nil, or_false] at hi
      obtain ⟨rfl, rfl⟩ | ⟨rfl, rfl⟩ := hi <;> exact ⟨rfl, rfl⟩
    obtain ⟨hexec, hw⟩ := hexec
    rw [tagInstr_next hfree hw full hiss] at hexec
    refine ⟨fun hout => ?_, fun hcount hlast => ?_⟩
    · rw [if_pos hout] at hexec
      exact ⟨_, hexec, s.failsAs_began t .strm _⟩
    · rw [if_neg (not_or.mpr ⟨Nat.not_lt.mpr hcount, Nat.not_lt.mpr hlast⟩)] at hexec
      refine ⟨_, _, hexec, s.began_setTags_begin _ _ full t .strm _, fun k hk => s.core.set.getLsbD_tagWord _ hk,
        fun k hk => ?_⟩
      rw [← s.core.set.getLsbD_setTags _ _ full hk]
      rfl
end

section
/-!
SUPPORT. Firings that may change more than the buffers (R140, R142, R148): the slot that fires and what it reads, the
state that a firing leaves, and what stays as it was.
-/

namespace Sys2Proof.Machine

/-! ### The slot that fires, and the positions it reads (R120) -/

variable {s : State} {i : Instr} {im : Image} {r : SlotRec} {x : Taken}

theorem firingSlot_iff : s.firingSlot i = some (im, r) ↔ s.core.fabricRuns s.cycle = true ∧
    s.core.set.fab.running = some im ∧ im.slot s.firing = some r ∧ r.instr = some i := by
  unfold State.firingSlot
  cases hruns : s.core.fabricRuns s.cycle
  · simp
  · cases hrun : s.core.set.fab.running with
    | none => simp
    | some im' =>
      cases hslot : im'.slot s.firing <;> simp only [if_true, hslot] <;> aesop

theorem Image.reads_of_instr (h : r.instr = some i) (hi : isConst i = false) :
    im.reads r = fabReads i r.konst.toNat := by
  simp [Image.reads, SlotRec.form, h, hi]

/-- A slot that reads its left position only takes that token alone. -/
theorem Fabric.pick_left {f : Fabric} {n : Nat} (h : f.pick n [0] = some x) : x.r = none ∧ x.p = none := by
  obtain ⟨l, -, hl⟩ := List.exists_of_findSome?_eq_some h
  unfold Fabric.takenOf at hl
  split at hl
  · cases hl
  · cases hl
    exact ⟨rfl, rfl⟩

theorem State.fires.list_left (h : s.fires i im r x) (hi : isConst i = false)
    (hreads : fabReads i r.konst.toNat = [0]) : x.list = [x.l] := by
  obtain ⟨hslot, hpick, -, -⟩ := h
  obtain ⟨-, -, -, hinstr⟩ := firingSlot_iff.mp hslot
  rw [Image.reads_of_instr hinstr hi, hreads] at hpick
  obtain ⟨hr, hp⟩ := Fabric.pick_left hpick
  simp [Taken.list, hr, hp]

/-- An error token that such a slot takes is its left one. -/
theorem State.fires.left_isError (h : s.fires i im r x) (hi : isConst i = false)
    (hreads : fabReads i r.konst.toNat = [0]) {e : Token} (he : x.list.find? Token.isError = some e) :
    x.l.isError = true := by
  rw [h.list_left hi hreads] at he
  obtain rfl := List.mem_singleton.mp (List.mem_of_find?_eq_some he)
  exact List.find?_some he

theorem Token.isData_of_isError {t : Token} (h : t.isError = true) : t.isData = false := by
  rw [Token.isError, beq_iff_eq] at h
  rw [Token.isData, h]
  rfl

/-! ### The state that a firing leaves (R120, R123) -/

/-- The slot has taken its tokens and its element has fired. -/
def State.taking (s : State) (im : Image) (r : SlotRec) (x : Taken) : State :=
  s.mapFab (fun f => (f.consume r.num (im.reads r) x.l.k).markFired r.num s.cycle)

/-- Two states agree in the tokens that stand in buffers or are on their way, in the sequencer and in memory. -/
structure State.SameTokens (s t : State) : Prop where
  held : t.core.set.fab.held = s.core.set.fab.held
  flights : t.core.set.fab.flights = s.core.set.fab.flights
  seq : t.core.set.seq = s.core.set.seq
  mem : t.mem = s.mem

theorem State.SameTokens.refl (s : State) : s.SameTokens s := ⟨rfl, rfl, rfl, rfl⟩

theorem State.SameTokens.trans {s t u : State} (h : s.SameTokens t) (k : t.SameTokens u) : s.SameTokens u :=
  ⟨k.held.trans h.held, k.flights.trans h.flights, k.seq.trans h.seq, k.mem.trans h.mem⟩

/-- Tokens that leave add to what is on its way, and change nothing else of the fabric. -/
theorem Fabric.sendAll_eq (f : Fabric) (box now latency : Nat) (outs : List (Target × Token)) :
    f.sendAll box now latency outs = { f with flights := (f.sendAll box now latency outs).flights } := by
  induction outs generalizing f with
  | nil => rfl
  | cons o outs ih =>
    have hsend : f.send box now latency o.1 o.2 = { f with flights := (f.send box now latency o.1 o.2).flights } := by
      unfold Fabric.send
      split <;> rfl
    have hrest := ih (f.send box now latency o.1 o.2)
    rw [hsend] at hrest
    rw [show f.sendAll box now latency (o :: outs) = (f.send box now latency o.1 o.2).sendAll box now latency outs from rfl,
      hsend]
    exact hrest

theorem State.emit_fired_fab_eq (s : State) (slot latency : Nat) (outs : List (Target × Token)) (taken : Token)
    (result : Option Token) : ∃ flights,
      ((s.emit slot latency outs).fired slot taken result).core.set.fab = { s.core.set.fab with flights := flights } := by
  rw [State.emit_fired_fab, Fabric.sendAll_eq]
  exact ⟨_, rfl⟩

theorem State.emit_fired_sends (s : State) (slot latency : Nat) {outs : List (Target × Token)} (taken : Token)
    (result : Option Token) {o : Target × Token} (ho : o ∈ outs) (ht : o.1 ≠ noTarget) :
    ((s.emit slot latency outs).fired slot taken result).sends o.1 o.2 := by
  unfold State.sends
  rw [State.emit_fired_fab]
  exact Fabric.sendAll_sends (h := ho) (ht := ht) ..

section Act

variable {act : State → SlotRec → Taken → State × List (Target × Token)} {v : State} {outs : List (Target × Token)}
  (hexec : exec i s = fabFire i act s) (hact : act (s.taking im r x) r x = (v, outs)) (h : s.fires i im r x)
include hexec hact h

theorem fabFire_next : exec i s = .next ((v.emit r.num (fabLatency i r.konst.toNat) outs).fired r.num x.l
    (outs.head?.map (fun o => o.2))) := by
  obtain ⟨hslot, hpick, hmay, heor⟩ := h
  have hdue : (s.core.set.mayFire im s.cycle r && !s.core.set.fab.eorDue.any (fun e => e.1 == r.num)) = true := by
    rw [hmay, heor]
    rfl
  unfold State.taking at hact
  unfold fabFire at hexec
  simp only [hslot, hpick, when_next hdue, hact] at hexec
  exact hexec

/-- A slot that may fire takes its tokens and sends what `act` says, where else `act` changes only counts and logs; of
the fabric only the tokens on their way are then not as `act` leaves them. -/
theorem fabFire_firesWith_of_sameTokens (hkeep : (s.taking im r x).SameTokens v) : s.firesWith i im r x outs ∧
    ∀ u, exec i s = .next u → ∃ flights, u.core.set.fab = { v.core.set.fab with flights := flights } := by
  have hnext := fabFire_next hexec hact h
  refine ⟨⟨_, hnext, ?held, fun o ho ht => State.emit_fired_sends _ _ _ _ _ ho ht, ?flights, ?seq, fun _ => ?mem⟩,
    fun u hu => ?fab⟩
  case held =>
    rw [State.emit_fired_fab, Fabric.sendAll_held, hkeep.held]
    rfl
  case flights =>
    rintro rfl
    rw [State.emit_fired_fab]
    exact hkeep.flights
  case seq => rw [State.emit_fired_seq, hkeep.seq]; rfl
  case mem => rw [State.fired_mem, State.emit_mem, hkeep.mem]; rfl
  case fab =>
    rw [hnext] at hu
    rw [← Host.Outcome.next.inj hu]
    exact State.emit_fired_fab_eq ..

end Act

/-! ### Errors that are counted and logged (R328, R366) -/

theorem State.slotError_sameTokens (s : State) (slot : Nat) (t : Token) : s.SameTokens (s.slotError slot t) := by
  have hset : ∃ n, (s.slotError slot t).core.set = { s.core.set with errCount := n } := by
    unfold State.slotError State.errToken
    dsimp only
    split
    · split
      · rw [State.trace_set, State.log_core]
        exact ⟨_, rfl⟩
      · rw [State.log_core]
        exact ⟨_, rfl⟩
    · rw [State.log_core]
      exact ⟨_, rfl⟩
  obtain ⟨n, hset⟩ := hset
  exact ⟨by rw [hset], by rw [hset], by rw [hset], s.slotError_mem slot t⟩

theorem State.slotErrors_sameTokens (s : State) (slot : Nat) (l : List Token) :
    s.SameTokens (l.foldl (fun s e => s.slotError slot e) s) := by
  induction l generalizing s with
  | nil => exact .refl s
  | cons e l ih => exact (s.slotError_sameTokens slot e).trans (ih _)

/-! ### Words that send one result (R123, R140, R142) -/

section Words

variable {tx ty : Target}

/-- A result for both targets where a token taken is an error. -/
theorem fabMap_firesWith_of_error {make : Nat → Taken → Token} (hexec : exec i s = fabMap i tx ty make s) {e : Token}
    (he : x.list.find? Token.isError = some e) (h : s.fires i im r x) :
    s.firesWith i im r x [(tx, x.fail e.tag.cause 0), (ty, x.fail e.tag.cause 0)] := by
  have hsent := fabMap_firesWith hexec h
  rwa [Taken.result_of_error _ he] at hsent

/-- A result for both targets where no token taken is an error. -/
theorem fabMap_firesWith_of_clean {make : Nat → Taken → Token} (hexec : exec i s = fabMap i tx ty make s)
    (hok : x.list.find? Token.isError = none) (h : s.fires i im r x) :
    s.firesWith i im r x [(tx, make r.konst.toNat x), (ty, make r.konst.toNat x)] := by
  have hsent := fabMap_firesWith hexec h
  rwa [Taken.result_of_clean _ hok] at hsent

theorem exec_const_of_reads (hreads : im.reads r ≠ []) (h : s.fires (.const tx ty) im r x) :
    exec (.const tx ty) s = fabMap (.const tx ty) tx ty (fun k t => t.keep (constPayload k)) s := by
  obtain ⟨hslot, -⟩ := h
  rw [exec_const, execConst, hslot]
  simp [hreads]

theorem pnot_firesWith (h : s.fires (.pnot tx ty) im r x) :
    let k := (x.result (fun t => t.data t.l.payload)).withPred (!x.l.tag.pred)
    s.firesWith (.pnot tx ty) im r x [(tx, k), (ty, k)] :=
  fabFire_firesWith (exec_pnot tx ty s) (fun _ => rfl) h

theorem steer_firesWith (h : s.fires (.steer tx ty) im r x) : s.firesWith (.steer tx ty) im r x
    [(if x.predError || x.pred then tx else ty, x.result (fun t => t.keep t.l.payload))] :=
  fabFire_firesWith (exec_steer tx ty s) (fun _ => rfl) h

theorem gate_firesWith (h : s.fires (.gate tx ty) im r x) :
    let k := x.result (fun t => t.keep t.l.payload)
    s.firesWith (.gate tx ty) im r x
      (if x.predError then [(tx, k)] else if x.pred then [(tx, k), (ty, k)] else []) :=
  fabFire_firesWith (exec_gate tx ty s) (fun _ => rfl) h

theorem vcmp_firesWith_of_error {e : Token} (he : x.list.find? Token.isError = some e)
    (h : s.fires (.vcmp tx ty) im r x) :
    let k := (x.fail e.tag.cause 0).withPred (openPred r.num x.list)
    s.firesWith (.vcmp tx ty) im r x [(tx, k), (ty, k)] :=
  fabFire_firesWith (exec_vcmp tx ty s) (fun _ => by simp only [he]) h

theorem vcmp_firesWith_of_clean (hok : x.list.find? Token.isError = none) (h : s.fires (.vcmp tx ty) im r x) :
    let p := vcmpPayload r.konst.toNat x.l.payload x.rp
    s.firesWith (.vcmp tx ty) im r x [(tx, (x.data p.1).withPred p.2), (ty, (x.data p.1).withPred p.2)] :=
  fabFire_firesWith (exec_vcmp tx ty s) (fun _ => by simp only [hok]) h

theorem stitch_firesWith (h : s.fires (.stitch tx ty) im r x) :
    let k := x.result (fun t => t.keep t.l.payload)
    let new := (if r.konst.toNat / 2 ^ 6 % 2 = 1 then lane32 x.rp 0 else r.konst.toNat % 64) % im.P
    let t : Token := { k with tag := { k.tag with stitch := BitVec.ofNat 6 new } }
    s.firesWith (.stitch tx ty) im r x [(tx, t), (ty, t)] := by
  obtain ⟨-, hrun, -, -⟩ := firingSlot_iff.mp h.1
  have hrun : (s.taking im r x).core.set.fab.running = some im := hrun
  refine (fabFire_firesWith_of_sameTokens (exec_stitch tx ty s) ?_ h (.refl _)).1
  simp [hrun, bitAt]

theorem Taken.predError_of_clean (hok : x.list.find? Token.isError = none) : x.predError = false := by
  have hnone := List.find?_eq_none.mp hok
  cases hp : x.p with
  | none => simp [Taken.predError, hp]
  | some p => simpa [Taken.predError, hp] using hnone p (by simp [Taken.list, hp])

/-! ### SINK (R142, R366) -/

/-- SINK reads its left position only: an error token taken is its left one. -/
theorem sink_firesWith_of_error {e : Token} (he : x.list.find? Token.isError = some e)
    (h : s.fires (.sink tx ty) im r x) :
    s.firesWith (.sink tx ty) im r x [(tx, x.fail e.tag.cause 0), (ty, x.fail e.tag.cause 0)] := by
  have hl : x.l.isError = true := h.left_isError rfl rfl he
  refine (fabFire_firesWith_of_sameTokens (exec_sink tx ty s) ?_ h
    ((s.taking im r x).slotError_sameTokens r.num x.l)).1
  simp only [hl, if_true, Taken.result_of_error _ he, Bool.true_or]

theorem sink_firesWith_of_clean (hok : x.list.find? Token.isError = none) (h : s.fires (.sink tx ty) im r x) :
    s.firesWith (.sink tx ty) im r x
      (if x.l.tag.last then [(tx, x.keep x.l.payload), (ty, x.keep x.l.payload)] else []) := by
  have hl : x.l.isError = false := by
    simpa using List.find?_eq_none.mp hok x.l List.mem_cons_self
  refine (fabFire_firesWith_of_sameTokens (exec_sink tx ty s) ?_ h (.refl _)).1
  simp only [hl, Taken.result_of_clean _ hok, Bool.false_or, if_neg Bool.false_ne_true]

/-! ### CNT and EOR (R142, R148) -/

theorem State.mapFab_setCount_sameTokens (s : State) (n k : Nat) (v : BitVec 32) :
    s.SameTokens (s.mapFab (fun f => f.setCount n k v)) := ⟨rfl, rfl, rfl, rfl⟩

theorem Fabric.count0_setCount (f : Fabric) (n k : Nat) (v : BitVec 32) : (f.setCount n k v).count0 n k = v := by
  simp [Fabric.count0, Fabric.setCount]

/-- A firing moves no count, and owes no end of reduction that was not due. -/
def State.keepsCounts (s : State) (i : Instr) : Prop :=
  ∃ u, exec i s = .next u ∧ u.core.set.fab.counts = s.core.set.fab.counts ∧
    u.core.set.fab.eorDue = s.core.set.fab.eorDue

/-- A firing that does nothing but send. -/
theorem fabFire_keepsCounts {act : State → SlotRec → Taken → State × List (Target × Token)}
    {outs : List (Target × Token)} (hexec : exec i s = fabFire i act s)
    (hact : act (s.taking im r x) r x = (s.taking im r x, outs)) (h : s.fires i im r x) :
    s.firesWith i im r x outs ∧ s.keepsCounts i := by
  obtain ⟨hsent, hfab⟩ := fabFire_firesWith_of_sameTokens hexec hact h (.refl _)
  refine ⟨hsent, ?_⟩
  obtain ⟨u, hu, -⟩ := hsent
  obtain ⟨flights, hfab⟩ := hfab u hu
  exact ⟨u, hu, by rw [hfab]; rfl, by rw [hfab]; rfl⟩

/-- A token of kind 01, 10 or 11 moves no count of CNT. -/
theorem cnt_of_not_data (hl : x.l.isData = false) (h : s.fires (.cnt tx ty) im r x) :
    (let k := x.result (fun t => t.l)
     s.firesWith (.cnt tx ty) im r x [(tx, k), (ty, k)]) ∧ s.keepsCounts (.cnt tx ty) := by
  refine fabFire_keepsCounts (exec_cnt tx ty s) ?act h
  simp [hl, Taken.result]

/-- A data token takes its stitch's count and advances it. -/
theorem cnt_of_data (hok : x.list.find? Token.isError = none) (hl : x.l.isData = true)
    (h : s.fires (.cnt tx ty) im r x) :
    let n := s.core.set.fab.count0 r.num x.l.k
    (let k := x.data (withLane0 x.l.payload n.toNat)
     s.firesWith (.cnt tx ty) im r x [(tx, k), (ty, k)]) ∧
    ∀ u, exec (.cnt tx ty) s = .next u → u.core.set.fab.count0 r.num x.l.k = cntNext r.konst.toNat n := by
  intro n
  have hcount : (s.taking im r x).core.set.fab.count0 r.num x.l.k = n := rfl
  obtain ⟨hsent, hfab⟩ := fabFire_firesWith_of_sameTokens (exec_cnt tx ty s)
    (v := (s.taking im r x).mapFab (fun f => f.setCount r.num x.l.k (cntNext r.konst.toNat n)))
    (outs := [(tx, x.data (withLane0 x.l.payload n.toNat)), (ty, x.data (withLane0 x.l.payload n.toNat))])
    (by simp only [hl, hcount, if_true, Taken.result_of_clean _ hok]) h (State.mapFab_setCount_sameTokens ..)
  refine ⟨hsent, fun u hu => ?_⟩
  obtain ⟨flights, hfab⟩ := hfab u hu
  rw [hfab]
  exact Fabric.count0_setCount ..

theorem exec_eor_of_fires (h : s.fires (.eor tx ty) im r x) : exec (.eor tx ty) s = eorPass tx ty s := by
  obtain ⟨hslot, -, -, heor⟩ := h
  have hnone : s.core.set.fab.eorDue.find? (fun e => e.1 == r.num) = none := by
    rw [List.find?_eq_none]
    exact List.any_eq_false.mp heor
  rw [exec_eor, execEor, hslot]
  simp only [hnone]

/-- A token of kind 01, 10 or 11 moves no count of EOR. -/
theorem eor_of_not_data (hl : x.l.isData = false) (h : s.fires (.eor tx ty) im r x) :
    (let k := x.result (fun t => t.keep t.l.payload)
     s.firesWith (.eor tx ty) im r x [(tx, k), (ty, k)]) ∧ s.keepsCounts (.eor tx ty) := by
  refine fabFire_keepsCounts (exec_eor_of_fires h) ?act h
  simp [hl]

section Eor

variable (hok : x.list.find? Token.isError = none) (hl : x.l.isData = true) (h : s.fires (.eor tx ty) im r x)
include hok hl h

/-- A data token before the N-th is counted and passed. -/
theorem eor_of_data {n : Nat} (hlen : (if r.konst.toNat % 65536 = 0 then 65536 else r.konst.toNat % 65536) = n)
    (hn : (s.core.set.fab.count0 r.num x.l.k).toNat + 1 < n) :
    s.firesWith (.eor tx ty) im r x [(tx, x.keep x.l.payload), (ty, x.keep x.l.payload)] ∧
    ∀ u, exec (.eor tx ty) s = .next u →
      (u.core.set.fab.count0 r.num x.l.k).toNat = (s.core.set.fab.count0 r.num x.l.k).toNat + 1 := by
  generalize hcount : s.core.set.fab.count0 r.num x.l.k = c at hn ⊢
  have hcount : (s.taking im r x).core.set.fab.count0 r.num x.l.k = c := hcount
  obtain ⟨hsent, hfab⟩ := fabFire_firesWith_of_sameTokens (exec_eor_of_fires h)
    (v := (s.taking im r x).mapFab (fun f => f.setCount r.num x.l.k (BitVec.ofNat 32 (c.toNat + 1))))
    (outs := [(tx, x.keep x.l.payload), (ty, x.keep x.l.payload)])
    (by simp [hl, hcount, hlen, Nat.not_le.mpr hn, Taken.result_of_clean _ hok]) h
    (State.mapFab_setCount_sameTokens ..)
  refine ⟨hsent, fun u hu => ?_⟩
  obtain ⟨flights, hfab⟩ := hfab u hu
  have hv : u.core.set.fab.count0 r.num x.l.k = BitVec.ofNat 32 (c.toNat + 1) := by
    rw [hfab]
    exact Fabric.count0_setCount ..
  have hn : n ≤ 65536 := by
    rw [← hlen]
    split <;> omega
  rw [hv, BitVec.toNat_ofNat, Nat.mod_eq_of_lt (by omega)]

/-- The N-th data token of EOR as it leaves. -/
def Taken.unlast (x : Taken) : Token := ⟨{ (x.keep x.l.payload).tag with last := false }, x.l.payload⟩

/-- The N-th data token leaves with last 0, its stitch's count starts again, and a token that ends the reduction is due. -/
theorem eor_of_last_data {n : Nat} (hlen : (if r.konst.toNat % 65536 = 0 then 65536 else r.konst.toNat % 65536) = n)
    (hn : (s.core.set.fab.count0 r.num x.l.k).toNat + 1 ≥ n) {u : State} (hu : exec (.eor tx ty) s = .next u) :
    u.core.set.fab.count0 r.num x.l.k = 0 ∧
      u.core.set.fab.eorDue = s.core.set.fab.eorDue ++ [(r.num, eorToken r.num x.l)] ∧
      ∀ g ∈ [tx, ty], g ≠ noTarget → u.sends g x.unlast := by
  have hcount : (s.taking im r x).core.set.fab.count0 r.num x.l.k = s.core.set.fab.count0 r.num x.l.k := rfl
  obtain ⟨hsent, hfab⟩ := fabFire_firesWith_of_sameTokens (exec_eor_of_fires h)
    (v := (s.taking im r x).mapFab (fun f => { f.setCount r.num x.l.k 0 with
      eorDue := f.eorDue ++ [(r.num, eorToken r.num x.l)] })) (outs := [(tx, x.unlast), (ty, x.unlast)])
    (by simp [hl, hcount, hlen, hn, Taken.result_of_clean _ hok]; exact ⟨rfl, rfl⟩) h ⟨rfl, rfl, rfl, rfl⟩
  obtain ⟨flights, hfab⟩ := hfab u hu
  obtain ⟨w, hw, -, hsends, -⟩ := hsent
  obtain rfl := Host.Outcome.next.inj (hu.symm.trans hw)
  refine ⟨?count, ?due, fun g hg hne => ?sent⟩
  case count =>
    rw [hfab]
    exact Fabric.count0_setCount ..
  case due =>
    rw [hfab]
    rfl
  case sent =>
    refine hsends (g, x.unlast) ?_ hne
    simpa using hg

end Eor

/-! ### SEL (R134, R140) -/

theorem constWidth_eq (c : Nat) : constWidth c = if c % 4 = 0 then 32 else if c % 4 = 1 then 16 else 8 := by
  have hc : c % 4 < 4 := Nat.mod_lt c (by decide)
  unfold constWidth
  interval_cases c % 4 <;> rfl

theorem sel_firesWith (h : s.fires (.sel tx ty) im r x) {k : Token}
    (hk : ((selUsed r.konst.toNat x).find? Token.isError).elim (x.data (selPayload r.konst.toNat x))
      (fun e => x.fail e.tag.cause 0) = k) :
    s.firesWith (.sel tx ty) im r x [(tx, k), (ty, k)] := by
  refine (fabFire_firesWith_of_sameTokens (exec_sel tx ty s) ?_ h
    (State.slotErrors_sameTokens _ r.num (selDropped r.konst.toNat x))).1
  subst hk
  cases hused : (selUsed r.konst.toNat x).find? Token.isError <;> simp only [hused, Option.elim]

/-- The inputs that SEL selects by its predicate bit. -/
theorem selUses_of_pred {k : Nat} (hk : k % 2 = 0) (x : Taken) : selUses k x = (x.pred, !x.pred) := by
  simp [selUses, bitAt, hk]

/-- The inputs from which SEL selects some lane. -/
theorem selUses_of_lanes {k w : Nat} (hk : k % 2 = 1) (hw : constWidth (bitSpan k 1 2) = w) {x : Taken} {a b : Bool}
    (ha : a = true ↔ ∃ j < 1024 / w, laneOf w x.pp j ≠ 0) (hb : b = true ↔ ∃ j < 1024 / w, laneOf w x.pp j = 0) :
    selUses k x = (a, b) := by
  have hbit : bitAt k 0 = true := by simp [bitAt, hk]
  rw [selUses, if_pos hbit, selLanes, hw, lanes_eq]
  refine Prod.ext (Bool.eq_iff_iff.mpr ?_) (Bool.eq_iff_iff.mpr ?_)
  · rw [ha]
    simp
  · rw [hb]
    simp

theorem selPayload_of_pred {k : Nat} (hk : k % 2 = 0) (x : Taken) :
    selPayload k x = if x.pred then x.l.payload else x.rp := by
  simp [selPayload, bitAt, hk]

theorem selPayload_lane {k w : Nat} (hk : k % 2 = 1) (hw : constWidth (bitSpan k 1 2) = w) (x : Taken) {j : Nat}
    (hj : j < 1024 / w) : laneOf w (selPayload k x) j =
      if laneOf w x.pp j ≠ 0 then laneOf w x.l.payload j else laneOf w x.rp j := by
  have hbit : bitAt k 0 = true := by simp [bitAt, hk]
  rw [selPayload, if_pos hbit, hw, map3_lane hj, Nat.mod_eq_of_lt]
  split <;> exact BitVec.isLt _

/-! ### Sends that take no operands: MERGE, EOR's end of a reduction, CONST, SREG (R140, R142, R148) -/

/-- A step in which a token leaves for both targets changes of the fabric only what is on its way. -/
theorem sends_both_of_next {v : State} {slot : Nat} {taken t : Token} {result : Option Token}
    (hexec : exec i s = .next ((v.emit slot 1 [(tx, t), (ty, t)]).fired slot taken result)) :
    ∃ u, exec i s = .next u ∧ ((tx ≠ noTarget → u.sends tx t) ∧ (ty ≠ noTarget → u.sends ty t)) ∧
      ∃ flights, u.core.set.fab = { v.core.set.fab with flights := flights } :=
  ⟨_, hexec, ⟨fun ht => State.emit_fired_sends (o := (tx, t)) _ _ _ _ _ (by simp) ht,
    fun ht => State.emit_fired_sends (o := (ty, t)) _ _ _ _ _ (by simp) ht⟩, State.emit_fired_fab_eq ..⟩

/-- What MERGE sends of the one token it takes. -/
theorem Taken.result_single {t : Token} (ht : t.isError = false) :
    (⟨t, none, none⟩ : Taken).result (fun x => x.keep x.l.payload) = ⟨{ t.tag with cause := 0 }, t.payload⟩ := by
  simp [Taken.result, Taken.list, ht, Taken.keep, Taken.tag, Taken.last]

theorem Taken.result_single_of_error {t : Token} (ht : t.isError = true) :
    (⟨t, none, none⟩ : Taken).result (fun x => x.keep x.l.payload) = ⟨t.tag, 0⟩ := by
  have hkind : t.tag.kind = .error := by simpa [Token.isError] using ht
  simp [Taken.result, Taken.list, ht, Taken.fail, Taken.tag, Taken.last, ← hkind]

theorem exec_merge_of_pick (hslot : s.firingSlot (.merge tx ty) = some (im, r)) {g : Target} {t : Token}
    (hpick : s.core.set.fab.pickMerge r.num = some (g, t)) (hmay : s.core.set.mayFire im s.cycle r = true) :
    let k := (⟨t, none, none⟩ : Taken).result (fun t => t.keep t.l.payload)
    exec (.merge tx ty) s = .next (((s.mapFab (fun f =>
      Fabric.markFired { f with held := removeHeld g t.k f.held } r.num s.cycle)).emit r.num 1
        [(tx, k), (ty, k)]).fired r.num t (some k)) := by
  rw [exec_merge, execMerge]
  simp only [hslot, hpick, when_next hmay]

theorem exec_eor_of_due (hslot : s.firingSlot (.eor tx ty) = some (im, r)) {e : Nat × Token}
    (hdue : s.core.set.fab.eorDue.find? (fun e => e.1 == r.num) = some e)
    (hmay : s.core.set.mayFire im s.cycle r = true) :
    exec (.eor tx ty) s = .next (((s.mapFab (fun f =>
      Fabric.markFired { f with eorDue := f.eorDue.erase e } r.num s.cycle)).emit r.num 1
        [(tx, e.2), (ty, e.2)]).fired r.num e.2 (some e.2)) := by
  rw [exec_eor, execEor]
  simp only [hslot, hdue, when_next hmay]

theorem exec_const_initial (hslot : s.firingSlot (.const tx ty) = some (im, r)) (hreads : im.reads r = [])
    (hdue : (s.core.set.fab.consts.contains (r.num, s.cycle % im.P) && s.core.set.maySend (s.cycle % im.P) .held
      && !s.core.set.fab.fired.contains (elementOf r.num) && s.core.set.fab.roomFor (.const tx ty)) = true) :
    let k := s.cycle % im.P
    exec (.const tx ty) s = .next (((s.mapFab (fun f =>
      Fabric.markFired { f with consts := f.consts.erase (r.num, k) } r.num s.cycle)).emit r.num 1
        [(tx, constToken r k), (ty, constToken r k)]).fired r.num (constToken r k) (some (constToken r k))) := by
  rw [exec_const, execConst]
  simp only [hslot, hreads, List.isEmpty_nil, if_true, constInitial, when_next hdue]

theorem exec_sreg_of_head (hslot : s.firingSlot (.sreg tx ty) = some (im, r)) {t : Token}
    (hhead : (s.core.set.fab.heldAt (slotTarget r.num 0)).head? = some t) :
    ∃ u, exec (.sreg tx ty) s = .next u ∧ lookup (r.num, t.k) u.core.set.fab.sregs =
      some ((s.core.set.fab.sregAt r.num t.k r.konst).store t) ∧
      u.core.set.fab.held = removeHeld (slotTarget r.num 0) t.k s.core.set.fab.held := by
  rw [exec_sreg, execSreg]
  simp only [hslot, hhead]
  exact ⟨_, rfl, lookup_insert_self .., rfl⟩

/-- A data token stored is the held value, due unless the token is the stitch's last. -/
theorem SregEntry.store_data (e : SregEntry) {t : Token} (ht : t.isData = true) : (e.store t).held = t.payload ∧
    (t.tag.last = false → Due.held ∈ (e.store t).due) ∧ (t.tag.last = true → Due.held ∉ (e.store t).due) := by
  unfold SregEntry.store
  rw [if_pos ht]
  refine ⟨rfl, fun hlast => ?_, fun hlast => ?_⟩
  · by_cases hheld : Due.held ∈ e.due <;> simp [hlast, hheld]
  · simp [hlast]

theorem SregEntry.store_pass (e : SregEntry) {t : Token} (ht : t.isData = false) : Due.pass t ∈ (e.store t).due := by
  simp [SregEntry.store, ht]

/-- What an SREG owes first, where it may leave. -/
theorem CSet.sregSends_of_due {c : CSet} {e : SregEntry} {k : Nat} {d : Due} {rest : List Due} (n : Nat)
    (hdue : e.due = d :: rest) (hmay : c.maySend k d = true) :
    ∃ t, c.sregSends e n k = some (t, rest) ∧ (d = .held → t = e.token n k) ∧ ∀ z, d = .pass z → t = z := by
  have hkeep : e.due.filter (fun _ => e.due.head?.any (c.maySend k)) = d :: rest := by
    simp [hdue, hmay]
  unfold CSet.sregSends
  rw [hkeep]
  cases d with
  | held => exact ⟨_, rfl, fun _ => rfl, fun z hz => by cases hz⟩
  | pass z => exact ⟨_, rfl, fun h => (by cases h), fun z hz => by cases hz; rfl⟩

theorem exec_sregEmission_of_sends {n : Nat} {q : SlotRec} {e : SregEntry} {t : Token} {rest : List Due}
    (hrun : s.core.set.fab.running = some im) (hruns : s.core.fabricRuns s.cycle = true) (hslot : im.slot n = some q)
    (hinstr : q.instr = some (.sreg tx ty)) (hentry : lookup (n, s.cycle % im.P) s.core.set.fab.sregs = some e)
    (hsends : s.core.set.sregSends e n (s.cycle % im.P) = some (t, rest))
    (hfree : s.core.set.fab.fired.contains (elementOf n) = false)
    (hroom : s.core.set.fab.roomFor (.sreg tx ty) = true) :
    exec (.sregEmission n (s.cycle % im.P)) s = .next (((s.mapFab (fun f => Fabric.markFired
      { f with sregs := insert (n, s.cycle % im.P) { e with due := rest } f.sregs } n s.cycle)).emit n 1
        [(tx, t), (ty, t)]).fired n t (some t)) := by
  have hdue : (s.core.fabricRuns s.cycle && s.core.set.slotCycle s.cycle (s.cycle % im.P)
      && (q.instr.map isSreg).getD false && !s.core.set.fab.fired.contains (elementOf n)
      && s.core.set.fab.slotRoom q) = true := by
    rw [hruns, hfree, hinstr]
    simp [CSet.slotCycle, hrun, isSreg, Fabric.slotRoom, hinstr, hroom]
  rw [exec_sregEmission, execSregEmission]
  simp only [hrun, hslot, hentry, hsends, when_next hdue]
  rw [hinstr]
  rfl

end Words

end Sys2Proof.Machine

open Sys2Proof Sys2Proof.Machine in
/-- Settles O53: what each word sends, with an error among its operands and without, and what it leaves of its counts,
of what it owes and of its held values. -/
theorem controlFirings : Obligations.ControlFirings := by
  intro s im r x tx ty k l tok both ok
  refine ⟨?errors, ?sel, ?others, ?clean, ?unread, ?emission⟩
  case errors =>
    intro e he bad new
    refine ⟨?_, fun hreads h => fabMap_firesWith_of_error (exec_const_of_reads hreads h) he h, ?_, ?_, ?_, ?_⟩
    · intro i hi
      simp only [List.mem_cons, List.not_mem_nil, or_false] at hi
      obtain rfl | rfl | rfl | rfl | rfl | rfl | rfl := hi
      · exact fabMap_firesWith_of_error (exec_ordj tx ty s) he
      · exact fabMap_firesWith_of_error (exec_dup tx ty s) he
      · exact fabMap_firesWith_of_error (exec_delay tx ty s) he
      · exact sink_firesWith_of_error he
      · exact fabMap_firesWith_of_error (exec_idx tx ty s) he
      · intro h
        have hsent := (cnt_of_not_data (Token.isData_of_isError (h.left_isError rfl rfl he)) h).1
        rwa [Taken.result_of_error _ he] at hsent
      · intro h
        have hsent := (eor_of_not_data (Token.isData_of_isError (h.left_isError rfl rfl he)) h).1
        rwa [Taken.result_of_error _ he] at hsent
    · intro h
      have hsent := stitch_firesWith h
      rw [Taken.result_of_error _ he] at hsent
      exact hsent
    · intro h
      have hsent := pnot_firesWith h
      rw [Taken.result_of_error _ he] at hsent
      exact hsent
    · intro hp i hi h
      simp only [List.mem_cons, List.not_mem_nil, or_false] at hi
      obtain rfl | rfl := hi
      · have hsent := steer_firesWith h
        rwa [Taken.result_of_error _ he, hp] at hsent
      · have hsent := gate_firesWith h
        rwa [Taken.result_of_error _ he, hp] at hsent
    · exact fun h => ⟨_, vcmp_firesWith_of_error he h⟩
  case sel =>
    intro w at0 a b hpred hlanes used
    have hw : constWidth (bitSpan k 1 2) = w := by
      rw [constWidth_eq, show bitSpan k 1 2 % 4 = k / 2 % 4 by simp [bitSpan]]
    have hat : ∀ p j, laneOf w p j = at0 p j := laneOf_eq w
    have huses : selUses k x = (a, b) := by
      rcases Nat.mod_two_eq_zero_or_one k with hk | hk
      · obtain ⟨rfl, rfl⟩ := hpred hk
        exact selUses_of_pred hk x
      · obtain ⟨ha, hb⟩ := hlanes hk
        exact selUses_of_lanes hk hw (by simpa only [hat] using ha) (by simpa only [hat] using hb)
    have hused : selUsed k x = used := by
      rw [selUsed, huses]
    refine ⟨fun e he h => sel_firesWith h ?_, fun he h => ⟨selPayload k x,
      fun hk => selPayload_of_pred hk x, fun hk j hj => ?_, sel_firesWith h ?_⟩⟩
    · rw [hused, he]
      rfl
    · simpa only [hat] using selPayload_lane hk hw x hj
    · rw [hused, he]
      rfl
  case others =>
    intro hl
    refine ⟨fun hok => ⟨fun h => ?_, fun h => ?_⟩, fun i hi h => ?_⟩
    · have hsent := (cnt_of_not_data hl h).1
      rwa [Taken.result_of_clean _ hok] at hsent
    · have hsent := (eor_of_not_data hl h).1
      rwa [Taken.result_of_clean _ hok] at hsent
    · simp only [List.mem_cons, List.not_mem_nil, or_false] at hi
      obtain rfl | rfl := hi
      · exact (cnt_of_not_data hl h).2
      · exact (eor_of_not_data hl h).2
  case clean =>
    intro hok
    have hkind : l.isData = true → l.tag.kind = .data := fun hl => by simpa [Token.isData] using hl
    refine ⟨vcmp_firesWith_of_clean hok, ⟨?kept, ?steer, ?gate, sink_firesWith_of_clean hok, ?const, ?stitch⟩, ?pnot,
      ?idx, fun hl h => cnt_of_data hok hl h, fun hl h => ⟨fun hn => ?counted, fun hn u hu => ?ended⟩⟩
    case kept =>
      intro i hi
      simp only [List.mem_cons, List.not_mem_nil, or_false] at hi
      obtain rfl | rfl | rfl := hi
      · exact fabMap_firesWith_of_clean (exec_ordj tx ty s) hok
      · exact fabMap_firesWith_of_clean (exec_dup tx ty s) hok
      · exact fabMap_firesWith_of_clean (exec_delay tx ty s) hok
    case steer =>
      intro h
      have hsent := steer_firesWith h
      rwa [Taken.result_of_clean _ hok, Taken.predError_of_clean hok] at hsent
    case gate =>
      intro h
      have hsent := gate_firesWith h
      rwa [Taken.result_of_clean _ hok, Taken.predError_of_clean hok] at hsent
    case const => exact fun hreads h => fabMap_firesWith_of_clean (exec_const_of_reads hreads h) hok h
    case stitch =>
      intro new h
      have hsent := stitch_firesWith h
      rw [Taken.result_of_clean _ hok] at hsent
      exact hsent
    case pnot =>
      intro h
      have hsent := pnot_firesWith h
      rw [Taken.result_of_clean _ hok] at hsent
      exact hsent
    case idx =>
      intro h
      have hsent := fabMap_firesWith_of_clean (exec_idx tx ty s) hok h
      by_cases hin : inBounds k l.payload = true
      · rwa [if_pos hin] at hsent ⊢
      · rwa [if_neg hin] at hsent ⊢
    case counted =>
      have hsent := eor_of_data hok hl h rfl hn
      unfold Taken.keep at hsent
      rwa [hkind hl] at hsent
    case ended =>
      obtain ⟨hcount, hdue, hsent⟩ := eor_of_last_data hok hl h rfl hn hu
      unfold Taken.unlast Taken.keep at hsent
      rw [hkind hl] at hsent
      exact ⟨hcount, ⟨_, hdue⟩, hsent⟩
  case unread =>
    intro hrun hruns hslot sendsBoth
    have hfiring : ∀ {i : Instr}, r.instr = some i → s.firingSlot i = some (im, r) :=
      fun hi => firingSlot_iff.mpr ⟨hruns, hrun, hslot, hi⟩
    refine ⟨?due, ?merge, ?mergeError, ?const, ?sreg⟩
    case due =>
      intro e hi hdue hmay
      obtain ⟨u, hu, hsent, flights, hfab⟩ := sends_both_of_next (exec_eor_of_due (hfiring hi) hdue hmay)
      exact ⟨u, hu, hsent, by rw [hfab]; rfl⟩
    case merge =>
      intro g t hi hpick hmay ht
      obtain ⟨u, hu, hsent, flights, hfab⟩ := sends_both_of_next (exec_merge_of_pick (hfiring hi) hpick hmay)
      rw [Taken.result_single ht] at hsent
      exact ⟨u, hu, hsent, by rw [hfab]; rfl⟩
    case mergeError =>
      intro g t hi hpick hmay ht
      obtain ⟨u, hu, hsent, flights, hfab⟩ := sends_both_of_next (exec_merge_of_pick (hfiring hi) hpick hmay)
      rw [Taken.result_single_of_error ht] at hsent
      exact ⟨u, hu, hsent, by rw [hfab]; rfl⟩
    case const =>
      intro hi hreads hcon hmay hfree hroom
      have hdue : (s.core.set.fab.consts.contains (r.num, s.cycle % im.P) && s.core.set.maySend (s.cycle % im.P) .held
          && !s.core.set.fab.fired.contains (elementOf r.num) && s.core.set.fab.roomFor (.const tx ty)) = true := by
        rw [hcon, hmay, hfree, hroom]
        rfl
      obtain ⟨u, hu, hsent, flights, hfab⟩ := sends_both_of_next (exec_const_initial (hfiring hi) hreads hdue)
      exact ⟨u, _, hu, hsent, by rw [hfab]; rfl⟩
    case sreg =>
      intro t hi hhead
      obtain ⟨u, hu, hentry, hheld⟩ := exec_sreg_of_head (hfiring hi) hhead
      exact ⟨u, _, hu, hentry, hheld, fun ht => SregEntry.store_data _ ht, fun ht => SregEntry.store_pass _ ht⟩
  case emission =>
    intro n q e d rest hrun hruns hslot hinstr hentry hdue hmay hfree hroom
    obtain ⟨t, hsends, hheld, hpass⟩ := CSet.sregSends_of_due n hdue hmay
    obtain ⟨u, hu, ⟨hx, hy⟩, flights, hfab⟩ := sends_both_of_next
      (exec_sregEmission_of_sends hrun hruns hslot hinstr hentry hsends hfree hroom)
    refine ⟨u, t, hu, hx, hy, ?_, fun hd => ?_, hpass⟩
    · rw [hfab]
      exact lookup_insert_self ..
    · rw [hheld hd]
      exact ⟨rfl, rfl, rfl, rfl⟩
end

section
/-!
SUPPORT. The detector's reports and the operations that they end (R114, R133, R143, R144), memory errors (R329), log
messages (R349) and reset (R354).
-/

namespace Sys2Proof.Machine

variable {s : State}

/-! ### Reports of the detector (R143, R144) -/

theorem exec_completionReport_of_empty {im : Image} (hrun : s.core.set.fab.running = some im)
    (hdetects : s.detects = true) (hempty : s.core.set.empty0 = true)
    (hout : ∀ k < 64, s.core.set.runsOut k = false) (hopen : s.requestsOpen s.core.num s.core.set.fab = false) :
    exec .completionReport s = .next (s.makeReport im 1) := by
  have hnone : (List.range 64).any s.core.set.runsOut = false := by
    rw [List.any_eq_false]
    exact fun k hk => by simp [hout k (List.mem_range.mp hk)]
  have hdue : (s.detects && s.core.set.empty0 && !(List.range 64).any s.core.set.runsOut &&
      !s.requestsOpen s.core.num s.core.set.fab) = true := by
    rw [hdetects, hempty, hnone, hopen]
    rfl
  rw [exec_completionReport, execCompletionReport]
  simp only [hrun, when_next hdue]

theorem State.logs_core (p : Nat) (l : List LogRec) (s : State) : (l.foldl (fun t r => t.log p r) s).core = s.core := by
  induction l generalizing s with
  | nil => rfl
  | cons r l ih => rw [List.foldl_cons, ih, State.log_core]

theorem State.log_cycle (s : State) (p : Nat) (r : LogRec) : (s.log p r).cycle = s.cycle := by
  unfold State.log
  dsimp only
  split <;> rfl

theorem State.logs_cycle (p : Nat) (l : List LogRec) (s : State) :
    (l.foldl (fun t r => t.log p r) s).cycle = s.cycle := by
  induction l generalizing s with
  | nil => rfl
  | cons r l ih => rw [List.foldl_cons, ih, State.log_cycle]

theorem exec_deadlockReport_of_stuck {im : Image} (hrun : s.core.set.fab.running = some im)
    (hdetects : s.detects = true) (hempty : s.core.set.empty0 = false)
    (hmove : s.cycle ≥ s.core.set.fab.detect.lastMove + 256) (hwaits : s.detectorWaits s.core im = false) :
    ∃ u : State, u.core = s.core ∧ u.cycle = s.cycle ∧ exec .deadlockReport s = .next (u.makeReport im 2) := by
  have hdue : s.deadlocked im = true := by
    simp [State.deadlocked, hdetects, hempty, hmove, hwaits]
  rw [exec_deadlockReport, execDeadlockReport]
  simp only [hrun, when_next hdue]
  exact ⟨_, State.logs_core .., State.logs_cycle .., rfl⟩

/-- What a report leaves of the detector, of the buffers and of the operations. -/
theorem State.makeReport_fab (s : State) (im : Image) (kind : Nat) :
    (s.makeReport im kind).core.set.fab = { s.core.set.fab with detect := { s.core.set.fab.detect with
      report := some (s.core.set.reportWord im kind), standing := true, moved := false } } := rfl

theorem State.mem_makeReport_ops {o : Op} (im : Image) (kind : Nat) (h : o ∈ s.core.set.ops) :
    s.core.set.reportEnds (kind == 2) s.cycle o ∈ (s.makeReport im kind).core.set.ops :=
  List.mem_map_of_mem h

theorem CSet.reportEnds_draw {c : CSet} {o : Op} {q : Nat} {w : Bool} {sp : List Span} (deadlock : Bool) (now : Nat)
    (hwait : o.wait = .draw q w sp) (hempty : c.fab.heldAt (nodeTarget 6 q) = []) :
    c.reportEnds deadlock now o = { o with wait := .ready 0x8000000000000028 .clear (now + 1) } := by
  simp [CSet.reportEnds, hwait, hempty, statusWord]

theorem CSet.reportEnds_feed {c : CSet} {o : Op} {q ph : Nat} {w home : Bool} {sp : List Span} {tag : Tag} {tgt : Target}
    (now : Nat) (hwait : o.wait = .feed q w sp tag tgt ph home) (hfull : c.fab.portFull q = true) :
    c.reportEnds true now o = { o with wait := .ready 0x8000000000000023 .clear (now + 1) } := by
  simp [CSet.reportEnds, hwait, hfull, statusWord]

/-- After a report that is made in a state of this core and this cycle. -/
theorem State.makeReport_leaves {u : State} (hcore : u.core = s.core) (hcycle : u.cycle = s.cycle) (im : Image)
    (kind : Nat) :
    let t := u.makeReport im kind
    let f := s.core.set.fab
    t.core.set.fab.detect.report = some (s.core.set.reportWord im kind) ∧ t.core.set.fab.detect.standing = true ∧
      t.core.set.fab.detect.moved = false ∧ t.core.set.fab.held = f.held ∧
      ∀ o ∈ s.core.set.ops,
        (∀ q w sp, o.wait = .draw q w sp → f.heldAt (nodeTarget 6 q) = [] →
          { o with wait := .ready 0x8000000000000028 .clear (s.cycle + 1) } ∈ t.core.set.ops) ∧
        (∀ q w sp tag tgt ph home, kind = 2 → o.wait = .feed q w sp tag tgt ph home → f.portFull q = true →
          { o with wait := .ready 0x8000000000000023 .clear (s.cycle + 1) } ∈ t.core.set.ops) := by
  intro t f
  have hset : s.core.set = u.core.set := by rw [hcore]
  rw [State.makeReport_fab, hset]
  refine ⟨rfl, rfl, rfl, by rw [show f = u.core.set.fab from by rw [← hset]], fun o ho => ?_⟩
  have hmem := State.mem_makeReport_ops im kind ho
  rw [hcycle] at hmem
  refine ⟨fun q w sp hwait hempty => ?_, fun q w sp tag tgt ph home hkind hwait hfull => ?_⟩
  · rw [CSet.reportEnds_draw _ _ hwait (by rwa [← hset])] at hmem
    exact hmem
  · rw [hkind, show (2 == 2) = true from rfl, CSet.reportEnds_feed _ hwait (by rwa [← hset]), ← hkind] at hmem
    exact hmem

/-! ### Memory errors (R329) -/

theorem State.log_host (s : State) (p : Nat) (r : LogRec) : ∃ ring lost,
    (s.log p r).host = { s.host with opRing := ring, opLost := lost } := by
  unfold State.log
  dsimp only
  split
  · unfold HostSide.keep
    split <;> exact ⟨_, _, rfl⟩
  · exact ⟨_, _, rfl⟩

/-- A whole line touches itself only. -/
theorem linesOf_line (l : Nat) : linesOf (l * 64) 64 = [l] := by
  have hcount : (l * 64 + 64 + 63) / 64 - l * 64 / 64 = 1 := by omega
  rw [linesOf, hcount]
  simp

/-- The report of a whole line that has an uncorrectable error marks it poisoned instead. -/
theorem State.report_line (s : State) (p core l : Nat) (cause : BitVec 6) (h : s.host.errLines.contains l = true) :
    l ∉ (s.report p core (l * 64) 64 cause).host.errLines ∧ l ∈ (s.report p core (l * 64) 64 cause).host.poisoned := by
  unfold State.report
  rw [linesOf_line]
  obtain ⟨ring, lost, hhost⟩ := State.log_host _ p _
  rw [hhost]
  simp [List.contains_iff_mem.mp h]

/-! ### Log messages (R349) -/

theorem State.num_of_partAt {n : Nat} {p : Part} (h : s.partAt n = some p) : p.num = n := by
  simpa using List.find?_some h

theorem State.partAt_mapPart {n : Nat} {p : Part} {f : Part → Part} (hf : ∀ q, (f q).num = q.num)
    (h : s.partAt n = some p) : (s.mapPart n f).partAt n = some (f p) := by
  have hnum : ((fun r : Part => r.num == n) ∘ fun r => if r.num = n then f r else r) = fun r => r.num == n := by
    funext r
    by_cases hr : r.num = n <;> simp [hr, hf]
  unfold State.partAt State.mapPart
  rw [List.find?_map, hnum, show s.parts.find? (fun r => r.num == n) = some p from h, Option.map_some,
    if_pos (State.num_of_partAt h)]

theorem exec_logMessage_of_part {n sink : Nat} {p : Part} (hn : n ≠ 32) (hp : s.partAt n = some p)
    (hsink : p.sink = some sink) (hup : p.sinkUp = true) (hring : p.ring ≠ []) :
    exec (.logMessage n) s = .next (s.sendRecords p sink) := by
  have hdue : (p.sinkUp && !p.ring.isEmpty) = true := by
    simp [hup, hring]
  rw [exec_logMessage, execLogMessage, if_neg (show n ≠ operatorSink from hn)]
  simp only [hp, hsink, when_next hdue]

theorem exec_logMessage_of_operator (hring : s.host.opRing ≠ []) :
    exec (.logMessage 32) s = .next s.sendOperator := by
  have hdue : (!s.host.opRing.isEmpty) = true := by
    simp [hring]
  rw [exec_logMessage, execLogMessage, if_pos (show 32 = operatorSink from rfl), when_next hdue]

theorem State.sendRecords_partAt {n : Nat} {p : Part} (sink : Nat) (hp : s.partAt n = some p) :
    (s.sendRecords p sink).partAt n = some { p with ring := p.ring.drop 16, lostRecs := 0 } := by
  obtain rfl := State.num_of_partAt hp
  exact State.partAt_mapPart (f := fun q => { q with ring := q.ring.drop 16, lostRecs := 0 }) (fun _ => rfl) hp

/-! ### Reset (R354) -/

/-- The module stays in reset unless both signatures hold and the stored index is no lower than the last one written. -/
theorem inReset_eq_false_iff (firmware config : Bool) (i j : Nat) :
    (!(firmware && config && decide (i ≤ j))) = false ↔ firmware = true ∧ config = true ∧ i ≤ j := by
  simp [and_assoc]

end Sys2Proof.Machine

open Sys2Proof Sys2Proof.Machine in
/-- Settles O54: each event's condition holds where the statement says so, and its effect is read off. -/
theorem reportsAreMadeAndMachineEventsHappen : Obligations.ReportsAreMadeAndMachineEventsHappen := by
  intro s n
  refine ⟨fun im hrun hdetects => ?reports, fun hregion herr hpoison => ?marked, fun hregion herr => ?reported,
    fun p sink hn hp hsink hup hring => ?records, fun hring => ?operator, ?reset⟩
  case reports =>
    refine ⟨fun hempty hout hopen => ?_, fun hempty hmove hwaits => ?_⟩
    · exact ⟨_, exec_completionReport_of_empty hrun hdetects hempty hout hopen, State.makeReport_leaves rfl rfl im 1⟩
    · obtain ⟨u, hcore, hcycle, hexec⟩ := exec_deadlockReport_of_stuck hrun hdetects hempty hmove hwaits
      exact ⟨_, hexec, State.makeReport_leaves hcore hcycle im 2⟩
  case marked =>
    rw [exec_memoryError, execMemoryError, if_neg hregion, herr, hpoison]
    exact ⟨_, rfl, rfl, rfl⟩
  case reported =>
    rw [exec_memoryError, execMemoryError, if_neg hregion, if_pos herr]
    obtain ⟨hgone, hpoisoned⟩ := s.report_line 0 0xFF (n / 64) 0x03 herr
    exact ⟨_, rfl, hgone, hpoisoned, State.report_mem ..⟩
  case records =>
    exact ⟨_, _, exec_logMessage_of_part hn hp hsink hup hring, rfl, State.sendRecords_partAt sink hp, rfl, rfl⟩
  case operator => exact ⟨_, exec_logMessage_of_operator hring, rfl, rfl⟩
  case reset => exact ⟨_, exec_reset s, rfl, rfl, rfl, rfl, rfl, rfl, rfl, rfl, rfl, inReset_eq_false_iff ..⟩
end

section
/-!
SUPPORT. Conversions, byte and lane opcodes (R138 to R141): what each payload holds, lane by lane.
-/

namespace Sys2Proof.Machine

/-! ### Lanes given and lanes made (R60) -/

theorem laneOf_lt (w : Nat) (p : Payload) (j : Nat) : laneOf w p j < 2 ^ w := BitVec.isLt _

theorem lanes_getD (w : Nat) (p : Payload) (j : Nat) :
    (lanes w p).getD j 0 = if j < 1024 / w then laneOf w p j else 0 := by
  rw [lanes_eq]
  by_cases h : j < 1024 / w <;> simp [List.getD, h]

theorem lanes_getD_of_lt {w j : Nat} (p : Payload) (h : j < 1024 / w) : (lanes w p).getD j 0 = laneOf w p j := by
  rw [lanes_getD, if_pos h]

/-- Lane j of a payload made of the values of `f`. -/
theorem ofLanes_map_lane {w n j : Nat} (f : Nat → Nat) (hw : j < 1024 / w) (hj : j < n) :
    laneOf w (ofLanes w ((List.range n).map f)) j = f j % 2 ^ w := by
  rw [ofLanes_lane _ hw]
  simp [List.getD, hj]

/-- A payload with one lane, lane 0. -/
theorem ofLanes_singleton (w v : Nat) : ofLanes w [v] = BitVec.ofNat 1024 (v % 2 ^ w) := by
  simp [ofLanes, joinLanes]

theorem bitAt_iff (k i : Nat) : bitAt k i = true ↔ k / 2 ^ i % 2 = 1 := by
  simp [bitAt]

theorem lane32_eq (p : Payload) (j : Nat) : lane32 p j = laneOf 32 p j := (laneOf_eq 32 p j).symm

/-! ### Bytes and masks (R139, R140) -/

theorem bpermPayload_lane (l q : Payload) {j : Nat} (hj : j < 128) :
    laneOf 8 (bpermPayload l q) j = if laneOf 8 q j < 128 then laneOf 8 l (laneOf 8 q j) else 0 := by
  rw [bpermPayload, map1_lane (show j < 1024 / 8 from hj)]
  split
  · next h => rw [lanes_getD_of_lt _ (show laneOf 8 q j < 1024 / 8 from h), Nat.mod_eq_of_lt (laneOf_lt ..)]
  · rfl

/-- NIBX sign-extends the low or the high half of each byte. -/
theorem nibxPayload_lane (high : Bool) (l : Payload) {j : Nat} (hj : j < 128) :
    (nibxPayload high l).extractLsb' (8 * j) 8 = (l.extractLsb' (8 * j + if high then 4 else 0) 4).signExtend 8 := by
  apply BitVec.eq_of_toNat_eq
  have hlane := map1_lane (show j < 1024 / 8 from hj)
    (fun b => bitsOf 8 (sintOf 4 (if high then b / 16 else b))) l
  have hhalf : sintOf 4 (if high then laneOf 8 l j / 16 else laneOf 8 l j) =
      (l.extractLsb' (8 * j + if high then 4 else 0) 4).toInt := by
    have hfield := laneOf_field (w := 8) (k := if high then 4 else 0) (n := 4) l j (by cases high <;> decide)
    rw [← sintOf_toNat, ← hfield]
    cases high <;> simp [sintOf]
  rw [nibxPayload, show ((map1 8 (fun b => bitsOf 8 (sintOf 4 (if high then b / 16 else b))) l).extractLsb' (8 * j) 8).toNat
    = _ from hlane, hhalf, bitsOf_eq_ofInt, Nat.mod_eq_of_lt (BitVec.isLt _)]
  rfl

theorem maskselPayload_lane (l q : Payload) {j : Nat} (hj : j < 32) :
    laneOf 32 (maskselPayload l q) j = if q.getLsbD j then laneOf 32 l j else 0xFF800000 := by
  rw [maskselPayload, ofLanes_map_lane _ (show j < 1024 / 32 from hj) hj, bitAt_toNat, lane32_eq, Nat.mod_eq_of_lt]
  split
  · exact laneOf_lt 32 l j
  · decide

/-! ### The lanes of a lane opcode (R141) -/

theorem constWidth_cases (k : Nat) : constWidth k = 32 ∨ constWidth k = 16 ∨ constWidth k = 8 := by
  rw [constWidth_eq]
  split
  · exact .inl rfl
  · split
    · exact .inr (.inl rfl)
    · exact .inr (.inr rfl)

/-- The number of lanes is a power of two. -/
theorem laneCount_eq_two_pow (k : Nat) : ∃ m, 1024 / constWidth k = 2 ^ m := by
  obtain h | h | h := constWidth_cases k <;> rw [h]
  · exact ⟨5, rfl⟩
  · exact ⟨6, rfl⟩
  · exact ⟨7, rfl⟩

theorem laneCount_pos (k : Nat) : 0 < 1024 / constWidth k := by
  obtain ⟨m, hm⟩ := laneCount_eq_two_pow k
  rw [hm]
  exact Nat.two_pow_pos m

theorem lbcastPayload_lane (k : Nat) (l : Payload) {j : Nat} (hj : j < 1024 / constWidth k) :
    laneOf (constWidth k) (lbcastPayload k l) j =
      laneOf (constWidth k) l (k / 2 ^ 4 % 2 ^ 7 % (1024 / constWidth k)) := by
  rw [lbcastPayload, ofLanes_lane _ hj, lanes_getD_of_lt l (Nat.mod_lt _ (laneCount_pos k))]
  simp [List.getD, hj, bitSpan, Nat.mod_eq_of_lt (laneOf_lt _ _ _)]

/-- A place within a group of g lanes. -/
theorem group_place_lt {n g j r : Nat} (hg : g ∣ n) (hj : j < n) (hr : r < g) : j / g * g + r < n := by
  obtain ⟨c, rfl⟩ := hg
  have hgroup : j / g < c := Nat.div_lt_of_lt_mul hj
  calc j / g * g + r < j / g * g + g := Nat.add_lt_add_left hr _
    _ = (j / g + 1) * g := (Nat.succ_mul ..).symm
    _ ≤ c * g := Nat.mul_le_mul_right g hgroup
    _ = g * c := Nat.mul_comm ..

theorem lrotPayload_lane (k : Nat) (l : Payload) {j : Nat} (hj : j < 1024 / constWidth k) :
    let g := min (2 ^ (k / 2 ^ 12 % 8)) (1024 / constWidth k)
    laneOf (constWidth k) (lrotPayload k l) j =
      laneOf (constWidth k) l (j / g * g + (j % g + g - k / 2 ^ 4 % 2 ^ 7 % g) % g) := by
  intro g
  have hg : g ∣ 1024 / constWidth k := by
    obtain ⟨m, hm⟩ := laneCount_eq_two_pow k
    rcases Nat.le_total (2 ^ (k / 2 ^ 12 % 8)) (1024 / constWidth k) with h | h
    · rw [show g = _ from Nat.min_eq_left h, hm]
      rw [hm] at h
      exact Nat.pow_dvd_pow 2 ((Nat.pow_le_pow_iff_right (by decide)).mp h)
    · rw [show g = _ from Nat.min_eq_right h]
  have hpos : 0 < g := Nat.pos_of_dvd_of_pos hg (laneCount_pos k)
  have hlt := group_place_lt hg hj (Nat.mod_lt (j % g + g - k / 2 ^ 4 % 2 ^ 7 % g) hpos)
  rw [lrotPayload, ofLanes_map_lane _ hj hj, ← Nat.mod_eq_of_lt (laneOf_lt _ l _), ← lanes_getD_of_lt l hlt]
  rfl

theorem lextrPayload_eq (k : Nat) (l q : Payload) :
    lextrPayload k l q = BitVec.ofNat 1024 (laneOf (constWidth k) l
      ((if k / 2 ^ 11 % 2 = 1 then laneOf 32 q 0 else k / 2 ^ 4 % 2 ^ 7) % (1024 / constWidth k))) := by
  rw [lextrPayload, ofLanes_singleton, lanes_getD_of_lt l (Nat.mod_lt _ (laneCount_pos k)),
    Nat.mod_eq_of_lt (laneOf_lt _ _ _), lane32_eq]
  simp only [bitAt_iff]
  rfl

/-- One lane, with zeros below it. -/
theorem joinLanes_replicate_zero (w v n : Nat) :
    joinLanes w (List.replicate n 0 ++ [v]) = v % 2 ^ w * 2 ^ (w * n) := by
  induction n with
  | zero => simp [joinLanes]
  | succ n ih =>
    rw [List.replicate_succ, List.cons_append, joinLanes, ih, Nat.mul_succ, Nat.pow_add]
    simp only [Nat.zero_mod, Nat.zero_add]
    ring

theorem onehotPayload_lane {k : Nat} (hk : k < 2 ^ 32) (l : Payload) {j : Nat} (hj : j < 32) :
    laneOf 32 (onehotPayload k l) j = if laneOf 32 l 0 = j then k else 0 := by
  rw [onehotPayload, lane32_eq]
  split
  · next h =>
    rw [← joinLanes_replicate_zero, ← ofLanes, ofLanes_lane _ (show j < 1024 / 32 from hj)]
    rcases Nat.lt_trichotomy j (laneOf 32 l 0) with hlt | heq | hgt
    · rw [if_neg hlt.ne', List.getD_append _ _ _ _ (by simpa using hlt)]
      simp [List.getD, hlt]
    · rw [if_pos heq.symm, List.getD_append_right _ _ _ _ (by simp [heq])]
      simpa [heq] using hk
    · rw [if_neg hgt.ne, List.getD_append_right _ _ _ _ (by simp [hgt.le])]
      simp [List.getD, show j - laneOf 32 l 0 ≠ 0 by omega]
  · next h =>
    rw [if_neg (by omega)]
    simp [laneOf]

/-! ### Sums of integer lanes (R141) -/

theorem lanes_cons (k : Nat) (l : Payload) : lanes (constWidth k) l = laneOf (constWidth k) l 0 ::
    (List.range (1024 / constWidth k - 1)).map (fun i => laneOf (constWidth k) l (i + 1)) := by
  have hpos := laneCount_pos k
  rw [lanes_eq, show 1024 / constWidth k = (1024 / constWidth k - 1) + 1 by omega, List.range_succ_eq_map]
  simp

theorem lsumPayload_int {k : Nat} (hk : bitAt k 2 = false) (l : Payload) : lsumPayload k l =
    BitVec.ofNat 1024 ((((List.range (1024 / constWidth k)).map (laneOf (constWidth k) l)).foldl (· + ·) 0) %
      2 ^ constWidth k) := by
  rw [lsumPayload, ofLanes_singleton, hk, lanes_eq]
  simp

/-- The running values from S m on, where each is `f` of the next lane and the last one. -/
theorem scanFrom_getD {f : Nat → Nat → Nat} {S g : Nat → Nat} (hS : ∀ i, S (i + 1) = f (g (i + 1)) (S i)) (n m : Nat)
    {j : Nat} (hj : j ≤ n) :
    (S m :: scanFrom f (S m) ((List.range n).map (fun i => g (m + i + 1)))).getD j 0 = S (m + j) := by
  induction n generalizing m j with
  | zero =>
    obtain rfl := Nat.le_zero.mp hj
    rfl
  | succ n ih =>
    cases j with
    | zero => rfl
    | succ j =>
      have hrest : (fun i => g (m + i + 1)) ∘ Nat.succ = fun i => g (m + 1 + i + 1) :=
        funext fun i => congrArg g (by omega)
      rw [List.range_succ_eq_map, List.map_cons, scanFrom, Nat.add_zero, ← hS, List.map_map, List.getD_cons_succ, hrest,
        ih (m + 1) (Nat.le_of_succ_le_succ hj), Nat.add_right_comm, Nat.add_assoc]

/-- The sum of the lanes 0 to i, modulo the width. -/
def laneSum (w : Nat) (l : Payload) (i : Nat) : Nat :=
  ((List.range (i + 1)).map (laneOf w l)).foldl (· + ·) 0 % 2 ^ w

theorem laneSum_zero (w : Nat) (l : Payload) : laneSum w l 0 = laneOf w l 0 := by
  simp [laneSum, Nat.mod_eq_of_lt (laneOf_lt w l 0)]

theorem laneSum_succ (w : Nat) (l : Payload) (i : Nat) :
    laneSum w l (i + 1) = laneAdd w (laneOf w l (i + 1)) (laneSum w l i) := by
  rw [laneAdd, ← Nat.cast_add, bitsOf_natCast, laneSum, laneSum, List.range_succ, List.map_append, List.foldl_append,
    Nat.add_mod_mod, Nat.add_comm (laneOf w l (i + 1))]
  rfl

theorem lscanPayload_int {k : Nat} (hk : bitAt k 2 = false) (l : Payload) {j : Nat} (hj : j < 1024 / constWidth k) :
    laneOf (constWidth k) (lscanPayload k l) j = laneSum (constWidth k) l j := by
  have hscan := scanFrom_getD (laneSum_succ (constWidth k) l) (1024 / constWidth k - 1) 0
    (Nat.le_sub_one_of_lt hj)
  simp only [Nat.zero_add, laneSum_zero] at hscan
  rw [lscanPayload, lanes_cons]
  simp only [hk, if_neg Bool.false_ne_true]
  rw [ofLanes_lane _ hj, hscan]
  exact Nat.mod_mod ..

/-! ### CVT (R138) -/

theorem fmtBits_cases {c : Nat} (h : c ≤ 6) : fmtBits c = 32 ∨ fmtBits c = 16 ∨ fmtBits c = 8 := by
  interval_cases c <;> decide

theorem cvtPayload_none {k : Nat} (l : Payload) (h : 6 < k % 16 ∨ 6 < k / 2 ^ 4 % 16) : cvtPayload k l = none := by
  have hbad : ¬ (bitSpan k 0 4 ≤ 6 ∧ bitSpan k 4 4 ≤ 6) := by
    simp only [bitSpan]
    omega
  rw [cvtPayload, if_neg hbad]

/-- An element of a conversion, as CVT's constant asks. -/
def cvtOne (k : Nat) (l : Payload) (i : Nat) : Nat :=
  cvtElement (k % 16) (k / 2 ^ 4 % 16) (Mode.ofCode (k / 2 ^ 8 % 4)) (k / 2 ^ 10 % 2 == 0)
    (laneOf (fmtBits (k % 16)) l i)

/-- The payload of a conversion between two formats: a part of the elements, or the elements in one part of the token. -/
theorem cvtPayload_some {k : Nat} (l : Payload) (hsrc : k % 16 ≤ 6) (hdst : k / 2 ^ 4 % 16 ≤ 6) :
    let part := k / 2 ^ 11 % 4
    let db := fmtBits (k / 2 ^ 4 % 16)
    let ns := 1024 / fmtBits (k % 16)
    let nd := 1024 / db
    cvtPayload k l = some (if nd ≤ ns then ofLanes db ((List.range nd).map (fun i => cvtOne k l (part % (ns / nd) * nd + i)))
      else ofLanes db (List.replicate (part % (nd / ns) * ns) 0 ++ (List.range ns).map (cvtOne k l))) := by
  intro part db ns nd
  have hfields : bitSpan k 0 4 = k % 16 ∧ bitSpan k 4 4 = k / 2 ^ 4 % 16 ∧ bitSpan k 8 2 = k / 2 ^ 8 % 4 ∧
      bitSpan k 11 2 = part := by
    simp [bitSpan, part]
  obtain ⟨hs, hd, hmode, hpart⟩ := hfields
  have hsat : (!bitAt k 10) = (k / 2 ^ 10 % 2 == 0) := by
    rcases Nat.mod_two_eq_zero_or_one (k / 2 ^ 10) with h | h <;> rw [bitAt, h] <;> rfl
  have hnd : 0 < nd := by
    rcases fmtBits_cases hdst with h | h | h <;> simp [nd, db, h]
  rw [cvtPayload, hs, hd, hmode, hpart, hsat, if_pos ⟨hsrc, hdst⟩]
  change (if nd ≤ ns then _ else _) = _
  split
  · next hle =>
    refine congrArg some (congrArg (ofLanes db) (List.map_congr_left fun i hi => ?_))
    have hin : part % (ns / nd) * nd + i < ns := by
      have hpos : 0 < ns / nd := Nat.div_pos hle hnd
      calc part % (ns / nd) * nd + i < part % (ns / nd) * nd + nd := Nat.add_lt_add_left (List.mem_range.mp hi) _
        _ = (part % (ns / nd) + 1) * nd := (Nat.succ_mul ..).symm
        _ ≤ ns / nd * nd := Nat.mul_le_mul_right nd (Nat.mod_lt _ hpos)
        _ ≤ ns := Nat.div_mul_le_self ns nd
    rw [cvtOne, ← lanes_getD_of_lt l hin]
    rfl
  · refine congrArg some (congrArg (ofLanes db) (congrArg _ ?_))
    rw [lanes_eq, List.map_map]
    rfl

/-- Values that stand after a run of zeros. -/
theorem replicate_append_getD (f : Nat → Nat) (a n i : Nat) :
    (List.replicate a 0 ++ (List.range n).map f).getD i 0 = if a ≤ i ∧ i < a + n then f (i - a) else 0 := by
  rcases Nat.lt_or_ge i a with h | h
  · rw [List.getD_append _ _ _ _ (by simpa using h), if_neg (by omega)]
    simp [List.getD, h]
  · rw [List.getD_append_right _ _ _ _ (by simpa using h), List.length_replicate]
    by_cases hn : i < a + n
    · rw [if_pos ⟨h, hn⟩]
      simp [List.getD, show i - a < n by omega]
    · rw [if_neg (by omega)]
      simp [List.getD, show ¬ i - a < n by omega]

/-! ### B3DEC (R57, R139, R367) -/

/-- Five values of each of some groups, one after another. -/
theorem flatMap_fives_getD (f : Nat → Nat → Nat) (g : Nat → Nat) (n m : Nat) :
    (((List.range n).map g).flatMap (fun b => (List.range 5).map (f b))).getD m 0 =
      if m < 5 * n then f (g (m / 5)) (m % 5) else 0 := by
  induction n with
  | zero => simp
  | succ n ih =>
    have hlen : (((List.range n).map g).flatMap (fun b => (List.range 5).map (f b))).length = 5 * n := by
      simp [List.length_flatMap, Function.comp_def, Nat.mul_comm]
    rw [List.range_succ (n := n), List.map_append, List.flatMap_append]
    rcases Nat.lt_or_ge m (5 * n) with h | h
    · rw [List.getD_append _ _ _ _ (by rwa [hlen]), ih, if_pos h, if_pos (by omega)]
    · rw [List.getD_append_right _ _ _ _ (by rwa [hlen]), hlen]
      by_cases hm : m < 5 * (n + 1)
      · rw [if_pos hm, show m / 5 = n by omega, show m % 5 = m - 5 * n by omega]
        simp [List.getD, show m - 5 * n < 5 by omega]
      · rw [if_neg hm]
        simp [List.getD, show ¬ m - 5 * n < 5 by omega]

/-- Digit i of a TERN5 byte in w bits, −1 as all ones. -/
theorem bitsOf_ternDigit {w : Nat} (hw : 0 < w) (b i : Nat) : bitsOf w (ternDigit b i) =
    if 243 ≤ b then 0 else if b / 3 ^ i % 3 = 2 then 2 ^ w - 1 else b / 3 ^ i % 3 := by
  have hone : 1 < 2 ^ w := Nat.one_lt_two_pow hw.ne'
  have hminus : bitsOf w (-1) = 2 ^ w - 1 := by
    have hmod : (-1 : Int) % ((2 ^ w : Nat) : Int) = ((2 ^ w : Nat) : Int) - 1 := by
      rw [← Int.add_mul_emod_self_left (-1) ((2 ^ w : Nat) : Int) 1, Int.emod_eq_of_lt] <;> omega
    rw [bitsOf, hmod]
    omega
  have hd : b / 3 ^ i % 3 < 3 := Nat.mod_lt _ (by decide)
  unfold ternDigit
  split
  · simp [bitsOf, *]
  · interval_cases b / 3 ^ i % 3
    · simp [bitsOf]
    · rw [if_neg (by decide)]
      exact (bitsOf_natCast w 1).trans (Nat.mod_eq_of_lt hone)
    · exact hminus

/-- Byte j of those that B3DEC decodes. -/
def ternByte (k : Nat) (l : Payload) (j : Nat) : Nat := if k % 128 + j < 128 then laneOf 8 l (k % 128 + j) else 0

theorem b3decPayload_eq (k : Nat) (l : Payload) :
    let bytes := (List.range (if bitAt k 7 then 6 else 25)).map (ternByte k l)
    let dw := if bitAt k 7 then 32 else 8
    b3decPayload k l =
      (ofLanes dw (bytes.flatMap (fun b => (List.range 5).map (fun i => bitsOf dw (ternDigit b i)))), bytes.any ternBad) := by
  have hbyte : (fun j => (lanes 8 l).getD (bitSpan k 0 7 + j) 0) = ternByte k l := by
    funext j
    rw [lanes_getD, show bitSpan k 0 7 = k % 128 by simp [bitSpan]]
    rfl
  rw [b3decPayload, hbyte]

theorem b3decPayload_lane (k : Nat) (l : Payload) {count dw m : Nat} (hcount : (if bitAt k 7 then 6 else 25) = count)
    (hdw : (if bitAt k 7 then 32 else 8) = dw) (hm : m < 1024 / dw) :
    laneOf dw (b3decPayload k l).1 m = if m < 5 * count then
      (if 243 ≤ ternByte k l (m / 5) then 0
        else if ternByte k l (m / 5) / 3 ^ (m % 5) % 3 = 2 then 2 ^ dw - 1 else ternByte k l (m / 5) / 3 ^ (m % 5) % 3)
      else 0 := by
  have hpos : 0 < dw := by
    rw [← hdw]
    split <;> decide
  rw [b3decPayload_eq, hcount, hdw, ofLanes_lane _ hm, flatMap_fives_getD (fun b i => bitsOf dw (ternDigit b i))]
  split
  · rw [Nat.mod_eq_of_lt (by rw [bitsOf_eq_ofInt]; exact BitVec.isLt _), bitsOf_ternDigit hpos]
  · rfl

theorem b3decPayload_bad (k : Nat) (l : Payload) {count : Nat} (hcount : (if bitAt k 7 then 6 else 25) = count) :
    (b3decPayload k l).2 = true ↔ ∃ j < count, 243 ≤ ternByte k l j := by
  rw [b3decPayload_eq, hcount]
  simp [ternBad]

/-! ### PACK and UNPK (R139) -/

theorem satSigned_lt (w : Nat) (i : Int) : satSigned w i < 2 ^ w := by
  rw [satSigned, bitsOf_eq_ofInt]
  exact BitVec.isLt _

theorem satUnsigned_eq (w : Nat) (i : Int) : satUnsigned w i = (max 0 (min (2 ^ w - 1 : Int) i)).toNat := by
  have hpos : (0 : Int) < 2 ^ w := Int.pow_pos (by decide)
  rw [satUnsigned, bitsOf, Nat.cast_pow, Nat.cast_ofNat, Int.emod_eq_of_lt] <;> omega

theorem satUnsigned_lt (w : Nat) (i : Int) : satUnsigned w i < 2 ^ w := by
  rw [satUnsigned, bitsOf_eq_ofInt]
  exact BitVec.isLt _

/-- A lane of w bits narrowed to half, as PACK's constant asks. -/
def packLane (k w x : Nat) : Nat :=
  if k / 4 % 4 = 0 then x % 2 ^ (w / 2)
  else if k / 4 % 4 = 1 then satSigned (w / 2) (sintOf w x) else satUnsigned (w / 2) (sintOf w x)

theorem packLane_lt (k w x : Nat) : packLane k w x < 2 ^ (w / 2) := by
  unfold packLane
  split
  · exact Nat.mod_lt _ (Nat.two_pow_pos _)
  · split
    · exact satSigned_lt ..
    · exact satUnsigned_lt ..

theorem packPayload_eq {k : Nat} (hk : k % 4 < 2) (l q : Payload) : packPayload k l q =
    ofLanes (constWidth k / 2) ((lanes (constWidth k) l ++ lanes (constWidth k) q).map (packLane k (constWidth k))) := by
  have hw : (if k % 4 = 0 then 32 else 16) = constWidth k := by
    rw [constWidth_eq]
    split
    · rfl
    · rw [if_pos (by omega)]
  have hmode : bitSpan k 2 2 = k / 4 % 4 := rfl
  have hlt : k / 4 % 4 < 4 := Nat.mod_lt _ (by decide)
  rw [packPayload, hw, hmode]
  refine congrArg _ (List.map_congr_left fun x _ => ?_)
  unfold packLane
  interval_cases k / 4 % 4 <;> rfl

theorem packPayload_lane {k : Nat} (hk : k % 4 < 2) (l q : Payload) {j : Nat} (hj : j < 1024 / constWidth k) :
    let h := constWidth k / 2
    laneOf h (packPayload k l q) j = packLane k (constWidth k) (laneOf (constWidth k) l j) ∧
      laneOf h (packPayload k l q) (1024 / constWidth k + j) =
        packLane k (constWidth k) (laneOf (constWidth k) q j) := by
  intro h
  have hcount : 1024 / h = 1024 / constWidth k + 1024 / constWidth k := by
    rcases constWidth_cases k with hw | hw | hw <;> simp [h, hw]
  have hlen : ((lanes (constWidth k) l).map (packLane k (constWidth k))).length = 1024 / constWidth k := by
    simp [lanes]
  rw [packPayload_eq hk, List.map_append, ofLanes_lane _ (by omega), ofLanes_lane _ (by omega),
    List.getD_append _ _ _ _ (by omega), List.getD_append_right _ _ _ _ (by omega), hlen, Nat.add_sub_cancel_left,
    lanes_eq, lanes_eq, List.map_map, List.map_map]
  simp [List.getD, hj, Nat.mod_eq_of_lt (packLane_lt ..), h]

theorem unpkPayload_lane (k : Nat) (l : Payload) {sw dw j : Nat}
    (hsw : (if k % 4 = 0 then 16 else 8) = sw) (hdw : (if k % 4 = 1 then 16 else 32) = dw) (hj : j < 1024 / dw) :
    let x := laneOf sw l (k / 4 % 4 % (dw / sw) * (1024 / dw) + j)
    laneOf dw (unpkPayload k l) j = if k / 2 ^ 4 % 2 = 1 then bitsOf dw (sintOf sw x) else x := by
  intro x
  have hsize : bitSpan k 0 2 = k % 4 := by simp [bitSpan]
  have hmode : bitSpan k 2 2 = k / 4 % 4 := rfl
  have hwidths : 0 < sw ∧ sw ≤ dw ∧ 1024 / sw = dw / sw * (1024 / dw) := by
    rw [← hsw, ← hdw]
    split <;> split <;> decide
  obtain ⟨hpos, hle, hcount⟩ := hwidths
  have hin : k / 4 % 4 % (dw / sw) * (1024 / dw) + j < 1024 / sw := by
    have hpart : k / 4 % 4 % (dw / sw) < dw / sw := Nat.mod_lt _ (Nat.div_pos hle hpos)
    calc k / 4 % 4 % (dw / sw) * (1024 / dw) + j < k / 4 % 4 % (dw / sw) * (1024 / dw) + 1024 / dw :=
          Nat.add_lt_add_left hj _
      _ = (k / 4 % 4 % (dw / sw) + 1) * (1024 / dw) := (Nat.succ_mul ..).symm
      _ ≤ dw / sw * (1024 / dw) := Nat.mul_le_mul_right _ hpart
      _ = 1024 / sw := hcount.symm
  rw [unpkPayload, hsize, hmode, hsw, hdw, ofLanes_map_lane _ hj hj, lanes_getD_of_lt l hin]
  simp only [bitAt_iff]
  apply Nat.mod_eq_of_lt
  split
  · rw [bitsOf_eq_ofInt]
    exact BitVec.isLt _
  · exact (laneOf_lt sw l _).trans_le (Nat.pow_le_pow_right (by decide) hle)

end Sys2Proof.Machine
end

section
/-!
SUPPORT. The order of floating-point values (R64), and the lane opcodes that compare lanes or add FP32 lanes in a fixed
order (R141).
-/

namespace Sys2Proof.Machine

/-! ### The order of values that are no NaN (R64) -/

/-- The rational number of a finite value; zero of the others. -/
def FVal.rat : FVal → ℚ
  | .fin s m e => (if s then -1 else 1) * (m * 2 ^ e)
  | _ => 0

/-- A value's place in the order: both zeros in one place, the infinities at the ends; a NaN has none of its own. -/
def FVal.rank : FVal → WithBot (WithTop ℚ)
  | .inf true => ⊥
  | .inf false => ((⊤ : WithTop ℚ) : WithBot (WithTop ℚ))
  | v => ((v.rat : WithTop ℚ) : WithBot (WithTop ℚ))

theorem FVal.units_eq {v : FVal} {e : Int} (he : v.unitExp e = e) : (v.units e : ℚ) = v.rat * 2 ^ (-e) := by
  cases v with
  | fin s m g =>
    have hle : e ≤ g := by
      have : min g e = e := he
      omega
    have hpow : (2 : ℚ) ^ (g - e).toNat = 2 ^ g * 2 ^ (-e) := by
      rw [← zpow_natCast, Int.toNat_of_nonneg (by omega), ← zpow_add₀ (by norm_num), Int.sub_eq_add_neg]
    simp only [FVal.units, FVal.rat]
    push_cast
    rw [hpow]
    cases s <;> simp [mul_assoc]
  | _ => simp [FVal.units, FVal.rat]

/-- In a unit that divides both values, the order is that of the rational numbers. -/
theorem FVal.units_lt_iff (a b : FVal) :
    a.units (b.unitExp (a.unitExp 0)) < b.units (b.unitExp (a.unitExp 0)) ↔ a.rat < b.rat := by
  have ha : a.unitExp (b.unitExp (a.unitExp 0)) = b.unitExp (a.unitExp 0) := by
    cases a <;> cases b <;> simp [FVal.unitExp]
  have hb : b.unitExp (b.unitExp (a.unitExp 0)) = b.unitExp (a.unitExp 0) := by
    cases a <;> cases b <;> simp [FVal.unitExp]
  rw [← Int.cast_lt (R := ℚ), FVal.units_eq ha, FVal.units_eq hb]
  exact mul_lt_mul_iff_left₀ (zpow_pos (by norm_num) _)

theorem FVal.finite_rank_lt_top (x : ℚ) :
    ((x : WithTop ℚ) : WithBot (WithTop ℚ)) < ((⊤ : WithTop ℚ) : WithBot (WithTop ℚ)) :=
  WithBot.coe_lt_coe.mpr (WithTop.coe_lt_top x)

theorem FVal.lt_iff {a b : FVal} (ha : a.isNan = false) (hb : b.isNan = false) : a.lt b = true ↔ a.rank < b.rank := by
  cases a with
  | nan => cases ha
  | inf s => cases b with
    | nan => cases hb
    | inf t => cases s <;> cases t <;> simp [FVal.lt, FVal.rank]
    | zero t => cases s <;> simp [FVal.lt, FVal.rank]
    | fin t m e => cases s <;> simp [FVal.lt, FVal.rank]
  | zero s => cases b with
    | nan => cases hb
    | inf t =>
      cases t
      · exact iff_of_true rfl (FVal.finite_rank_lt_top _)
      · simp [FVal.lt, FVal.rank]
    | zero t => simp [FVal.lt, FVal.rank, FVal.units, FVal.rat]
    | fin t m e => simpa [FVal.lt, FVal.rank] using FVal.units_lt_iff (.zero s) (.fin t m e)
  | fin s m e => cases b with
    | nan => cases hb
    | inf t =>
      cases t
      · exact iff_of_true rfl (FVal.finite_rank_lt_top _)
      · simp [FVal.lt, FVal.rank]
    | zero t => simpa [FVal.lt, FVal.rank] using FVal.units_lt_iff (.fin s m e) (.zero t)
    | fin t n g => simpa [FVal.lt, FVal.rank] using FVal.units_lt_iff (.fin s m e) (.fin t n g)

theorem FVal.not_nan_of_lt {a b : FVal} (h : a.lt b = true) : a.isNan = false ∧ b.isNan = false := by
  cases a <;> cases b <;> simp_all [FVal.lt, FVal.isNan]

theorem FVal.lt_trans {a b c : FVal} (hab : a.lt b = true) (hbc : b.lt c = true) : a.lt c = true := by
  obtain ⟨ha, hb⟩ := FVal.not_nan_of_lt hab
  obtain ⟨-, hc⟩ := FVal.not_nan_of_lt hbc
  rw [FVal.lt_iff ha hb] at hab
  rw [FVal.lt_iff hb hc] at hbc
  exact (FVal.lt_iff ha hc).mpr (hab.trans hbc)

theorem FVal.ltSigned_iff {a b : FVal} (ha : a.isNan = false) (hb : b.isNan = false) :
    a.ltSigned b = true ↔ a.rank < b.rank ∨ a = .zero true ∧ b = .zero false := by
  have hzero : ∀ (v : FVal) (s : Bool), v.isZero s = true ↔ v = .zero s := by
    intro v s
    cases v <;> simp [FVal.isZero]
  rw [FVal.ltSigned, Bool.or_eq_true, Bool.and_eq_true, FVal.lt_iff ha hb, hzero, hzero]

theorem FVal.not_nan_of_ltSigned {a b : FVal} (h : a.ltSigned b = true) : a.isNan = false ∧ b.isNan = false := by
  cases a <;> cases b <;> simp_all [FVal.ltSigned, FVal.lt, FVal.isNan, FVal.isZero]

theorem FVal.ltSigned_irrefl (a : FVal) : a.ltSigned a = false := by
  cases ha : a.isNan
  · rw [← Bool.not_eq_true, FVal.ltSigned_iff ha ha]
    rintro (h | ⟨h, h'⟩)
    · exact lt_irrefl _ h
    · rw [h] at h'
      cases h'
  · cases a <;> simp_all [FVal.isNan, FVal.ltSigned, FVal.lt, FVal.isZero]

theorem FVal.ltSigned_trans {a b c : FVal} (hab : a.ltSigned b = true) (hbc : b.ltSigned c = true) :
    a.ltSigned c = true := by
  obtain ⟨ha, hb⟩ := FVal.not_nan_of_ltSigned hab
  obtain ⟨-, hc⟩ := FVal.not_nan_of_ltSigned hbc
  rw [FVal.ltSigned_iff ha hb] at hab
  rw [FVal.ltSigned_iff hb hc] at hbc
  rw [FVal.ltSigned_iff ha hc]
  rcases hab with hab | ⟨rfl, rfl⟩ <;> rcases hbc with hbc | ⟨hb0, rfl⟩
  · exact .inl (hab.trans hbc)
  · rw [hb0] at hab
    exact .inl hab
  · exact .inl hbc
  · cases hb0

/-! ### The greatest of some lanes (R141) -/

/-- The lowest index of the greatest key: none before it has its key, and none after it a greater one. -/
def IsFirstMax {α : Type} [LinearOrder α] (key : Nat → α) (valid : Nat → Bool) (n i : Nat) : Prop :=
  i < n ∧ valid i = true ∧ (∀ j < n, valid j = true → key j ≤ key i) ∧ ∀ j < i, valid j = true → key j < key i

section FirstMax

variable {α : Type} [LinearOrder α] {key : Nat → α} {valid : Nat → Bool} {n i : Nat}

/-- One more index, that is not valid or whose key is no greater. -/
theorem IsFirstMax.succ_of_le (h : IsFirstMax key valid n i) (hn : valid n = true → key n ≤ key i) :
    IsFirstMax key valid (n + 1) i := by
  obtain ⟨hi, hvalid, hle, hlt⟩ := h
  refine ⟨Nat.lt_succ_of_lt hi, hvalid, fun j hj hv => ?_, hlt⟩
  rcases Nat.lt_succ_iff_lt_or_eq.mp hj with hj | rfl
  · exact hle j hj hv
  · exact hn hv

/-- One more index, whose key is greater. -/
theorem IsFirstMax.succ_of_lt (h : IsFirstMax key valid n i) (hv : valid n = true) (hn : key i < key n) :
    IsFirstMax key valid (n + 1) n := by
  obtain ⟨-, -, hle, -⟩ := h
  have hlt : ∀ j < n, valid j = true → key j < key n := fun j hj hv => (hle j hj hv).trans_lt hn
  refine ⟨Nat.lt_succ_self n, hv, fun j hj hv => ?_, hlt⟩
  rcases Nat.lt_succ_iff_lt_or_eq.mp hj with hj | rfl
  · exact (hlt j hj hv).le
  · exact le_rfl

theorem isFirstMax_of_none (h : ∀ j < n, valid j = false) (hv : valid n = true) : IsFirstMax key valid (n + 1) n := by
  have hlt : ∀ j < n, valid j = true → key j < key n := fun j hj hj' => by simp [h j hj] at hj'
  refine ⟨Nat.lt_succ_self n, hv, fun j hj hj' => ?_, hlt⟩
  rcases Nat.lt_succ_iff_lt_or_eq.mp hj with hj | rfl
  · exact (hlt j hj hj').le
  · exact le_rfl

end FirstMax

/-- What LARGMAX has found in the first n of some lanes. -/
def argBest (better : Nat → Nat → Bool) (valid : Nat → Bool) (g : Nat → Nat) (n : Nat) : Option (Nat × Nat) :=
  (List.zipIdx ((List.range n).map g)).foldl (fun b c => argStep better valid b (c.2, c.1)) none

theorem argBest_succ (better : Nat → Nat → Bool) (valid : Nat → Bool) (g : Nat → Nat) (n : Nat) :
    argBest better valid g (n + 1) = argStep better valid (argBest better valid g n) (n, g n) := by
  unfold argBest
  rw [List.range_succ, List.map_append, List.zipIdx_append, List.foldl_append]
  simp

theorem argStep_of_invalid {better : Nat → Nat → Bool} {valid : Nat → Bool} {c : Nat × Nat} (h : valid c.2 = false)
    (best : Option (Nat × Nat)) : argStep better valid best c = best := by
  simp [argStep, h]

theorem argStep_of_valid {better : Nat → Nat → Bool} {valid : Nat → Bool} {c : Nat × Nat} (h : valid c.2 = true)
    (best : Option (Nat × Nat)) : argStep better valid best c =
      best.elim (some c) (fun b => if better c.2 b.2 then some c else some b) := by
  cases best <;> simp [argStep, h]

theorem argBest_cases {α : Type} [LinearOrder α] {g : Nat → Nat} {better : Nat → Nat → Bool} {valid : Nat → Bool}
    {key : Nat → α} (hbetter : ∀ x y, valid x = true → valid y = true → (better x y = true ↔ key y < key x)) (n : Nat) :
    (argBest better valid g n = none ∧ ∀ j < n, valid (g j) = false) ∨
      ∃ i, argBest better valid g n = some (i, g i) ∧
        IsFirstMax (fun j => key (g j)) (fun j => valid (g j)) n i := by
  induction n with
  | zero => exact .inl ⟨rfl, fun j hj => absurd hj (Nat.not_lt_zero j)⟩
  | succ n ih =>
    rw [argBest_succ]
    cases hv : valid (g n) with
    | false =>
      rw [argStep_of_invalid hv]
      rcases ih with ⟨hbest, hnone⟩ | ⟨i, hbest, hmax⟩
      · refine .inl ⟨hbest, fun j hj => ?_⟩
        rcases Nat.lt_succ_iff_lt_or_eq.mp hj with hj | rfl
        · exact hnone j hj
        · exact hv
      · exact .inr ⟨i, hbest, hmax.succ_of_le fun h => by rw [hv] at h; cases h⟩
    | true =>
      rw [argStep_of_valid hv]
      rcases ih with ⟨hbest, hnone⟩ | ⟨i, hbest, hmax⟩
      · rw [hbest]
        exact .inr ⟨n, rfl, isFirstMax_of_none hnone hv⟩
      · rw [hbest]
        have hiff := hbetter (g n) (g i) hv hmax.2.1
        cases hb : better (g n) (g i) with
        | true => exact .inr ⟨n, by simp [hb], hmax.succ_of_lt hv (hiff.mp hb)⟩
        | false =>
          refine .inr ⟨i, by simp [hb], hmax.succ_of_le fun _ => not_lt.mp fun h => ?_⟩
          rw [hiff.mpr h] at hb
          cases hb

theorem laneMax_foldl (w : Nat) (g : Nat → Nat) (n : Nat) :
    ∃ i ≤ n, ((List.range n).map (fun j => g (j + 1))).foldl (laneMax w) (g 0) = g i ∧
      ∀ j ≤ n, sintOf w (g j) ≤ sintOf w (g i) := by
  induction n with
  | zero => exact ⟨0, le_rfl, rfl, fun j hj => by rw [Nat.le_zero.mp hj]⟩
  | succ n ih =>
    obtain ⟨i, hi, hfold, hmax⟩ := ih
    rw [List.range_succ, List.map_append, List.foldl_append, hfold]
    simp only [List.map_cons, List.map_nil, List.foldl_cons, List.foldl_nil, laneMax]
    split
    · next h =>
      refine ⟨i, Nat.le_succ_of_le hi, rfl, fun j hj => ?_⟩
      rcases Nat.le_succ_iff.mp hj with hj | rfl
      · exact hmax j hj
      · exact h.le
    · next h =>
      refine ⟨n + 1, le_rfl, rfl, fun j hj => ?_⟩
      rcases Nat.le_succ_iff.mp hj with hj | rfl
      · exact (hmax j hj).trans (not_lt.mp h)
      · exact le_rfl

theorem decode_fp32_nan : fp32.decode fp32.nan = .nan := by decide

/-- FMAX where no NaN is among its operands, or one. -/
theorem FFmt.max_eq (f : FFmt) (a b : Nat) : f.max a b =
    if (f.decode a).isNan then (if (f.decode b).isNan then f.nan else b)
    else if (f.decode b).isNan then a
    else if (f.decode a).ltSigned (f.decode b) then b else a := by
  unfold FFmt.max
  cases f.decode a <;> cases f.decode b <;> rfl

/-- The greatest of FP32 lanes: the canonical NaN where all are NaNs, else a lane that none is greater than. -/
def IsFpMax (g : Nat → Nat) (n m : Nat) : Prop :=
  ((∀ j ≤ n, (fp32.decode (g j)).isNan = true) ∧ m = fp32.nan) ∨
    ∃ i ≤ n, (fp32.decode (g i)).isNan = false ∧ m = g i ∧
      ∀ j ≤ n, (fp32.decode (g i)).ltSigned (fp32.decode (g j)) = false

theorem isFpMax_zero (g : Nat → Nat) : IsFpMax g 0 (fp32.max (g 0) (g 0)) := by
  rw [FFmt.max_eq, FVal.ltSigned_irrefl]
  cases h : (fp32.decode (g 0)).isNan
  · exact .inr ⟨0, le_rfl, h, by simp, fun j hj => by rw [Nat.le_zero.mp hj, FVal.ltSigned_irrefl]⟩
  · exact .inl ⟨fun j hj => by rw [Nat.le_zero.mp hj, h], by simp⟩

theorem FVal.ltSigned_nan (a b : FVal) (h : b.isNan = true) : a.ltSigned b = false := by
  rw [← Bool.not_eq_true]
  intro hlt
  rw [(FVal.not_nan_of_ltSigned hlt).2] at h
  cases h

theorem IsFpMax.succ {g : Nat → Nat} {n m : Nat} (h : IsFpMax g n m) : IsFpMax g (n + 1) (fp32.max m (g (n + 1))) := by
  rw [FFmt.max_eq]
  cases hn : (fp32.decode (g (n + 1))).isNan with
  | true =>
    rcases h with ⟨hall, rfl⟩ | ⟨i, hi, hnan, rfl, hmax⟩
    · refine .inl ⟨fun j hj => ?_, by simp [decode_fp32_nan, FVal.isNan]⟩
      rcases Nat.le_succ_iff.mp hj with hj | rfl
      · exact hall j hj
      · exact hn
    · refine .inr ⟨i, Nat.le_succ_of_le hi, hnan, by simp [hnan], fun j hj => ?_⟩
      rcases Nat.le_succ_iff.mp hj with hj | rfl
      · exact hmax j hj
      · exact FVal.ltSigned_nan _ _ hn
  | false =>
    rcases h with ⟨hall, rfl⟩ | ⟨i, hi, hnan, rfl, hmax⟩
    · refine .inr ⟨n + 1, le_rfl, hn, by simp [decode_fp32_nan, FVal.isNan], fun j hj => ?_⟩
      rcases Nat.le_succ_iff.mp hj with hj | rfl
      · exact FVal.ltSigned_nan _ _ (hall j hj)
      · exact FVal.ltSigned_irrefl _
    · cases hlt : (fp32.decode (g i)).ltSigned (fp32.decode (g (n + 1))) with
      | true =>
        refine .inr ⟨n + 1, le_rfl, hn, by simp [hnan], fun j hj => ?_⟩
        rcases Nat.le_succ_iff.mp hj with hj | rfl
        · rw [← Bool.not_eq_true]
          intro h
          have hij := FVal.ltSigned_trans hlt h
          rw [hmax j hj] at hij
          cases hij
        · exact FVal.ltSigned_irrefl _
      | false =>
        refine .inr ⟨i, Nat.le_succ_of_le hi, hnan, by simp [hnan], fun j hj => ?_⟩
        rcases Nat.le_succ_iff.mp hj with hj | rfl
        · exact hmax j hj
        · exact hlt

theorem fpMax_foldl (g : Nat → Nat) (n : Nat) : IsFpMax g n
    (((List.range n).map (fun j => g (j + 1))).foldl (fun a b => fp32.max a b) (fp32.max (g 0) (g 0))) := by
  induction n with
  | zero => exact isFpMax_zero g
  | succ n ih =>
    rw [List.range_succ, List.map_append, List.foldl_append]
    exact ih.succ

/-! ### Sums of FP32 lanes (R141) -/

/-- A pairwise tree of `m` levels over the values of `g`: the sum that stands at place i of its top level. -/
def treeAt (f : Nat → Nat → Nat) (g : Nat → Nat) : Nat → Nat → Nat
  | 0, i => g i
  | m + 1, i => f (treeAt f g m (2 * i)) (treeAt f g m (2 * i + 1))

theorem pairSums_range (f : Nat → Nat → Nat) (g : Nat → Nat) (n : Nat) :
    pairSums f ((List.range (2 * n)).map g) = (List.range n).map (fun i => f (g (2 * i)) (g (2 * i + 1))) := by
  induction n generalizing g with
  | zero => rfl
  | succ n ih =>
    have hrest := ih (fun i => g (i + 2))
    rw [show 2 * (n + 1) = 2 * n + 1 + 1 by ring, List.range_succ_eq_map, List.range_succ_eq_map,
      List.range_succ_eq_map]
    simp only [List.map_cons, List.map_map, pairSums]
    refine congrArg₂ List.cons rfl (hrest.trans ?_)
    exact List.map_congr_left fun i _ => by simp [Nat.mul_add]

theorem treeAt_succ (f : Nat → Nat → Nat) (g : Nat → Nat) (m i : Nat) :
    treeAt f (fun i => f (g (2 * i)) (g (2 * i + 1))) m i = treeAt f g (m + 1) i := by
  induction m generalizing i with
  | zero => rfl
  | succ m ih =>
    rw [treeAt, ih, ih]
    rfl

theorem treeSum_range (f : Nat → Nat → Nat) (g : Nat → Nat) (m : Nat) :
    treeSum f m ((List.range (2 ^ m)).map g) = treeAt f g m 0 := by
  induction m generalizing g with
  | zero => rfl
  | succ m ih => rw [treeSum, Nat.pow_succ, Nat.mul_comm, pairSums_range, ih, treeAt_succ]

/-- Running values: the first, then each of `f` of the next value of `g` and the last one. -/
def runAt (f : Nat → Nat → Nat) (g : Nat → Nat) (first : Nat) : Nat → Nat
  | 0 => first
  | i + 1 => f (g (i + 1)) (runAt f g first i)

/-! ### The payloads (R141) -/

theorem bitsOf_eq_emod (w : Nat) (i : Int) : bitsOf w i = (i % (2 ^ w : Int)).toNat := by
  rw [bitsOf, Nat.cast_pow, Nat.cast_ofNat]

theorem ofLanes_pair (v u : Nat) : ofLanes 32 [v, u] = BitVec.ofNat 1024 (v % 2 ^ 32 + 2 ^ 32 * (u % 2 ^ 32)) := by
  simp [ofLanes, joinLanes]

theorem lmaxPayload_eq (k : Nat) (l : Payload) :
    let g := laneOf (constWidth k) l
    let rest := (List.range (1024 / constWidth k - 1)).map (fun i => g (i + 1))
    lmaxPayload k l = BitVec.ofNat 1024 ((if bitAt k 2 then rest.foldl (fun a b => fp32.max a b) (fp32.max (g 0) (g 0))
      else rest.foldl (laneMax (constWidth k)) (g 0)) % 2 ^ constWidth k) := by
  rw [lmaxPayload, lanes_cons]
  exact ofLanes_singleton _ _

theorem lmaxPayload_int {k : Nat} (hk : bitAt k 2 = false) (l : Payload) : ∃ i < 1024 / constWidth k,
    (∀ j < 1024 / constWidth k,
      sintOf (constWidth k) (laneOf (constWidth k) l j) ≤ sintOf (constWidth k) (laneOf (constWidth k) l i)) ∧
    lmaxPayload k l = BitVec.ofNat 1024 (laneOf (constWidth k) l i) := by
  have hpos := laneCount_pos k
  obtain ⟨i, hi, hfold, hmax⟩ := laneMax_foldl (constWidth k) (laneOf (constWidth k) l) (1024 / constWidth k - 1)
  refine ⟨i, by omega, fun j hj => hmax j (by omega), ?_⟩
  rw [lmaxPayload_eq, hk, if_neg Bool.false_ne_true, hfold, Nat.mod_eq_of_lt (laneOf_lt ..)]

theorem lsumPayload_fp {k : Nat} (hk : bitAt k 2 = true) (hw : constWidth k = 32) (l : Payload) :
    lsumPayload k l = BitVec.ofNat 1024 (treeAt fp32.add (laneOf 32 l) 5 0 % 2 ^ 32) := by
  rw [lsumPayload, ofLanes_singleton, if_pos hk, hw, lanes_eq]
  exact congrArg (fun v => BitVec.ofNat 1024 (v % 2 ^ 32)) (treeSum_range fp32.add (laneOf 32 l) 5)

theorem lscanPayload_fp {k : Nat} (hk : bitAt k 2 = true) (hw : constWidth k = 32) (l : Payload) {j : Nat} (hj : j < 32) :
    let first := if (fp32.decode (laneOf 32 l 0)).isNan then fp32.nan else laneOf 32 l 0
    laneOf 32 (lscanPayload k l) j = runAt fp32.add (laneOf 32 l) first j % 2 ^ 32 := by
  intro first
  have hscan := scanFrom_getD (f := fp32.add) (S := runAt fp32.add (laneOf 32 l) first) (g := laneOf 32 l)
    (fun _ => rfl) 31 0 (Nat.le_of_lt_succ hj)
  simp only [Nat.zero_add] at hscan
  rw [lscanPayload, lanes_cons, hw, ← hscan, ← ofLanes_lane _ (show j < 1024 / 32 from hj)]
  simp only [hk, if_true]
  rfl

theorem lmaxPayload_fp {k : Nat} (hk : bitAt k 2 = true) (hw : constWidth k = 32) (l : Payload) :
    ∃ m, IsFpMax (laneOf 32 l) 31 m ∧ lmaxPayload k l = BitVec.ofNat 1024 (m % 2 ^ 32) := by
  refine ⟨_, fpMax_foldl (laneOf 32 l) 31, ?_⟩
  rw [lmaxPayload_eq, if_pos hk, hw]

/-- LARGMAX's winner with its index, or what it puts out where no lane is valid. -/
theorem largmaxPayload_eq (k : Nat) (l : Payload) :
    let w := constWidth k
    let fp := bitAt k 2
    let better (x y : Nat) : Bool := if fp then (fp32.decode y).lt (fp32.decode x) else decide (sintOf w y < sintOf w x)
    let valid (x : Nat) : Bool := !fp || !(fp32.decode x).isNan
    largmaxPayload k l = (argBest better valid (laneOf w l) (1024 / w)).elim (ofLanes 32 [0xFFFFFFFF, fp32.nan])
      (fun b => ofLanes 32 [b.1 + bitSpan k 16 16, if fp then b.2 else bitsOf 32 (sintOf w b.2)]) := by
  intro w fp better valid
  rw [largmaxPayload, lanes_eq]
  change (match argBest better valid (laneOf w l) (1024 / w) with
    | some (i, v) => _
    | none => _) = _
  cases argBest better valid (laneOf w l) (1024 / w) <;> rfl

/-- The index that LARGMAX puts out fits its lane. -/
theorem largmax_index {k n i : Nat} (hk : k < 2 ^ 32) (hn : n ≤ 128) (hi : i < n) :
    (i + bitSpan k 16 16) % 2 ^ 32 = i + k / 2 ^ 16 := by
  rw [bitSpan]
  omega

theorem largmaxPayload_int {k : Nat} (hk : k < 2 ^ 32) (hint : bitAt k 2 = false) (l : Payload) :
    let w := constWidth k
    ∃ i, IsFirstMax (fun j => sintOf w (laneOf w l j)) (fun _ => true) (1024 / w) i ∧ largmaxPayload k l =
      BitVec.ofNat 1024 (i + k / 2 ^ 16 + 2 ^ 32 * bitsOf 32 (sintOf w (laneOf w l i))) := by
  intro w
  have hcount : 1024 / w ≤ 128 := by
    rcases constWidth_cases k with h | h | h <;> simp [w, h]
  have hvalue : ∀ i : Int, bitsOf 32 i % 2 ^ 32 = bitsOf 32 i := fun i => by
    rw [bitsOf_eq_ofInt]
    exact Nat.mod_eq_of_lt (BitVec.isLt _)
  rw [largmaxPayload_eq]
  simp only [hint, Bool.not_false, Bool.true_or, if_neg Bool.false_ne_true]
  rcases argBest_cases (g := laneOf w l) (better := fun x y => decide (sintOf w y < sintOf w x)) (valid := fun _ => true)
    (key := sintOf w) (by simp) (1024 / w) with ⟨-, hnone⟩ | ⟨i, hbest, hmax⟩
  · cases hnone 0 (laneCount_pos k)
  · refine ⟨i, hmax, ?_⟩
    rw [hbest, Option.elim_some, ofLanes_pair, largmax_index hk hcount hmax.1, hvalue]

theorem largmaxPayload_fp {k : Nat} (hk : k < 2 ^ 32) (hfp : bitAt k 2 = true) (hw : constWidth k = 32) (l : Payload) :
    let v (j : Nat) : FVal := fp32.decode (laneOf 32 l j)
    ((∀ j < 32, (v j).isNan = true) ∧ largmaxPayload k l = BitVec.ofNat 1024 (0xFFFFFFFF + 2 ^ 32 * fp32.nan)) ∨
      ∃ i, IsFirstMax (fun j => (v j).rank) (fun j => !(v j).isNan) 32 i ∧
        largmaxPayload k l = BitVec.ofNat 1024 (i + k / 2 ^ 16 + 2 ^ 32 * laneOf 32 l i) := by
  intro v
  rw [largmaxPayload_eq, hw]
  simp only [hfp, Bool.not_true, Bool.false_or, if_true]
  rcases argBest_cases (g := laneOf 32 l) (better := fun x y => (fp32.decode y).lt (fp32.decode x))
    (valid := fun x => !(fp32.decode x).isNan) (key := fun x => (fp32.decode x).rank)
    (fun x y hx hy => FVal.lt_iff (by simpa using hy) (by simpa using hx)) 32 with ⟨hbest, hnone⟩ | ⟨i, hbest, hmax⟩
  · refine .inl ⟨fun j hj => by simpa using hnone j hj, ?_⟩
    rw [show 1024 / 32 = 32 from rfl, hbest]
    exact ofLanes_pair _ _
  · refine .inr ⟨i, hmax, ?_⟩
    rw [show 1024 / 32 = 32 from rfl, hbest, Option.elim_some, ofLanes_pair,
      largmax_index (n := 32) hk (by decide) hmax.1, Nat.mod_eq_of_lt (laneOf_lt ..)]

end Sys2Proof.Machine

open Sys2Proof Sys2Proof.Machine in
/-- Settles O52: each word is one of the model's shared forms with the payload of its opcode, and each payload is read
lane by lane. -/
theorem conversionAndLaneFirings : Obligations.ConversionAndLaneFirings := by
  refine ⟨?firings, ?payloads⟩
  case firings =>
    intro s im r x h tx ty k l tag i tok hi hfires
    have hmap : ∃ make : Nat → Taken → Token, exec i s = fabMap i tx ty make s ∧ make k x = tok := by
      simp only [List.mem_cons, Prod.mk.injEq, List.not_mem_nil, or_false] at hi
      obtain ⟨rfl, rfl⟩ | ⟨rfl, rfl⟩ | ⟨rfl, rfl⟩ | ⟨rfl, rfl⟩ | ⟨rfl, rfl⟩ | ⟨rfl, rfl⟩ | ⟨rfl, rfl⟩ | ⟨rfl, rfl⟩ |
        ⟨rfl, rfl⟩ | ⟨rfl, rfl⟩ | ⟨rfl, rfl⟩ | ⟨rfl, rfl⟩ | ⟨rfl, rfl⟩ | ⟨rfl, rfl⟩ | ⟨rfl, rfl⟩ := hi
      · exact ⟨_, exec_cvt tx ty s, by cases cvtPayload k l <;> rfl⟩
      · exact ⟨_, exec_b3dec tx ty s, by rcases b3decPayload k l with ⟨p, b⟩; cases b <;> rfl⟩
      · exact ⟨_, exec_bperm tx ty s, rfl⟩
      · exact ⟨_, exec_nibx h tx ty s, rfl⟩
      · exact ⟨_, exec_pack tx ty s, rfl⟩
      · exact ⟨_, exec_unpk tx ty s, rfl⟩
      · exact ⟨_, exec_masksel tx ty s, rfl⟩
      · exact ⟨_, exec_lsum tx ty s, rfl⟩
      · exact ⟨_, exec_lmax tx ty s, rfl⟩
      · exact ⟨_, exec_largmax tx ty s, rfl⟩
      · exact ⟨_, exec_lbcast tx ty s, rfl⟩
      · exact ⟨_, exec_lrot tx ty s, rfl⟩
      · exact ⟨_, exec_lscan tx ty s, rfl⟩
      · exact ⟨_, exec_onehot tx ty s, rfl⟩
      · exact ⟨_, exec_lextr tx ty s, rfl⟩
    obtain ⟨make, hexec, rfl⟩ := hmap
    exact ⟨fun e he => fabMap_firesWith_of_error hexec he hfires,
      fun hok => fabMap_firesWith_of_clean hexec hok hfires⟩
  case payloads =>
    intro l q k hk w n at0
    have hw : w = constWidth k := (constWidth_eq k).symm
    have hat : at0 = laneOf := by
      funext w p j
      exact (laneOf_eq w p j).symm
    have hn : n = 1024 / w := rfl
    clear_value at0 n w
    subst hn hw hat
    have hint : k / 4 % 2 = 0 → bitAt k 2 = false := fun h => by simp [bitAt, h]
    refine ⟨fun j hj => bpermPayload_lane l q hj, fun j hj => ⟨nibxPayload_lane false l hj, nibxPayload_lane true l hj⟩,
      fun j hj => maskselPayload_lane l q hj, fun j hj => lbcastPayload_lane k l hj, fun j hj => lrotPayload_lane k l hj,
      fun h => ⟨lsumPayload_int (hint h) l, fun j hj => lscanPayload_int (hint h) l hj⟩,
      fun j hj => onehotPayload_lane hk l hj, lextrPayload_eq k l q, ?cvt, ?b3dec, ?pack, ?unpk, ?greatest, ?fp⟩
    case cvt =>
      intro src dst part sb db ns nd cvt
      refine ⟨fun h => cvtPayload_none l h, fun hs hd => ⟨_, cvtPayload_some l hs hd, fun hle i hi => ?_,
        ?_⟩⟩
      · rw [if_pos hle, ofLanes_map_lane _ hi hi]
        rfl
      · intro hlt first i hi
        rw [if_neg (Nat.not_le.mpr hlt), ofLanes_lane _ hi, replicate_append_getD, apply_ite (fun v => v % 2 ^ db),
          Nat.zero_mod]
        rfl
    case b3dec =>
      intro wide count dw byte digit
      exact ⟨fun m hm => b3decPayload_lane k l rfl rfl hm, b3decPayload_bad k l rfl⟩
    case pack =>
      intro hsize hmode h narrow j hj
      have hnarrow : narrow = packLane k (constWidth k) := by
        funext x
        unfold packLane satSigned
        rw [bitsOf_eq_emod, satUnsigned_eq]
      rw [hnarrow]
      exact packPayload_lane hsize l q hj
    case unpk =>
      intro hsize sw dw part j hj x
      rw [← bitsOf_eq_emod]
      exact unpkPayload_lane k l rfl rfl hj
    case greatest =>
      intro h
      obtain ⟨i, ⟨hi, -, hle, hlt⟩, hpayload⟩ := largmaxPayload_int hk (hint h) l
      refine ⟨lmaxPayload_int (hint h) l, i, hi, fun j hj => hle j hj rfl, fun j hj => hlt j hj rfl, ?_⟩
      rw [hpayload, bitsOf_eq_emod]
    case fp =>
      intro h v plus
      have hfp : bitAt k 2 = true := by
        rw [bitAt_iff]
        omega
      have hw : constWidth k = 32 := by rw [constWidth_eq, if_pos (by omega)]
      obtain ⟨m, hmax, hlmax⟩ := lmaxPayload_fp hfp hw l
      have hlargmax := largmaxPayload_fp hk hfp hw l
      refine ⟨fun hall => ⟨?_, ?_⟩, fun ⟨j, hj, hsome⟩ => ⟨?_, ?_⟩, ⟨treeAt fp32.add (laneOf 32 l), fun _ => rfl,
        fun _ _ => rfl, lsumPayload_fp hfp hw l⟩, ⟨runAt fp32.add (laneOf 32 l) _, rfl, fun _ => rfl,
        fun i hi => lscanPayload_fp hfp hw l hi⟩⟩
      · rcases hmax with ⟨-, rfl⟩ | ⟨i, hi, hnan, -⟩
        · exact hlmax
        · rw [hall i (Nat.lt_succ_of_le hi)] at hnan
          cases hnan
      · rcases hlargmax with ⟨-, hpayload⟩ | ⟨i, ⟨hi, hvalid, -⟩, -⟩
        · exact hpayload
        · exact absurd (hall i hi) (by simpa [v] using hvalid)
      · rcases hmax with ⟨hall, -⟩ | ⟨i, hi, hnan, rfl, hle⟩
        · rw [hall j (Nat.le_of_lt_succ hj)] at hsome
          cases hsome
        · rw [Nat.mod_eq_of_lt (laneOf_lt ..)] at hlmax
          exact ⟨i, Nat.lt_succ_of_le hi, hnan, fun j hj => hle j (Nat.le_of_lt_succ hj), hlmax⟩
      · rcases hlargmax with ⟨hall, -⟩ | ⟨i, ⟨hi, hvalid, hle, hlt⟩, hpayload⟩
        · rw [hall j hj] at hsome
          cases hsome
        · have hi' : (v i).isNan = false := by simpa using hvalid
          refine ⟨i, hi, hi', fun j hj => ?_, fun j hj hjn => ?_, hpayload⟩
          · rw [← Bool.not_eq_true]
            intro h
            obtain ⟨-, hjn⟩ := FVal.not_nan_of_lt h
            exact not_lt.mpr (hle j hj (by simpa using hjn)) ((FVal.lt_iff hi' hjn).mp h)
          · exact (FVal.lt_iff hjn hi').mpr (hlt j hj (by simpa using hjn))
end

section
/-!
SUPPORT. One memory node's state after each operation that a step of a memory node is made of (R171 to R174), and what
translation and a write leave of it.
-/

namespace Sys2Proof.Machine

/-! ### The state of one node -/

@[simp] theorem Fabric.mnAt_setMn (f : Fabric) (n : Nat) (m : MnState) : (f.setMn n m).mnAt n = m := by
  simp [Fabric.mnAt, Fabric.setMn]

@[simp] theorem State.mapMn_at (s : State) (n : Nat) (g : MnState → MnState) :
    (s.mapMn n g).core.set.fab.mnAt n = g (s.core.set.fab.mnAt n) :=
  Fabric.mnAt_setMn ..

@[simp] theorem State.mapMn_flights (s : State) (n : Nat) (g : MnState → MnState) :
    (s.mapMn n g).core.set.fab.flights = s.core.set.fab.flights := rfl

@[simp] theorem State.owe_dones (s : State) (n : Nat) (p : MnParams) (k : Nat) (t : Token) (va : Option Nat)
    (writes : List Nat) : ((s.owe n p k t va writes).core.set.fab.mnAt n).dones =
      (s.core.set.fab.mnAt n).dones ++ [⟨k, t, p.done, va, writes⟩] := by
  simp [State.owe]

@[simp] theorem State.owe_net (s : State) (n : Nat) (p : MnParams) (k : Nat) (t : Token) (va : Option Nat)
    (writes : List Nat) : (s.owe n p k t va writes).net = s.net := rfl

@[simp] theorem State.consumeMn_issue_dones (s : State) (n : Nat) (p : MnParams) (t : Token) (d : Option Token) :
    ((s.consumeMn n p (.issue t d)).core.set.fab.mnAt n).dones = (s.core.set.fab.mnAt n).dones := by
  have hgone : ((s.consumeMn n p (.issue t d)).core.set.fab.mnAt n) =
      if t.isError then ((s.core.set.fab.mnAt n).advance p t).tokenLeft true t.k
      else (s.core.set.fab.mnAt n).advance p t := Fabric.mnAt_setMn ..
  rw [hgone]
  split <;> rfl

theorem State.consumeMn_stash_reorder (s : State) (n : Nat) (p : MnParams) (x : MnStash) :
    ((s.consumeMn n p (.stash x)).core.set.fab.mnAt n).reorder = (s.core.set.fab.mnAt n).reorder ++ [x] :=
  congrArg MnState.reorder (Fabric.mnAt_setMn ..)

/-! ### A token leaves a node -/

@[simp] theorem State.errToken_fab (s : State) (r : LogRec) : (s.errToken r).core.set.fab = s.core.set.fab := by
  unfold State.errToken
  dsimp only
  split
  · split
    · rw [State.trace_set, State.log_core]
      rfl
    · rw [State.log_core]
      rfl
  · rw [State.log_core]
    rfl

@[simp] theorem State.nodeSend_mnAt (s : State) (id n : Nat) (from_ : Place) (g : BitVec 32) (tgt : Target)
    (t : Token) : (s.nodeSend id from_ g tgt t).core.set.fab.mnAt n = s.core.set.fab.mnAt n := by
  unfold State.nodeSend
  split
  · split
    · rw [State.nodeError, State.errToken_fab]
    · rfl
  · next htgt => simp [State.mapFab, State.mapSet, Fabric.mnAt, Fabric.send, Fabric.move, htgt]

theorem State.nodeSend_sends (s : State) (id : Nat) (from_ : Place) (g : BitVec 32) {tgt : Target} (t : Token)
    (htgt : tgt ≠ noTarget) : (s.nodeSend id from_ g tgt t).sends tgt t := by
  rw [State.nodeSend, if_neg htgt]
  exact Fabric.send_sends _ _ _ _ t htgt

/-! ### Translation and writes leave the completions a node owes -/

/-- A range translated piece by piece keeps what the translation of a piece keeps. -/
theorem State.translateAll_keep {α : Type} (g : State → α) {tr : Translator} (htr : ∀ s va, g (tr s va).1 = g s)
    (l : List (Nat × Nat)) (s : State) : g (State.translateAll tr l s).1 = g s := by
  induction l generalizing s with
  | nil => rfl
  | cons piece rest ih =>
    have hpiece := htr s piece.1
    unfold State.translateAll
    split
    · rfl
    · split
      · next u e heq => simpa [heq] using hpiece
      · next u pa heq =>
        have hrest := ih u
        rw [heq] at hpiece
        split <;> simp_all

theorem State.resolveBy_keep {α : Type} (g : State → α) {tr : Translator} (htr : ∀ s va, g (tr s va).1 = g s)
    (s : State) (va len : Nat) : g (s.resolveBy tr va len).1 = g s := by
  have hall := State.translateAll_keep g htr (piecesOf va len) s
  unfold State.resolveBy
  split
  · split <;> rfl
  · split
    · rfl
    · split <;> simp_all

theorem State.translateMn_dones (s : State) (n : Nat) (kept : Bool) (kind : AccKind) (va : Nat) :
    ((s.translateMn n kept kind va).1.core.set.fab.mnAt n).dones = (s.core.set.fab.mnAt n).dones := by
  simp [State.translateMn]

theorem State.resolveMn_dones {s u : State} {n : Nat} {kind : AccKind} {va len : Nat}
    {r : Except (XFault × Nat) (Bool × List Span)} (h : s.resolveMn n kind va len = (u, r)) :
    (u.core.set.fab.mnAt n).dones = (s.core.set.fab.mnAt n).dones := by
  have hkeep := State.resolveBy_keep (fun s => (s.core.set.fab.mnAt n).dones)
    (fun t va => t.translateMn_dones n (!s.invals.isEmpty) kind va) s va len
  rwa [← State.resolveMn, h] at hkeep

theorem CSet.acquire_fab (c : CSet) (lid : BitVec 32) (unit : Nat) : (c.acquire lid unit).fab = c.fab := by
  unfold CSet.acquire
  split <;> rfl

theorem State.testFlag_fab (s : State) (w : SigWait) : (s.testFlag w).core.set.fab = s.core.set.fab := by
  have hspent : (if w.pa = 2 ^ 52 then s.spent else s).core = s.core := by split <;> rfl
  dsimp only [State.testFlag]
  split
  · exact (CSet.acquire_fab ..).trans (congrArg (fun k => k.set.fab) hspent)
  · rw [hspent]

@[simp] theorem State.apply_fab (s : State) (pa : Nat) (bs : List Byte) :
    (s.apply pa bs).core.set.fab = s.core.set.fab :=
  State.testFlags_keep (fun s => s.core.set.fab) State.testFlag_fab _ _

theorem State.writeSpan_fab (s : State) (source : Source) (window : Bool) (sp : Span) (bs : List Byte) :
    (s.writeSpan source window sp bs).1.core.set.fab = s.core.set.fab := by
  unfold State.writeSpan
  split
  · exact s.apply_fab sp.pa bs
  · rw [State.inject_core]
    rfl

theorem State.writeSpans_fab (source : Source) (window : Bool) (l : List Span) (bs : List Byte) (s : State) :
    (State.writeSpans source window l bs s).1.core.set.fab = s.core.set.fab := by
  induction l generalizing bs s with
  | nil => rfl
  | cons sp rest ih =>
    exact (ih (bs.drop sp.n) _).trans (s.writeSpan_fab source window sp (bs.take sp.n))

theorem State.write_fab {s w : State} {source : Source} {window : Bool} {spans : List Span} {bs : List Byte}
    {ids : List Nat} (h : s.write source window spans bs = (w, ids)) : w.core.set.fab = s.core.set.fab := by
  have hkeep := State.writeSpans_fab source window (joinSpans spans) bs s
  rwa [← State.write, h] at hkeep

end Sys2Proof.Machine
end

section
/-!
SUPPORT. What the parts of a memory node's step leave of the node: a token of a pass, a request that begins a pass, and
a store of 128 bytes (R119, R171 to R174, R179, R225).
-/

namespace Sys2Proof.Machine

/-! ### A token of a pass, not its last (R171, R179) -/

theorem State.sendPass_none_pass (s : State) (n : Nat) (p : MnParams) (a : MnPass) (t : Token) :
    ((s.sendPass n p a none t).core.set.fab.mnAt n).pass = some { a with idx := a.idx + 1 } := by
  simp [State.sendPass]

theorem State.sendPass_none_sends (s : State) (n : Nat) {p : MnParams} (a : MnPass) (t : Token)
    (hdat : p.dat ≠ noTarget) : (s.sendPass n p a none t).sends p.dat t :=
  State.nodeSend_sends s _ _ _ t hdat

section
variable {s u : State} {n : Nat} {p : MnParams} {a : MnPass} (hidx : a.idx + 1 < a.total)
include hidx

theorem State.emitPass_of_ok {pl : Payload} (hread : s.readPass n p a = (u, .ok pl)) :
    s.emitPass n p a = u.sendPass n p a none (Token.plain a.stitch pl false) := by
  simp [State.emitPass, Nat.not_le.mpr hidx, hread]

theorem State.emitPass_of_data {c : BitVec 6} (hread : s.readPass n p a = (u, .error (.data c))) :
    s.emitPass n p a = u.sendPass n p a none (Token.error a.stitch c false) := by
  simp [State.emitPass, Nat.not_le.mpr hidx, hread]

theorem State.emitPass_of_fault {f : XFault} {va : Nat} (hread : s.readPass n p a = (u, .error (.fault f va))) :
    s.emitPass n p a = u.stopMn n f va false := by
  simp [State.emitPass, Nat.not_le.mpr hidx, hread]

end

/-! ### A request begins a pass (R171, R172, R225) -/

theorem State.beginPass_pass (s : State) (n : Nat) (p : MnParams) (c : MnPick) {a : MnPass} (h : a.total ≠ 0) :
    ((s.beginPass n p c a).core.set.fab.mnAt n).pass = some a := by
  simp [State.beginPass, h]

section
variable {s : State} {n : Nat} {p : MnParams} {c : MnPick} {t : Token} (hdata : t.isError = false)
include hdata

theorem State.issueLoad_aff (hmode : p.mode = 0)
    (hserves : (s.core.set.fab.mnAt n).refuses p t.k (p.stepAddr t.k 0) = false) :
    s.issueLoad n p c t = s.beginPass n p c ⟨t.k, 0, p.passLen, t.tag.last, t, 0, 0, p⟩ := by
  simp [State.issueLoad, hdata, hmode, hserves]

theorem State.issueLoad_idx (hmode : p.mode = 1) (hbound : lane32 t.payload 0 < p.bound) :
    s.issueLoad n p c t = s.beginPass n p c ⟨t.k, 0, 1, t.tag.last, t, 0, 0, p⟩ := by
  simp [State.issueLoad, hdata, hmode, Nat.not_le.mpr hbound]

theorem State.issueLoad_idx_beyond (hmode : p.mode = 1) (hbound : lane32 t.payload 0 ≥ p.bound) :
    s.issueLoad n p c t = s.beginPass n p c ⟨t.k, 0, 1, t.tag.last, t.failed 0x01, 0, 0, p⟩ := by
  simp [State.issueLoad, hdata, hmode, hbound, causeIdxbound]

theorem State.issueLoad_win (hmode : p.mode = 2) :
    s.issueLoad n p c t = s.beginPass n p c ⟨t.k, 0, p.oh * p.ow, t.tag.last, t, 0, 0, p⟩ := by
  simp [State.issueLoad, hdata, hmode]

theorem State.issuePagedLoad_block {u : State} {va size : Nat}
    (hblock : s.pagedBlock n p t.k (lane32 t.payload 0) = (u, .ok (va, size))) (hfits : p.overflows size = false) :
    s.issuePagedLoad n p c t = u.beginPass n p c ⟨t.k, 0, p.rpp, t.tag.last, t, va, size, p⟩ := by
  simp [State.issuePagedLoad, hdata, MnParams.position, hblock, hfits]

theorem State.issuePagedLoad_layout {u : State} {va size : Nat}
    (hblock : s.pagedBlock n p t.k (lane32 t.payload 0) = (u, .ok (va, size))) (hpast : p.overflows size = true) :
    s.issuePagedLoad n p c t =
      u.beginPass n p c ⟨t.k, 0, p.rpp, t.tag.last, t.failed p.layoutCause, 0, 0, p⟩ := by
  simp [State.issuePagedLoad, hdata, MnParams.position, hblock, hpast]

theorem State.issuePagedLoad_refused {u : State} {status : Nat}
    (hblock : s.pagedBlock n p t.k (lane32 t.payload 0) = (u, .error status)) :
    s.issuePagedLoad n p c t =
      (u.logRefused n t status).beginPass n p c ⟨t.k, 0, p.rpp, t.tag.last, t.failed 0x01, 0, 0, p⟩ := by
  simp [State.issuePagedLoad, hdata, MnParams.position, hblock, causeIdxbound]

end

/-! ### A store (R172, R174) -/

/-- A later state has the memory, the network and the owed completions of node n that another has. -/
structure State.SameStores (n : Nat) (s t : State) : Prop where
  mem : t.mem = s.mem
  net : t.net = s.net
  dones : (t.core.set.fab.mnAt n).dones = (s.core.set.fab.mnAt n).dones

theorem State.SameStores.refl (n : Nat) (s : State) : s.SameStores n s := ⟨rfl, rfl, rfl⟩

theorem State.SameStores.trans {n : Nat} {s t u : State} (h : s.SameStores n t) (h' : t.SameStores n u) :
    s.SameStores n u :=
  ⟨h'.mem.trans h.mem, h'.net.trans h.net, h'.dones.trans h.dones⟩

theorem State.stepStore_sameStores (s : State) (n k : Nat) (p : MnParams) : s.SameStores n (s.stepStore n k p) :=
  ⟨rfl, rfl, by simp [State.stepStore]⟩

/-- An AFF store performs its write at the step its stitch has reached, and goes a step on. -/
theorem State.issueStore_aff {s : State} {n : Nat} {p : MnParams} {c : MnPick} {x : Token} (hdata : x.isError = false)
    (hmode : p.mode = 0)
    (hserves : (s.core.set.fab.mnAt n).refuses p x.k (p.stepAddr x.k ((s.core.set.fab.mnAt n).stepOf x.k)) = false) :
    (s.performStore n p c x.k x.tag.last (p.stepAddr x.k ((s.core.set.fab.mnAt n).stepOf x.k)).toNat
      x.payload).SameStores n (s.issueStore n p c x none) := by
  simp only [State.issueStore, errorOf, hdata, hmode, hserves, lastOf, Option.map_none, Option.getD_none,
    Bool.or_false, Bool.false_eq_true, if_true, if_false]
  split
  · exact .refl n _
  · exact State.stepStore_sameStores ..

theorem State.issueStore_idx {s : State} {n : Nat} {p : MnParams} {c : MnPick} {x y : Token} (hdata : x.isError = false)
    (hy : y.isError = false) (hmode : p.mode = 1) (hbound : lane32 x.payload 0 < p.bound) :
    s.issueStore n p c x (some y) = s.performStore n p c x.k (x.tag.last || y.tag.last)
      (p.base.toNat + lane32 x.payload 0 * p.istr) y.payload := by
  simp [State.issueStore, errorOf, hdata, hy, hmode, Nat.not_le.mpr hbound, lastOf, MnParams.indexed]

section
variable {s u : State} {n va : Nat} {window : Bool} {spans : List Span}
  (hres : s.resolveMn n .write va 128 = (u, .ok (window, spans)))
include hres

/-- A store whose walk has not faulted writes its bytes and owes a completion that waits for them. -/
theorem State.performStore_of_write {w : State} {ids : List Nat} {p : MnParams} {c : MnPick} {k : Nat} {last : Bool}
    {pl : Payload} (herr : u.storeError spans = none)
    (hroom : window = false → s.retentionFull = false ∧ s.portWaits s.core.num (mnIngress n) = false)
    (hwrite : (u.consumeMn n p c).write (.node n) window spans (payloadBytes pl) = (w, ids)) :
    s.performStore n p c k last va pl = w.owe n p k (Token.order k last) (some va) ids := by
  have hgoes : (!window && (s.retentionFull || s.portWaits s.core.num (mnIngress n))) = false := by
    cases window with
    | true => rfl
    | false => simp [hroom rfl]
  simp [State.performStore, hres, herr, hgoes, hwrite]

/-- A store kept from being performed is reported, and owes a completion with the error. -/
theorem State.performStore_of_error {p : MnParams} {c : MnPick} {k : Nat} {last : Bool} {pl : Payload}
    {e : BitVec 6 × Span} (herr : u.storeError spans = some e) :
    s.performStore n p c k last va pl =
      (u.report u.part.num u.core.num e.2.pa e.2.n e.1).failStore n p c k last e.1 := by
  simp [State.performStore, hres, herr]

/-- The completions that a node owes once the tokens of a request are consumed and its write is made. -/
theorem State.issued_dones {w : State} {ids : List Nat} {source : Source} {p : MnParams} {x : Token} {d : Option Token}
    {bs : List Byte} (hwrite : (u.consumeMn n p (.issue x d)).write source window spans bs = (w, ids)) :
    (w.core.set.fab.mnAt n).dones = (s.core.set.fab.mnAt n).dones := by
  rw [State.write_fab hwrite, State.consumeMn_issue_dones, State.resolveMn_dones hres]

end

@[simp] theorem State.report_net (s : State) (p core pa n : Nat) (cause : BitVec 6) :
    (s.report p core pa n cause).net = s.net := by
  unfold State.report State.log
  dsimp only
  split <;> rfl

@[simp] theorem State.failStore_net (s : State) (n : Nat) (p : MnParams) (c : MnPick) (k : Nat) (last : Bool)
    (cause : BitVec 6) : (s.failStore n p c k last cause).net = s.net := rfl

theorem State.failStore_issue_dones (s : State) (n : Nat) (p : MnParams) (x : Token) (d : Option Token) (k : Nat)
    (last : Bool) (cause : BitVec 6) : ((s.failStore n p (.issue x d) k last cause).core.set.fab.mnAt n).dones =
      (s.core.set.fab.mnAt n).dones ++ [⟨k, Token.error k cause last, p.done, none, []⟩] := by
  simp [State.failStore]

end Sys2Proof.Machine
end

section
/-!
SUPPORT. What a memory node's event does (R119, R171 to R174, R225): the event of a node's mode takes the node's next
step, and of the node it moves nothing further than its tail (R181).
-/

namespace Sys2Proof.Machine

/-! ### The event of a node -/

/-- The event by which a node that acts under parameters q takes a step. -/
def mnEvent (n : Nat) (q : MnParams) : Instr := if q.mode = 3 then .pagedRequest n else .memoryNodeRequest n

/-- How a node that acts under parameters q begins a request. -/
def State.mnBegins (n : Nat) (q : MnParams) (s : State) (c : MnPick) (t : Token) (d : Option Token) : State :=
  if q.mode = 3 then (if q.store then s.issuePagedStore n q c t d else s.issuePagedLoad n q c t)
  else if q.store then s.issueStore n q c t d else s.issueLoad n q c t

/-- What a step of a node left stands in a later state, but for the node's tail. -/
structure State.SameButTail (n : Nat) (s t : State) : Prop where
  mem : t.mem = s.mem
  net : t.net = s.net
  flights : t.core.set.fab.flights = s.core.set.fab.flights
  node : ∃ l, t.core.set.fab.mnAt n = { s.core.set.fab.mnAt n with tail := l }

theorem State.SameButTail.refl (n : Nat) (s : State) : s.SameButTail n s := ⟨rfl, rfl, rfl, _, rfl⟩

theorem State.publish_sameButTail (s : State) (n : Nat) (p : MnParams) (P : Nat) :
    s.SameButTail n (s.publish n p P) := by
  unfold State.publish
  split
  · exact ⟨rfl, rfl, rfl, _, State.mapMn_at ..⟩
  · exact .refl n s

section
variable {n : Nat} {s t : State} (h : s.SameButTail n t)
include h

theorem State.SameButTail.pass : (t.core.set.fab.mnAt n).pass = (s.core.set.fab.mnAt n).pass := by
  obtain ⟨l, hl⟩ := h.node
  rw [hl]

theorem State.SameButTail.stop : (t.core.set.fab.mnAt n).stop = (s.core.set.fab.mnAt n).stop := by
  obtain ⟨l, hl⟩ := h.node
  rw [hl]

theorem State.SameButTail.reorder : (t.core.set.fab.mnAt n).reorder = (s.core.set.fab.mnAt n).reorder := by
  obtain ⟨l, hl⟩ := h.node
  rw [hl]

theorem State.SameButTail.dones : (t.core.set.fab.mnAt n).dones = (s.core.set.fab.mnAt n).dones := by
  obtain ⟨l, hl⟩ := h.node
  rw [hl]

theorem State.SameButTail.sameStores : s.SameStores n t := ⟨h.mem, h.net, h.dones⟩

theorem State.SameButTail.sends {g : Target} {tok : Token} (hs : s.sends g tok) : t.sends g tok := by
  unfold State.sends
  rwa [h.flights]

end

/-- A token of a pass, not its last, has left, and the pass has moved on. -/
theorem State.SameButTail.sent {n : Nat} {s t : State} {p : MnParams} {a : MnPass} {tok : Token}
    (h : (s.sendPass n p a none tok).SameButTail n t) : (p.dat ≠ noTarget → t.sends p.dat tok) ∧
      (t.core.set.fab.mnAt n).pass = some { a with idx := a.idx + 1 } :=
  ⟨fun hdat => h.sends (s.sendPass_none_sends n a tok hdat), h.pass.trans (s.sendPass_none_pass n p a tok)⟩

theorem State.liveMn_spec {s : State} {n : Nat} {im : Image} {p : MnParams} (h : s.liveMn n = some (im, p)) :
    s.core.fabricRuns s.cycle = true ∧ s.core.set.fab.running = some im ∧ im.mn n = some p := by
  unfold State.liveMn at h
  split at h
  · next hruns =>
    split at h
    · next im' hrun =>
      obtain ⟨p', hp, heq⟩ := Option.map_eq_some_iff.mp h
      cases heq
      exact ⟨(Bool.and_eq_true_iff.mp hruns).1, hrun, hp⟩
    · cases h
  · cases h

theorem MnState.next_take {m : MnState} {f : Fabric} {n : Nat} {p : MnParams} {c : MnPick} (hidle : m.pass = none)
    (howes : m.dones.length < Config.nodeOwes) (hpick : m.pickNext f n p = some c) :
    m.next f n p = some (.take c) := by
  simp [MnState.next, hidle, Nat.not_le.mpr howes, hpick]

section
variable {s : State} {n : Nat} {im : Image} {p : MnParams} (hlive : s.liveMn n = some (im, p))
include hlive

/-- The event of a live node takes its next step. -/
theorem exec_mnEvent {x : MnAct} (hnext : (s.core.set.fab.mnAt n).next s.core.set.fab n p = some x) :
    ∃ t, exec (mnEvent n (x.par p)) s = .next t ∧
      (s.stepMn im n (x.par p) x (State.mnBegins n (x.par p))).SameButTail n t := by
  by_cases hmode : (x.par p).mode = 3
  · have hb : State.mnBegins n (x.par p) = fun s c t d =>
        if (x.par p).store then s.issuePagedStore n (x.par p) c t d else s.issuePagedLoad n (x.par p) c t := by
      funext s c t d
      exact if_pos hmode
    refine ⟨_, ?_, .refl n _⟩
    rw [mnEvent, if_pos hmode, exec_pagedRequest, execPagedRequest, hb]
    simp only [hlive, hnext]
    exact when_next (decide_eq_true hmode)
  · have hb : State.mnBegins n (x.par p) = fun s c t d =>
        if (x.par p).store then s.issueStore n (x.par p) c t d else s.issueLoad n (x.par p) c t := by
      funext s c t d
      exact if_neg hmode
    refine ⟨_, ?_, State.publish_sameButTail _ n p im.P⟩
    rw [mnEvent, if_neg hmode, exec_memoryNodeRequest, execMemoryNodeRequest, hb]
    simp only [hlive, hnext]
    exact when_next (decide_eq_true hmode)

/-! ### The next token of a pass (R119, R171, R179) -/

section
variable {a : MnPass} (hpass : (s.core.set.fab.mnAt n).pass = some a) (hroom : s.core.set.fab.hasRoom a.par.dat = true)
  (hask : s.mayAsk n a = true)
include hpass hroom hask

/-- The event reads the next token of the pass under the pass's parameters, its read request counted. -/
theorem exec_mnEvent_emit :
    ∃ t, exec (mnEvent n a.par) s = .next t ∧
      ((if a.asks = true then s.spend s.part.num s.core.num (mnIngress n) 1 else s).emitPass n a.par a).SameButTail
        n t := by
  obtain ⟨t, ht, hsame⟩ := exec_mnEvent hlive (x := .emit a) (by simp [MnState.next, hpass])
  have hstep : s.stepMn im n a.par (.emit a) (State.mnBegins n a.par) = s.askPass n a.par a := by
    simp [State.stepMn, hroom, hask]
  have hasks : s.askPass n a.par a =
      (if a.asks = true then s.spend s.part.num s.core.num (mnIngress n) 1 else s).emitPass n a.par a := by
    unfold State.askPass
    cases a.asks <;> rfl
  exact ⟨t, ht, by rwa [← hasks, ← hstep]⟩

end

/-! ### The next token a node takes (R172 to R174, R225) -/

section
variable (hidle : (s.core.set.fab.mnAt n).pass = none) (howes : (s.core.set.fab.mnAt n).dones.length < Config.nodeOwes)
  (hruns : s.pausedMn im p = false)
include hidle howes hruns

theorem exec_mnEvent_stash {y : MnStash}
    (hpick : (s.core.set.fab.mnAt n).pickNext s.core.set.fab n p = some (.stash y)) :
    ∃ t, exec (mnEvent n p) s = .next t ∧
      (t.core.set.fab.mnAt n).reorder = (s.core.set.fab.mnAt n).reorder ++ [y] := by
  obtain ⟨t, ht, hsame⟩ := exec_mnEvent hlive (MnState.next_take hidle howes hpick)
  refine ⟨t, ht, hsame.reorder.trans ?_⟩
  simp [State.stepMn, MnAct.par, MnPick.par, hruns, State.consumeMn_stash_reorder]

section
variable {x : Token} {d : Option Token}
  (hpick : (s.core.set.fab.mnAt n).pickNext s.core.set.fab n p = some (.issue x d)) (hopen : s.sigHolds p = false)
include hpick hopen

theorem exec_mnEvent_issue : ∃ t, exec (mnEvent n p) s = .next t ∧
    (State.mnBegins n p s (.issue x d) x d).SameButTail n t := by
  obtain ⟨t, ht, hsame⟩ := exec_mnEvent hlive (MnState.next_take hidle howes hpick)
  refine ⟨t, ht, ?_⟩
  simpa [State.stepMn, MnAct.par, MnPick.par, hruns, hopen] using hsame

/-- A request that begins a pass with a token to send has the node serve it. -/
theorem exec_mnEvent_begins {u : State} {a : MnPass} (htotal : a.total ≠ 0)
    (hbegins : State.mnBegins n p s (.issue x d) x d = u.beginPass n p (.issue x d) a) :
    ∃ t, exec (mnEvent n p) s = .next t ∧ (t.core.set.fab.mnAt n).pass = some a := by
  obtain ⟨t, ht, hsame⟩ := exec_mnEvent_issue hlive hidle howes hruns hpick hopen
  refine ⟨t, ht, hsame.pass.trans ?_⟩
  rw [hbegins, u.beginPass_pass n p _ htotal]

end

end

end

/-- The completion that is ready leaves for its target. -/
theorem exec_memoryNodeCompletion_ready {s : State} {n : Nat} {im : Image} {p : MnParams} {d : MnDone}
    (hlive : s.liveMn n = some (im, p)) (hready : s.doneReady (s.core.set.fab.mnAt n).dones = some d)
    (hroom : s.core.set.fab.hasRoom d.tgt = true) :
    ∃ t, exec (.memoryNodeCompletion n) s = .next t ∧
      (t.core.set.fab.mnAt n).dones = (s.core.set.fab.mnAt n).dones.erase d ∧
      (d.tgt ≠ noTarget → t.sends d.tgt d.tok) := by
  obtain ⟨hruns, him, hnode⟩ := State.liveMn_spec hlive
  have hexec : exec (.memoryNodeCompletion n) s = .next (((s.mapMn n (fun m => { m with
      dones := m.dones.erase d })).nodeSend (mnId n) (.mn n 0) 0xFFFFFFFF d.tgt d.tok).publish n p im.P) := by
    simp only [exec_memoryNodeCompletion, execMemoryNodeCompletion, him, hnode, hready]
    exact when_next (by rw [hruns, hroom]; rfl)
  have hsame := State.publish_sameButTail ((s.mapMn n (fun m => { m with
    dones := m.dones.erase d })).nodeSend (mnId n) (.mn n 0) 0xFFFFFFFF d.tgt d.tok) n p im.P
  exact ⟨_, hexec, hsame.dones.trans (by rw [State.nodeSend_mnAt, State.mapMn_at]),
    fun htgt => hsame.sends (State.nodeSend_sends _ _ _ _ d.tok htgt)⟩

/-! ### Loads and stores that begin -/

section
variable {n : Nat} {p : MnParams} (s : State) (c : MnPick) (t : Token) (d : Option Token)

theorem State.mnBegins_load (hstore : p.store = false) (hmode : p.mode ≠ 3) :
    State.mnBegins n p s c t d = s.issueLoad n p c t := by
  simp [State.mnBegins, hstore, hmode]

theorem State.mnBegins_pagedLoad (hstore : p.store = false) (hmode : p.mode = 3) :
    State.mnBegins n p s c t d = s.issuePagedLoad n p c t := by
  simp [State.mnBegins, hstore, hmode]

theorem State.mnBegins_store (hstore : p.store = true) (hmode : p.mode ≠ 3) :
    State.mnBegins n p s c t d = s.issueStore n p c t d := by
  simp [State.mnBegins, hstore, hmode]

end

/-- An event that leaves what a store of 128 bytes leaves has written its bytes and owes a completion that waits for
them, or owes one that carries the error. -/
theorem State.SameStores.performed {s t : State} {i : Instr} {n : Nat} {p : MnParams} {x : Token} {d : Option Token}
    {k va : Nat} {last : Bool} {pl : Payload} (ht : exec i s = .next t)
    (h : (s.performStore n p (.issue x d) k last va pl).SameStores n t) {u : State} {window : Bool} {spans : List Span}
    (hres : s.resolveMn n .write va 128 = (u, .ok (window, spans))) :
    (∀ w ids, u.storeError spans = none →
      (window = false → s.retentionFull = false ∧ s.portWaits s.core.num (mnIngress n) = false) →
      (u.consumeMn n p (.issue x d)).write (.node n) window spans (payloadBytes pl) = (w, ids) →
      ∃ t, exec i s = .next t ∧ t.mem = w.mem ∧ t.net = w.net ∧ (t.core.set.fab.mnAt n).dones =
        (s.core.set.fab.mnAt n).dones ++ [⟨k, Token.order k last, p.done, some va, ids⟩]) ∧
    (∀ e, u.storeError spans = some e → ∃ t, exec i s = .next t ∧ t.net = u.net ∧
      (t.core.set.fab.mnAt n).dones = (s.core.set.fab.mnAt n).dones ++
        [⟨k, Token.error k e.1 last, p.done, none, []⟩]) := by
  constructor
  · intro w ids herr hroom hwrite
    rw [State.performStore_of_write hres herr hroom hwrite] at h
    exact ⟨t, ht, h.mem, h.net, h.dones.trans (by rw [State.owe_dones, State.issued_dones hres hwrite])⟩
  · intro e herr
    rw [State.performStore_of_error hres herr] at h
    refine ⟨t, ht, h.net.trans (by rw [State.failStore_net, State.report_net]), h.dones.trans ?_⟩
    rw [State.failStore_issue_dones, State.report_core, State.resolveMn_dones hres]

end Sys2Proof.Machine

open Sys2Proof Sys2Proof.Machine in
/-- Settles O32: the event of a node's mode takes the node's next step, and past it moves no more than the tail it
publishes; each clause is what that one step leaves of the node. -/
theorem memoryNodeEventsHappen : Obligations.MemoryNodeEventsHappen := by
  intro s n im p hlive
  refine ⟨fun a hpass hroom hask hidx => ?_, fun hidle howes hruns => ⟨?_, ?_⟩, ?_⟩
  · obtain ⟨t, ht, hsame⟩ := exec_mnEvent_emit hlive hpass hroom hask
    refine ⟨fun u pl hread => ?_, fun u c hread => ?_, fun u g va hread => ?_⟩
    · rw [State.emitPass_of_ok hidx hread] at hsame
      exact ⟨t, ht, hsame.sent⟩
    · rw [State.emitPass_of_data hidx hread] at hsame
      exact ⟨t, ht, hsame.sent⟩
    · rw [State.emitPass_of_fault hidx hread] at hsame
      exact ⟨t, ht, hsame.stop.trans (congrArg MnState.stop (State.mapMn_at ..))⟩
  · exact fun y hpick => exec_mnEvent_stash hlive hidle howes hruns hpick
  · intro x d hpick hdata hopen
    have herr : x.isError = false := Bool.eq_false_iff.mpr fun he => by simp [Token.isData_of_isError he] at hdata
    constructor
    · intro hstore
      have begins {u : State} {a : MnPass} := exec_mnEvent_begins hlive hidle howes hruns hpick hopen (u := u) (a := a)
      have plain (hmode : p.mode ≠ 3) := State.mnBegins_load (n := n) s (.issue x d) x d hstore hmode
      have paged (hmode : p.mode = 3) := State.mnBegins_pagedLoad (n := n) s (.issue x d) x d hstore hmode
      refine ⟨?aff, ?idx, ?beyond, ?win, fun hmode hrows =>
        ⟨fun u va size hblock => ⟨?block, ?layout⟩, ?refused⟩⟩
      case aff =>
        exact fun hmode hserves hlen =>
          begins hlen ((plain (by simp [hmode])).trans (State.issueLoad_aff herr hmode hserves))
      case idx =>
        exact fun hmode hbound =>
          begins Nat.one_ne_zero ((plain (by simp [hmode])).trans (State.issueLoad_idx herr hmode hbound))
      case beyond =>
        exact fun hmode hbound =>
          begins Nat.one_ne_zero ((plain (by simp [hmode])).trans (State.issueLoad_idx_beyond herr hmode hbound))
      case win =>
        exact fun hmode hlen => begins hlen ((plain (by simp [hmode])).trans (State.issueLoad_win herr hmode))
      case block =>
        exact fun hfits => begins hrows ((paged hmode).trans (State.issuePagedLoad_block herr hblock hfits))
      case layout =>
        exact fun hpast => begins hrows ((paged hmode).trans (State.issuePagedLoad_layout herr hblock hpast))
      case refused =>
        exact fun u status hblock => begins hrows ((paged hmode).trans (State.issuePagedLoad_refused herr hblock))
    · intro hstore
      obtain ⟨t, ht, hsame⟩ := exec_mnEvent_issue hlive hidle howes hruns hpick hopen
      have plain (hmode : p.mode ≠ 3) := State.mnBegins_store (n := n) s (.issue x d) x d hstore hmode
      constructor
      · intro hmode hd hserves u window spans hres
        subst hd
        rw [plain (by simp [hmode])] at hsame
        exact ((State.issueStore_aff herr hmode hserves).trans hsame.sameStores).performed ht hres
      · intro y hmode hd hy hbound u window spans hres
        subst hd
        rw [plain (by simp [hmode]), State.issueStore_idx herr hy hmode hbound] at hsame
        exact hsame.sameStores.performed ht hres
  · exact fun d hready hroom => exec_memoryNodeCompletion_ready hlive hready hroom
end

section
/-!
SUPPORT. The stream table, the change of an operation's wait, and a round boundary at which one pending change is due
(R145 to R147, R153).
-/

namespace Sys2Proof.Machine

/-! ### Entries of the stream table (R146) -/

theorem Rounds.at_put (r : Rounds) (k j : Nat) (e : Stream) :
    (r.put k e).at j = if j % 64 = k % 64 then e else r.at j := by
  by_cases h : j % 64 = k % 64
  · simp [Rounds.at, Rounds.put, h]
  · simp [Rounds.at, Rounds.put, h, Ne.symm h]

@[simp] theorem Rounds.at_put_self (r : Rounds) (k : Nat) (e : Stream) : (r.put k e).at k = e := by
  rw [Rounds.at_put, if_pos rfl]

theorem Rounds.at_put_of_ne (r : Rounds) {j k : Nat} (e : Stream) (hj : j < 64) (hk : k < 64) (h : j ≠ k) :
    (r.put k e).at j = r.at j := by
  rw [Rounds.at_put, if_neg (by omega)]

/-- An entry put back leaves the table as it is. -/
theorem Rounds.put_at_self (r : Rounds) (k : Nat) : r.put k (r.at k) = r := by
  simp [Rounds.at, Rounds.put]

@[simp] theorem State.putStream_stream_self (s : State) (k : Nat) (e : Stream) : (s.putStream k e).stream k = e :=
  Rounds.at_put_self _ k e

/-! ### Operations that wait for something else (R87) -/

theorem CSet.op_ne_none_iff {c : CSet} {id : Nat} : c.op id ≠ none ↔ id ∈ c.ops.map Op.id := by
  simp [CSet.op]

theorem State.waitsFor_of_rewait {t : State} {c : CSet} {id : Nat} {w : Wait} (ht : t.core.set.ops = (c.rewait id w).ops)
    (hid : id ∈ c.ops.map Op.id) : t.waitsFor id w := by
  rw [CSet.rewait_ops] at ht
  obtain ⟨o, ho, rfl⟩ := List.mem_map.mp hid
  refine ⟨⟨{ o with wait := w }, ?_, rfl, rfl⟩, fun x hx hxid => ?_⟩
  · rw [ht]
    exact List.mem_map.mpr ⟨o, ho, if_pos rfl⟩
  · rw [ht] at hx
    obtain ⟨y, -, rfl⟩ := List.mem_map.mp hx
    by_cases hy : y.id = o.id <;> simp_all

/-! ### One change at its boundary (R145, R147, R153) -/

/-- The stitch of a change takes an entry, and the operation that asked is ready with a value in the next cycle. -/
def State.turnsTo (s t : State) (p : PendStitch) (e : Stream) (v : Word) : Prop :=
  t.core.set.rounds = s.core.set.rounds.put p.k e ∧
    t.core.set.ops = (s.core.set.rewait p.id (.ready v .clear (s.cycle + 1))).ops

section
variable (s : State) (im : Image) {p : PendStitch}

theorem State.takeEffect_live (hop : p.op = .live) (hst : (s.stream p.k).status = .cast) :
    s.turnsTo (State.takeEffect im s p) p { s.stream p.k with status := .live } (BitVec.ofNat 64 p.k) := by
  simp only [State.takeEffect, hop, hst]
  exact ⟨rfl, rfl⟩

theorem State.takeEffect_slip (hop : p.op = .slip) (hst : (s.stream p.k).status = .live) :
    s.turnsTo (State.takeEffect im s p) p { s.stream p.k with status := .slip } 0 := by
  simp only [State.takeEffect, hop, hst]
  exact ⟨rfl, rfl⟩

theorem State.takeEffect_unslip (hop : p.op = .unslip) (hst : (s.stream p.k).status = .slip) :
    s.turnsTo (State.takeEffect im s p) p { s.stream p.k with status := .live } 0 := by
  simp only [State.takeEffect, hop, hst]
  exact ⟨rfl, rfl⟩

theorem State.takeEffect_lift {reset : Bool} (hop : p.op = .lift reset) (hst : (s.stream p.k).status = .drop) :
    s.turnsTo (State.takeEffect im s p) p
      { s.stream p.k with status := .live, cause := 0, steps := if reset then 0 else (s.stream p.k).steps } 0 := by
  simp only [State.takeEffect, hop, hst]
  exact ⟨rfl, rfl⟩

/-- A SLIP whose stitch is not LIVE changes no entry: BADSTATE (R153, log entry 112). -/
theorem State.takeEffect_slip_badstate (hop : p.op = .slip) (hst : (s.stream p.k).status ≠ .live) :
    s.turnsTo (State.takeEffect im s p) p (s.stream p.k) (statusWord 0x32 p.k) := by
  simp only [State.takeEffect, hop, if_neg hst]
  exact ⟨(Rounds.put_at_self _ p.k).symm, rfl⟩

/-- BINDOFF's stitch goes off and its drain begins; the operation waits on. -/
theorem State.takeEffect_bindoff {save : Option (Bool × List Span)} (hop : p.op = .bindoff save)
    (hst : (s.stream p.k).status.held = true) :
    (State.takeEffect im s p).core.set.rounds =
        { s.core.set.rounds.put p.k { s.stream p.k with status := .off } with
          drains := s.core.set.rounds.drains ++ [⟨p.k, p.id, save, s.cycle, (s.stream p.k).status⟩] } ∧
      (State.takeEffect im s p).core.set.ops = s.core.set.ops := by
  simp only [State.takeEffect, hop, hst]
  exact ⟨rfl, rfl⟩

end

/-! ### A boundary with one change -/

/-- The rounds as a boundary finds its only pending change, which is due. -/
def State.atTurn (s : State) (p : PendStitch) : State :=
  s.mapRounds (fun r => { r with pending := [], boundary := some s.cycle, turned := [(p, (r.at p.k).status)] })

/-- A change asked for in an earlier cycle is due; LIFT's too once P cycles have passed since the drop (R153). -/
theorem PendStitch.due_of_since {p : PendStitch} {r : Rounds} {P cycle : Nat} (hsince : p.since < cycle)
    (hdrop : (lookup p.k r.dropped).getD 0 + P ≤ cycle) : p.due r P cycle = true := by
  unfold PendStitch.due
  split <;> simp [hsince, hdrop]

section
variable {s : State} {im : Image} {p : PendStitch} (hpending : s.core.set.rounds.pending = [p])
  (hsave : s.core.set.rounds.save = none) (hsince : p.since < s.cycle)
  (hdrop : (lookup p.k s.core.set.rounds.dropped).getD 0 + im.P ≤ s.cycle)
include hpending hsave hsince hdrop

theorem State.boundary_set (hload : (State.takeEffect im (s.atTurn p) p).core.set.rounds.loading = none) :
    (s.boundary im).core.set = (State.takeEffect im (s.atTurn p) p).core.set := by
  have hdue : p.due s.core.set.rounds im.P s.cycle = true := PendStitch.due_of_since hsince hdrop
  have hlist : s.core.set.rounds.pending.filter (fun p => p.due s.core.set.rounds im.P s.cycle) = [p] := by
    simp [hpending, hdue]
  have hturn : s.mapRounds (fun r => { r with
      pending := r.pending.filter (fun p => !p.due r im.P s.cycle)
      boundary := some s.cycle
      turned := [p].map (fun p => (p, (r.at p.k).status))
      save := r.save.map (fun v =>
        if v.since.isNone && decide (v.asked < s.cycle) then { v with since := some s.cycle } else v) }) =
        s.atTurn p := by
    simp [State.atTurn, State.mapRounds, State.mapSet, hpending, hdue, hsave]
  unfold State.boundary
  dsimp only
  rw [hlist, hturn, List.foldl_cons, List.foldl_nil, hload]
  rfl

variable (hrun : s.core.set.fab.running = some im) (hbound : s.atRoundBoundary im = true)
  (hfrost : s.core.frost = .thawed) (hloading : s.core.set.rounds.loading = none)
include hrun hbound hfrost

theorem exec_roundBoundary_set (hload : (State.takeEffect im (s.atTurn p) p).core.set.rounds.loading = none) :
    ∃ t, exec .roundBoundary s = .next t ∧ t.core.set = (State.takeEffect im (s.atTurn p) p).core.set := by
  refine ⟨s.boundary im, ?_, State.boundary_set hpending hsave hsince hdrop hload⟩
  rw [exec_roundBoundary, execRoundBoundary, hrun]
  exact (when_next hbound).trans (by simp [hfrost])

include hloading

/-- Where the change gives its stitch an entry, the boundary leaves that entry and the change made. -/
theorem exec_roundBoundary_turns {e : Stream} {v : Word}
    (h : (s.atTurn p).turnsTo (State.takeEffect im (s.atTurn p) p) p e v) :
    ∃ t, exec .roundBoundary s = .next t ∧ t.stream p.k = e ∧ t.core.set.rounds.pending = [] ∧
      t.core.set.rounds.boundary = some s.cycle ∧
      (s.core.set.op p.id ≠ none → t.waitsFor p.id (.ready v .clear (s.cycle + 1))) ∧
      ∀ j < 64, p.k < 64 → j ≠ p.k → t.stream j = s.stream j := by
  obtain ⟨hrounds, hops⟩ := h
  obtain ⟨t, ht, hset⟩ := exec_roundBoundary_set hpending hsave hsince hdrop hrun hbound hfrost
    (by rw [hrounds]; exact hloading)
  rw [← hset] at hrounds hops
  refine ⟨t, ht, ?_, by rw [hrounds]; rfl, by rw [hrounds]; rfl, fun hid => ?_, fun j hj hk hne => ?_⟩
  · rw [State.stream, hrounds, Rounds.at_put_self]
  · exact State.waitsFor_of_rewait hops (CSet.op_ne_none_iff.mp hid)
  · rw [State.stream, hrounds, Rounds.at_put_of_ne _ e hj hk hne]
    rfl

end

end Sys2Proof.Machine

open Sys2Proof Sys2Proof.Machine in
/-- Settles O22: a boundary whose only pending change is due makes that change, which finds its stitch in the status it
changes, or leaves it as it is. -/
theorem roundBoundaryChangesStitches : Obligations.RoundBoundaryChangesStitches := by
  intro s im k id since op hrun hk hbound hfrost hpending hsave hload hsince hdrop st turns
  let p : PendStitch := ⟨k, op, id, since⟩
  have hturns {e : Stream} {v : Word} (h : (s.atTurn p).turnsTo (State.takeEffect im (s.atTurn p) p) p e v) :
      turns e.status v := by
    obtain ⟨t, ht, hstream, hdone, hat, hwaits, hrest⟩ :=
      exec_roundBoundary_turns hpending hsave hsince hdrop hrun hbound hfrost hload h
    exact ⟨t, ht, congrArg Stream.status hstream, hdone, hat, hwaits, fun j hj hne => hrest j hj hk hne⟩
  refine ⟨fun hop hst => hturns (State.takeEffect_live _ im hop hst),
    fun hop hst => hturns (State.takeEffect_slip _ im hop hst),
    fun hop hst => hturns (State.takeEffect_unslip _ im hop hst),
    fun r hop hst => hturns (State.takeEffect_lift _ im hop hst),
    fun hop hst => hturns (State.takeEffect_slip_badstate _ im hop hst), fun save hop hst => ?_⟩
  have hheld : st.held = true := by
    obtain h | h | h := hst <;> rw [h] <;> rfl
  obtain ⟨hrounds, hops⟩ := State.takeEffect_bindoff (s.atTurn p) im (p := p) hop hheld
  obtain ⟨t, ht, hset⟩ := exec_roundBoundary_set hpending hsave hsince hdrop hrun hbound hfrost
    (by rw [hrounds]; exact hload)
  rw [← hset] at hrounds hops
  refine ⟨t, ht, ?_, by rw [hrounds]; rfl, hops⟩
  rw [State.stream, hrounds]
  exact congrArg Stream.status (Rounds.at_put_self _ k _)
end

section
/-!
SUPPORT. The state image of a stitch (R155), what its writes leave of a core's set, and the ends of the two drains (R153,
R156).
-/

namespace Sys2Proof.Machine

/-! ### Fields at the head of bytes, and past it (R2) -/

theorem leNat_leBytes (n v : Nat) : leNat (leBytes n v) = v % 256 ^ n := by
  induction n generalizing v with
  | zero => simp [leBytes, leNat, Nat.mod_one]
  | succ n ih => rw [leBytes, leNat, ih, BitVec.toNat_ofNat, Nat.pow_succ' (m := 256), Nat.mod_mul]

theorem field_leBytes_append (n v : Nat) (rest : List Byte) : field (leBytes n v ++ rest) 0 n = v % 256 ^ n := by
  rw [field, List.drop_zero, List.take_left' (leBytes_length n v), leNat_leBytes]

theorem drop_leBytes_append {n off : Nat} (v : Nat) (rest : List Byte) (h : n ≤ off) :
    (leBytes n v ++ rest).drop off = rest.drop (off - n) := by
  rw [List.drop_append, leBytes_length, List.drop_eq_nil_of_le (by simpa using h), List.nil_append]

theorem field_beyond_leBytes {n off : Nat} (v : Nat) (rest : List Byte) (m : Nat) (h : n ≤ off) :
    field (leBytes n v ++ rest) off m = field rest (off - n) m := by
  rw [field, drop_leBytes_append v rest h, field]

/-! ### The state image (R155) -/

theorem Status.code_lt (st : Status) : st.code < 256 := by
  cases st <;> decide

/-- Bytes hold what R155 says of stitch k: its header, with a status and the fields of an entry, and a record for each
holder. -/
def Fabric.imagedBy (f : Fabric) (im : Image) (k : Nat) (st : Status) (e : Stream) (bytes : List Byte) : Prop :=
  field bytes 0 8 = im.gid.toNat ∧ field bytes 8 1 = im.P % 256 ∧ field bytes 9 1 = k % 256 ∧
    field bytes 0x0A 1 = st.code ∧ field bytes 0x0B 1 = (if st = .drop then e.cause.toNat else 0) ∧
    field bytes 0x0C 4 = e.steps.toNat ∧ field bytes 0x10 8 = e.user.toNat ∧ field bytes 0x18 8 = e.handle.toNat ∧
    bytes.drop 64 = im.holders.flatMap (im.record f k)

theorem Fabric.imagedBy_stateImage (f : Fabric) (im : Image) (k : Nat) (st : Status) (e : Stream) :
    f.imagedBy im k st e (f.stateImage im k st e) := by
  have hcause : (if st = .drop then e.cause.toNat else 0) < 256 := by
    have := e.cause.isLt
    split <;> omega
  simp only [Fabric.imagedBy, Fabric.stateImage, List.append_assoc]
  refine ⟨?gid, ?rounds, ?stitch, ?status, ?cause, ?steps, ?user, ?handle, ?records⟩
  case records => simp [drop_leBytes_append]
  all_goals simp only [field_beyond_leBytes, field_leBytes_append, Nat.reduceLeDiff, Nat.reduceSub, Nat.reducePow,
    Nat.le_refl]
  case gid => exact Nat.mod_eq_of_lt im.gid.isLt
  case status => exact Nat.mod_eq_of_lt st.code_lt
  case cause => exact Nat.mod_eq_of_lt hcause
  case steps => exact Nat.mod_eq_of_lt e.steps.isLt
  case user => exact Nat.mod_eq_of_lt e.user.isLt
  case handle => exact Nat.mod_eq_of_lt e.handle.isLt

/-! ### What a write leaves of the current core's set (R229, R238, R244) -/

@[simp] theorem CSet.rewait_opIds (c : CSet) (id : Nat) (w : Wait) :
    (c.rewait id w).ops.map Op.id = c.ops.map Op.id := by
  rw [CSet.rewait_ops, List.map_map]
  exact List.map_congr_left fun o _ => by simp only [Function.comp]; split <;> rfl

@[simp] theorem CSet.acquire_rounds (c : CSet) (lid : BitVec 32) (unit : Nat) :
    (c.acquire lid unit).rounds = c.rounds := by
  unfold CSet.acquire
  split <;> rfl

@[simp] theorem CSet.acquire_ops (c : CSet) (lid : BitVec 32) (unit : Nat) : (c.acquire lid unit).ops = c.ops := by
  unfold CSet.acquire
  split <;> rfl

/-- A flag's test leaves the set, or ends its SIGWAIT, whose unit acquires. -/
theorem State.testFlag_set (s : State) (w : SigWait) : (s.testFlag w).core.set = s.core.set ∨
    ∃ x, (s.testFlag w).core.set = (s.core.set.rewait w.op x).acquire w.lid w.unit := by
  have hspent : (if w.pa = 2 ^ 52 then s.spent else s).core = s.core := by split <;> rfl
  dsimp only [State.testFlag]
  split
  · refine .inr ⟨.ready (s.flagValue w.pa) .clear ((if w.pa = 2 ^ 52 then s.spent else s).cycle + 1), ?_⟩
    rw [← hspent]
    rfl
  · exact .inl (congrArg Core.set hspent)

theorem State.testFlag_rounds (s : State) (w : SigWait) : (s.testFlag w).core.set.rounds = s.core.set.rounds := by
  obtain h | ⟨x, h⟩ := s.testFlag_set w <;> simp [h]

theorem State.testFlag_opIds (s : State) (w : SigWait) :
    (s.testFlag w).core.set.ops.map Op.id = s.core.set.ops.map Op.id := by
  obtain h | ⟨x, h⟩ := s.testFlag_set w <;> simp [h, -CSet.rewait_ops]

theorem State.testFlag_cycle (s : State) (w : SigWait) : (s.testFlag w).cycle = s.cycle := by
  dsimp only [State.testFlag]
  split <;> split <;> rfl

theorem State.inject_cycle (s : State) (k : Packet) : (s.inject k).cycle = s.cycle := by
  unfold State.inject
  dsimp only
  split <;> rfl

/-- A write keeps what its bytes at a home keep, and what a packet of the unit keeps. -/
theorem State.writeSpans_keep {α : Type} (g : State → α) (happly : ∀ s pa bs, g (State.apply s pa bs) = g s)
    (hsend : ∀ s pa n k, g ((State.dropSnaps s pa n).inject k) = g s) (source : Source) (window : Bool) (l : List Span)
    (bs : List Byte) (s : State) : g (State.writeSpans source window l bs s).1 = g s := by
  induction l generalizing bs s with
  | nil => rfl
  | cons sp rest ih =>
    refine (ih (bs.drop sp.n) _).trans ?_
    cases window
    · exact hsend s sp.pa sp.n _
    · exact happly s sp.pa _

/-- The numbers of the operations that stand in the current core's set. -/
def State.opIds (s : State) : List Nat := s.core.set.ops.map Op.id

section
variable (s : State) (source : Source) (window : Bool) (spans : List Span) (bs : List Byte)

@[simp] theorem State.write_rounds : (s.write source window spans bs).1.core.set.rounds = s.core.set.rounds :=
  State.writeSpans_keep (fun s => s.core.set.rounds)
    (fun _ _ _ => State.testFlags_keep (fun s => s.core.set.rounds) State.testFlag_rounds _ _)
    (fun _ _ _ _ => by rw [State.inject_core]; rfl) source window _ bs s

@[simp] theorem State.write_opIds : (s.write source window spans bs).1.opIds = s.opIds :=
  State.writeSpans_keep State.opIds (fun _ _ _ => State.testFlags_keep State.opIds State.testFlag_opIds _ _)
    (fun _ _ _ _ => by rw [State.opIds, State.inject_core]; rfl) source window _ bs s

@[simp] theorem State.write_cycle : (s.write source window spans bs).1.cycle = s.cycle :=
  State.writeSpans_keep State.cycle (fun _ _ _ => State.testFlags_keep State.cycle State.testFlag_cycle _ _)
    (fun _ _ _ _ => State.inject_cycle _ _) source window _ bs s

end

section
variable (s : State) (im : Image) (k : Nat) (st : Status) (area : Bool × List Span)

@[simp] theorem State.writeImage_fab : (s.writeImage im k st area).core.set.fab = s.core.set.fab :=
  State.writeSpans_fab .sequencer area.1 _ _ s

@[simp] theorem State.writeImage_rounds : (s.writeImage im k st area).core.set.rounds = s.core.set.rounds :=
  State.write_rounds ..

@[simp] theorem State.writeImage_opIds : (s.writeImage im k st area).opIds = s.opIds := State.write_opIds ..

@[simp] theorem State.writeImage_cycle : (s.writeImage im k st area).cycle = s.cycle := State.write_cycle ..

end

/-! ### The end of BINDOFF's drain (R153) -/

/-- The image of a drained stitch written where one was asked for. -/
def State.saveDrained (s : State) (im : Image) (d : Drain) : State :=
  match d.save with
  | some area => s.writeImage im d.k d.before area
  | none => s

section
variable (s : State) (im : Image) (d : Drain)

theorem State.saveDrained_rounds : (s.saveDrained im d).core.set.rounds = s.core.set.rounds := by
  unfold State.saveDrained
  split <;> simp

theorem State.saveDrained_opIds : (s.saveDrained im d).opIds = s.opIds := by
  unfold State.saveDrained
  split <;> simp

theorem State.saveDrained_cycle : (s.saveDrained im d).cycle = s.cycle := by
  unfold State.saveDrained
  split <;> simp

/-- What BINDOFF's drain leaves when it is over: the stitch's tokens gone, and its image written. -/
def State.drained : State := (s.mapFab (fun f => f.discard d.k false s.cycle)).saveDrained im d

theorem State.endBindoff_eq : s.endBindoff im d =
    (((s.drained im d).putStream d.k { (s.drained im d).stream d.k with status := .free }).mapRounds (fun r => { r with
      drains := r.drains.erase d })).settle d.id
        (BitVec.ofNat 64 (min (s.core.set.fab.tokensOf d.k true) 0xFFFF)) .clear := by
  unfold State.endBindoff State.drained State.saveDrained
  cases d.save <;> rfl

theorem State.drained_rounds : (s.drained im d).core.set.rounds = s.core.set.rounds := State.saveDrained_rounds ..
theorem State.drained_opIds : (s.drained im d).opIds = s.opIds := State.saveDrained_opIds ..
theorem State.drained_cycle : (s.drained im d).cycle = s.cycle := State.saveDrained_cycle ..

@[simp] theorem State.endBindoff_mem : (s.endBindoff im d).mem = (s.drained im d).mem := by
  rw [State.endBindoff_eq]
  rfl

@[simp] theorem State.endBindoff_net : (s.endBindoff im d).net = (s.drained im d).net := by
  rw [State.endBindoff_eq]
  rfl

@[simp] theorem State.endBindoff_drains :
    (s.endBindoff im d).core.set.rounds.drains = s.core.set.rounds.drains.erase d := by
  rw [State.endBindoff_eq, ← State.drained_rounds s im d]
  rfl

theorem State.endBindoff_status : ((s.endBindoff im d).stream d.k).status = .free := by
  rw [State.endBindoff_eq]
  exact congrArg Stream.status (State.putStream_stream_self (s.drained im d) d.k _)

theorem State.endBindoff_waitsFor (h : d.id ∈ s.opIds) : (s.endBindoff im d).waitsFor d.id
    (.ready (BitVec.ofNat 64 (min (s.core.set.fab.tokensOf d.k true) 0xFFFF)) .clear (s.cycle + 1)) := by
  rw [← State.drained_opIds s im d] at h
  rw [State.endBindoff_eq, ← State.drained_cycle s im d]
  exact State.waitsFor_of_rewait (c := (s.drained im d).core.set) rfl h

end

/-! ### The end of RSAVE's drain (R156) -/

/-- Stitch k's bit in a word. -/
theorem getLsbD_stitch (k : Nat) {j : Nat} (hj : j < 64) : ((1 : Word) <<< k).getLsbD j = decide (j = k) := by
  change (BitVec.twoPow 64 k).getLsbD j = _
  rw [BitVec.getLsbD_twoPow]
  by_cases h : j = k <;> simp_all [eq_comm]

theorem getLsbD_foldl_stitches (l : List Nat) (m : Word) {j : Nat} (hj : j < 64) :
    (l.foldl (fun m k => m ||| ((1 : Word) <<< k)) m).getLsbD j = (m.getLsbD j || l.contains j) := by
  induction l generalizing m with
  | nil => simp
  | cons k l ih =>
    rw [List.foldl_cons, ih, BitVec.getLsbD_or, getLsbD_stitch k hj, List.contains_cons, Bool.or_assoc]
    rfl

/-- A stitch's entry as RSAVE leaves it. -/
def Rounds.freeOne (r : Rounds) (k : Nat) : Rounds := r.put k { r.at k with status := .free, reset := false, cause := 0 }

theorem Rounds.freeOne_status {r : Rounds} {k : Nat} (j : Nat) (h : (r.at k).status = .free) :
    ((r.freeOne j).at k).status = .free := by
  rw [Rounds.freeOne, Rounds.at_put]
  split
  · rfl
  · exact h

theorem Rounds.foldl_freeOne_status {l : List Nat} {r : Rounds} {k : Nat} (h : k ∈ l ∨ (r.at k).status = .free) :
    ((l.foldl Rounds.freeOne r).at k).status = .free := by
  induction l generalizing r with
  | nil => exact h.resolve_left List.not_mem_nil
  | cons j l ih =>
    apply ih
    obtain h | h := h
    · obtain rfl | h := List.mem_cons.mp h
      · exact .inr (congrArg Stream.status (Rounds.at_put_self ..))
      · exact .inl h
    · exact .inr (Rounds.freeOne_status j h)

theorem Rounds.foldl_freeOne_saved (l : List Nat) (r : Rounds) : (l.foldl Rounds.freeOne r).saved = r.saved :=
  List.foldlRecOn l Rounds.freeOne (motive := fun x => x.saved = r.saved) rfl (by intro x h k _; exact h)

theorem Rounds.freeSaved_eq (r : Rounds) (l : List Nat) : r.freeSaved l =
    l.foldl Rounds.freeOne { r with saved := l.foldl (fun m k => m ||| ((1 : Word) <<< k)) 0 } := rfl

theorem Rounds.freeSaved_status (r : Rounds) {l : List Nat} {k : Nat} (h : k ∈ l) :
    ((r.freeSaved l).at k).status = .free :=
  Rounds.foldl_freeOne_status (.inl h)

theorem Rounds.getLsbD_freeSaved (r : Rounds) (l : List Nat) {k : Nat} (hk : k < 64) :
    (r.freeSaved l).saved.getLsbD k = l.contains k := by
  rw [Rounds.freeSaved_eq, Rounds.foldl_freeOne_saved, getLsbD_foldl_stitches l 0 hk]
  simp

/-- The images of the stitches of a list written, one after the other, each as its stitch stands by then. -/
def State.writeImages (s : State) (im : Image) (l : List (Nat × Bool × List Span)) : State :=
  l.foldl (fun s x => s.writeImage im x.1 (s.stream x.1).status x.2) s

/-- What the writes of images keep. -/
theorem State.writeImages_keep {α : Type} (g : State → α)
    (h : ∀ s im k st area, g (State.writeImage s im k st area) = g s) (s : State) (im : Image)
    (l : List (Nat × Bool × List Span)) : g (s.writeImages im l) = g s :=
  List.foldlRecOn l _ (motive := fun x => g x = g s) rfl fun _ hx _ _ => (h ..).trans hx

section
variable (s : State) (im : Image) (l : List (Nat × Bool × List Span))

theorem State.writeImages_rounds : (s.writeImages im l).core.set.rounds = s.core.set.rounds :=
  State.writeImages_keep (fun s => s.core.set.rounds) State.writeImage_rounds s im l

theorem State.writeImages_opIds : (s.writeImages im l).opIds = s.opIds :=
  State.writeImages_keep State.opIds State.writeImage_opIds s im l

theorem State.writeImages_cycle : (s.writeImages im l).cycle = s.cycle :=
  State.writeImages_keep State.cycle State.writeImage_cycle s im l

end

/-- The bytes of stitch k's image, with the status that it has. -/
def State.imageBytes (s : State) (im : Image) (k : Nat) : List Byte :=
  s.core.set.fab.stateImage im k (s.stream k).status (s.stream k)

/-- No image is changed by the writes of those before it. -/
theorem State.writeImages_eq {s u : State} (im : Image) (l : List (Nat × Bool × List Span))
    (hfab : s.core.set.fab = u.core.set.fab) (hrounds : s.core.set.rounds = u.core.set.rounds) :
    s.writeImages im l =
      l.foldl (fun w x => (w.write .sequencer x.2.1 x.2.2 (u.imageBytes im x.1)).1) s := by
  induction l generalizing s with
  | nil => rfl
  | cons x l ih =>
    have hbytes : s.imageBytes im x.1 = u.imageBytes im x.1 := by
      simp only [State.imageBytes, State.stream, hfab, hrounds]
    have hone : s.writeImage im x.1 (s.stream x.1).status x.2 =
        (s.write .sequencer x.2.1 x.2.2 (u.imageBytes im x.1)).1 := by
      rw [← hbytes]
      rfl
    rw [List.foldl_cons, ← hone]
    exact ih ((State.writeImage_fab ..).trans hfab) ((State.writeImage_rounds ..).trans hrounds)

/-- The stitches of an RSAVE that it still saves (log entry 112). -/
def State.toSave (s : State) (v : Save) : List (Nat × Bool × List Span) :=
  v.set.filter (fun x => (s.stream x.1).status.held)

/-- The tokens of the saved stitches discarded. -/
def State.discardSaved (s : State) (v : Save) : State :=
  s.mapFab (fun f => ((s.toSave v).map (fun x => x.1)).foldl (fun f k => f.discard k true s.cycle) f)

/-- The value that completes an RSAVE. -/
def State.savedWord (s : State) (im : Image) (v : Save) : Word :=
  let ks := (s.toSave v).map (fun x => x.1)
  saveWord (s.toSave v).length (ks.filter (fun k => (s.stream k).status = .drop)).length
    (ks.map (fun k => s.core.set.fab.tokensOf k false)).sum im.P

section
variable (s : State) (im : Image) (v : Save)

theorem State.endRsave_eq : s.endRsave im v =
    ((((s.discardSaved v).writeImages im (s.toSave v)).mapRounds
      (fun r => { r.freeSaved ((s.toSave v).map (fun x => x.1)) with save := none })).settle v.id
        (s.savedWord im v) .clear) := by
  simp only [State.savedWord, List.sum_eq_foldl]
  rfl

theorem State.endRsave_mem : (s.endRsave im v).mem = ((s.discardSaved v).writeImages im (s.toSave v)).mem := by
  rw [State.endRsave_eq]
  rfl

theorem State.endRsave_net : (s.endRsave im v).net = ((s.discardSaved v).writeImages im (s.toSave v)).net := by
  rw [State.endRsave_eq]
  rfl

theorem State.endRsave_rounds : (s.endRsave im v).core.set.rounds =
    { s.core.set.rounds.freeSaved ((s.toSave v).map (fun x => x.1)) with save := none } := by
  have hkeep : ((s.discardSaved v).writeImages im (s.toSave v)).core.set.rounds = s.core.set.rounds :=
    State.writeImages_rounds ..
  rw [State.endRsave_eq, ← hkeep]
  rfl

theorem State.endRsave_waitsFor (h : v.id ∈ s.opIds) :
    (s.endRsave im v).waitsFor v.id (.ready (s.savedWord im v) .clear (s.cycle + 1)) := by
  have hids : ((s.discardSaved v).writeImages im (s.toSave v)).opIds = s.opIds := State.writeImages_opIds ..
  have hcycle : ((s.discardSaved v).writeImages im (s.toSave v)).cycle = s.cycle := State.writeImages_cycle ..
  rw [State.endRsave_eq, ← hcycle]
  rw [← hids] at h
  exact State.waitsFor_of_rewait (c := ((s.discardSaved v).writeImages im (s.toSave v)).core.set) rfl h

end

end Sys2Proof.Machine

open Sys2Proof Sys2Proof.Machine in
/-- Settles O23: the ends of the drains are `State.endBindoff` and `State.endRsave`, whose writes change no entry of the
stream table and no holder, so that each image is that of its stitch as the drain left it. -/
theorem drainsEnd : Obligations.DrainsEnd := by
  intro s im hrun hruns image
  refine ⟨fun k d hk hd hover => ?_, fun v hv hover hset => ?_⟩
  · obtain rfl : d.k = k := by simpa using List.find?_some hd
    refine ⟨s.endBindoff im d, ?_, s.endBindoff_status im d, s.endBindoff_drains im d, fun hsave => ?_,
      fun area hsave => ?_, fun hid => s.endBindoff_waitsFor im d (CSet.op_ne_none_iff.mp hid)⟩
    · rw [exec_bindoffDrainEnd, execBindoffDrainEnd, hrun, hd]
      exact when_next (by simp [hruns, hover])
    · rw [s.endBindoff_mem, s.endBindoff_net, State.drained, State.saveDrained, hsave]
      exact ⟨rfl, rfl⟩
    · rw [s.endBindoff_mem, s.endBindoff_net, State.drained, State.saveDrained, hsave]
      exact ⟨_, Fabric.imagedBy_stateImage _ im d.k d.before (s.stream d.k), rfl, rfl⟩
  · intro l ks n dropped u
    have hrounds := s.endRsave_rounds im v
    have himages : u.writeImages im l =
        l.foldl (fun w x => (w.write .sequencer x.2.1 x.2.2 (u.imageBytes im x.1)).1) u :=
      State.writeImages_eq im l rfl rfl
    refine ⟨s.endRsave im v, u.imageBytes im, ?_, by rw [hrounds], fun k hk => ?_, fun k hk => ?_, fun k hk => ?_,
      ⟨?_, ?_⟩, fun hid => s.endRsave_waitsFor im v (CSet.op_ne_none_iff.mp hid)⟩
    · rw [exec_rsaveDrainEnd, execRsaveDrainEnd, hrun, hv]
      exact when_next (by simp [hruns, hover])
    · rw [State.stream, hrounds]
      exact Rounds.freeSaved_status _ hk
    · rw [hrounds]
      exact Rounds.getLsbD_freeSaved _ ks hk
    · exact Fabric.imagedBy_stateImage _ im k (s.stream k).status (s.stream k)
    · rw [s.endRsave_mem, ← himages]
      rfl
    · rw [s.endRsave_net, ← himages]
      rfl
end

section
/-!
SUPPORT. The RND instructions where nothing of the unit holds them back (R145, R146, R152 to R157): what each fails with,
what it asks of a round boundary, and what it reads and writes of the stream table.
-/

namespace Sys2Proof.Machine

/-! ### Issue and completions (R87, R145, R151) -/

theorem State.unfinished_of_subset {s : State} {l l' : List OpClass} (hsub : ∀ c ∈ l', c ∈ l)
    (h : s.unfinished l = false) : s.unfinished l' = false := by
  simp only [State.unfinished, List.any_eq_false, List.contains_iff_mem] at h ⊢
  exact fun o ho hc => h o ho (hsub _ hc)

/-- What an instruction leaves that has begun an operation from a state whose sequencer, operations and memory are those
of `s`. -/
theorem State.began_of_begin {s u : State} {t : Reg} {cls : OpClass} {w : Wait}
    (hseq : u.core.set.seq = s.core.set.seq.setPending t)
    (hops : u.core.set.ops = s.core.set.ops ++ [⟨s.net.nextId, t, cls, w⟩]) (hmem : u.mem = s.mem) :
    s.began u.advance t cls w := by
  simp [State.began, hseq, hops, hmem]

theorem State.rndFails_began (s : State) (t : Reg) (cls : OpClass) (status k : Nat) :
    s.began (s.rndFails t cls status k).advance t cls
      (.ready (BitVec.ofNat 64 (2 ^ 63 + k * 256 + status)) .clear (s.cycle + 1)) :=
  s.began_begin t cls _

theorem State.ask_began (s : State) (t : Reg) (cls : OpClass) (k : Nat) (op : StitchOp) :
    s.began (s.ask t cls k op).advance t cls .round :=
  State.began_of_begin rfl rfl rfl

theorem State.ask_pending (s : State) (t : Reg) (cls : OpClass) (k : Nat) (op : StitchOp) :
    (s.ask t cls k op).advance.core.set.rounds.pending =
      s.core.set.rounds.pending ++ [⟨k, op, s.net.nextId, s.cycle⟩] := rfl

/-! ### Entries as words and records (R146, R152) -/

theorem ofNat_bitSpan {n lo w : Nat} (v : Nat) (h : lo + w ≤ n) :
    BitVec.ofNat w (bitSpan v lo w) = (BitVec.ofNat n v).extractLsb' lo w := by
  rw [bitSpan, ← extractLsb'_ofNat_toNat v h, BitVec.ofNat_toNat, BitVec.setWidth_eq]

theorem Stream.record_eq (e : Stream) (bs : List Byte) : e.record bs =
    { e with
      state := BitVec.ofNat 64 (field bs 0 8)
      reset := (BitVec.ofNat 64 (field bs 8 8)).getLsbD 0
      steps := (BitVec.ofNat 64 (field bs 8 8)).extractLsb' 16 32
      user := BitVec.ofNat 64 (field bs 16 8)
      handle := BitVec.ofNat 64 (field bs 24 8) } := by
  have hreset : bitAt (field bs 8 8) 0 = (BitVec.ofNat 64 (field bs 8 8)).getLsbD 0 := by
    rw [bitAt, BitVec.getLsbD_ofNat, Nat.testBit_zero, Nat.pow_zero, Nat.div_one]
    rfl
  rw [Stream.record, hreset, ofNat_bitSpan (n := 64) _ (by decide)]

theorem Stream.setWord_one (e : Stream) (v : Word) :
    e.setWord 1 v = { e with reset := v.getLsbD 0, steps := v.extractLsb' 16 32 } := by
  rw [Stream.setWord, wspan, ofNat_bitSpan (n := 64) _ (by decide), BitVec.ofNat_toNat, BitVec.setWidth_eq]

theorem Rounds.getLsbD_maskOf (r : Rounds) (st : Status) {k : Nat} (hk : k < 64) :
    (r.maskOf st).getLsbD k = ((r.at k).status == st) := by
  have hfilter : r.maskOf st = ((List.range 64).filter (fun k => decide ((r.at k).status = st))).foldl
      (fun m k => m ||| ((1 : Word) <<< k)) 0 := by
    simp only [Rounds.maskOf, List.foldl_filter, decide_eq_true_eq]
  rw [hfilter, getLsbD_foldl_stitches _ 0 hk, Bool.eq_iff_iff]
  simp [hk]

section Rnd

variable {s : State} {t a b : Reg} {im : Image} (hrnd : s.unfinished [.rnd, .cast, .move, .cfg, .strm] = false)
  (hmat : s.inProgress [.mat] = false)

section
include hrnd hmat

theorem rndIssue_next {i : Instr} {n : Needs} {body : State → State} (hw : i.wellFormed = true)
    (h : s.mayIssue n.reads n.dest n.level) : rndIssue i n body s = .next (body s) :=
  issueUnless_next (by rw [hrnd, hmat]; rfl) hw h

end

/-! ### The stitch that a register names (R145) -/

theorem State.stitchArg_of_lt (hrun : s.core.set.fab.running = some im) (hn : (s.reg a).toNat < 64)
    (hP : (s.reg a).toNat < im.P) : s.stitchArg a = .ok (s.reg a).toNat := by
  simp [State.stitchArg, hrun, Nat.not_lt.mpr (Nat.le_of_lt_succ hn), Nat.not_le.mpr hP]

theorem State.stitchArg_of_le (hrun : s.core.set.fab.running = some im) (hn : (s.reg a).toNat < 64)
    (hP : im.P ≤ (s.reg a).toNat) : s.stitchArg a = .error (0x31, (s.reg a).toNat) := by
  simp [State.stitchArg, hrun, Nat.not_lt.mpr (Nat.le_of_lt_succ hn), hP]

section
variable (hrun : s.core.set.fab.running = some im) (hiss : s.mayIssue [a] t 0) (hn : (s.reg a).toNat < 64)
include hrnd hmat hrun hiss hn

/-! ### BINDOFF, SLIP, UNSLIP and LIFT (R153) -/

section
variable {i : Instr} {need : Status → Bool} {body : Image → Nat → State → State}

theorem oneStitch_of_status (hP : (s.reg a).toNat < im.P) (hw : i.wellFormed = true)
    (h : need (s.stream (s.reg a).toNat).status = true) :
    oneStitch i t a need body s = .next (body im (s.reg a).toNat s).advance := by
  rw [oneStitch, rndIssue_next hrnd hmat hw hiss]
  simp only [hrun, State.stitchArg_of_lt hrun hn hP, h, if_true]

theorem oneStitch_of_badstate (hP : (s.reg a).toNat < im.P) (hw : i.wellFormed = true)
    (h : need (s.stream (s.reg a).toNat).status = false) :
    oneStitch i t a need body s = .next (s.rndFails t .rnd 0x32 (s.reg a).toNat).advance := by
  rw [oneStitch, rndIssue_next hrnd hmat hw hiss]
  simp only [hrun, State.stitchArg_of_lt hrun hn hP, h, Bool.false_eq_true, if_false]

theorem oneStitch_of_nostitch (hP : im.P ≤ (s.reg a).toNat) (hw : i.wellFormed = true) :
    oneStitch i t a need body s = .next (s.rndFails t .rnd 0x31 (s.reg a).toNat).advance := by
  rw [oneStitch, rndIssue_next hrnd hmat hw hiss]
  simp only [hrun, State.stitchArg_of_le hrun hn hP]

end

end

/-! ### CASTON (R152) -/

/-- The stitch is cast on, its holders loaded from the constants or from the records of a state image. -/
def State.castsOn (s : State) (t : Reg) (im : Image) (k : Nat) (e : Stream) (records : Option (List (List Byte))) :
    State :=
  ((s.putStream k { e with status := .cast, cause := 0 }).mapFab (fun f =>
    ((f.renew k).loadHolders im k records).move s.cycle)).ask t .cast k .live

theorem State.castsOn_stream (s : State) (t : Reg) (im : Image) (k : Nat) (e : Stream)
    (records : Option (List (List Byte))) :
    (s.castsOn t im k e records).advance.stream k = { e with status := .cast, cause := 0 } :=
  State.putStream_stream_self s k _

theorem State.castsOn_began (s : State) (t : Reg) (im : Image) (k : Nat) (e : Stream)
    (records : Option (List (List Byte))) : s.began (s.castsOn t im k e records).advance t .cast .round :=
  State.began_of_begin rfl rfl rfl

theorem State.castsOn_pending (s : State) (t : Reg) (im : Image) (k : Nat) (e : Stream)
    (records : Option (List (List Byte))) : (s.castsOn t im k e records).advance.core.set.rounds.pending =
      s.core.set.rounds.pending ++ [⟨k, .live, s.net.nextId, s.cycle⟩] := rfl

section
variable {k : Nat} {e : Stream}

theorem State.castOn_of_reset (h : e.reset = true) : s.castOn t im k e = s.castsOn t im k e none :=
  if_pos h

variable {v : State} (h : e.reset = false)
include h

theorem State.castOn_unread (hread : s.readArea e.state im.areaLen = (v, none)) :
    s.castOn t im k e = v.rndFails t .cast 0x33 k := by
  simp [State.castOn, h, hread]

variable {bs : List Byte} (hread : s.readArea e.state im.areaLen = (v, some bs))
include hread

theorem State.castOn_mismatch (himg : im.readState bs = none) : s.castOn t im k e = v.rndFails t .cast 0x34 k := by
  simp [State.castOn, h, hread, himg]

theorem State.castOn_image {x : StateImage} (himg : im.readState bs = some x) :
    s.castOn t im k e = v.castsOn t im k { e with steps := x.steps } (some x.records) := by
  simp [State.castOn, h, hread, himg, State.castsOn]

end

/-- The stitch of a CASTON: the FREE one that b names, or where b is s0 the lowest FREE one. -/
theorem State.castStitch_of_free {k : Nat} (hrun : s.core.set.fab.running = some im) (hk : k < 64) (hP : k < im.P)
    (hfree : (s.stream k).status = .free) (hlow : b = 0 → ∀ j < k, (s.stream j).status ≠ .free)
    (hreg : b ≠ 0 → (s.reg b).toNat = k) : s.castStitch im b = .ok k := by
  unfold State.castStitch
  by_cases hb : b = 0
  · have hfind : s.core.set.rounds.lowestFree im.P = some k := by
      rw [Rounds.lowestFree, List.find?_range_eq_some]
      refine ⟨beq_iff_eq.mpr hfree, List.mem_range.mpr hP, fun j hj => ?_⟩
      simpa [State.stream] using hlow hb j hj
    simp [hb, hfind, hfree]
  · have harg : s.stitchArg b = .ok k := by
      have hreg := hreg hb
      subst hreg
      exact State.stitchArg_of_lt hrun hk hP
    rw [if_neg hb, harg]
    exact if_pos hfree

/-- An entry with the fields of a record, where there is one. -/
def Stream.withRecord (e : Stream) (record : Option (List Byte)) : Stream :=
  match record with
  | some bs => e.record bs
  | none => e

theorem State.caston_of_stitch {u : State} {k : Nat} (record : Option (List Byte))
    (hrun : u.core.set.fab.running = some im) (hk : u.castStitch im b = .ok k) :
    u.caston t b record = u.castOn t im k ((u.stream k).withRecord record) := by
  simp only [State.caston, hrun, hk]
  rfl

/-- CASTON once its record, where a names one, has been read. -/
theorem exec_caston_of_read (hrnd : s.unfinished [.rnd, .cast, .move, .cfg, .strm] = false)
    (hmat : s.inProgress [.mat] = false) (hiss : s.mayIssue [a, b] t 0) {u : State} {record : Option (List Byte)}
    (hread : (a = 0 ∧ record = none ∧ u = s) ∨ (a ≠ 0 ∧ s.readHeld (s.reg a) = false ∧ ∃ v w sp bs,
      s.checked .read (s.reg a) 8 32 = (v, .ok (w, sp)) ∧ State.readSpans w sp v = (u, bs, none) ∧ record = some bs))
    (hheld : s.castHeld b record = false) : exec (.caston t a b) s = .next (u.caston t b record).advance := by
  have hfree : s.unfinished [.rnd, .move, .cfg, .strm] = false := State.unfinished_of_subset (by simp) hrnd
  rw [exec_caston, execCaston, issueUnless_next (by rw [hfree, hmat]; rfl) rfl hiss]
  obtain ⟨ha, rfl, rfl⟩ | ⟨ha, hh, v, w, sp, bs, hcheck, hspans, rfl⟩ := hread
  · simp [ha, hheld]
  · rw [if_neg ha]
    simp [hh, hcheck, hspans, hheld]

/-! ### RSAVE (R156) -/

theorem State.areasToWrite_stitches {len : Nat} {ks : List Nat} {s u : State} {areas : List (Nat × Bool × List Span)}
    (h : State.areasToWrite len ks s = (u, .ok areas)) : areas.map (fun e => e.1) = ks := by
  induction ks generalizing s areas with
  | nil =>
    cases h
    rfl
  | cons k ks ih =>
    unfold State.areasToWrite at h
    split at h
    · cases h
    · split at h
      · next heq =>
        cases h
        rw [List.map_cons, ih heq]
      · cases h

include hrnd hmat in
theorem exec_rsave_of_areas (hiss : s.mayIssue [] t 0) (hrun : s.core.set.fab.running = some im) {u : State}
    {areas : List (Nat × Bool × List Span)} (h : State.areasToWrite im.areaLen
      ((List.range 64).filter (fun k => (s.stream k).status.held)) s = (u, .ok areas)) :
    exec (.rsave t) s = .next ((u.begin t .move .round).mapRounds (fun r => { r with
      save := some ⟨areas, u.net.nextId, u.cycle, none⟩ })).advance := by
  rw [exec_rsave, execRsave, rndIssue_next hrnd hmat rfl hiss]
  simp only [hrun, h]

/-! ### RLOAD (R157) -/

/-- What the holders of a stitch are loaded with is not the configuration. -/
theorem Fabric.loadHolders_running (f : Fabric) (im : Image) (k : Nat) (records : Option (List (List Byte))) :
    (f.loadHolders im k records).running = f.running :=
  List.foldlRecOn (List.zipIdx im.holders) _ (motive := fun g : Fabric => g.running = f.running) rfl (by
    intro g hg h _
    obtain ⟨_ | _, i⟩ := h <;> exact hg)

section
variable (s : State) (im : Image) (id : Nat) (l : List Restored)

/-- What the streams restored one after the other keep. -/
theorem State.restores_keep {α : Type} (g : State → α) (h : ∀ s x, g (State.restore im id s x) = g s) :
    g (l.foldl (State.restore im id) s) = g s :=
  List.foldlRecOn l _ (motive := fun x => g x = g s) rfl fun _ hx _ _ => (h ..).trans hx

theorem State.restores_running :
    (l.foldl (State.restore im id) s).core.set.fab.running = s.core.set.fab.running :=
  State.restores_keep s im id l (fun s => s.core.set.fab.running) fun _ _ => Fabric.loadHolders_running ..

theorem State.restores_saved : (l.foldl (State.restore im id) s).core.set.rounds.saved = s.core.set.rounds.saved :=
  State.restores_keep s im id l (fun s => s.core.set.rounds.saved) fun _ _ => rfl

theorem State.restores_seq : (l.foldl (State.restore im id) s).core.set.seq = s.core.set.seq :=
  State.restores_keep s im id l (fun s => s.core.set.seq) fun _ _ => rfl

theorem State.restores_ops : (l.foldl (State.restore im id) s).core.set.ops = s.core.set.ops :=
  State.restores_keep s im id l (fun s => s.core.set.ops) fun _ _ => rfl

variable (t : Reg) (pages : List (Nat × TlbEntry))

theorem State.reload_began : s.began (s.reload t im pages l).advance t .move .round :=
  State.began_of_begin (State.restores_seq _ im s.net.nextId l) (State.restores_ops _ im s.net.nextId l)
    (s.reload_mem t im pages l)

theorem State.reload_running : (s.reload t im pages l).advance.core.set.fab.running = some im :=
  State.restores_running _ im s.net.nextId l

theorem State.reload_saved : (s.reload t im pages l).advance.core.set.rounds.saved = s.core.set.rounds.saved :=
  State.restores_saved _ im s.net.nextId l

theorem State.reload_loading :
    (s.reload t im pages l).advance.core.set.rounds.loading = some (s.net.nextId, l.length) := rfl

end

/-- RLOAD past its traps, where the map is known, the image accepted and every stream restored. -/
theorem State.rloadBy_of_restored {u' u v r x z : State} {va : Word} {w : Bool} {sp : List Span}
    {block : Option (Bool × List Span)} {m : List (Nat × Nat × Word)} {head rest : List Byte} {limit : Option Nat}
    {pages : List (Nat × TlbEntry)} {new : Image} {l : List Restored} (hbusy : u'.core.set.stitchBusy = false)
    (hmap : u'.rloadMap block = (u, some m)) (hheld : ∀ e ∈ m, s.readHeld e.2.2 = false)
    (hhead : State.readSpans w sp u = (v, head, none))
    (hrest : v.readUpTo (va.toNat + 64) (imageLen head - 64) = (r, rest, limit))
    (hnodes : r.translateNodes (head ++ rest) (limit.map (fun n => n - va.toNat)) = (x, pages))
    (hload : x.loadImage (head ++ rest) (limit.map (fun n => n - va.toNat)) = .ok new)
    (hrestored : State.restored new m [] x = (z, .ok l)) :
    s.rloadBy u' t va w sp block = (z.reload t new pages l).advance := by
  have hany : m.any (fun e => s.readHeld e.2.2) = false := by
    simpa [List.any_eq_false] using hheld
  simp [State.rloadBy, hbusy, hmap, hany, State.rloadFrom, hhead, hrest, hnodes, State.rload, hload, hrestored]

section
include hrnd hmat
variable (hiss : s.mayIssue [a, b] t 0) (hheld : s.readHeld (s.reg a) = false) {u' : State} {w : Bool} {sp : List Span}
  (hcheck : s.checked .read (s.reg a) 64 64 = (u', .ok (w, sp)))
include hiss hheld hcheck

theorem exec_rload_of_saved (hb : b = 0) :
    exec (.rload t a b) s = .next (s.rloadBy u' t (s.reg a) w sp none) := by
  rw [exec_rload, execRload, rndIssue_next hrnd hmat rfl hiss]
  simp [hb, hheld, hcheck]

theorem exec_rload_of_block (hb : b ≠ 0) (hheldb : s.readHeld (s.reg b) = false) {c : State} {block : Bool × List Span}
    (hcheckb : u'.checked .read (s.reg b) 64 576 = (c, .ok block)) :
    exec (.rload t a b) s = .next (s.rloadBy c t (s.reg a) w sp (some block)) := by
  rw [exec_rload, execRload, rndIssue_next hrnd hmat rfl hiss]
  simp only [hheld, hheldb, hcheck, hcheckb, if_neg hb]
  simp

end

/-! ### STRD and STWR (R146, R154) -/

theorem exec_strd_eq (p : BitVec 2) (hmat : s.inProgress [.mat] = false) (hiss : s.mayIssue [a] t 0) :
    exec (.strd t a p) s = .next ((s.core.set.rounds.select (s.reg a).toNat p.toNat).elim
      (s.rndFails t .rnd 0x27 noStitch) (fun v => s.later t .rnd v .clear 2)).advance := by
  rw [exec_strd, execStrd, issueUnless_next hmat rfl hiss]
  cases s.core.set.rounds.select (s.reg a).toNat p.toNat <;> rfl

theorem Rounds.select_of_lt (r : Rounds) {n : Nat} (q : Nat) (h : n < 64) : r.select n q = some ((r.at n).word q) := by
  unfold Rounds.select
  exact if_pos h

theorem Rounds.select_of_beyond (r : Rounds) {n q : Nat} (hn : 64 ≤ n) (h : n > 67 ∨ q ≠ 0) :
    r.select n q = none := by
  unfold Rounds.select
  rw [if_neg (Nat.not_lt.mpr hn)]
  by_cases hq : q = 0
  · have hbeyond : n > 67 := h.resolve_right (not_not.mpr hq)
    rw [if_neg (not_not.mpr hq)]
    split
    case h_5 => rfl
    all_goals omega
  · exact if_pos hq

include hrnd hmat in
theorem exec_stwr_of_status (p : BitVec 2) (hrun : s.core.set.fab.running = some im) (hiss : s.mayIssue [a, b] t 0)
    (hn : (s.reg a).toNat < 64) (hP : (s.reg a).toNat < im.P)
    (hst : (s.stream (s.reg a).toNat).status = .free ∨ (s.stream (s.reg a).toNat).status = .slip ∨
      (s.stream (s.reg a).toNat).status = .drop) :
    exec (.stwr t a b p) s = .next (((s.putStream (s.reg a).toNat
      ((s.stream (s.reg a).toNat).setWord p.toNat (s.reg b))).mapFab
        (fun f => f.forget (s.reg a).toNat p.toNat)).later t .rnd 0 .clear 2).advance := by
  rw [exec_stwr, execStwr, rndIssue_next hrnd hmat rfl hiss]
  simp only [State.stitchArg_of_lt hrun hn hP, if_pos hst]

end Rnd

end Sys2Proof.Machine

open Sys2Proof Sys2Proof.Machine in
/-- Settles O21: each form fails with the status its checks give, or asks for its change of a boundary, or reads or writes
the stream table. -/
theorem roundInstructionsComplete : Obligations.RoundInstructionsComplete := by
  intro s t a b q p im hrnd hmat hrun n asks fails
  refine ⟨?caston, ?change, ?beyond, ?rsave, ?rload, ?strd, ?strdBeyond, ?stwr⟩
  case caston =>
    intro hiss u record k hrunu hread hk hP hfree hlow hreg hheld e casts undone
    have hstitch : u.castStitch im b = .ok k :=
      State.castStitch_of_free hrunu hk hP hfree hlow fun hb => (hreg hb).2
    have hexec := exec_caston_of_read hrnd hmat hiss hread hheld
    rw [State.caston_of_stitch record hrunu hstitch] at hexec
    have he : (u.stream k).withRecord record = e := by
      cases record
      · rfl
      · exact Stream.record_eq _ _
    rw [he] at hexec
    have hcasts {v : State} {steps : BitVec 32} {records : Option (List (List Byte))}
        (h : u.castOn t im k e = v.castsOn t im k { e with steps := steps } records) : casts v steps := by
      rw [h] at hexec
      exact ⟨_, hexec, v.castsOn_stream t im k _ records, v.castsOn_began t im k _ records,
        v.castsOn_pending t im k _ records⟩
    have hundone {v : State} {st : Nat} (h : u.castOn t im k e = v.rndFails t .cast st k) : undone v st := by
      rw [h] at hexec
      exact ⟨_, hexec, rfl, v.rndFails_began t .cast st k⟩
    exact ⟨fun hr => hcasts (State.castOn_of_reset hr), fun hr => ⟨fun v hv => hundone (State.castOn_unread hr hv),
      fun v bs hv => ⟨fun himg => hundone (State.castOn_mismatch hr hv himg),
        fun x himg => hcasts (State.castOn_image hr hv himg)⟩⟩⟩
  case change =>
    intro hiss hn hP st
    have hasks {i : Instr} {need : Status → Bool} {op : StitchOp} (hw : i.wellFormed = true)
        (hexec : exec i s = oneStitch i t a need (fun _ k s => s.ask t .rnd k op) s) (h : need st = true) :
        asks i .rnd n op :=
      ⟨_, hexec.trans (oneStitch_of_status hrnd hmat hrun hiss hn hP hw h), s.ask_began t .rnd n op,
        s.ask_pending t .rnd n op⟩
    have hfails {i : Instr} {need : Status → Bool} {body : Image → Nat → State → State} (hw : i.wellFormed = true)
        (hexec : exec i s = oneStitch i t a need body s) (h : need st = false) : fails i 0x32 n :=
      ⟨_, hexec.trans (oneStitch_of_badstate hrnd hmat hrun hiss hn hP hw h), s.rndFails_began t .rnd 0x32 n⟩
    have hheld : st = .live ∨ st = .slip ∨ st = .drop → st.held = true := by
      rintro (h | h | h) <;> rw [h] <;> rfl
    refine ⟨fun h => hasks rfl (exec_bindoff t a 0 s) (hheld h), fun h u r harea => ?_,
      fun h => hasks rfl (exec_slip t a s) (by simp [h]), fun h => hasks rfl (exec_unslip t a s) (by simp [h]),
      fun h => hasks rfl (exec_lift t a q s) (by simp [h]),
      fun h => hfails rfl (exec_slip t a s) (by simp [h]), fun h => hfails rfl (exec_unslip t a s) (by simp [h]),
      fun h => hfails rfl (exec_lift t a q s) (by simp [h]), fun h => hfails rfl (exec_bindoff t a q s) ?_⟩
    · have hexec := (exec_bindoff t a 1 s).trans (oneStitch_of_status hrnd hmat hrun hiss hn hP rfl (hheld h))
      rw [show s.areaToWrite (s.stream (s.reg a).toNat).state im.areaLen = (u, some r) from harea] at hexec
      exact ⟨_, hexec, u.ask_began t .rnd n _, u.ask_pending t .rnd n _⟩
    · obtain h | h | h := h <;> rw [h] <;> rfl
  case beyond =>
    exact fun hiss hn hP =>
      ⟨⟨_, (exec_slip t a s).trans (oneStitch_of_nostitch hrnd hmat hrun hiss hn hP rfl),
          s.rndFails_began t .rnd 0x31 n⟩,
        ⟨_, (exec_bindoff t a q s).trans (oneStitch_of_nostitch hrnd hmat hrun hiss hn hP rfl),
          s.rndFails_began t .rnd 0x31 n⟩⟩
  case rsave =>
    intro hiss u areas h
    exact ⟨State.areasToWrite_stitches h, _, exec_rsave_of_areas hrnd hmat hiss hrun h,
      State.began_of_begin rfl rfl rfl, rfl⟩
  case rload =>
    intro hiss hheld u' u m v r x w sp head rest limit pages new z l hcheck hmap hheldm hhead hrest hnodes hload hrestored
    suffices h : exec (.rload t a b) s = .next (z.reload t new pages l).advance from
      ⟨_, h, z.reload_began new l t pages, z.reload_running new l t pages, z.reload_saved new l t pages,
        z.reload_loading new l t pages⟩
    obtain ⟨hb, rfl, hbusy, rfl⟩ | ⟨hb, hheldb, c, w', sp', bs, hcheckb, hbusy, hspans, rfl⟩ := hmap
    · rw [exec_rload_of_saved hrnd hmat hiss hheld hcheck hb,
        State.rloadBy_of_restored hbusy rfl hheldm hhead hrest hnodes hload hrestored]
    · rw [exec_rload_of_block hrnd hmat hiss hheld hcheck hb hheldb hcheckb,
        State.rloadBy_of_restored hbusy (by simp [State.rloadMap, hspans]) hheldm hhead hrest hnodes hload hrestored]
  case strd =>
    intro hiss hn
    have hexec := exec_strd_eq p hmat hiss
    rw [Rounds.select_of_lt _ _ hn] at hexec
    refine ⟨_, _, hexec, s.began_begin t .rnd _, ?_, ?_, ?_, ?_⟩ <;> rintro rfl <;> rfl
  case strdBeyond =>
    intro hiss hn
    have hexec := exec_strd_eq p hmat hiss
    refine ⟨fun st hmem hp => ?_, fun h67 hp => ?_, fun h => ?_⟩
    · have hselect : s.core.set.rounds.select n p.toNat = some (s.core.set.rounds.maskOf st) := by
        simp only [List.mem_cons, Prod.mk.injEq, List.not_mem_nil, or_false] at hmem
        obtain ⟨h, rfl⟩ | ⟨h, rfl⟩ | ⟨h, rfl⟩ := hmem <;> rw [h, hp] <;> rfl
      rw [hselect] at hexec
      exact ⟨_, _, hexec, s.began_begin t .rnd _, fun k hk => Rounds.getLsbD_maskOf _ st hk⟩
    · have hselect : s.core.set.rounds.select n p.toNat = some s.core.set.rounds.saved := by
        rw [h67, hp]
        rfl
      rw [hselect] at hexec
      exact ⟨_, hexec, s.began_begin t .rnd _⟩
    · have hp : n > 67 ∨ p.toNat ≠ 0 := h.imp_right fun hp h0 => hp (BitVec.eq_of_toNat_eq h0)
      rw [Rounds.select_of_beyond _ hn hp] at hexec
      exact ⟨_, hexec, s.rndFails_began t .rnd 0x27 noStitch⟩
  case stwr =>
    intro hiss hn hP hst
    refine ⟨_, exec_stwr_of_status hrnd hmat p hrun hiss hn hP hst, State.began_of_begin rfl rfl rfl,
      (State.putStream_stream_self s n _).trans ?_⟩
    obtain h | h | h | h : p.toNat = 0 ∨ p.toNat = 1 ∨ p.toNat = 2 ∨ p.toNat = 3 := by omega
    · rw [h]; rfl
    · rw [h]; exact Stream.setWord_one _ _
    · rw [h]; rfl
    · rw [h]; rfl
end

section
/-!
SUPPORT. An engine operation that copies on stays on its core (R182): translation, reads, and writes at once or on their
way keep the number of the current core.
-/

namespace Sys2Proof.Machine

/-! ### Reads and writes by unit (R183) -/

@[simp] theorem State.resolve_num (s : State) (kind : AccKind) (va len : Nat) :
    (s.resolve kind va len).1.core.num = s.core.num :=
  State.resolveBy_keep (fun s => s.core.num) (fun s va => by simp [State.translate]) s va len

@[simp] theorem State.readLoc_num (s : State) (loc : Nat) : (s.readLoc loc).1.core.num = s.core.num := by
  unfold State.readLoc
  dsimp only
  repeat' split
  all_goals rfl

@[simp] theorem State.readLocs_num (l : List Nat) (s : State) : (State.readLocs l s).1.core.num = s.core.num := by
  induction l generalizing s with
  | nil => rfl
  | cons loc rest ih => exact (ih _).trans (s.readLoc_num loc)

@[simp] theorem State.readSpan_num (s : State) (window : Bool) (sp : Span) :
    (s.readSpan window sp).1.core.num = s.core.num := by
  unfold State.readSpan
  split
  · simp
  · split
    · rfl
    · exact State.readLocs_num _ s

@[simp] theorem State.unitAt_num (s : State) (kind : AccKind) (peers : Bool) (va : Nat) :
    (s.unitAt kind peers va).1.core.num = s.core.num := by
  have hres := s.resolve_num kind va 16
  unfold State.unitAt
  split
  · rfl
  · split
    · rfl
    · split <;> simp_all

@[simp] theorem State.readUnit_num (s : State) (peers : Bool) (src : EngSrc) :
    (s.readUnit peers src).1.core.num = s.core.num := by
  obtain va | bs := src
  · have hat := s.unitAt_num .read peers va
    unfold State.readUnit
    dsimp only
    split
    · simp_all
    · simp_all [State.spent]
    · next u sp heq =>
      have hspan := u.readSpan_num true sp
      split <;> simp_all
    · next u sp heq =>
      have hspan := u.readSpan_num false sp
      split <;> simp_all
  · rfl

@[simp] theorem State.gather_num (peers : Bool) (l : List (Nat × EngSrc)) (s : State) :
    (State.gather peers l s).1.core.num = s.core.num := by
  induction l generalizing s with
  | nil => rfl
  | cons x rest ih =>
    have hread := s.readUnit_num peers x.2
    unfold State.gather
    split
    · simp_all
    · next u bs heq =>
      have hat := u.unitAt_num .write peers x.1
      split <;> simp_all

/-! ### Packets and writes (R229, R350) -/

@[simp] theorem State.sendPeer_core (s : State) (bytes : List Byte) (body : Body) (va : Nat) :
    (s.sendPeer bytes body va).core = s.core := by
  simp [State.sendPeer]

@[simp] theorem State.writePeers_core (q : Nat) (l : List (Nat × List Byte)) (s : State) :
    (State.writePeers q l s).1.core = s.core := by
  induction l generalizing s with
  | nil => rfl
  | cons u rest ih => exact (ih _).trans (s.sendPeer_core ..)

theorem State.testFlag_num (s : State) (w : SigWait) : (s.testFlag w).core.num = s.core.num := by
  dsimp only [State.testFlag]
  split <;> split <;> rfl

@[simp] theorem State.write_num (s : State) (source : Source) (window : Bool) (spans : List Span) (bs : List Byte) :
    (s.write source window spans bs).1.core.num = s.core.num :=
  State.writeSpans_keep (fun s => s.core.num)
    (fun _ _ _ => State.testFlags_keep (fun s => s.core.num) State.testFlag_num _ _)
    (fun _ _ _ _ => by rw [State.inject_core]; rfl) source window _ bs s

@[simp] theorem State.engWrite_num (s : State) (q : Nat) (units : List (EngAt × List Byte)) :
    (s.engWrite q units).1.core.num = s.core.num := by
  simp [State.engWrite]

@[simp] theorem State.requestUnits_core (s : State) (e : EngOp) (us : List (Nat × EngSrc)) :
    (s.requestUnits e us).1.core = s.core := by
  unfold State.requestUnits
  dsimp only
  split
  · split <;> split <;> simp
  · split <;> rfl

theorem State.copyOn_num (s : State) (e : EngOp) (r : EngRun) : (s.copyOn e r).core.num = s.core.num := by
  unfold State.copyOn
  simp [State.readAs, State.mapUnit]

/-! ### Tags at the end of an operation (R132) -/

/-- A change of core n that keeps the core's number keeps of the current core what it keeps of every core. -/
theorem State.mapCoreAt_keep {α : Type} (g : Core → α) {f : Core → Core} (hnum : ∀ k, (f k).num = k.num)
    (hg : ∀ k, g (f k) = g k) (s : State) (n : Nat) : g (s.mapCoreAt n f).core = g s.core := by
  unfold State.mapCoreAt State.setCore
  rw [hnum, State.coreAt_num]
  split
  · next h => rw [hg, State.coreAt, if_pos h]
  · rfl

@[simp] theorem State.mapCoreAt_cycle (s : State) (n : Nat) (f : Core → Core) : (s.mapCoreAt n f).cycle = s.cycle := by
  unfold State.mapCoreAt State.setCore
  split <;> rfl

@[simp] theorem Core.setLaunchTag_num (k : Core) (lid : BitVec 32) (i : Nat) (full : Bool) :
    (k.setLaunchTag lid i full).num = k.num := by
  unfold Core.setLaunchTag
  split <;> rfl

@[simp] theorem Core.setLaunchTag_ops (k : Core) (lid : BitVec 32) (i : Nat) (full : Bool) :
    (k.setLaunchTag lid i full).set.ops = k.set.ops := by
  unfold Core.setLaunchTag
  split <;> rfl

/-- The tag changes of a completed operation. -/
def State.changeTags (s : State) (l : List (Nat × Nat × Bool)) : State :=
  l.foldl (fun s c => s.mapCoreAt c.1 (fun k => k.setLaunchTag s.unit.lid c.2.1 c.2.2)) s

@[simp] theorem State.changeTags_mem (s : State) (l : List (Nat × Nat × Bool)) : (s.changeTags l).mem = s.mem :=
  State.foldl_mem (fun _ _ => State.mapCoreAt_mem ..) l s

theorem State.changeTags_keep {α : Type} (g : State → α)
    (hg : ∀ s n lid i full, g (State.mapCoreAt s n (fun k => k.setLaunchTag lid i full)) = g s)
    (l : List (Nat × Nat × Bool)) (s : State) : g (s.changeTags l) = g s := by
  induction l generalizing s with
  | nil => rfl
  | cons c rest ih => exact (ih _).trans (hg ..)

section

variable (s : State) (l : List (Nat × Nat × Bool))

@[simp] theorem State.changeTags_num : (s.changeTags l).core.num = s.core.num :=
  State.changeTags_keep (fun s => s.core.num)
    (fun _ _ _ _ _ => State.mapCoreAt_keep Core.num (by simp) (by simp) _ _) l s

@[simp] theorem State.changeTags_ops : (s.changeTags l).core.set.ops = s.core.set.ops :=
  State.changeTags_keep (fun s => s.core.set.ops)
    (fun _ _ _ _ _ => State.mapCoreAt_keep (fun k => k.set.ops) (by simp) (by simp) _ _) l s

@[simp] theorem State.changeTags_cycle : (s.changeTags l).cycle = s.cycle :=
  State.changeTags_keep State.cycle (by simp) l s

end

end Sys2Proof.Machine
end

section
/-!
SUPPORT. An engine operation that starts, copies on and ends (R182, R185): the event that takes each step, and what the
step leaves of the operation.
-/

namespace Sys2Proof.Machine

/-! ### The units copied (R183, R185) -/

/-- The places that the bytes of an operation's units go to. -/
def State.copied (s : State) (w : EngWork) (units : List (EngAt × List Byte)) : List (EngAt × List Byte) :=
  match w with
  | .spread _ _ _ _ _ cores => units.flatMap (s.spreadUnit cores)
  | _ => units

/-- An operation's run after `n` more units, with the packets that ask for them and those that write them, or after a
fault. -/
def EngOp.ranOn (e : EngOp) (r : EngRun) (asked ids : List Nat) (n : Nat) (fault : Option (Nat × Nat)) : EngRun :=
  match fault with
  | some f => ⟨r.writes ++ asked ++ ids, engStatus f.1 f.2, [], e.work.units.length⟩
  | none => { r with writes := r.writes ++ asked ++ ids, done := r.done + n }

theorem State.copyOn_eq {s v u w : State} {e : EngOp} {r : EngRun} {asked ids : List Nat}
    {units : List (EngAt × List Byte)} {fault : Option (Nat × Nat)}
    (hask : s.requestUnits e (e.work.next r.done) = (v, asked))
    (hread : v.readAs e.phase e.home (State.gather e.work.usesPeers (e.work.next r.done)) = (u, units, fault))
    (hwrite : u.engWrite e.queue (u.copied e.work units) = (w, ids)) :
    s.copyOn e r = w.mapSet (fun c => c.setRun e.id (e.ranOn r asked ids (e.work.next r.done).length fault)) := by
  obtain ⟨rfl, rfl⟩ := Prod.mk.inj hwrite
  unfold State.copyOn
  dsimp only
  rw [hask]
  dsimp only
  rw [hread]
  cases fault <;> rfl

theorem CSet.run_of_mem_setRun {c : CSet} {id : Nat} {r : EngRun} {x : EngOp} (h : x ∈ (c.setRun id r).eng)
    (hid : x.id = id) : x.run = some r := by
  obtain ⟨y, -, rfl⟩ := List.mem_map.mp h
  split
  · rfl
  · next hne => simp_all

/-! ### The events -/

theorem exec_engineOperationStart_of_mayStart {s : State} {e : EngOp} {q : Nat}
    (hhead : (s.core.set.queueOps q).head? = some e) (hstart : s.mayStart e = true) :
    exec (.engineOperationStart q) s = .next (s.startEngine e) := by
  rw [exec_engineOperationStart, execEngineOperationStart, hhead]
  exact when_next hstart

/-- A look at an operation of the current core that leaves the core's number. -/
theorem exec_tokenCompletion_current {s : State} {id : Nat} {o : Op} (hop : s.core.set.op id = some o)
    (hnum : (s.completeOn id).core.num = s.core.num) : exec (.tokenCompletion id) s = .next (s.completeOn id) := by
  rw [exec_tokenCompletion, execTokenCompletion, State.coreOfOp_current hop]
  exact congrArg _ (State.onCore_self hnum)

/-- A look at an operation that waits for its engine's work, or at a TINVAL, is the same whether its set runs or not. -/
theorem State.completeOn_eq {s u : State} {id : Nat} {o : Op} (hop : s.core.set.op id = some o)
    (hhere : s.completeHere id o.wait = u) (haway : s.completeAway id o.wait = u) : s.completeOn id = u := by
  unfold State.completeOn
  rw [hop]
  dsimp only
  split
  · exact hhere
  · exact haway

theorem State.completeOn_engine {s : State} {id n : Nat} {o : Op} (hop : s.core.set.op id = some o)
    (hwait : o.wait = .engine n) : s.completeOn id = s.endEngine n :=
  State.completeOn_eq hop (by rw [hwait]; rfl) (by rw [hwait]; rfl)

/-- An operation that settles is on its way with its value. -/
theorem State.settle_waitsFor {s : State} {id : Nat} (h : id ∈ s.core.set.ops.map Op.id) (v : Word) (e : ErrKind) :
    (s.settle id v e).waitsFor id (.ready v e (s.cycle + 1)) :=
  State.waitsFor_of_rewait (c := s.core.set) rfl h

/-- The state in which operation `n` has left its queue. -/
def State.leaveQueue (s : State) (n : Nat) : State :=
  s.mapSet (fun c => { c with eng := c.eng.filter (fun x => x.id ≠ n) })

section

variable {s : State} {e : EngOp} {r : EngRun} (hfind : s.core.set.eng.find? (fun x => x.id == e.id) = some e)
  (hrun : e.run = some r)
include hfind hrun

theorem State.endEngine_of_units (hdone : r.done < e.work.units.length) (hroom : s.engRoom e r.done = true) :
    s.endEngine e.id = s.copyOn e r := by
  simp [State.endEngine, hfind, hrun, hdone, hroom]

theorem State.endEngine_of_applied (hdone : r.done ≥ e.work.units.length) (hall : r.writes.all s.arrivedId = true) :
    s.endEngine e.id = ((s.changeTags r.tags).leaveQueue e.id).settle e.id r.value .clear := by
  simp only [State.endEngine, hfind, hrun, if_neg (Nat.not_lt.mpr hdone), if_pos hall]
  rfl

end

end Sys2Proof.Machine
end

section
/-!
SUPPORT. A fill of a range in the core's own scratchpad window (R105, R183, R185): the units copied together, and the
bytes that they leave in memory.
-/

namespace Sys2Proof.Machine

/-! ### Bytes written one run after the other (R2) -/

/-- Runs of bytes written one after the other, each from its address up. -/
def Memory.putAll (m : Memory) (l : List (Nat × List Byte)) : Memory := l.foldl (fun m x => m.putBytes x.1 x.2) m

/-- Where every run that reaches an address gives it the same byte, and the byte stood there or some run reaches the
address, the byte stands there afterwards. -/
theorem Memory.get_putAll {l : List (Nat × List Byte)} {y : Nat} {b : Byte}
    (hagree : ∀ x ∈ l, ∀ j (hj : j < x.2.length), x.1 + j = y → x.2[j] = b) {m : Memory} (hm : m.wf)
    (hy : m.get y = b ∨ ∃ x ∈ l, ∃ j < x.2.length, x.1 + j = y) : (m.putAll l).get y = b := by
  induction l generalizing m with
  | nil => exact hy.resolve_right (by simp)
  | cons x rest ih =>
    refine ih (fun z hz => hagree z (List.mem_cons_of_mem _ hz)) (Memory.putBytes_wf x.1 x.2 hm) ?_
    by_cases hin : ∃ j < x.2.length, x.1 + j = y
    · obtain ⟨j, hj, rfl⟩ := hin
      exact .inl ((Memory.get_putBytes_inside x.1 j x.2 hm hj).trans (hagree x List.mem_cons_self j hj rfl))
    · have hout : y < x.1 ∨ x.1 + x.2.length ≤ y := by
        by_contra hc
        exact hin ⟨y - x.1, by omega, by omega⟩
      rw [Memory.get_putBytes_outside x.1 y x.2 hm hout]
      refine hy.imp_right fun ⟨z, hz, hzy⟩ => ⟨z, ?_, hzy⟩
      exact (List.mem_cons.mp hz).resolve_left (fun h => hin (h ▸ hzy))

theorem Memory.putBytes_append (bs cs : List Byte) (m : Memory) (a : Nat) :
    m.putBytes a (bs ++ cs) = (m.putBytes a bs).putBytes (a + bs.length) cs := by
  induction bs generalizing m a with
  | nil => rfl
  | cons b bs ih =>
    rw [List.cons_append, Memory.putBytes, ih, Memory.putBytes, List.length_cons, Nat.add_assoc, Nat.add_comm 1]

theorem getElem_leBytes (n v j : Nat) (hj : j < (leBytes n v).length) :
    (leBytes n v)[j] = BitVec.ofNat 8 (v / 256 ^ j) := by
  induction n generalizing v j with
  | zero => simp [leBytes] at hj
  | succ n ih =>
    cases j with
    | zero => simp [leBytes]
    | succ j =>
      simp only [leBytes, List.getElem_cons_succ]
      rw [ih, Nat.div_div_eq_div_mul, Nat.pow_succ']

/-! ### A write in the window (R105, R262) -/

/-- The bytes that a write of spans in the window leaves. -/
def Memory.putSpans : List Span → List Byte → Memory → Memory
  | [], _, m => m
  | sp :: rest, bs, m => Memory.putSpans rest (bs.drop sp.n) (m.putBytes sp.pa (bs.take sp.n))

theorem State.writeSpans_window_mem (source : Source) (l : List Span) (bs : List Byte) (s : State) :
    (State.writeSpans source true l bs s).1.mem = Memory.putSpans l bs s.mem := by
  induction l generalizing bs s with
  | nil => rfl
  | cons sp rest ih =>
    refine (ih (bs.drop sp.n) _).trans ?_
    rw [Memory.putSpans, ← State.apply_mem]

/-- Two neighbouring spans joined take the same bytes. -/
theorem Memory.putBytes_take_add (m : Memory) (a n k : Nat) (bs : List Byte) :
    m.putBytes a (bs.take (n + k)) = (m.putBytes a (bs.take n)).putBytes (a + n) ((bs.drop n).take k) := by
  rw [List.take_add, Memory.putBytes_append]
  by_cases h : n ≤ bs.length
  · rw [List.length_take_of_le h]
  · rw [List.drop_eq_nil_of_le (by omega)]
    simp [Memory.putBytes]

theorem Memory.putSpans_joinSpans (l : List Span) (bs : List Byte) (m : Memory) :
    Memory.putSpans (joinSpans l) bs m = Memory.putSpans l bs m := by
  induction l generalizing bs m with
  | nil => rfl
  | cons sp rest ih =>
    rw [joinSpans, Memory.putSpans, ← ih]
    cases joinSpans rest with
    | nil => rfl
    | cons next more =>
      dsimp only
      split
      · next hjoin => rw [Memory.putSpans, Memory.putBytes_take_add, hjoin.1, Memory.putSpans, List.drop_drop]
      · rfl

theorem Memory.putSpans_flatMap (l : List (Span × List Byte)) (h : ∀ x ∈ l, x.2.length = x.1.n) (m : Memory) :
    Memory.putSpans (l.map (·.1)) (l.flatMap (·.2)) m = m.putAll (l.map (fun x => (x.1.pa, x.2))) := by
  induction l generalizing m with
  | nil => rfl
  | cons x rest ih =>
    have hx := h x List.mem_cons_self
    rw [List.map_cons, List.flatMap_cons, Memory.putSpans, List.take_left' hx, List.drop_left' hx,
      ih (fun y hy => h y (List.mem_cons_of_mem _ hy))]
    rfl

/-! ### Places in the window (R105, R106) -/

theorem windowPa_injective {core : Nat} {sliced half : Bool} {o p : Nat}
    (h : windowPa core sliced half o = windowPa core sliced half p) : o = p := by
  unfold windowPa at h
  cases sliced
  · simpa using h
  · cases half <;> simp at h <;> omega

theorem windowPa_add {o j : Nat} (core : Nat) (sliced half : Bool) (ho : o % 16 = 0) (hj : j < 16) :
    windowPa core sliced half (o + j) = windowPa core sliced half o + j := by
  have hunit : (o + j) / 16 = o / 16 := by omega
  have hbyte : (o + j) % 16 = o % 16 + j := by omega
  unfold windowPa
  rw [hunit, hbyte]
  split <;> omega

theorem piecesOf_unit {va : Nat} (h : va % 16 = 0) : piecesOf va 16 = [(va, 16)] := by
  have hone : (va + 16 + 15) / 16 - va / 16 = 1 := by omega
  have hlo : max va (16 * (va / 16)) = va := by omega
  have hlen : min (va + 16) (16 * (va / 16 + 1)) - va = 16 := by omega
  simp [piecesOf, hone, hlo, hlen]

theorem lt_of_window {va : Nat} {sliced : Bool} (h : va < windowBase + windowSize sliced) : va < 2 ^ 48 := by
  have hsize : windowSize sliced ≤ 0x180000 := by unfold windowSize; split <;> omega
  simp only [windowBase] at h
  omega

/-- The span of the unit at an aligned address of the window. -/
def State.unitSpan (s : State) (va : Nat) : Span :=
  ⟨va, windowPa s.core.num s.core.sliced s.core.half (va - windowBase), 16⟩

/-- A unit at an aligned address within the window. -/
def State.inWindow (s : State) (va : Nat) : Prop :=
  windowBase ≤ va ∧ va % 16 = 0 ∧ va + 16 ≤ windowBase + windowSize s.core.sliced

theorem State.unitAt_window {s : State} {va : Nat} (h : s.inWindow va) (kind : AccKind) (peers : Bool) :
    s.unitAt kind peers va = (s, .ok (.window (s.unitSpan va))) := by
  obtain ⟨hbase, halign, hend⟩ := h
  have hlt : va < 2 ^ 48 := lt_of_window (sliced := s.core.sliced) (by omega)
  have hin : inWindowPart va = true := decide_eq_true hbase
  have hoff : (va - windowBase) % 16 = 0 := by simp only [windowBase] at hbase ⊢; omega
  have hfits : va - windowBase + 16 ≤ windowSize s.core.sliced := by omega
  have hres : s.resolve kind va 16 = (s, .ok (true, [s.unitSpan va])) := by
    simp [State.resolve, State.resolveBy, hin, hfits, show va < 281474976710656 from hlt, State.windowSpans,
      piecesOf_unit hoff, State.unitSpan, Nat.add_sub_cancel' hbase]
  unfold State.unitAt
  rw [if_neg (Nat.not_le.mpr hlt), hin, hres]
  simp

/-- Units with bytes given, all in the window, are gathered without a fault and without a change of the state. -/
theorem State.gather_given {s : State} {l : List (Nat × List Byte)} (h : ∀ x ∈ l, s.inWindow x.1) (peers : Bool) :
    State.gather peers (l.map (fun x => (x.1, .given x.2))) s =
      (s, l.map (fun x => (.window (s.unitSpan x.1), x.2)), none) := by
  induction l with
  | nil => rfl
  | cons x rest ih =>
    rw [List.map_cons, State.gather]
    simp only [State.readUnit, State.unitAt_window (h x List.mem_cons_self),
      ih (fun y hy => h y (List.mem_cons_of_mem _ hy))]
    rfl

theorem State.engWrite_window_mem (s : State) (q : Nat) (l : List (Span × List Byte))
    (h : ∀ x ∈ l, x.2.length = x.1.n) :
    (s.engWrite q (l.map (fun x => (.window x.1, x.2)))).1.mem = s.mem.putAll (l.map (fun x => (x.1.pa, x.2))) := by
  have hhere : l.filterMap (fun x => some (x.1, x.2)) = l := by simp
  have helse {β : Type} : l.filterMap (fun _ => (none : Option β)) = [] := by simp
  unfold State.engWrite
  simp only [List.filterMap_map, Function.comp_def, hhere, helse]
  calc (s.write (.engine q) true (l.map (·.1)) (l.flatMap (·.2))).1.mem
      = Memory.putSpans (l.map (·.1)) (l.flatMap (·.2)) s.mem := by
        rw [State.write, State.writeSpans_window_mem, Memory.putSpans_joinSpans]
    _ = _ := Memory.putSpans_flatMap l h s.mem

/-! ### The units of a fill that are copied together (R185) -/

/-- What holds of the numbers up to some place, and not there, takes them up to that place. -/
theorem takeWhile_range' {p : Nat → Bool} {a n k : Nat} (hp : ∀ i, a ≤ i → i < a + k → p i = true)
    (hstop : k < n → p (a + k) = false) (hk : k ≤ n) : (List.range' a n).takeWhile p = List.range' a k := by
  have hall : ∀ i ∈ List.range' a k, p i = true := fun i hi => by
    obtain ⟨h1, h2⟩ := List.mem_range'_1.mp hi
    exact hp i h1 h2
  obtain ⟨m, rfl⟩ := Nat.exists_eq_add_of_le hk
  rw [← List.range'_append (step := 1), List.takeWhile_append_of_pos hall, Nat.one_mul]
  cases m with
  | zero => simp
  | succ m => simp [List.range'_succ, hstop (by omega)]

/-- The 16 bytes of a fill's pattern. -/
def fillBytes (pattern : Word) : List Byte := leBytes 8 pattern.toNat ++ leBytes 8 pattern.toNat

theorem getElem_fillBytes (pattern : Word) (j : Nat) (hj : j < (fillBytes pattern).length) :
    (fillBytes pattern)[j] = BitVec.ofNat 8 (pattern.toNat / 256 ^ (j % 8)) := by
  have hlen : j < 16 := by simpa [fillBytes] using hj
  simp only [fillBytes, List.getElem_append, leBytes_length, getElem_leBytes]
  split
  · next h => rw [Nat.mod_eq_of_lt h]
  · next h => rw [show j % 8 = j - 8 by omega]

/-- Where the units that a fill copies next, after `done` of them, end in its range. -/
def fillStop (dst len done : Nat) : Nat := min len ((dst + 16 * done) / 256 * 256 + 256 - dst)

/-- The addresses and the bytes of the units that a fill copies next. -/
def fillUnits (dst len : Nat) (pattern : Word) (done : Nat) : List (Nat × List Byte) :=
  (List.range' done (fillStop dst len done / 16 - done)).map (fun i => (dst + 16 * i, fillBytes pattern))

theorem EngWork.next_eq_takeWhile {w : EngWork} {done : Nat} {u : Nat × EngSrc}
    (h : (w.units.drop done).head? = some u) :
    w.next done = (w.units.drop done).takeWhile (fun x => unitRun x == unitRun u) := by
  obtain ⟨rest, hrest⟩ := List.head?_eq_some_iff.mp h
  simp [EngWork.next, hrest]

theorem EngWork.next_fill {dst len done : Nat} (pattern : Word) (hdst : dst % 16 = 0) (hlen : len % 16 = 0)
    (hdone : 16 * done < len) :
    (EngWork.fill dst len pattern).next done =
      (fillUnits dst len pattern done).map (fun x => (x.1, .given x.2)) := by
  have hdrop : (EngWork.fill dst len pattern).units.drop done = (List.range' done (len / 16 - done)).map
      (fun i => (dst + 16 * i, .given (fillBytes pattern))) := by
    simp [EngWork.units, ← List.map_drop, List.range_eq_range', List.drop_range', fillBytes]
  have hfirst : ((EngWork.fill dst len pattern).units.drop done).head? =
      some (dst + 16 * done, .given (fillBytes pattern)) := by
    rw [hdrop, List.head?_map, List.head?_range', if_neg (by omega)]
    rfl
  rw [EngWork.next_eq_takeWhile hfirst, hdrop, List.takeWhile_map,
    takeWhile_range' (k := fillStop dst len done / 16 - done)]
  · simp [fillUnits]
  · intro i hi hlt
    have hstop : fillStop dst len done = min len ((dst + 16 * done) / 256 * 256 + 256 - dst) := rfl
    have hblock : (dst + 16 * i) / 256 = (dst + 16 * done) / 256 := by omega
    simp [unitRun, EngSrc.block, hblock]
  · intro hlt
    have hstop : fillStop dst len done = min len ((dst + 16 * done) / 256 * 256 + 256 - dst) := rfl
    have hblock : (dst + 16 * (done + (fillStop dst len done / 16 - done))) / 256 ≠ (dst + 16 * done) / 256 := by omega
    simp [unitRun, EngSrc.block, hblock]
  · have hstop : fillStop dst len done ≤ len := Nat.min_le_left ..
    omega

/-! ### The bytes that a fill leaves (R105, R185) -/

theorem State.requestUnits_given (s : State) (e : EngOp) (l : List (Nat × List Byte)) :
    s.requestUnits e (l.map (fun x => (x.1, .given x.2))) = (s, []) := by
  have hasks : asksRead (l.map (fun x => (x.1, EngSrc.given x.2))) = false := by
    simp [asksRead, EngSrc.block]
  unfold State.requestUnits
  rw [hasks]
  cases l <;> rfl

/-- A read that changes nothing, made as one of another phase, changes no byte of memory. -/
theorem State.readAs_of_unchanged {α : Type} {s : State} {f : State → State × α} {a : α}
    (h : ∀ g, f (s.mapUnit g) = (s.mapUnit g, a)) (phase : Nat) (home : Bool) :
    ∃ u, s.readAs phase home f = (u, a) ∧ u.mem = s.mem := by
  unfold State.readAs
  rw [h]
  exact ⟨_, rfl, rfl⟩

section Fill

variable {s : State} {e : EngOp} {r : EngRun} {dst len : Nat} {pattern : Word} (hbase : windowBase ≤ dst)
  (hdst : dst % 16 = 0) (hlen : len % 16 = 0) (hend : dst + len ≤ windowBase + windowSize s.core.sliced)
  (hdone : 16 * r.done < len)
include hbase hdst hlen hend hdone

theorem State.inWindow_of_mem_fillUnits {x : Nat × List Byte} (hx : x ∈ fillUnits dst len pattern r.done) :
    s.inWindow x.1 := by
  obtain ⟨i, hi, rfl⟩ := List.mem_map.mp hx
  have hrange := List.mem_range'_1.mp hi
  have hstop : fillStop dst len r.done ≤ len := Nat.min_le_left ..
  dsimp only
  exact ⟨by omega, by omega, by omega⟩

variable (hwork : e.work = .fill dst len pattern)
include hwork

theorem State.copyOn_fill_mem : (s.copyOn e r).mem = s.mem.putAll ((fillUnits dst len pattern r.done).map
    (fun x => (windowPa s.core.num s.core.sliced s.core.half (x.1 - windowBase), x.2))) := by
  have hnext : e.work.next r.done = (fillUnits dst len pattern r.done).map (fun x => (x.1, .given x.2)) := by
    rw [hwork, EngWork.next_fill pattern hdst hlen hdone]
  have hask : s.requestUnits e (e.work.next r.done) = (s, []) := hnext ▸ s.requestUnits_given e _
  have hin : ∀ x ∈ fillUnits dst len pattern r.done, s.inWindow x.1 := fun x hx =>
    State.inWindow_of_mem_fillUnits hbase hdst hlen hend hdone hx
  have hgather (g : UnitCtx → UnitCtx) : State.gather e.work.usesPeers (e.work.next r.done) (s.mapUnit g) =
      (s.mapUnit g, ((fillUnits dst len pattern r.done).map (fun x => (s.unitSpan x.1, x.2))).map
        (fun x => (.window x.1, x.2)), none) := by
    rw [hnext, State.gather_given (s := s.mapUnit g) hin, List.map_map]
    rfl
  obtain ⟨u, hread, hmem⟩ := State.readAs_of_unchanged hgather e.phase e.home
  have hlength : ∀ x ∈ (fillUnits dst len pattern r.done).map (fun x => (s.unitSpan x.1, x.2)),
      x.2.length = x.1.n := by
    intro x hx
    simp only [fillUnits, List.map_map] at hx
    obtain ⟨i, -, rfl⟩ := List.mem_map.mp hx
    simp [fillBytes, State.unitSpan]
  have hcopied (units : List (EngAt × List Byte)) : u.copied e.work units = units := by rw [hwork]; rfl
  rw [State.copyOn_eq hask hread Prod.mk.eta.symm, State.mapSet_mem, hcopied,
    State.engWrite_window_mem _ _ _ hlength, hmem, List.map_map]
  rfl

/-- The bytes of the part of its range that a fill copies next are those of its pattern, and no other byte changes. -/
theorem State.copyOn_fill_get (hwf : s.mem.wf) {x : Nat} {b : Byte}
    (hagree : ∀ i, 16 * r.done ≤ i → i < fillStop dst len r.done →
      windowPa s.core.num s.core.sliced s.core.half (dst - windowBase + i) = x →
      BitVec.ofNat 8 (pattern.toNat / 256 ^ (i % 8)) = b)
    (hx : s.mem.get x = b ∨ ∃ i, 16 * r.done ≤ i ∧ i < fillStop dst len r.done ∧
      windowPa s.core.num s.core.sliced s.core.half (dst - windowBase + i) = x) :
    (s.copyOn e r).mem.get x = b := by
  have hplace (k j : Nat) (hj : j < 16) :
      windowPa s.core.num s.core.sliced s.core.half (dst + 16 * k - windowBase) + j =
        windowPa s.core.num s.core.sliced s.core.half (dst - windowBase + (16 * k + j)) := by
    have hunit : (dst + 16 * k - windowBase) % 16 = 0 := by simp only [windowBase] at hbase ⊢; omega
    have hsum : dst - windowBase + (16 * k + j) = dst + 16 * k - windowBase + j := by omega
    rw [hsum, windowPa_add _ _ _ hunit hj]
  have hstop : fillStop dst len r.done % 16 = 0 := by
    unfold fillStop
    omega
  rw [State.copyOn_fill_mem hbase hdst hlen hend hdone hwork]
  refine Memory.get_putAll ?_ hwf (hx.imp_right ?_)
  · intro y hy j hj hyx
    simp only [fillUnits, List.map_map, List.mem_map, List.mem_range'_1] at hy
    obtain ⟨k, hk, rfl⟩ := hy
    have hj16 : j < 16 := by simpa [fillBytes] using hj
    refine (getElem_fillBytes pattern j hj).trans ?_
    have := hagree (16 * k + j) (by omega) (by omega) ((hplace k j hj16).symm.trans hyx)
    rwa [show (16 * k + j) % 8 = j % 8 by omega] at this
  · rintro ⟨i, hi, hlt, hix⟩
    refine ⟨_, List.mem_map_of_mem (List.mem_map.mpr ⟨i / 16, List.mem_range'_1.mpr (by omega), rfl⟩), i % 16, ?_, ?_⟩
    · simp [fillBytes]
      omega
    · refine (hplace (i / 16) (i % 16) (Nat.mod_lt _ (by omega))).trans ?_
      rwa [Nat.div_add_mod]

end Fill

end Sys2Proof.Machine

open Sys2Proof Sys2Proof.Machine in
/-- Settles O30: an operation that starts or copies on is `copyOn`, whose parts the statement names, and a fill's part
of its range is written by units of 16 bytes; an operation whose writes are applied leaves its queue. -/
theorem engineOperationsStart : Obligations.EngineOperationsStart := by
  intro s e goes
  have hgoes {i : Instr} {r : EngRun} (hexec : exec i s = .next (s.copyOn e r)) : goes i r := by
    refine ⟨fun v asked u units fault w ids hask hread hwrite => ?_,
      fun dst len pattern hwork hwf hbase hdst hlen hend hdone => ?_⟩
    · rw [State.copyOn_eq hask hread hwrite] at hexec
      refine ⟨_, hexec, rfl, rfl, fun x hx hid => ⟨_, CSet.run_of_mem_setRun hx hid, ?_⟩⟩
      cases fault <;> simp [EngOp.ranOn]
    · refine ⟨_, hexec, fun i hi hlt => ?_, fun x hout => ?_⟩
      · exact State.copyOn_fill_get hbase hdst hlen hend hdone hwork hwf
          (fun k _ _ hk => by rw [Nat.add_left_cancel (windowPa_injective hk)]) (.inr ⟨i, hi, hlt, rfl⟩)
      · exact State.copyOn_fill_get hbase hdst hlen hend hdone hwork hwf
          (fun k hk hlt hkx => absurd hkx (hout k hk hlt)) (.inl rfl)
  refine ⟨fun q hhead hstart => hgoes (exec_engineOperationStart_of_mayStart hhead hstart),
    fun id o r hop hwait hfind hrun => ⟨fun hdone hroom => ?_, fun hdone hall hid => ?_⟩⟩
  · have hon := (State.completeOn_engine hop hwait).trans (State.endEngine_of_units hfind hrun hdone hroom)
    have hexec := exec_tokenCompletion_current hop (by rw [hon, State.copyOn_num])
    exact hgoes (hon ▸ hexec)
  · have hon := (State.completeOn_engine hop hwait).trans (State.endEngine_of_applied hfind hrun hdone hall)
    have hexec := exec_tokenCompletion_current hop (by rw [hon]; exact State.changeTags_num s r.tags)
    subst hid
    rw [hon] at hexec
    refine ⟨_, hexec, fun x hx => ?_, s.changeTags_mem r.tags, ?_⟩
    · exact of_decide_eq_true (List.mem_filter.mp hx).2
    · have hid : e.id ∈ ((s.changeTags r.tags).leaveQueue e.id).core.set.ops.map Op.id := by
        have hids : e.id ∈ s.core.set.ops.map Op.id := CSet.op_ne_none_iff.mp (by simp [hop])
        rwa [← s.changeTags_ops r.tags] at hids
      have hwaits := State.settle_waitsFor hid r.value .clear
      rwa [show ((s.changeTags r.tags).leaveQueue e.id).cycle = s.cycle from s.changeTags_cycle r.tags] at hwaits
end

section
/-!
SUPPORT. ENG instructions where no register holds them back (R182 to R186): an operation that enters its queue, a
failure of its operands, and the values that the checks of the operands give.
-/

namespace Sys2Proof.Machine

/-! ### What an ENG instruction does (R182, R186) -/

section Issue

variable {i : Instr} {t : Reg} {regs : List Reg} {q : BitVec 4} {check : State → Option (Nat × Nat)}
  {work : State → EngWork} {s : State} (hexec : exec i s = engInstr i t regs q check work s)
  (hw : i.wellFormed = true) (hiss : s.mayIssue regs t 0)
include hexec hw hiss

theorem exec_engInstr_of_full (hfull : (s.core.set.queueOps q.toNat).length ≥ 16) : exec i s = .next s := by
  rw [hexec, engInstr, issue_next hw hiss, if_pos hfull]

variable (hroom : (s.core.set.queueOps q.toNat).length < 16)
include hroom

theorem exec_engInstr_of_failure {status va : Nat} (hcheck : check s = some (status, va)) :
    exec i s = .next (s.engFails t status va).advance := by
  rw [hexec, engInstr, issue_next hw hiss, if_neg (Nat.not_le.mpr hroom), hcheck]

theorem exec_engInstr_of_good (hcheck : check s = none) :
    exec i s = .next (s.enterQueue t q.toNat (work s)).advance := by
  rw [hexec, engInstr, issue_next hw hiss, if_neg (Nat.not_le.mpr hroom), hcheck]

end Issue

theorem State.engFails_eq (s : State) (t : Reg) (status : Nat) {va : Nat} (h : va < 2 ^ 48) :
    s.engFails t status va = s.later t .other (BitVec.ofNat 64 (2 ^ 63 + va * 256 + status)) .clear 1 := by
  rw [State.engFails, engStatus, statusWord, Nat.mod_eq_of_lt h]

theorem State.enterQueue_began (s : State) (t : Reg) (q : Nat) (work : EngWork) :
    s.began (s.enterQueue t q work).advance t .other (.engine s.net.nextId) := by
  simp [State.began, State.enterQueue]

theorem State.enterQueue_eng (s : State) (t : Reg) (q : Nat) (work : EngWork) :
    (s.enterQueue t q work).advance.core.set.eng = s.core.set.eng ++
      [⟨s.net.nextId, q, t, work, s.core.set.fencedBy q, s.unit.phase, s.unit.bypass, none⟩] := by
  simp [State.enterQueue]

/-! ### The checks of operands (R183, R185) -/

theorem lengthBad_eq_false {len : Nat} (h : len ≠ 0 ∧ len % 16 = 0 ∧ len ≤ 2 ^ 32) : lengthBad len = false := by
  obtain ⟨h0, halign, hmax⟩ := h
  simp [lengthBad, h0, halign, show len ≤ 4294967296 from hmax]

theorem shapeCheck_of_misaligned {a : Nat} (h : a % 16 ≠ 0) (rest : List Nat) (len : Nat) :
    shapeCheck (a :: rest) len = some (0x45, a) := by
  simp [shapeCheck, h]

theorem shapeCheck_of_good {addrs : List Nat} {len : Nat} (h : ∀ a ∈ addrs, a % 16 = 0) (hlen : lengthBad len = false) :
    shapeCheck addrs len = none := by
  have hnone : addrs.find? (fun a => a % 16 ≠ 0) = none := by simpa using h
  rw [shapeCheck, hnone]
  simp [hlen]

theorem copyCheck_of_misaligned {dst : Nat} (h : dst % 16 ≠ 0) (src len : Nat) :
    copyCheck dst src len = some (0x45, dst) := by
  rw [copyCheck, shapeCheck_of_misaligned h]

theorem copyCheck_of_good {dst src len : Nat} (hdst : dst % 16 = 0) (hsrc : src % 16 = 0)
    (hlen : lengthBad len = false) :
    copyCheck dst src len = if dst < src + len ∧ src < dst + len then some (0x47, dst) else none := by
  have hshape : shapeCheck [dst, src] len = none := shapeCheck_of_good (by simp [hdst, hsrc]) hlen
  simp [copyCheck, hshape, overlap]

theorem strideArg_eq (w : Word) : strideArg w = w.setWidth 32 := by
  apply BitVec.eq_of_toNat_eq
  simp [strideArg, wspan, bitSpan]

/-! ### QFENCE (R186) -/

theorem queueMask_eq (w : Word) : BitVec.ofNat 16 (wspan w 0 16) = w.setWidth 16 := by
  apply BitVec.eq_of_toNat_eq
  simp [wspan, bitSpan]

/-- The operations that a QFENCE stands behind, by its mask of queues. -/
def CSet.queueIds (c : CSet) (mask : Word) : List Nat :=
  (c.eng.filter (fun e => mask.getLsbD e.queue && decide (e.queue < 16))).map (fun e => e.id)

section Fence

variable {s : State} {t a : Reg} (hiss : s.mayIssue [a] t 0)
include hiss

theorem exec_qfence_eq : exec (.qfence t a) s = .next (if (s.core.set.queueIds (s.reg a)).isEmpty
      then (s.later t .other 0 .clear 1).advance
      else ((s.begin t .other (.queues (s.core.set.queueIds (s.reg a)))).mapSet (fun c => { c with
        fences := c.fences ++ [⟨(s.reg a).setWidth 16, s.core.set.queueIds (s.reg a)⟩] })).advance) := by
  rw [exec_qfence, execQfence, issue_next rfl hiss]
  simp only [queueMask_eq, BitVec.getLsbD_setWidth, Bool.and_comm (decide _)]
  rfl

theorem exec_qfence_of_empty (h : s.core.set.queueIds (s.reg a) = []) :
    exec (.qfence t a) s = .next (s.later t .other 0 .clear 1).advance := by
  rw [exec_qfence_eq hiss, h]
  rfl

theorem exec_qfence_of_busy (h : s.core.set.queueIds (s.reg a) ≠ []) : ∃ y, exec (.qfence t a) s = .next y ∧
    s.began y t .other (.queues (s.core.set.queueIds (s.reg a))) ∧
    y.core.set.fences = s.core.set.fences ++ [⟨(s.reg a).setWidth 16, s.core.set.queueIds (s.reg a)⟩] := by
  have hexec := exec_qfence_eq hiss
  rw [List.isEmpty_eq_false_iff.mpr h] at hexec
  exact ⟨_, hexec, by simp [State.began], by simp⟩

end Fence

end Sys2Proof.Machine

open Sys2Proof Sys2Proof.Machine in
/-- Settles O29: the operands' check is evaluated in each case, and the instruction stalls, fails with what it gives, or
enters its queue. -/
theorem engineInstructionsEnterTheirQueue : Obligations.EngineInstructionsEnterTheirQueue := by
  intro s t a b q enters fails dst src len good w tile size stride j hiss heven
  have hcopyiss : s.mayIssue [a, b, pairOf b] t 0 := hiss.mono (by simp [pairOf]) (le_refl 0)
  have hfails {i : Instr} {status va : Nat} (hva : va < 2 ^ 48)
      (h : exec i s = .next (s.engFails t status va).advance) : fails i status va := by
    rwa [State.engFails_eq s t status hva] at h
  have henters {i : Instr} {x : EngWork} (h : exec i s = .next (s.enterQueue t q.toNat x).advance) : enters i x :=
    ⟨_, h, s.enterQueue_began t q.toNat x, s.enterQueue_eng t q.toNat x⟩
  have heven2 (ha : a.isEven = true) : (a.isEven && b.isEven) = true := by rw [ha, heven]; rfl
  have hstride : strideArg w = stride := strideArg_eq w
  refine ⟨?full, fun hroom => ⟨?copy, ?misaligned, ?fill, ?tile, ?badTile, ?spread⟩, ?fence⟩
  case full =>
    intro hfull i hi hw
    simp only [List.mem_cons, List.not_mem_nil, or_false] at hi
    obtain rfl | rfl | rfl | rfl := hi
    · exact exec_engInstr_of_full (exec_acopy t a b q s) hw hcopyiss hfull
    · exact exec_engInstr_of_full (exec_acopy2 t a b q s) hw hiss hfull
    · exact exec_engInstr_of_full (exec_afill t a b q s) hw hcopyiss hfull
    · exact exec_engInstr_of_full (exec_acopyb t a b q s) hw hiss hfull
  case copy =>
    intro hdst hsrc hlen
    have hcheck := copyCheck_of_good hdst hsrc (lengthBad_eq_false hlen)
    refine ⟨fun hapart => henters ?_, fun h1 h2 hva => hfails hva ?_⟩
    · rw [if_neg (by omega)] at hcheck
      exact exec_engInstr_of_good (exec_acopy t a b q s) heven hcopyiss hroom hcheck
    · rw [if_pos ⟨h1, h2⟩] at hcheck
      exact exec_engInstr_of_failure (exec_acopy t a b q s) heven hcopyiss hroom hcheck
  case misaligned =>
    intro hdst hva
    exact ⟨hfails hva (exec_engInstr_of_failure (exec_acopy t a b q s) heven hcopyiss hroom
        (copyCheck_of_misaligned hdst _ _)),
      hfails hva (exec_engInstr_of_failure (exec_afill t a b q s) heven hcopyiss hroom
        (shapeCheck_of_misaligned hdst _ _))⟩
  case fill =>
    intro hdst hlen
    exact henters (exec_engInstr_of_good (exec_afill t a b q s) heven hcopyiss hroom
      (shapeCheck_of_good (by simpa using hdst) (lengthBad_eq_false hlen)))
  case tile =>
    intro ha hcheck
    rw [← hstride] at hcheck ⊢
    exact henters (exec_engInstr_of_good (exec_acopy2 t a b q s) (heven2 ha) hiss hroom hcheck)
  case badTile =>
    intro n va ha hva hcheck
    rw [← hstride] at hcheck
    exact hfails hva (exec_engInstr_of_failure (exec_acopy2 t a b q s) (heven2 ha) hiss hroom hcheck)
  case spread =>
    intro ha level high
    refine ⟨fun hbad => hfails (by decide) (exec_engInstr_of_failure (exec_acopyb t a b q s) (heven2 ha) hiss hroom
      (if_pos hbad)), fun hin => ⟨fun hcheck => ?_, fun n va hva hcheck => ?_⟩⟩
    · rw [← hstride] at hcheck ⊢
      exact henters (exec_engInstr_of_good (exec_acopyb t a b q s) (heven2 ha) hiss hroom
        ((if_neg (Bool.eq_false_iff.mp hin)).trans hcheck))
    · rw [← hstride] at hcheck
      exact hfails hva (exec_engInstr_of_failure (exec_acopyb t a b q s) (heven2 ha) hiss hroom
        ((if_neg (Bool.eq_false_iff.mp hin)).trans hcheck))
  case fence =>
    intro ids
    have hiss1 : s.mayIssue [a] t 0 := hiss.mono (by simp) (le_refl 0)
    exact ⟨exec_qfence_of_empty hiss1, exec_qfence_of_busy hiss1⟩
end

section
/-!
SUPPORT. XLAT instructions where no register holds them back, the end of a TINVAL, and a generator that stopped (R164,
R166, R176 to R180, R188, R189).
-/

namespace Sys2Proof.Machine

/-! ### TLOOK (R189) -/

section Look

variable {s : State} {t a : Reg} (hiss : s.mayIssue [a] t 0)
include hiss

theorem exec_tlook_translation : exec (.tlook t a 0) s = .next (s.lookAt t (s.reg a).toNat).advance := by
  rw [exec_tlook, execTlook, issue_next rfl hiss, if_pos rfl]

theorem exec_tlook_tail : exec (.tlook t a 1) s =
    .next (s.later t .other (BitVec.ofNat 64 (s.lowestTail (s.reg a).toNat)) .clear 6).advance := by
  rw [exec_tlook, execTlook, issue_next rfl hiss, if_neg (by decide)]

end Look

theorem State.lookAt_window {s : State} {va : Nat} (hbase : windowBase ≤ va)
    (hend : va < windowBase + windowSize s.core.sliced) (t : Reg) :
    s.lookAt t va = s.later t .other (s.windowWord va) .clear 6 := by
  have hlt : va < 2 ^ 48 := lt_of_window hend
  have hin : inWindowPart va = true := decide_eq_true hbase
  rw [State.lookAt, if_neg (Nat.not_le.mpr hlt), if_pos hin, if_pos (by omega)]

theorem not_ge_of_global {va : Nat} (h : va < windowBase) : ¬ va ≥ 2 ^ 48 := by
  simp only [windowBase] at h
  omega

theorem inWindowPart_of_global {va : Nat} (h : va < windowBase) : inWindowPart va = false :=
  decide_eq_false (Nat.not_le.mpr h)

section Walk

variable {s y : State} {va : Nat} (hglobal : va < windowBase) (hnone : s.part.windowAt va = none)
include hglobal hnone

theorem State.lookAt_of_leaf {l : Leaf} (hwalk : s.walk s.part .look va = (y, .ok l)) (t : Reg) :
    s.lookAt t va = y.later t .other (lookWord l va) .clear 6 := by
  rw [State.lookAt, if_neg (not_ge_of_global hglobal), inWindowPart_of_global hglobal, hnone, hwalk]
  rfl

theorem State.lookAt_of_fault {f : XFault} (hwalk : s.walk s.part .look va = (y, .error f)) (t : Reg) :
    s.lookAt t va = y.engFails t f.status va := by
  rw [State.lookAt, if_neg (not_ge_of_global hglobal), inWindowPart_of_global hglobal, hnone, hwalk]
  rfl

end Walk

/-! ### TINVAL begins (R166, R176, R188) -/

theorem exec_tinval_eq {s : State} {t a b : Reg} (hiss : s.mayIssue [a, b] t 1) (every : BitVec 1) :
    exec (.tinval t a b every) s = .next (if (s.reg a).toNat % 65536 ≠ 0 then s.engFails t 0x45 (s.reg a).toNat
      else if (s.reg b).toNat > 65536 then s.engFails t 0x27 0
      else s.begin t .other (.inval (every == 1) (pagesNamed (s.reg a).toNat (s.reg b).toNat).1
        (pagesNamed (s.reg a).toNat (s.reg b).toNat).2)).advance := by
  rw [exec_tinval, execTinval, issue_next rfl hiss]
  dsimp only
  split
  · rfl
  · split <;> rfl

theorem pagesNamed_eq (va count : Nat) : pagesNamed va count =
    (if count = 0 then 0 else va / 65536, if count = 0 then 0xFFFF0000 else count) := by
  unfold pagesNamed
  split <;> rfl

/-! ### TINVAL completes (R164, R166, R177) -/

theorem State.endInval_of_clear {s : State} {every : Bool} {first pages : Nat}
    (h : (if every then s.cores.filter (fun k => k.set.mayCache s.unit.part) else [s.core]).all
      (fun k => !k.within s.cycle first pages) = true) (id : Nat) :
    s.endInval id every first pages = (s.invalidate every first pages).settle id 0 .clear := by
  have hany : (if every then s.cores.filter (fun k => k.set.mayCache s.unit.part) else [s.core]).any
      (fun k => k.within s.cycle first pages) = false := by
    simpa [List.any_eq_false, List.all_eq_true] using h
  unfold State.endInval
  dsimp only
  rw [hany]
  rfl

theorem State.completeOn_inval {s : State} {id : Nat} {o : Op} (hop : s.core.set.op id = some o) {every : Bool}
    {first pages : Nat} (hwait : o.wait = .inval every first pages) :
    s.completeOn id = s.endInval id every first pages :=
  State.completeOn_eq hop (by rw [hwait]; rfl) (by rw [hwait]; rfl)

/-- What an invalidation leaves of the current core's set, which is of the unit's partition. -/
theorem State.invalidate_set {s : State} {u : UnitCtx} (hu : s.core.set.unit = some u) (every : Bool)
    (first pages : Nat) : (s.invalidate every first pages).core.set = s.core.set.dropPages first pages := by
  have hcache : s.core.set.mayCache s.unit.part = true := by
    simp [CSet.mayCache, State.unit, hu]
  unfold State.invalidate
  cases every <;> exact if_pos hcache

theorem State.invalidate_num (s : State) (every : Bool) (first pages : Nat) :
    (s.invalidate every first pages).core.num = s.core.num := by
  cases every <;> rfl

theorem State.invalidate_cycle (s : State) (every : Bool) (first pages : Nat) :
    (s.invalidate every first pages).cycle = s.cycle := by
  cases every <;> rfl

theorem CSet.mem_tlb_dropPages {c : CSet} {first pages : Nat} {e : TlbEntry} (h : e ∈ (c.dropPages first pages).tlb) :
    e ∈ c.tlb ∧ (e.vpn < first ∨ first + pages ≤ e.vpn) := by
  obtain ⟨hmem, hkeep⟩ := List.mem_filter.mp h
  refine ⟨hmem, ?_⟩
  simp only [TlbEntry.among, Bool.not_eq_true', Bool.and_eq_false_iff, decide_eq_false_iff_not] at hkeep
  omega

/-! ### GENRES and the trap of a stopped generator (R179, R180) -/

theorem exec_genres_eq {s : State} {t a : Reg} (hiss : s.mayIssue [a] t 1) (q : BitVec 4) :
    exec (.genres t a q) s = .next (if (s.reg a).toNat ≥ 256 ∨ (s.coreMask s.unit.part).getLsbD (s.reg a).toNat = false
      then s.engFails t 0x43 0 else s.resumeGenerator t q.toNat (s.reg a).toNat).advance := by
  rw [exec_genres, execGenres, issue_next rfl hiss]
  dsimp only
  split <;> rfl

section Resume

variable {s : State} {n : Nat} (hmn : s.core.set.hasMn s.unit.part n = true)
include hmn

theorem State.resumeGenerator_of_running (hstop : (s.core.set.fab.mnAt n).stop = none) (t : Reg) :
    s.resumeGenerator t n s.core.num = s.engFails t 0x48 0 := by
  simp [State.resumeGenerator, State.coreAt, Core.sets, hmn, hstop]

theorem State.resumeGenerator_of_stopped {st : MnStop} (hstop : (s.core.set.fab.mnAt n).stop = some st) (t : Reg) :
    s.resumeGenerator t n s.core.num = (s.mapCore (fun k => k.mapSets
      (fun x => if x.hasMn s.unit.part n then x.resumeMn n else x))).later t .other 0 .clear 1 := by
  simp [State.resumeGenerator, State.coreAt, Core.sets, hmn, hstop, State.mapCoreAt, State.setCore, Core.mapSets,
    State.mapCore]

end Resume

/-- A generator's trap among the asynchronous causes of its unit, once (R180). -/
theorem exec_generatorFault_of_stopped {s : State} {n : Nat} {st : MnStop} {u : UnitCtx}
    (hstop : (s.core.set.fab.mnAt n).stop = some st) (htold : st.told = false) (hu : s.core.set.unit = some u) :
    exec (.generatorFault n) s = .next (s.mapSet (fun c => { c with
      fab := c.fab.setMn n { c.fab.mnAt n with stop := some { st with told := true } }
      asyncs := c.asyncs ++ [⟨st.cause, stopWord n st⟩] })) := by
  rw [exec_generatorFault, execGeneratorFault, hstop]
  exact when_next (by rw [htold, hu]; rfl)

theorem stopWord_eq (n : Nat) (st : MnStop) : stopWord n st =
    BitVec.ofNat 64 (st.va.toNat + n * 2 ^ 48 + 2 ^ 52 + (if st.store then 2 ^ 53 else 0)) := by
  rw [stopWord, boolToNat_mul]

end Sys2Proof.Machine

open Sys2Proof Sys2Proof.Machine in
/-- Settles O31: each instruction completes with what its own lookup or check gives, a TINVAL with no generator in its
way drops its pages, and a stopped generator goes on or tells its unit. -/
theorem translationInstructions : Obligations.TranslationInstructions := by
  intro s t a b q n u fails va count
  have hfails {i : Instr} {status x : Nat} (hx : x < 2 ^ 48)
      (h : exec i s = .next (s.engFails t status x).advance) : fails i status x := by
    rwa [State.engFails_eq s t status hx] at h
  refine ⟨?look, ?tinval, ?complete, ?genres, ?fault⟩
  case look =>
    intro hiss
    have hexec := exec_tlook_translation hiss
    refine ⟨fun hbase hend => ?_, fun hglobal hnone => ⟨fun y l hwalk => ?_, fun y f hwalk => ?_⟩, exec_tlook_tail hiss⟩
    · rwa [State.lookAt_window hbase hend] at hexec
    · rwa [State.lookAt_of_leaf hglobal hnone hwalk] at hexec
    · rwa [State.lookAt_of_fault hglobal hnone hwalk] at hexec
  case tinval =>
    intro hiss every
    have hexec := exec_tinval_eq hiss every
    refine ⟨fun halign hva => hfails hva ?_, fun halign hmany => hfails (by decide) ?_, fun halign hfew => ?_⟩
    · rwa [if_pos halign] at hexec
    · rwa [if_neg (not_not.mpr halign), if_pos hmany] at hexec
    · rw [if_neg (not_not.mpr halign), if_neg (Nat.not_lt.mpr hfew), pagesNamed_eq] at hexec
      exact ⟨_, hexec, s.began_begin t .other _⟩
  case complete =>
    intro id every first pages hu _ _ hop hclear
    have hunit : s.unit = u := by simp [State.unit, hu]
    rw [← hunit] at hclear
    have hon := (State.completeOn_inval hop rfl).trans (State.endInval_of_clear hclear id)
    have hexec := exec_tokenCompletion_current hop (by rw [hon]; exact s.invalidate_num every first pages)
    have hset := State.invalidate_set hu every first pages
    rw [hon] at hexec
    refine ⟨_, hexec, ?_, fun e he => ?_⟩
    · have hid : id ∈ (s.invalidate every first pages).core.set.ops.map Op.id := by
        rw [hset]
        exact (CSet.op_ne_none_iff (c := s.core.set)).mp (by simp [hop])
      have hwaits := State.settle_waitsFor hid 0 .clear
      rwa [s.invalidate_cycle every first pages] at hwaits
    · have htlb : e ∈ (s.invalidate every first pages).core.set.tlb := he
      rw [hset] at htlb
      exact CSet.mem_tlb_dropPages htlb
  case genres =>
    intro hiss
    have hexec := exec_genres_eq hiss q
    refine ⟨fun hout => hfails (by decide) ?_, fun hlt hcore hown hmn => ?_⟩
    · rwa [if_pos hout] at hexec
    · have hin : ¬ ((s.reg a).toNat ≥ 256 ∨ (s.coreMask s.unit.part).getLsbD (s.reg a).toNat = false) := by
        rintro (h | h)
        · exact absurd hlt (Nat.not_lt.mpr h)
        · exact absurd (hcore.symm.trans h) (by decide)
      rw [if_neg hin, show (s.reg a).toNat = s.core.num from hown] at hexec
      refine ⟨fun hstop => hfails (by decide) ?_, fun st hstop => ?_⟩
      · rwa [State.resumeGenerator_of_running hmn hstop] at hexec
      · rw [State.resumeGenerator_of_stopped hmn hstop] at hexec
        refine ⟨_, hexec, ?_, ?_⟩
        · simp [State.began, State.later, Core.mapSets, hmn, CSet.resumeMn]
        · simp [State.later, Core.mapSets, hmn, CSet.resumeMn]
  case fault =>
    intro st hstop htold hu
    refine ⟨_, exec_generatorFault_of_stopped hstop htold hu, ?_, ?_⟩
    · simp
    · rw [State.mapSet_core, stopWord_eq]
end

section
/-!
SUPPORT. MAT instructions (R205 to R208): what each does at issue, where no earlier work holds it back.
-/

namespace Sys2Proof.Machine

/-! ### MXW (R206, R207) -/

/-- The plane that MXW's q names; none leaves it to the idle one. -/
def mxwPlane (q : BitVec 3) : Option Bool := if q.getLsbD 1 then some (q.getLsbD 2) else none

/-- MXW of a valid tile without group scales waits for the tile. -/
theorem exec_mxw_of_valid {s : State} {t a b : Reg} {q : BitVec 3} (hfree : s.unfinished [.mxw] = false)
    (hiss : s.mayIssue (s.mxwReads a b) t 0) (heven : a.isEven = true) (hgroup : q.getLsbD 0 = false)
    (htile : mxwStatus (tileOf (s.reg a) (s.reg (a + 1))) (windowSize s.core.sliced) false = none)
    (hplane : s.planeModeBad (q.getLsbD 1) = false) :
    exec (.mxw t a b q) s = .next (s.begin t .mxw (.latch (s.reg a) (s.reg (a + 1)) ((s.reg b).setWidth 32) none
      (mxwPlane q))).advance := by
  rw [exec_mxw, execMxw, issueUnless_next (i := .mxw t a b q) hfree heven hiss]
  simp only [hgroup, htile, hplane, pairOf, State.beginMxw, Bool.false_and, Bool.false_eq_true, if_false]
  rfl

/-! ### MXCLR, ACCRD and GPLD (R206, R208) -/

section Mat

variable {s : State} (hfree : s.inProgress [.cfg, .rnd, .cast, .move] = false)
include hfree

/-- A MAT instruction that no CFG or RND instruction holds back has its effect. -/
theorem matIssue_next {i : Instr} {n : Needs} {body : State → State} (hw : i.wellFormed = true)
    (h : s.mayIssue n.reads n.dest n.level) : matIssue i n body s = .next (body s) :=
  issueUnless_next hfree hw h

variable {t a b : Reg} {q : BitVec 3}

theorem exec_mxclr_of_failure (hiss : s.mayIssue [a] t 0) {n : Nat} (harg : s.anArg q.toNat = .error n) :
    exec (.mxclr t a q) s = .next (s.fails t n).advance := by
  rw [exec_mxclr, execMxclr, matIssue_next hfree rfl hiss]
  simp only [harg]

theorem exec_mxclr_of_node (hiss : s.mayIssue [a] t 0) {p : AnParams} (harg : s.anArg q.toNat = .ok p) :
    exec (.mxclr t a q) s = .next (s.beginClear t q.toNat (s.reg a)).advance := by
  rw [exec_mxclr, execMxclr, matIssue_next hfree rfl hiss]
  simp only [harg]

theorem exec_accrd_of_node (hiss : s.mayIssue [a, b] t 0) (hheld : s.globalHeld (s.reg b) = false)
    (hstitch : (s.reg a).toNat ≤ 63) {u : State} {w : Bool} {sp : List Span} {p : AnParams}
    (hcheck : s.checked .write (s.reg b) 8 520 = (u, .ok (w, sp))) (harg : u.anArg q.toNat = .ok p) :
    exec (.accrd t a b q) s = .next (u.begin t .mat (.accrd q.toNat (s.reg a).toNat w sp)).advance := by
  rw [exec_accrd, execAccrd, matIssue_next hfree rfl hiss]
  simp [hheld, hcheck, harg, Nat.not_lt.mpr hstitch]

theorem exec_gpld_of_read (hiss : s.mayIssue [a] t 0) (hheld : s.readHeld (s.reg a) = false) {u v : State} {w : Bool}
    {sp : List Span} {bs : List Byte} (hcheck : s.checked .read (s.reg a) 8 64 = (u, .ok (w, sp)))
    (hread : State.readSpans w sp u = (v, bs, none)) :
    exec (.gpld t a) s = .next (v.beginGpld t bs none).advance := by
  rw [exec_gpld, execGpld, matIssue_next hfree rfl hiss]
  simp only [hheld, hcheck, hread]
  rfl

end Mat

section

variable {s : State} {im : Image}

theorem State.anArg_of_idle (n : Nat) (hrun : s.core.set.fab.running = none) : s.anArg n = .error 0x22 := by
  simp only [State.anArg, hrun]

theorem State.anArg_of_absent {n : Nat} (hrun : s.core.set.fab.running = some im) (han : im.an n = none) :
    s.anArg n = .error 0x27 := by
  simp only [State.anArg, hrun, han]

theorem State.anArg_of_node {n : Nat} {p : AnParams} (hrun : s.core.set.fab.running = some im)
    (han : im.an n = some p) : s.anArg n = .ok p := by
  simp only [State.anArg, hrun, han]

/-- A program that passes its checks waits to take its place. -/
theorem State.beginGpld_of_accepted {p : GpParams} {bs : List Byte} (t : Reg) (hrun : s.core.set.fab.running = some im)
    (hgp : im.gp = some p) (hdetail : gpldDetail p bs = none) :
    s.beginGpld t bs none = s.begin t .mat (.parm (.gp { p with stages := stagesOf bs 0 })
      (BitVec.ofNat 64 { p with stages := stagesOf bs 0 }.latency)) := by
  simp only [State.beginGpld, hrun, hgp, hdetail]

end

/-- The stitches that MXCLR's mask names. -/
def clearedBy (mask : Word) : List Nat := (List.range 64).filter (fun k => mask.getLsbD k)

theorem clearedBy_eq_nil_iff {mask : Word} : clearedBy mask = [] ↔ mask = 0 := by
  rw [clearedBy, List.filter_eq_nil_iff]
  constructor
  · exact fun h => BitVec.eq_of_getLsbD_eq fun k hk => by simpa using h k (List.mem_range.mpr hk)
  · rintro rfl
    simp

/-- The clears stand behind all that the node has still to do. -/
theorem Fabric.foldl_toAn_anq (n : Nat) (w : AnWork) (ks : List Nat) (f : Fabric) :
    (ks.foldl (fun f k => f.toAn n k w) f).anq = f.anq ++ ks.map (fun k => ⟨n, k, w⟩) := by
  induction ks generalizing f with
  | nil => simp
  | cons k ks ih => rw [List.foldl_cons, ih, Fabric.toAn, List.append_assoc]; rfl

theorem State.beginClear_of_empty (s : State) (t : Reg) (n : Nat) : s.beginClear t n 0 = s.later t .mat 0 .clear 1 := by
  simp [State.beginClear]

theorem State.beginClear_of_mask (s : State) (t : Reg) (n : Nat) {mask : Word} (h : mask ≠ 0) :
    s.beginClear t n mask = (s.begin t .mat .clear).mapFab (fun f =>
      (clearedBy mask).foldl (fun f k => f.toAn n k (.clear s.net.nextId)) f) := by
  have hsome : (clearedBy mask).isEmpty = false := by
    rw [List.isEmpty_eq_false_iff]
    exact fun hnil => h (clearedBy_eq_nil_iff.mp hnil)
  rw [State.beginClear, ← clearedBy]
  simp [hsome]

end Sys2Proof.Machine

open Sys2Proof Sys2Proof.Machine in
/-- Settles O28: each form finds its node, and begins its operation from the state that its reads leave. -/
theorem matrixInstructionsComplete : Obligations.MatrixInstructionsComplete := by
  intro s t a b q fails
  refine ⟨?mxw, fun hfree hiss => ⟨?idle, ?absent, ?clear⟩, ?accrd, ?gpld⟩
  case mxw =>
    intro hfree hiss heven hgroup htile hplane
    exact ⟨_, exec_mxw_of_valid hfree hiss heven hgroup htile hplane, s.began_begin t .mxw _⟩
  case idle =>
    exact fun hrun => ⟨_, exec_mxclr_of_failure hfree hiss (State.anArg_of_idle _ hrun), s.failsAs_began t .other _⟩
  case absent =>
    exact fun im hrun han =>
      ⟨_, exec_mxclr_of_failure hfree hiss (State.anArg_of_absent hrun han), s.failsAs_began t .other _⟩
  case clear =>
    intro im p hrun han
    have hexec := exec_mxclr_of_node hfree hiss (State.anArg_of_node hrun han)
    refine ⟨fun hnone => ?_, fun hsome => ?_⟩
    · rw [hnone, State.beginClear_of_empty] at hexec
      exact ⟨_, hexec, s.began_begin t .mat _⟩
    · rw [State.beginClear_of_mask s t _ hsome] at hexec
      exact ⟨_, hexec, by simp [State.began], Fabric.foldl_toAn_anq ..⟩
  case accrd =>
    intro hfree hiss hheld hstitch u w sp im p hcheck hrun han
    exact ⟨_, exec_accrd_of_node hfree hiss hheld hstitch hcheck (State.anArg_of_node hrun han), u.began_begin t .mat _⟩
  case gpld =>
    intro hfree hiss hheld u v w sp bs im p hcheck hread hrun hgp hdetail
    have hexec := exec_gpld_of_read hfree hiss hheld hcheck hread
    rw [State.beginGpld_of_accepted t hrun hgp hdetail] at hexec
    exact ⟨_, hexec, v.began_begin t .mat _⟩
end

section
/-!
SUPPORT. The gate pipeline (R203, R204): what a firing leaves of the fabric, and the result of each mode.
-/

namespace Sys2Proof.Machine

/-! ### What a firing leaves -/

theorem lookup_erase_self {α β : Type} [DecidableEq α] (k : α) (l : List (α × β)) : lookup k (erase k l) = none := by
  induction l with
  | nil => rfl
  | cons a l ih =>
    unfold erase at ih ⊢
    by_cases ha : a.1 = k
    · rwa [List.filter_cons_of_neg (by simpa using ha)]
    · rw [List.filter_cons_of_pos (by simpa using ha), lookup, if_neg ha, ih]

/-- The state after a firing for stitch k that takes `x`, sends `out` and leaves `fill` as the fill of the stitch. -/
def State.gpFired (s : State) (p : GpParams) (k : Nat) (x : Taken) (out : Option Token) (fill : Option GpFill) :
    State :=
  s.mapFab (fun f => (Fabric.gpSend { f with
    held := (if x.r.isSome then removeHeld (gpInput 1) k else id) (removeHeld (gpInput 0) k f.held)
    gpFill := match fill with
      | some g => insert k g f.gpFill
      | none => erase k f.gpFill
    fired := gpElement :: f.fired } p s.cycle out).move s.cycle)

/-- The pipeline fires where nothing accepted under other parameters stands in the way, and there is room for what it
sends. -/
theorem exec_gpFiring_of_taken {s : State} {p : GpParams} {k : Nat} {x : Taken} {out : Option Token}
    {fill : Option GpFill} (hgp : s.core.set.fab.running.bind Image.gp = some p)
    (hruns : s.core.fabricRuns s.cycle = true) (hfired : s.core.set.fab.fired.contains gpElement = false)
    (htaken : s.core.set.fab.gpTaken p k = some x) (hover : s.core.set.fab.gpOver p x = none)
    (hresult : s.core.set.fab.gpResult p x = (out, fill))
    (hroom : out.isSome = true → s.core.set.fab.hasRoom p.out = true ∧ s.core.set.fab.hasRoom p.out2 = true) :
    exec (.gpFiring k) s = .next (s.gpFired p k x out fill) := by
  have hmay : (s.core.fabricRuns s.cycle && s.core.set.gpMay p out.isSome) = true := by
    rw [hruns, CSet.gpMay, hfired]
    cases hout : out.isSome with
    | false => rfl
    | true => simp [hroom hout]
  rw [exec_gpFiring, execGpFiring]
  simp only [hgp, htaken, hover, hresult, when_next hmay]
  rfl

/-- What the pipeline sends leaves by `Fabric.sendAll`. -/
theorem Fabric.gpSend_eq (f : Fabric) (p : GpParams) (now : Nat) (out : Option Token) : f.gpSend p now out =
    f.sendAll (boxOf (.gp 0)) now p.latency (out.toList.flatMap (fun r => [(p.out, r), (p.out2, r)])) := by
  cases out <;> rfl

section

variable (s : State) (p : GpParams) (k : Nat) (x : Taken) (out : Option Token) (fill : Option GpFill)

/-- Of the fabric a firing changes the buffers it takes from, the fill of its stitch, what has fired in the cycle, and
what is on its way. -/
theorem State.gpFired_fab : ∃ flights, (s.gpFired p k x out fill).core.set.fab = Fabric.move { s.core.set.fab with
    held := (if x.r.isSome then removeHeld (gpInput 1) k else id) (removeHeld (gpInput 0) k s.core.set.fab.held)
    gpFill := match fill with
      | some g => insert k g s.core.set.fab.gpFill
      | none => erase k s.core.set.fab.gpFill
    fired := gpElement :: s.core.set.fab.fired
    flights := flights } s.cycle := by
  unfold State.gpFired
  rw [State.mapFab_core, Fabric.gpSend_eq, Fabric.sendAll_eq]
  exact ⟨_, rfl⟩

theorem State.gpFired_held : (s.gpFired p k x out fill).core.set.fab.held =
    (if x.r.isSome then removeHeld (gpInput 1) k else id) (removeHeld (gpInput 0) k s.core.set.fab.held) := by
  obtain ⟨flights, h⟩ := s.gpFired_fab p k x out fill
  rw [h]
  rfl

theorem State.gpElement_mem_gpFired : gpElement ∈ (s.gpFired p k x out fill).core.set.fab.fired := by
  obtain ⟨flights, h⟩ := s.gpFired_fab p k x out fill
  rw [h]
  exact List.mem_cons_self

theorem State.gpFired_fill : lookup k (s.gpFired p k x out fill).core.set.fab.gpFill = fill := by
  obtain ⟨flights, h⟩ := s.gpFired_fab p k x out fill
  rw [h]
  cases fill with
  | none => exact lookup_erase_self k s.core.set.fab.gpFill
  | some g => exact lookup_insert_self k g s.core.set.fab.gpFill

theorem State.gpFired_flights_of_none :
    (s.gpFired p k x none fill).core.set.fab.flights = s.core.set.fab.flights := rfl

/-- What a firing sends goes to each target that there is. -/
theorem State.gpFired_sends (r : Token) {t : Target} (ht : t = p.out ∨ t = p.out2) (hsome : t ≠ noTarget) :
    (s.gpFired p k x (some r) fill).sends t r := by
  have hmem : (t, r) ∈ [(p.out, r), (p.out2, r)] := by
    rcases ht with rfl | rfl <;> simp
  exact Fabric.sendAll_sends (h := hmem) (ht := hsome) ..

end

/-! ### The result of a firing -/

section

variable {f : Fabric} {p : GpParams} {x : Taken}

theorem Fabric.gpOver_of_passed (h : x.l.tag.kind = .endOfReduction ∨ x.l.tag.kind = .order) : f.gpOver p x = none :=
  if_pos h

theorem Fabric.gpResult_of_passed (h : x.l.tag.kind = .endOfReduction ∨ x.l.tag.kind = .order) :
    f.gpResult p x = (some x.l, lookup x.l.k f.gpFill) :=
  if_pos h

/-- The result of the stages, before it is packed. -/
def Taken.gpResult (x : Taken) (p : GpParams) : Token := x.result (fun t => t.data (p.apply t.l.payload t.rp))

theorem Taken.gpResult_of_error {e : Token} (h : x.list.find? Token.isError = some e) :
    x.gpResult p = x.fail e.tag.cause 0 :=
  Taken.result_of_error _ h

theorem Taken.gpResult_of_clean (h : x.list.find? Token.isError = none) :
    x.gpResult p = x.data (p.apply x.l.payload x.rp) :=
  Taken.result_of_clean _ h

/-- The fill that a result joins: the one that stands, or an empty one. -/
def Fabric.gpFillFor (f : Fabric) (p : GpParams) (x : Taken) : GpFill :=
  (lookup x.l.k f.gpFill).getD (.fresh p (x.gpResult p))

variable (hkind : ¬ (x.l.tag.kind = .endOfReduction ∨ x.l.tag.kind = .order))
include hkind

theorem Fabric.gpOver_of_goesOn (h : ∀ g ∈ lookup x.l.k f.gpFill, g.goesOn p = true) : f.gpOver p x = none := by
  rw [Fabric.gpOver, if_neg hkind, Option.filter_eq_none_iff]
  exact fun g hg => by simp [h g hg]

theorem Fabric.gpResult_of_unpacked (hpack : p.pack = false) : f.gpResult p x = (some (x.gpResult p), none) := by
  rw [Fabric.gpResult, if_neg hkind]
  simp only [hpack]
  rfl

theorem Fabric.gpResult_of_packed (hpack : p.pack = true) : f.gpResult p x =
    if ((f.gpFillFor p x).join p (x.gpResult p)).count ≥ p.parts ∨ (x.gpResult p).tag.last
    then (some ((f.gpFillFor p x).join p (x.gpResult p)).token, none)
    else (none, some ((f.gpFillFor p x).join p (x.gpResult p))) := by
  rw [Fabric.gpResult, if_neg hkind]
  simp only [hpack]
  rfl

end

/-! ### What a result leaves of a fill (R204) -/

section

variable (g : GpFill) (p : GpParams) (x : Taken)

theorem Taken.gpResult_stitch : (x.gpResult p).tag.stitch = x.l.tag.stitch := by
  unfold Taken.gpResult Taken.result
  split <;> rfl

theorem Taken.gpResult_last : (x.gpResult p).tag.last = x.last := by
  unfold Taken.gpResult Taken.result
  split <;> rfl

/-- A fill takes what counts of it along, so that an empty one is as good as none. -/
theorem GpFill.join_congr {g h : GpFill} (hbytes : h.bytes = g.bytes) (hcount : h.count = g.count)
    (hlast : h.last = g.last) (hcause : h.cause = g.cause) (p : GpParams) (t : Token) : h.join p t = g.join p t := by
  simp only [GpFill.join, hbytes, hcount, hlast, hcause]

theorem GpFill.join_bytes : (g.join p (x.gpResult p)).bytes = g.bytes |||
    ((if x.list.find? Token.isError = none then p.apply x.l.payload x.rp else 0) <<< (32 * p.bits * g.count)) := by
  cases hbad : x.list.find? Token.isError with
  | none => rw [Taken.gpResult_of_clean hbad]; rfl
  | some e => rw [Taken.gpResult_of_error hbad]; simp [GpFill.join, Taken.fail, Token.isError]

theorem GpFill.join_cause : (g.join p (x.gpResult p)).cause = match g.cause with
    | some c => some c
    | none => (x.list.find? Token.isError).map (fun e => e.tag.cause) := by
  cases hbad : x.list.find? Token.isError with
  | none => rw [Taken.gpResult_of_clean hbad]; rfl
  | some e => rw [Taken.gpResult_of_error hbad]; rfl

theorem GpFill.join_last : (g.join p (x.gpResult p)).last = (g.last || x.last) := by
  rw [← x.gpResult_last p]
  rfl

theorem GpFill.token_stitch : g.token.tag.stitch = g.tag.stitch := by
  unfold GpFill.token
  split <;> rfl

theorem GpFill.token_last : g.token.tag.last = g.last := by
  unfold GpFill.token
  split <;> rfl

variable {g}

theorem GpFill.token_of_cause {c : BitVec 6} (h : g.cause = some c) :
    g.token = ⟨{ g.tag with kind := .error, cause := c, last := g.last }, 0⟩ := by
  simp only [GpFill.token, h]

theorem GpFill.token_of_clean (h : g.cause = none) :
    g.token = ⟨{ g.tag with last := g.last, kind := .data, cause := 0 }, g.bytes⟩ := by
  simp only [GpFill.token, h]

end

end Sys2Proof.Machine

open Sys2Proof Sys2Proof.Machine in
/-- Settles O27: what the pipeline takes goes through the stages once, and leaves as a token or joins the fill. -/
theorem gatePipelineFires : Obligations.GatePipelineFires := by
  intro s p k x hgp hruns hfired htaken f room elements fires sends bad
  have hexec := fun {out fill} => exec_gpFiring_of_taken (out := out) (fill := fill) hgp hruns hfired htaken
  have hfires : ∀ {out fill}, exec (.gpFiring k) s = .next (s.gpFired p k x out fill) →
      fires (s.gpFired p k x out fill) :=
    fun h => ⟨h, State.gpElement_mem_gpFired .., State.gpFired_held ..⟩
  have hsends : ∀ {r fill}, sends (s.gpFired p k x (some r) fill) r :=
    ⟨s.gpFired_sends p k x _ _ (.inl rfl), s.gpFired_sends p k x _ _ (.inr rfl)⟩
  refine ⟨fun hpassed hroom => ?passed, fun hkind => ?_⟩
  case passed =>
    exact ⟨_, hfires (hexec (Fabric.gpOver_of_passed hpassed) (Fabric.gpResult_of_passed hpassed) fun _ => hroom),
      hsends⟩
  have hkind : ¬ (x.l.tag.kind = .endOfReduction ∨ x.l.tag.kind = .order) := by
    rcases hkind with h | h <;> simp [h]
  refine ⟨fun hpack hroom hnone => ?unpacked, fun hpack g hk hg => ?packed⟩
  case unpacked =>
    have hover : f.gpOver p x = none := Fabric.gpOver_of_goesOn hkind (by simp [hnone])
    refine ⟨_, x.gpResult p, hfires (hexec hover (Fabric.gpResult_of_unpacked hkind hpack) fun _ => hroom), hsends,
      fun e he => ?_, fun hclean => ?_⟩
    · rw [Taken.gpResult_of_error he]
      exact ⟨rfl, rfl, rfl⟩
    · rw [Taken.gpResult_of_clean hclean]
      exact ⟨rfl, rfl, rfl⟩
  case packed =>
    intro part bytes cause full
    subst hk
    have hover : f.gpOver p x = none := by
      refine Fabric.gpOver_of_goesOn hkind fun h hh => ?_
      rcases hg with ⟨hstands, hon⟩ | ⟨hnone, -⟩
      · rw [hstands] at hh
        rwa [← Option.some.inj hh]
      · rw [hnone] at hh
        cases hh
    have hjoin : (f.gpFillFor p x).join p (x.gpResult p) = g.join p (x.gpResult p) := by
      rcases hg with ⟨hstands, -⟩ | ⟨hnone, hbytes, hcount, hlast, hcause⟩
      · rw [Fabric.gpFillFor, hstands]
        rfl
      · rw [Fabric.gpFillFor, hnone]
        exact GpFill.join_congr hbytes.symm hcount.symm hlast.symm hcause.symm p _
    have hresult := Fabric.gpResult_of_packed (f := f) hkind hpack
    rw [hjoin, x.gpResult_last p] at hresult
    have hbytes : (g.join p (x.gpResult p)).bytes = bytes := g.join_bytes p x
    have hcause : (g.join p (x.gpResult p)).cause = cause := g.join_cause p x
    refine ⟨fun hpart => ?part, fun hfull hroom => ?full⟩
    case part =>
      have hresult := hresult.trans (if_neg hpart)
      have hlast : x.last = false := by
        simpa using fun h => hpart (.inr h)
      refine ⟨_, g.join p (x.gpResult p), hfires (hexec hover hresult nofun), State.gpFired_flights_of_none ..,
        State.gpFired_fill .., hbytes, rfl, hcause, ?_, rfl⟩
      rw [GpFill.join_last, hlast, Bool.or_false]
    case full =>
      have hresult := hresult.trans (if_pos hfull)
      refine ⟨_, _, hfires (hexec hover hresult fun _ => hroom), hsends, State.gpFired_fill ..,
        (GpFill.token_stitch _).trans (x.gpResult_stitch p), (GpFill.token_last _).trans (g.join_last p x),
        fun c hc => ?_, fun hc => ?_⟩
      · rw [GpFill.token_of_cause (hcause.trans hc)]
        exact ⟨rfl, rfl, rfl⟩
      · rw [GpFill.token_of_clean (hcause.trans hc)]
        exact ⟨rfl, hbytes⟩
end

section
/-!
SUPPORT. The entry that an accumulator node has for a stitch (R199): what leaves it as it is, and what a fault of the
stitch, ACCOVF above all, does to both (R147, R159).
-/

namespace Sys2Proof.Machine

/-! ### The entry of a stitch -/

@[simp] theorem Fabric.anAt_setAn (f : Fabric) (n k : Nat) (e : AnEntry) : (f.setAn n k e).anAt n k = e := by
  simp [Fabric.anAt, Fabric.setAn]

@[simp] theorem AnEntry.marked_lanes (e : AnEntry) (c : BitVec 6) : (e.marked c).lanes = e.lanes := by
  unfold AnEntry.marked
  split <;> rfl

/-- The mark of a sum that meets a cause: the first one stays. -/
def firstCause (m : Option (BitVec 6)) (c : BitVec 6) : Option (BitVec 6) :=
  match m with
  | some x => some x
  | none => some c

theorem AnEntry.marked_mark (e : AnEntry) (c : BitVec 6) : (e.marked c).mark = firstCause e.mark c := by
  unfold AnEntry.marked
  cases hmark : e.mark <;> simp [hmark, firstCause]

@[simp] theorem Fabric.takeAn_anAt (f : Fabric) (n m k : Nat) (c : AnCand) :
    (f.takeAn n c).anAt m k = f.anAt m k := by
  unfold Fabric.takeAn
  split <;> rfl

@[simp] theorem Fabric.move_anAt (f : Fabric) (now n k : Nat) : (f.move now).anAt n k = f.anAt n k := rfl

@[simp] theorem State.settle_fab (s : State) (id : Nat) (v : Word) (e : ErrKind) :
    (s.settle id v e).core.set.fab = s.core.set.fab := rfl

/-! ### A fault of a stitch (R147, R159) -/

/-- A fault discards the tokens of a stitch, and leaves what the accumulator nodes hold. -/
@[simp] theorem State.stitchFault_anAt (s : State) (k n j : Nat) (cause : BitVec 6) (r : LogRec) :
    (s.stitchFault k cause r).core.set.fab.anAt n j = s.core.set.fab.anAt n j := by
  have hdrop : ∀ (u : State) (e : Stream) (st : Status), (u.dropStitch k e st).core.set.fab.anAt n j =
      u.core.set.fab.anAt n j := fun _ _ _ => rfl
  unfold State.stitchFault
  dsimp only
  split
  · split
    · split <;> simp [hdrop]
    all_goals simp [hdrop]
  · split <;> simp [hdrop]

theorem Stream.blame_status (e : Stream) (cause : BitVec 6) : (e.blame cause).status = e.status := by
  unfold Stream.blame
  split <;> rfl

theorem State.dropStitch_at (s : State) (k : Nat) (e : Stream) (st : Status) :
    (s.dropStitch k e st).core.set.rounds.at k = { e with status := st } :=
  Rounds.at_put_self ..

section

variable {s : State} (h : s.core.set.rounds.turned = [])
include h

theorem State.changedNow_of_unturned (k : Nat) : s.changedNow k = none := by
  unfold State.changedNow State.turnedNow
  rw [h]
  split <;> rfl

theorem State.faultStatus_of_unturned (k : Nat) : s.faultStatus k = (s.stream k).status := by
  unfold State.faultStatus
  rw [State.changedNow_of_unturned h]
  rfl

/-- Where its stitch changed at no boundary of the cycle, a fault drops a stitch that is LIVE or SLIP, and leaves the
status of another. -/
theorem State.stitchFault_status (k : Nat) (cause : BitVec 6) (r : LogRec) :
    ((s.stitchFault k cause r).stream k).status = if (s.stream k).isUp then .drop else (s.stream k).status := by
  have hlog : (s.log s.unit.part r).changedNow k = none :=
    State.changedNow_of_unturned (by rw [State.log_core, h]) k
  unfold State.stitchFault
  simp only [hlog]
  unfold State.stream
  split
  · rw [State.dropStitch_at]
  · exact (congrArg Stream.status (Rounds.at_put_self ..)).trans (Stream.blame_status ..)

end

/-! ### Trap mode (R199) -/

section

variable (s : State) (n k : Nat) (p : AnParams)

theorem State.accOverflow_lanes :
    ((s.accOverflow n k p).core.set.fab.anAt n k).lanes = (s.core.set.fab.anAt n k).lanes := by
  unfold State.accOverflow
  split <;> simp

variable {s k} (h : s.core.set.rounds.turned = [])
include h

/-- A stitch that is in use drops. -/
theorem State.accOverflow_status_of_up (hst : (s.stream k).status = .live ∨ (s.stream k).status = .slip) :
    ((s.accOverflow n k p).stream k).status = .drop := by
  have hup : (s.stream k).isUp = true := by simpa [Stream.isUp] using hst
  unfold State.accOverflow
  rw [State.faultStatus_of_unturned h]
  rcases hst with hst | hst <;> simp only [hst] <;> rw [State.stitchFault_status h, if_pos hup]

section

variable (hst : (s.stream k).status = .free ∨ (s.stream k).status = .cast ∨ (s.stream k).status = .off)
include hst

/-- The sum of a stitch that is not in use is marked. -/
theorem State.accOverflow_of_down :
    s.accOverflow n k p = (s.mapFab (fun f => f.setAn n k ((f.anAt n k).marked 0x06))).stitchFault k 0x06
      (s.nodeRecord 0x05 k (anId n) p.gnode 0x06 0x06) := by
  unfold State.accOverflow
  rw [State.faultStatus_of_unturned h]
  rcases hst with hst | hst | hst <;> simp only [hst]

theorem State.accOverflow_status_of_down : ((s.accOverflow n k p).stream k).status = (s.stream k).status := by
  have hdown : (s.stream k).isUp = false := by
    rcases hst with hst | hst | hst <;> rw [Stream.isUp, hst] <;> rfl
  rw [State.accOverflow_of_down n p h hst]
  exact (State.stitchFault_status (s := s.mapFab _) h k _ _).trans (if_neg (Bool.not_eq_true _ ▸ hdown))

theorem State.accOverflow_mark_of_down :
    ((s.accOverflow n k p).core.set.fab.anAt n k).mark = firstCause (s.core.set.fab.anAt n k).mark 0x06 := by
  rw [State.accOverflow_of_down n p h hst, State.stitchFault_anAt, State.mapFab_core]
  exact (congrArg AnEntry.mark (Fabric.anAt_setAn ..)).trans (AnEntry.marked_mark ..)

end

end

end Sys2Proof.Machine
end

section
/-!
SUPPORT. The lanes of an accumulator node's sum (R199): lane i of a sum, and the sum over a range of lanes.
-/

namespace Sys2Proof.Machine

/-! ### Lanes of a sum -/

/-- Lane i of a sum. -/
def laneAt (l : BitVec 4096) (i : Nat) : BitVec 32 := l.extractLsb' (32 * i) 32

theorem laneAt_toNat (l : BitVec 4096) (i : Nat) : (laneAt l i).toNat = l.toNat / 2 ^ (32 * i) % 2 ^ 32 := by
  rw [laneAt, BitVec.extractLsb'_toNat, Nat.shiftRight_eq_div_pow]

theorem lanes128_eq (l : BitVec 4096) : lanes128 l = (List.range' 0 128).map (fun i => (laneAt l i).toNat) := by
  rw [lanes128, List.range_eq_range']
  simp only [laneAt_toNat]

theorem laneAt_ofLanes128 (ls : List Nat) {i : Nat} (hi : i < 128) :
    laneAt (ofLanes128 ls) i = BitVec.ofNat 32 (ls.getD i 0) := by
  apply BitVec.eq_of_toNat_eq
  rw [laneAt, ofLanes128, extractLsb'_ofNat_toNat _ (by omega), joinLanes_lane, BitVec.toNat_ofNat]

/-- The sum of one lane and its addend. -/
def AnParams.addLane (p : AnParams) (a b : BitVec 32) : BitVec 32 :=
  if p.int then a + b else BitVec.ofNat 32 (fp32.add a.toNat b.toNat)

/-- The lanes from lo to hi with addends; none where trap mode refuses them. -/
def AnEntry.sumOver (e : AnEntry) (p : AnParams) (lo hi : Nat) (a : Nat → BitVec 32) : Option (BitVec 4096) :=
  (addLanes p ((List.range' lo (hi - lo)).map (fun i => (laneAt e.lanes i).toNat))
    ((List.range' lo (hi - lo)).map (fun i => (a i).toNat))).map (fun x =>
      ofLanes128 ((lanes128 e.lanes).take lo ++ x ++ (lanes128 e.lanes).drop hi))

/-- A lane sum from lo to hi lies outside the range of INT32. -/
def AnEntry.past (e : AnEntry) (lo hi : Nat) (a : Nat → BitVec 32) : Prop :=
  ∃ i, lo ≤ i ∧ i < hi ∧ ((laneAt e.lanes i).toInt + (a i).toInt < -2 ^ 31 ∨
    2 ^ 31 ≤ (laneAt e.lanes i).toInt + (a i).toInt)

theorem inInt32_eq_false_iff (i : Int) : inInt32 i = false ↔ i < -2 ^ 31 ∨ 2 ^ 31 ≤ i := by
  simp only [inInt32, Bool.and_eq_false_iff, decide_eq_false_iff_not, Int.not_le, Int.not_lt]

section

variable {e : AnEntry} {p : AnParams} {lo hi : Nat} {a : Nat → BitVec 32}

/-- What trap mode looks for. -/
theorem AnEntry.past_iff : e.past lo hi a ↔ (List.zipWith (fun x y => inInt32 (sintOf 32 x + sintOf 32 y))
    ((List.range' lo (hi - lo)).map (fun i => (laneAt e.lanes i).toNat))
    ((List.range' lo (hi - lo)).map (fun i => (a i).toNat))).any (fun ok => !ok) = true := by
  rw [List.zipWith_map, List.zipWith_self]
  simp only [sintOf_toNat, List.any_map, List.any_eq_true, List.mem_range'_1, Function.comp_apply, Bool.not_eq_true',
    inInt32_eq_false_iff, AnEntry.past]
  refine exists_congr fun i => ?_
  rw [and_assoc]
  constructor <;> rintro ⟨hlo, hhi, h⟩ <;> exact ⟨hlo, by omega, h⟩

theorem AnEntry.sumOver_of_past (hint : p.int = true) (htrap : p.trap = true) (hpast : e.past lo hi a) :
    e.sumOver p lo hi a = none := by
  rw [AnEntry.sumOver, addLanes, if_pos hint, if_pos (by rw [htrap, Bool.true_and]; exact AnEntry.past_iff.mp hpast)]
  rfl

/-- Lanes that are added one by one. -/
theorem addLanes_of_fit (hfit : ¬ (p.int = true ∧ p.trap = true ∧ e.past lo hi a)) :
    ∃ xs, addLanes p ((List.range' lo (hi - lo)).map (fun i => (laneAt e.lanes i).toNat))
        ((List.range' lo (hi - lo)).map (fun i => (a i).toNat)) = some xs ∧ xs.length = hi - lo ∧
      ∀ i, lo ≤ i → i < hi → BitVec.ofNat 32 (xs.getD (i - lo) 0) = p.addLane (laneAt e.lanes i) (a i) := by
  have hat : ∀ (g : Nat → Nat) (i : Nat), lo ≤ i → i < hi →
      ((List.range' lo (hi - lo)).map g).getD (i - lo) 0 = g i := fun g i hlo hhi => by
    simp [List.getElem?_range' (show i - lo < hi - lo by omega), Nat.add_sub_cancel' hlo]
  unfold addLanes AnParams.addLane
  cases hint : p.int with
  | true =>
    have hin := mt (fun h => And.intro hint (And.imp_right AnEntry.past_iff.mpr h)) hfit
    rw [← Bool.and_eq_true] at hin
    rw [if_pos rfl, if_neg hin]
    refine ⟨_, rfl, by simp, fun i hlo hhi => ?_⟩
    rw [List.zipWith_map, List.zipWith_self, hat _ i hlo hhi, if_pos rfl]
    apply BitVec.eq_of_toNat_eq
    simp
  | false =>
    refine ⟨_, rfl, by simp, fun i hlo hhi => ?_⟩
    rw [List.zipWith_map, List.zipWith_self, hat _ i hlo hhi]
    rfl

/-- A list with others put in its places from lo to hi. -/
theorem getD_splice {l xs : List Nat} {lo hi : Nat} (hle : lo ≤ hi) (hhi : hi ≤ l.length) (hlen : xs.length = hi - lo)
    (i : Nat) : (l.take lo ++ xs ++ l.drop hi).getD i 0 =
      if lo ≤ i ∧ i < hi then xs.getD (i - lo) 0 else l.getD i 0 := by
  have htake : (l.take lo).length = lo := by simp; omega
  simp only [List.getD_eq_getElem?_getD, List.getElem?_append, List.length_append, htake, hlen, List.getElem?_drop]
  by_cases hlo : i < lo
  · rw [if_pos (by omega), if_pos hlo, if_neg (by omega), List.getElem?_take_of_lt hlo]
  · by_cases hin : i < hi
    · rw [if_pos (by omega), if_neg hlo, if_pos ⟨by omega, hin⟩]
    · rw [if_neg (by omega), if_neg (fun h => hin h.2), show hi + (i - (lo + (hi - lo))) = i by omega]

/-- A sum that trap mode does not refuse, lane by lane. -/
theorem AnEntry.sumOver_of_fit (hfit : ¬ (p.int = true ∧ p.trap = true ∧ e.past lo hi a)) (hle : lo ≤ hi)
    (hhi : hi ≤ 128) :
    ∃ l, e.sumOver p lo hi a = some l ∧ ∀ i < 128, laneAt l i =
      if lo ≤ i ∧ i < hi then p.addLane (laneAt e.lanes i) (a i) else laneAt e.lanes i := by
  obtain ⟨xs, hadd, hlen, hxs⟩ := addLanes_of_fit hfit
  refine ⟨_, by rw [AnEntry.sumOver, hadd]; rfl, fun i hi128 => ?_⟩
  rw [laneAt_ofLanes128 _ hi128, getD_splice hle (by simpa [lanes128] using hhi) hlen]
  split
  · next hin => exact hxs i hin.1 hin.2
  · simp [lanes128_eq, List.getElem?_range' hi128]

end

end Sys2Proof.Machine
end

section
/-!
SUPPORT. Additions (R199): what each kind of work does to the sum it is for.
-/

namespace Sys2Proof.Machine

/-! ### Work that adds -/

section

variable {e : AnEntry} {p : AnParams}

/-- A block is added to all 128 lanes and counted. -/
theorem AnEntry.add_block {w : AnWork} {l : BitVec 4096} (hw : w = .block l ∨ w = .intBlock l ∨ w = .wideBlock l) :
    e.add p w = ((e.sumOver p 0 128 (laneAt l)).isNone,
      { e with lanes := (e.sumOver p 0 128 (laneAt l)).getD e.lanes, blocks := e.blocks + 1, touched := true }) := by
  have hblock : e.add p w = e.add p (.block l) := by rcases hw with rfl | rfl | rfl <;> rfl
  have hdrop : (lanes128 e.lanes).drop 128 = [] := List.drop_eq_nil_of_le (by simp [lanes128])
  have hsum : e.sumOver p 0 128 (laneAt l) = (addLanes p (lanes128 e.lanes) (lanes128 l)).map ofLanes128 := by
    rw [AnEntry.sumOver, Nat.sub_zero, ← lanes128_eq, ← lanes128_eq, hdrop, List.take_zero]
    simp only [List.nil_append, List.append_nil]
  rw [hblock, hsum]
  simp only [AnEntry.add]
  cases addLanes p (lanes128 e.lanes) (lanes128 l) <;> rfl

/-- The lanes of an addend, numbered as those of the group that they are added to. -/
theorem lanes_eq_range' (pl : Payload) (lo : Nat) : lanes 32 pl =
    (List.range' lo 32).map (fun i => (pl.extractLsb' (32 * (i - lo)) 32).toNat) := by
  rw [lanes_eq, List.range'_eq_map_range, List.map_map]
  refine List.map_congr_left fun i _ => ?_
  simp [laneOf]

theorem lanes128_group (l : BitVec 4096) {lo : Nat} (h : lo + 32 ≤ 128) : ((lanes128 l).drop lo).take 32 =
    (List.range' lo 32).map (fun i => (laneAt l i).toNat) := by
  rw [lanes128_eq, ← List.map_drop, ← List.map_take, List.drop_range', List.take_range'_of_length_ge (by omega)]
  simp

/-- A data token's lanes are added to those of the group that the addend counter names, and the counter goes on. -/
theorem AnEntry.add_addend {i : Nat} {tok : Token} (hdata : tok.tag.kind = .data) (hpos : 0 < p.cols)
    (hcols : p.cols ≤ 4) :
    let lo := 32 * (e.addend.toNat % p.cols)
    let sum := e.sumOver p lo (lo + 32) (fun i => tok.payload.extractLsb' (32 * (i - lo)) 32)
    e.add p (.token i tok) = (sum.isNone,
      { e with lanes := sum.getD e.lanes, addend := nextAddend e.addend, touched := true }) := by
  intro lo sum
  have hlo : lo + 32 ≤ 128 := by
    have := Nat.mod_lt e.addend.toNat hpos
    omega
  have hsum : (addGroup p e tok).map ofLanes128 = sum := by
    unfold sum AnEntry.sumOver
    rw [Nat.add_sub_cancel_left, ← lanes128_group _ hlo, ← lanes_eq_range', addGroup, Option.map_map]
    rfl
  rw [← hsum]
  have hgroup : addGroup p { e with touched := true } tok = addGroup p e tok := rfl
  have hkind : tok.isError = false ∧ tok.isData = true := by simp [Token.isError, Token.isData, hdata]
  simp only [AnEntry.add, hkind, hgroup, Bool.false_eq_true, if_false, if_true]
  cases addGroup p e tok <;> rfl

end

/-- The counter goes round at a multiple of every number of groups. -/
theorem nextAddend_mod {a : BitVec 8} {G : Nat} (ha : a.toNat < 252) (hpos : 0 < G) (hG : G ≤ 4) :
    (nextAddend a).toNat % G = (a.toNat + 1) % G := by
  unfold nextAddend
  split
  · next h =>
    rw [show a.toNat + 1 = 252 by omega]
    interval_cases G <;> rfl
  · rw [BitVec.toNat_add_of_lt (by simp; omega)]
    rfl

/-- Work that adds `a` to the lanes from lo to hi of a sum, b to its block count and d to its addend counter: a block,
or a data token at input 0. -/
def AnWork.AddsTo (w : AnWork) (e : AnEntry) (p : AnParams) (lo hi b d : Nat) (a : Nat → BitVec 32) : Prop :=
  (∃ l, (w = .block l ∨ w = .intBlock l ∨ w = .wideBlock l) ∧ lo = 0 ∧ hi = 128 ∧ b = 1 ∧ d = 0 ∧ a = laneAt l) ∨
    ∃ tok, w = .token 0 tok ∧ tok.tag.kind = .data ∧ 0 < p.cols ∧ p.cols ≤ 4 ∧ e.addend.toNat < 252 ∧
      lo = 32 * (e.addend.toNat % p.cols) ∧ hi = lo + 32 ∧ b = 0 ∧ d = 1 ∧
      a = fun i => tok.payload.extractLsb' (32 * (i - lo)) 32

section

variable {w : AnWork} {e : AnEntry} {p : AnParams} {lo hi b d : Nat} {a : Nat → BitVec 32}
  (h : w.AddsTo e p lo hi b d a)
include h

theorem AnWork.AddsTo.range : lo ≤ hi ∧ hi ≤ 128 := by
  rcases h with ⟨l, -, rfl, rfl, -⟩ | ⟨tok, -, -, hpos, hcols, -, rfl, rfl, -⟩
  · omega
  · have := Nat.mod_lt e.addend.toNat hpos
    omega

theorem AnWork.AddsTo.not_order (i : Nat) (tok : Token) (hw : w = .token i tok) : tok.tag.kind ≠ .order := by
  rcases h with ⟨l, rfl | rfl | rfl, -⟩ | ⟨t, rfl, hdata, -⟩
  · cases hw
  · cases hw
  · cases hw
  · cases hw
    simp [hdata]

/-- What is left of the entry: the sum where trap mode does not refuse it, and the counts in either case. -/
theorem AnWork.AddsTo.add_eq : ∃ e', e.add p w = ((e.sumOver p lo hi a).isNone, e') ∧
    e'.lanes = (e.sumOver p lo hi a).getD e.lanes ∧ e'.blocks = e.blocks + BitVec.ofNat 32 b ∧ e'.mark = e.mark ∧
    (0 < p.cols → p.cols ≤ 4 → e.addend.toNat < 252 → e'.addend.toNat % p.cols = (e.addend.toNat + d) % p.cols) := by
  rcases h with ⟨l, hw, rfl, rfl, rfl, rfl, rfl⟩ | ⟨tok, rfl, hdata, hpos, hcols, hlt, rfl, rfl, rfl, rfl, rfl⟩
  · exact ⟨_, AnEntry.add_block hw, rfl, rfl, rfl, fun _ _ _ => rfl⟩
  · exact ⟨_, AnEntry.add_addend hdata hpos hcols, rfl, (BitVec.add_zero _).symm, rfl,
      fun hpos hcols hlt => nextAddend_mod hlt hpos hcols⟩

end

/-- Work that only marks a sum: a block that cannot be multiplied, or an error token. -/
def AnWork.Marks (w : AnWork) (m : BitVec 6) : Prop :=
  w = .badBlock m ∨ ∃ i tok, w = .token i tok ∧ tok.tag.kind = .error ∧ tok.tag.cause = m

theorem AnWork.Marks.not_order {w : AnWork} {m : BitVec 6} (h : w.Marks m) (i : Nat) (tok : Token)
    (hw : w = .token i tok) : tok.tag.kind ≠ .order := by
  rcases h with rfl | ⟨j, t, rfl, hkind, -⟩
  · cases hw
  · cases hw
    simp [hkind]

theorem AnWork.Marks.add_eq {w : AnWork} {m : BitVec 6} (h : w.Marks m) (e : AnEntry) (p : AnParams) :
    ∃ e', e.add p w = (false, e') ∧ e'.lanes = e.lanes ∧
      e'.mark = firstCause e.mark m := by
  rcases h with rfl | ⟨i, tok, rfl, hkind, rfl⟩
  · exact ⟨_, rfl, AnEntry.marked_lanes .., AnEntry.marked_mark ..⟩
  · have herr : tok.isError = true := by simp [Token.isError, hkind]
    simp only [AnEntry.add, herr, if_true]
    exact ⟨_, rfl, AnEntry.marked_lanes .., AnEntry.marked_mark ..⟩

/-! ### The node's step -/

section

variable {s : State} {im : Image} {p : AnParams} {n : Nat} {c : AnCand}

theorem exec_accumulatorAddition_of_cand (hlive : s.liveAn n = some (im, p))
    (hadd : s.core.set.addition s.cycle n p = some c) : exec (.accumulatorAddition n) s = .next (s.addAn n p c) := by
  rw [exec_accumulatorAddition, execAccumulatorAddition]
  simp only [hlive, hadd]

/-- The work has left its place and the sum of its stitch is as given. -/
def State.putSum (s : State) (n : Nat) (c : AnCand) (e : AnEntry) : State :=
  (s.mapFab (fun f => (f.takeAn n c).move s.cycle)).mapFab (fun f => f.setAn n c.stitch e)

@[simp] theorem State.putSum_anAt (e : AnEntry) : (s.putSum n c e).core.set.fab.anAt n c.stitch = e := by
  simp [State.putSum]

/-- Work that is no order token changes the sum of its stitch, and trap mode may refuse it. -/
theorem State.addAn_eq (hwork : ∀ i tok, c.work = .token i tok → tok.tag.kind ≠ .order) {ovf : Bool} {e : AnEntry}
    (hadd : (s.core.set.fab.anAt n c.stitch).add p c.work = (ovf, e)) :
    s.addAn n p c = if ovf then (s.putSum n c e).accOverflow n c.stitch p else s.putSum n c e := by
  have hentry : (s.mapFab (fun f => (f.takeAn n c).move s.cycle)).core.set.fab.anAt n c.stitch =
      s.core.set.fab.anAt n c.stitch := by simp
  unfold State.addAn
  dsimp only
  split
  · next t hout =>
    split at hout
    · next i tok hc =>
      rw [if_neg (hwork i tok hc)] at hout
      cases hout
    · cases hout
  · rw [hentry, hadd]
    rfl

/-- An order token goes on to release target A. -/
theorem State.addAn_sends {i : Nat} {tok : Token} (hwork : c.work = .token i tok) (hkind : tok.tag.kind = .order)
    (hout : p.out ≠ noTarget) : (s.addAn n p c).sends p.out tok := by
  unfold State.addAn
  simp only [hwork, hkind, if_true]
  exact State.nodeSend_sends _ _ _ _ tok hout

end

end Sys2Proof.Machine

open Sys2Proof Sys2Proof.Machine in
/-- Settles O25: an addition puts the entry that `AnEntry.add` gives; in trap mode a sum out of range leaves the lanes,
and the stitch drops or the sum is marked. -/
theorem accumulatorAdditions : Obligations.AccumulatorAdditions := by
  intro s im p n c hlive hadd e lane
  have hexec := exec_accumulatorAddition_of_cand hlive hadd
  refine ⟨?adds, ?marks, ?order⟩
  case adds =>
    intro lo hi b d a hwork past
    have hwork : c.work.AddsTo e p lo hi b d a := hwork
    obtain ⟨e', hput, hsum, hblocks, hmark, haddend⟩ := hwork.add_eq
    rw [State.addAn_eq hwork.not_order hput] at hexec
    have hentry : (s.putSum n c e').core.set.fab.anAt n c.stitch = e' := State.putSum_anAt e'
    refine ⟨fun hfit => ?fit, fun hint htrap hpast => ?past⟩
    case fit =>
      obtain ⟨hle, hhi⟩ := hwork.range
      obtain ⟨l, hover, hlanes⟩ := AnEntry.sumOver_of_fit hfit hle hhi
      rw [hover, Option.getD_some] at hsum
      rw [hover, Option.isNone_some, if_neg Bool.false_ne_true] at hexec
      refine ⟨_, hexec, ?_⟩
      subst hsum
      rw [hentry]
      exact ⟨hblocks, hmark, haddend, hlanes⟩
    case past =>
      have hover := AnEntry.sumOver_of_past hint htrap hpast
      rw [hover, Option.getD_none] at hsum
      rw [hover, Option.isNone_none, if_pos rfl] at hexec
      refine ⟨_, hexec, ?_, fun _ hturned => ⟨fun hup => ?_, fun hdown => ⟨?_, ?_⟩⟩⟩
      · rw [State.accOverflow_lanes, hentry, hsum]
      · exact State.accOverflow_status_of_up (s := s.putSum n c e') n p hturned hup
      · exact State.accOverflow_status_of_down (s := s.putSum n c e') n p hturned hdown
      · have hmarked := State.accOverflow_mark_of_down (s := s.putSum n c e') n p hturned hdown
        rwa [hentry, hmark] at hmarked
  case marks =>
    intro m hwork
    have hwork : c.work.Marks m := hwork
    obtain ⟨e', hput, hlanes, hmark⟩ := hwork.add_eq e p
    rw [State.addAn_eq hwork.not_order hput] at hexec
    refine ⟨_, hexec, ?_⟩
    rw [if_neg Bool.false_ne_true, State.putSum_anAt]
    exact ⟨hmark, hlanes⟩
  case order => exact fun i tok hwork hkind hout => ⟨_, hexec, State.addAn_sends hwork hkind hout⟩
end

section
/-!
SUPPORT. Releases (R200, R202): the tokens of a release, what beginning one leaves of the node, and a token that leaves.
-/

namespace Sys2Proof.Machine

/-! ### The mark and the tokens of a release -/

section

variable {e : AnEntry} {p : AnParams}

theorem AnEntry.verdict_of_mark {m : BitVec 6} (h : e.mark = some m) : e.verdict p = some m := by
  simp only [AnEntry.verdict, h]

theorem AnEntry.verdict_of_unmarked (h : e.mark = none) :
    e.verdict p = if p.kblk ≠ 0 ∧ e.blocks ≠ p.kblk then some 0x04 else none := by
  simp only [AnEntry.verdict, h]
  exact if_congr (by simp) rfl rfl

end

/-- The lanes of a pair's two sums, added one by one. -/
def AnParams.pairSum (p : AnParams) (a b : BitVec 4096) : BitVec 4096 :=
  ofLanes128 (List.zipWith (fun a b => if p.int then (a + b) % 2 ^ 32 else fp32.add a b) (lanes128 a) (lanes128 b))

/-- The mark of a pair's sum: the even core's, SCALECNT among them, else that of its partner. -/
def AnEntry.pairVerdict (e : AnEntry) (p : AnParams) (partner : Option (BitVec 6)) : Option (BitVec 6) :=
  match e.verdict p with
  | some x => some x
  | none => partner

theorem AnEntry.pairVerdict_eq (e : AnEntry) (p : AnParams) (partner : Option (BitVec 6)) :
    e.pairVerdict p partner = match e.mark with
      | some x => some x
      | none => if p.kblk ≠ 0 ∧ e.blocks ≠ p.kblk then some 0x04 else partner := by
  unfold AnEntry.pairVerdict
  cases hmark : e.mark with
  | some m => rw [AnEntry.verdict_of_mark hmark]
  | none =>
    rw [AnEntry.verdict_of_unmarked hmark]
    split_ifs <;> rfl

theorem releaseTokens_length (p : AnParams) (n k : Nat) (lanes : BitVec 4096) (mark : Option (BitVec 6)) (w : AnWork) :
    (releaseTokens p n k lanes mark w).length = p.cols := by
  simp [releaseTokens]

/-- Token j of a release: an error token of its mark, else lanes 32j to 32j + 31. -/
theorem releaseTokens_token {p : AnParams} {n k : Nat} {lanes : BitVec 4096} {mark : Option (BitVec 6)} {w : AnWork}
    {j : Nat} {tok : Token} (h : (releaseTokens p n k lanes mark w)[j]? = some tok) :
    tok.tag.last = (w.last && decide (j + 1 = p.cols)) ∧
      (∀ m, mark = some m → tok.tag.kind = .error ∧ tok.tag.cause = m ∧ tok.payload = 0) ∧
      (mark = none → tok.tag.kind = .data ∧ tok.payload = ofLanes 32 (((lanes128 lanes).drop (32 * j)).take 32)) := by
  obtain ⟨i, hi, rfl⟩ := Option.map_eq_some_iff.mp (List.getElem?_map ▸ h)
  obtain ⟨-, rfl⟩ := List.getElem?_eq_some_iff.mp hi
  rw [List.getElem_range]
  cases mark with
  | none => exact ⟨rfl, nofun, fun _ => ⟨rfl, rfl⟩⟩
  | some m =>
    refine ⟨rfl, fun m' hm => ?_, nofun⟩
    cases hm
    exact ⟨rfl, rfl, rfl⟩

/-! ### A release begins -/

@[simp] theorem Fabric.takeAn_rels (f : Fabric) (n : Nat) (c : AnCand) : (f.takeAn n c).rels = f.rels := by
  unfold Fabric.takeAn
  split <;> rfl

@[simp] theorem Fabric.takeAn_pair (f : Fabric) (n : Nat) (c : AnCand) : (f.takeAn n c).pair = f.pair := by
  unfold Fabric.takeAn
  split <;> rfl

section

variable {s : State} {im : Image} {p : AnParams} {n : Nat} {c : AnCand}

theorem State.clearAn_rels : (s.clearAn n c).core.set.fab.rels = s.core.set.fab.rels := Fabric.takeAn_rels ..
theorem State.clearAn_pair : (s.clearAn n c).core.set.fab.pair = s.core.set.fab.pair := Fabric.takeAn_pair ..

/-- The sum of the stitch is cleared. -/
theorem State.clearAn_anAt : (s.clearAn n c).core.set.fab.anAt n c.stitch =
    { AnEntry.zero with gotLast := (s.core.set.fab.anAt n c.stitch).gotLast || c.work.last, touched := true } :=
  Fabric.anAt_setAn ..

/-- The tokens of a release stand to leave. -/
def State.addRelease (s : State) (n : Nat) (p : AnParams) (ts : List Token) : State :=
  s.mapFab (fun f => { f with rels := f.rels ++ [⟨n, p, ts⟩] })

theorem State.addRelease_rels (ts : List Token) :
    (s.addRelease n p ts).core.set.fab.rels = s.core.set.fab.rels ++ [⟨n, p, ts⟩] := rfl

theorem State.addRelease_anAt (ts : List Token) (k : Nat) :
    (s.addRelease n p ts).core.set.fab.anAt n k = s.core.set.fab.anAt n k := rfl

theorem State.startRelease_of_tokens (htile : im.toTile n = none) (k : Nat) (lanes : BitVec 4096)
    (mark : Option (BitVec 6)) (w : AnWork) :
    s.startRelease im n p k lanes mark w = s.addRelease n p (releaseTokens p n k lanes mark w) := by
  simp only [State.startRelease, htile]
  rfl

/-- Both cores' releases are taken, and the even core's sum is cleared. -/
def State.clearPair (s : State) (n : Nat) (c : AnCand) (m : Nat × Nat × BitVec 4096 × Option (BitVec 6)) : State :=
  (s.clearAn n c).mapFab (fun f => { f with pair := f.pair.erase m })

/-- The even core's release is one of the stitch that it is asked for. -/
theorem State.pairCand_stitch {k : Nat} (hcand : s.pairCand im n k = some c) : c.stitch = k := by
  unfold State.pairCand at hcand
  split at hcand
  · have hfound := List.find?_some hcand
    simp only [Bool.and_eq_true, beq_iff_eq] at hfound
    exact hfound.1.1
  · cases hcand

variable (hlive : s.liveAn n = some (im, p))
include hlive

/-- The one release that may begin does, where no other leaves the node. -/
theorem exec_accumulatorRelease_of_cand (hfree : ∀ r ∈ s.core.set.fab.rels, r.node ≠ n) (hone : s.releases im n = [c]) :
    exec (.accumulatorRelease n) s = .next (s.beginRelease im n p c) := by
  have hnone : s.core.set.fab.rels.find? (fun e => e.node == n) = none :=
    List.find?_eq_none.mpr fun r hr => by simpa using hfree r hr
  have hpick : s.pickOf [c] = some c := by simp [State.pickOf, Nat.mod_one]
  rw [exec_accumulatorRelease, execAccumulatorRelease]
  simp only [hlive, hnone, hone, hpick]
  rfl

theorem exec_accumulatorRelease_of_leaving {r : Release}
    (hr : s.core.set.fab.rels.find? (fun e => e.node == n) = some r)
    (hsend : s.core.set.maySendRelease r = true) : exec (.accumulatorRelease n) s = .next (s.sendRelease n r) := by
  rw [exec_accumulatorRelease, execAccumulatorRelease]
  simp only [hlive, hr, when_next hsend]

theorem exec_pairRelease_of_cand {k : Nat} {m : Nat × Nat × BitVec 4096 × Option (BitVec 6)} {e : AnEntry}
    (hcand : s.pairCand im n k = some c)
    (hpair : s.core.set.fab.pair.find? (fun m => m.1 == n && m.2.1 == k) = some m)
    (he : (s.core.set.fab.anAt n k).closing c.work = e) :
    exec (.pairRelease n k) s = .next ((s.clearPair n c m).startRelease im n p k (p.pairSum e.lanes m.2.2.1)
      (e.pairVerdict p m.2.2.2) c.work) := by
  rw [exec_pairRelease, execPairRelease]
  simp only [hlive, hcand, hpair, he]
  rfl

end

/-! ### A token of a release leaves -/

section

variable (s : State) (id : Nat) (from_ : Place) (g : BitVec 32) (tgt : Target) (t : Token)

@[simp] theorem State.nodeSend_rels : (s.nodeSend id from_ g tgt t).core.set.fab.rels = s.core.set.fab.rels := by
  unfold State.nodeSend
  split
  · split
    · rw [State.nodeError, State.errToken_fab]
    · rfl
  · next htgt => simp [State.mapFab, State.mapSet, Fabric.send, Fabric.move, htgt]

/-- A token that is on its way stays on it where another leaves. -/
theorem State.sends.nodeSend {s : State} {tgt' : Target} {t' : Token} (h : s.sends tgt' t') :
    (s.nodeSend id from_ g tgt t).sends tgt' t' := by
  obtain ⟨x, hx, hsent⟩ := h
  refine ⟨x, ?_, hsent⟩
  unfold State.nodeSend
  split
  · split
    · rwa [State.nodeError, State.errToken_fab]
    · exact hx
  · exact Fabric.mem_flights_send _ _ _ _ _ hx

end

section

variable {s : State} {n : Nat} {r : Release} {tok : Token} {rest : List Token} (h : r.toks = tok :: rest)
include h

theorem State.sendRelease_sends_out (hout : r.par.out ≠ noTarget) : (s.sendRelease n r).sends r.par.out tok := by
  unfold State.sendRelease
  simp only [h]
  have hsent := fun u : State => u.nodeSend_sends (anId n) (.an n 0) r.par.gnode tok hout
  split
  · exact hsent _
  · exact (hsent _).nodeSend ..

theorem State.sendRelease_sends_out2 (hout : r.par.out2 ≠ noTarget) : (s.sendRelease n r).sends r.par.out2 tok := by
  unfold State.sendRelease
  simp only [h, if_neg hout]
  exact State.nodeSend_sends _ _ _ _ tok hout

/-- What is left of the releases of the nodes. -/
theorem State.sendRelease_rels : (s.sendRelease n r).core.set.fab.rels =
    if rest.isEmpty then s.core.set.fab.rels.filter (fun e => e.node ≠ n)
    else s.core.set.fab.rels.map (fun e => if e.node = n then { e with toks := rest } else e) := by
  unfold State.sendRelease
  simp only [h]
  split <;> simp

/-- The rest of a release stays where it is not its last token that leaves. -/
theorem State.sendRelease_find (hrest : rest ≠ [])
    (hr : s.core.set.fab.rels.find? (fun e => e.node == n) = some r) :
    (s.sendRelease n r).core.set.fab.rels.find? (fun e => e.node == n) = some { r with toks := rest } := by
  have hnode : r.node = n := by simpa using List.find?_some hr
  have hsame : ((fun e : Release => e.node == n) ∘ fun e => if e.node = n then { e with toks := rest } else e) =
      fun e => e.node == n := by
    funext e
    by_cases he : e.node = n <;> simp [he]
  rw [State.sendRelease_rels h, if_neg (by simpa using hrest), List.find?_map, hsame, hr, Option.map_some, if_pos hnode]

theorem State.sendRelease_done (hrest : rest = []) : ∀ x ∈ (s.sendRelease n r).core.set.fab.rels, x.node ≠ n := by
  rw [State.sendRelease_rels h, hrest]
  exact fun x hx => by simpa using (List.mem_filter.mp hx).2

end

end Sys2Proof.Machine

open Sys2Proof Sys2Proof.Machine in
/-- Settles O26: the three ways in which a release goes on, with the tokens that `releaseTokens` gives. -/
theorem accumulatorReleases : Obligations.AccumulatorReleases := by
  intro s im p n hlive f
  refine ⟨?begins, ?leaves, ?pair⟩
  case begins =>
    intro c hfree hone hpairs htile e
    have hexec := exec_accumulatorRelease_of_cand hlive hfree hone
    rw [State.beginRelease, hpairs, if_neg Bool.false_ne_true, State.startRelease_of_tokens htile] at hexec
    have hcleared := fun ts => ((s.clearAn n c).addRelease_anAt (n := n) (p := p) ts c.stitch).trans s.clearAn_anAt
    refine ⟨_, releaseTokens p n c.stitch e.lanes (e.verdict p) c.work, hexec, ?_, releaseTokens_length ..,
      congrArg AnEntry.lanes (hcleared _), congrArg AnEntry.blocks (hcleared _), congrArg AnEntry.mark (hcleared _),
      fun j tok hj => ?_⟩
    · rw [State.addRelease_rels, State.clearAn_rels]
    obtain ⟨hlast, herror, hdata⟩ := releaseTokens_token hj
    refine ⟨hlast, fun hmark hcount => hdata ?_, fun hmark hkblk hcount => ?_, fun m hmark => ?_⟩
    · rw [AnEntry.verdict_of_unmarked hmark, if_neg fun h => hcount.elim h.1 h.2]
    · obtain ⟨hkind, hcause, -⟩ := herror 0x04 (by rw [AnEntry.verdict_of_unmarked hmark, if_pos ⟨hkblk, hcount⟩])
      exact ⟨hkind, hcause⟩
    · obtain ⟨hkind, hcause, -⟩ := herror m (AnEntry.verdict_of_mark hmark)
      exact ⟨hkind, hcause⟩
  case leaves =>
    intro r tok rest hr htoks hout hout2 hsends
    have hmay : s.core.set.maySendRelease r = true := by
      rw [CSet.maySendRelease, hout, hout2, List.all_eq_true.mpr hsends]
      rfl
    exact ⟨_, exec_accumulatorRelease_of_leaving hlive hr hmay, State.sendRelease_sends_out htoks,
      State.sendRelease_sends_out2 htoks, fun hrest => State.sendRelease_find htoks hrest hr,
      State.sendRelease_done htoks⟩
  case pair =>
    intro k c m hcand hpair htile e mark
    have hmark : e.pairVerdict p m.2.2.2 = mark := e.pairVerdict_eq p m.2.2.2
    have hexec := exec_pairRelease_of_cand hlive hcand hpair (e := e) rfl
    rw [hmark, State.startRelease_of_tokens htile] at hexec
    refine ⟨_, releaseTokens p n k (p.pairSum e.lanes m.2.2.1) mark c.work, hexec, ?_, releaseTokens_length .., ?_, ?_,
      fun j tok hj => releaseTokens_token hj⟩
    · rw [State.addRelease_rels]
      exact congrArg (fun l => l ++ _) s.clearAn_rels
    · exact congrArg (fun l => List.erase l m) s.clearAn_pair
    · have hstitch := State.pairCand_stitch hcand
      subst hstitch
      exact congrArg AnEntry.lanes s.clearAn_anAt
end

section
/-!
SUPPORT. What a request does to a pool (R211, R212, R215, R219, R220): the counts of the blocks, a block taken, blocks
that lose a hold, and the tables.
-/

namespace Sys2Proof.Machine

theorem lookup_erase_of_ne {α β : Type} [DecidableEq α] {k j : α} (h : k ≠ j) (l : List (α × β)) :
    lookup j (erase k l) = lookup j l := by
  induction l with
  | nil => rfl
  | cons a l ih =>
    unfold erase at ih ⊢
    by_cases ha : a.1 = k
    · rw [List.filter_cons_of_neg (by simpa using ha), ih, lookup, if_neg (ha.trans_ne h)]
    · rw [List.filter_cons_of_pos (by simpa using ha), lookup, lookup, ih]

/-! ### The count of a block (R212) -/

section

variable (p : Pool) (b v : Nat)

@[simp] theorem Pool.setCount_mark : (p.setCount b v).mark = p.mark := by
  unfold Pool.setCount
  split <;> rfl

@[simp] theorem Pool.setCount_stack : (p.setCount b v).stack = p.stack := by
  unfold Pool.setCount
  split <;> rfl

@[simp] theorem Pool.setCount_tables : (p.setCount b v).tables = p.tables := by
  unfold Pool.setCount
  split <;> rfl

theorem Pool.count_setCount (e : Nat) : (p.setCount b v).count e = if e = b then v % 65536 else p.count e := by
  unfold Pool.setCount
  by_cases he : e = b
  · subst he
    rw [if_pos rfl]
    split
    · next hzero => simp [Pool.count, lookup_erase_self, hzero]
    · simp [Pool.count]
  · rw [if_neg he]
    split
    · simp [Pool.count, lookup_erase_of_ne (Ne.symm he)]
    · simp [Pool.count, lookup_insert_of_ne (Ne.symm he)]

end

/-! ### A block taken (R215, R220) -/

section

variable {p : Pool} {b x : Nat} {rest : List Nat}

theorem Pool.overQuota_iff :
    p.overQuota = true ↔ p.refs.length * (p.size / 16384) + p.size / 16384 > 4 * p.quota := by
  simp [Pool.overQuota, Pool.charge, Pool.unit]

theorem Pool.take_of_top (h : p.stack = x :: rest) : p.take = some (x, { p with stack := rest }) := by
  rw [Pool.take, h]

theorem Pool.take_of_mark (h : p.stack = []) (hlt : p.mark < p.n) :
    p.take = some (p.mark, { p with mark := p.mark + 1 }) := by
  rw [Pool.take, h]
  exact if_pos hlt

theorem Pool.take_of_empty (h : p.stack = []) (hge : p.mark ≥ p.n) : p.take = none := by
  rw [Pool.take, h]
  exact if_neg (Nat.not_lt.mpr hge)

/-- A pool that has a block gives the top of its stack, else the one at the watermark. -/
theorem Pool.take_of_has (h : p.stack = [] ∧ p.mark < p.n ∧ x = p.mark ∨ ∃ rest, p.stack = x :: rest) :
    ∃ q, p.take = some (x, q) := by
  obtain ⟨hstack, hlt, rfl⟩ | ⟨rest, hstack⟩ := h
  · exact ⟨_, Pool.take_of_mark hstack hlt⟩
  · exact ⟨_, Pool.take_of_top hstack⟩

theorem Pool.grab_of_full (h : p.overQuota = true) : p.grab = .error (0x02, 0) := if_pos h

variable (hfit : p.overQuota = false)
include hfit

theorem Pool.grab_of_none (h : p.take = none) : p.grab = .error (0x01, 0) := by
  simp [Pool.grab, hfit, h, blkEmpty]

theorem Pool.grab_of_take {q : Pool} (h : p.take = some (b, q)) : p.grab = .ok (b, q.setCount b 1) := by
  simp [Pool.grab, hfit, h]

theorem Pool.balloc_of_take {q : Pool} (h : p.take = some (b, q)) : p.balloc = .ok (q.setCount b 1, b) := by
  rw [Pool.balloc, Pool.grab_of_take hfit h]

theorem Pool.append_of_take {q : Pool} (t : Nat) (l : List Nat) (hmeta : p.lacksChunks 1 = false)
    (h : p.take = some (b, q)) : p.append t l = .ok (b, (q.setCount b 1).setTable t (l ++ [b])) := by
  rw [Pool.append, hmeta, Bool.and_false, Pool.grab_of_take hfit h]
  rfl

end

/-! ### One hold on a block ends (R212) -/

@[simp] theorem Pool.drop_mark (p : Pool) (b : Nat) : (p.drop b).mark = p.mark := by
  unfold Pool.drop
  dsimp only
  split <;> simp

@[simp] theorem Pool.drop_tables (p : Pool) (b : Nat) : (p.drop b).tables = p.tables := by
  unfold Pool.drop
  dsimp only
  split <;> simp

/-- A block is held: its 16-bit count is above 0. -/
def Pool.Holds (p : Pool) (b : Nat) : Prop := 0 < p.count b ∧ p.count b < 65536

section

variable {p : Pool} {b : Nat} (h : p.Holds b)
include h

theorem Pool.Holds.pred : (p.count b + 65535) % 65536 = p.count b - 1 := by
  obtain ⟨hpos, hlt⟩ := h
  omega

/-- A hold that ends frees the block exactly where it is the last one. -/
theorem Pool.Holds.pred_eq_zero : (p.count b + 65535) % 65536 = 0 ↔ p.count b = 1 := by
  obtain ⟨hpos, hlt⟩ := h
  omega

theorem Pool.Holds.drop_stack : (p.drop b).stack = if p.count b = 1 then b :: p.stack else p.stack := by
  unfold Pool.drop
  dsimp only
  rw [if_congr h.pred_eq_zero rfl rfl]
  split <;> simp

theorem Pool.Holds.count_drop (e : Nat) : (p.drop b).count e = if e = b then p.count b - 1 else p.count e := by
  have hcount : (p.drop b).count e = (p.setCount b (p.count b - 1)).count e := by
    unfold Pool.drop
    dsimp only
    rw [h.pred]
    split <;> rfl
  rw [hcount, Pool.count_setCount, ← h.pred, Nat.mod_mod]

end

/-! ### The holds of several entries end (R219) -/

/-- The entries whose only hold ends with them. -/
def Pool.freed (p : Pool) (es : List Nat) : List Nat := es.filter (fun e => p.count e == 1)

theorem Pool.dropAll_from (es : List Nat) (p : Pool) (m : Nat) :
    es.foldl (fun a b => (a.1.drop b, a.2 + (decide ((a.1.count b + 65535) % 65536 = 0)).toNat)) (p, m) =
      ((p.dropAll es).1, m + (p.dropAll es).2) := by
  induction es generalizing p m with
  | nil => rfl
  | cons e es ih => rw [Pool.dropAll, List.foldl_cons, List.foldl_cons, ih, ih, Nat.zero_add, Nat.add_assoc]

theorem Pool.dropAll_cons (p : Pool) (e : Nat) (es : List Nat) :
    p.dropAll (e :: es) = (((p.drop e).dropAll es).1,
      (decide ((p.count e + 65535) % 65536 = 0)).toNat + ((p.drop e).dropAll es).2) := by
  rw [Pool.dropAll, List.foldl_cons, Pool.dropAll_from, Nat.zero_add]

@[simp] theorem Pool.dropAll_mark (p : Pool) (es : List Nat) : (p.dropAll es).1.mark = p.mark := by
  induction es generalizing p with
  | nil => rfl
  | cons e es ih => rw [Pool.dropAll_cons, ih, Pool.drop_mark]

@[simp] theorem Pool.dropAll_tables (p : Pool) (es : List Nat) : (p.dropAll es).1.tables = p.tables := by
  induction es generalizing p with
  | nil => rfl
  | cons e es ih => rw [Pool.dropAll_cons, ih, Pool.drop_tables]

/-- Entries that are all different lose their holds independently of each other, so that the counts before tell which of
them are freed. -/
theorem Pool.dropAll_of_held {p : Pool} {es : List Nat} (hdiff : es.Nodup) (hheld : ∀ e ∈ es, p.Holds e) :
    (p.dropAll es).2 = (p.freed es).length ∧ (p.dropAll es).1.stack = (p.freed es).reverse ++ p.stack ∧
      ∀ e, (p.dropAll es).1.count e = if e ∈ es then p.count e - 1 else p.count e := by
  induction es generalizing p with
  | nil => exact ⟨rfl, rfl, fun e => rfl⟩
  | cons b es ih =>
    obtain ⟨hout, hdiff⟩ := List.nodup_cons.mp hdiff
    have hb : p.Holds b := hheld b List.mem_cons_self
    have hsame : ∀ e ∈ es, (p.drop b).count e = p.count e := fun e he => by
      rw [hb.count_drop, if_neg (ne_of_mem_of_not_mem he hout)]
    have hfreed : (p.drop b).freed es = p.freed es := List.filter_congr fun e he => by rw [hsame e he]
    obtain ⟨hn, hstack, hcount⟩ := ih hdiff (p := p.drop b) fun e he => by
      rw [Pool.Holds, hsame e he]
      exact hheld e (List.mem_cons_of_mem _ he)
    rw [hfreed] at hn hstack
    rw [Pool.dropAll_cons, hn, hstack, hb.drop_stack]
    simp only [hb.pred_eq_zero]
    refine ⟨?_, ?_, fun e => ?_⟩
    · by_cases hone : p.count b = 1 <;> simp [Pool.freed, hone, Nat.add_comm]
    · by_cases hone : p.count b = 1 <;> simp [Pool.freed, hone]
    · rw [hcount, hb.count_drop]
      by_cases heb : e = b
      · subst heb
        simp [hout]
      · simp [heb]

/-! ### Tables (R213, R219) -/

section

variable {p q : Pool} {t : Nat} {l : List Nat}

theorem Pool.ne_tableNone_of_table (h : p.table t = some l) : t ≠ tableNone := by
  rintro rfl
  simp [Pool.table] at h

theorem Pool.table_setTable_self (h : t ≠ tableNone) (l : List Nat) : (p.setTable t l).table t = some l := by
  rw [Pool.table, if_neg h]
  exact lookup_insert_self t l p.tables

/-- Another table stays as it was where only the entries of table `t` are put in place. -/
theorem Pool.table_setTable_of_ne {x : Nat} (htables : q.tables = p.tables) (h : x ≠ t) (l : List Nat) :
    (q.setTable t l).table x = p.table x := by
  simp only [Pool.table, Pool.setTable, htables, lookup_insert_of_ne h.symm]

/-- The pool without table `t`. -/
def Pool.eraseTable (p : Pool) (t : Nat) : Pool := { p with tables := erase t p.tables }

theorem Pool.table_eraseTable_self (p : Pool) (t : Nat) : (p.eraseTable t).table t = none := by
  simp only [Pool.table, Pool.eraseTable, lookup_erase_self, ite_self]

theorem Pool.table_eraseTable_of_ne {x : Nat} (htables : q.tables = p.tables) (h : x ≠ t) :
    (q.eraseTable t).table x = p.table x := by
  simp only [Pool.table, Pool.eraseTable, htables, lookup_erase_of_ne h.symm]

end

theorem handleTable_eq (h : Word) : handleTable h = h.toNat % 2 ^ 21 := by
  simp [handleTable, wspan, bitSpan]

/-! ### The requests that name a table -/

/-- A request that names a table looks it up first, and fails where there is none. -/
theorem Pool.perform_of_no_table {p : Pool} {h : Word} (hnone : p.table (handleTable h) = none) (b : Word) :
    ∀ r ∈ [BlkReq.btapp h false, .bttrim h b, .btlook h b, .btfork h b, .btdrop h, .bpstat h 6],
      p.perform r = .error (0x04, 0) := by
  simp only [List.forall_mem_cons]
  refine ⟨?_, ?_, ?_, ?_, ?_, ?_, nofun⟩ <;>
    simp [Pool.perform, Pool.btapp, Pool.bttrim, Pool.btlook, Pool.btfork, Pool.btdrop, Pool.bpstat, hnone, blkBadSeq]

/-- How many entries of a table BTFORK shares: the first b, or all where b is 0. -/
def forkLen (l : List Nat) (b : Word) : Nat := if b = 0 then l.length else b.toNat

theorem forkLen_le {l : List Nat} {b : Word} (hle : b.toNat ≤ l.length) : forkLen l b ≤ l.length := by
  unfold forkLen
  split
  · exact le_rfl
  · exact hle

/-- The pool in which each of some blocks has one hold more. -/
def Pool.share (p : Pool) (es : List Nat) : Pool := es.foldl (fun q e => q.setCount e (q.count e + 1)) p

section

variable {p : Pool} {h b : Word} {l : List Nat} (htable : p.table (handleTable h) = some l)
include htable

theorem Pool.btlook_of_entry {e : Nat} (he : l[b.toNat / p.size]? = some e) :
    p.perform (.btlook h b) = .ok (p, p.base + e * p.size + b.toNat % p.size) := by
  simp only [Pool.perform, Pool.btlook, htable, he]

theorem Pool.btlook_of_beyond (hout : l[b.toNat / p.size]? = none) : p.perform (.btlook h b) = .error (0x04, 0) := by
  simp only [Pool.perform, Pool.btlook, htable, hout, blkBadSeq]

theorem Pool.btapp_of_take {x : Nat} {q : Pool} (hlen : l.length < 65536) (hfit : p.overQuota = false)
    (hmeta : p.lacksChunks 1 = false) (htake : p.take = some (x, q)) :
    p.perform (.btapp h false) =
      .ok ((q.setCount x 1).setTable (handleTable h) (l ++ [x]), x + l.length * 2 ^ 32) := by
  simp only [Pool.perform, Pool.btapp, htable, Bool.false_eq_true, if_false, if_neg (Nat.not_le.mpr hlen),
    Pool.append_of_take hfit (handleTable h) l hmeta htake]

theorem Pool.bttrim_of_le (hle : b.toNat ≤ l.length) :
    p.perform (.bttrim h b) = .ok ((p.dropAll (l.drop b.toNat)).1.setTable (handleTable h) (l.take b.toNat),
      (p.dropAll (l.drop b.toNat)).2) := by
  simp only [Pool.perform, Pool.bttrim, htable, if_neg (Nat.not_lt.mpr hle)]

theorem Pool.bttrim_of_gt (hgt : b.toNat > l.length) : p.perform (.bttrim h b) = .error (0x04, 0) := by
  simp only [Pool.perform, Pool.bttrim, htable, if_pos hgt, blkBadSeq]

theorem Pool.btdrop_of_table :
    p.perform (.btdrop h) = .ok ((p.dropAll l).1.eraseTable (handleTable h), (p.dropAll l).2) := by
  simp only [Pool.perform, Pool.btdrop, htable, Pool.eraseTable]

theorem Pool.btfork_of_free {x : Nat} (hle : b.toNat ≤ l.length) (hfree : p.freeTable = some x)
    (hmeta : p.lacksChunks (chunksFor (forkLen l b)) = false)
    (hmax : ∀ e ∈ l.take (forkLen l b), p.count e ≠ 65535) :
    p.perform (.btfork h b) = .ok ((p.share (l.take (forkLen l b))).setTable x (l.take (forkLen l b)), p.handle x) := by
  have hnot : (l.take (forkLen l b)).any (fun e => p.count e == 65535) = false := by simpa using hmax
  have hlen := forkLen_le hle
  unfold forkLen at hnot hlen hmeta
  simp only [Pool.perform, Pool.btfork, htable, if_neg (Nat.not_lt.mpr hlen), hfree, hmeta, hnot, Bool.false_eq_true,
    if_false, Pool.share, forkLen]

end

end Sys2Proof.Machine

open Sys2Proof Sys2Proof.Machine in
/-- Settles O34: a request answers what its block or its table gives, and the entries that a table loses lose their
holds one after the other, which being all different they do independently. -/
theorem poolRequestResults : Obligations.PoolRequestResults := by
  intro p h b full table releases
  have hname : handleTable h = table := handleTable_eq h
  have hfull : p.overQuota = true ↔ full := Pool.overQuota_iff
  have hfit (hnot : ¬ full) : p.overQuota = false := Bool.eq_false_iff.mpr (mt hfull.mp hnot)
  refine ⟨?quota, ?alloc, ?badblk, ?free, ?notable, ?tables, rfl, rfl, rfl, rfl, rfl⟩
  case quota =>
    intro hover
    simp only [Pool.perform, Pool.balloc, Pool.grab_of_full (hfull.mpr hover)]
  case alloc =>
    intro hnot
    have hone (q : Pool) (x : Nat) : (q.setCount x 1).count x = 1 := by rw [Pool.count_setCount, if_pos rfl]
    refine ⟨fun hstack hge => ?_, fun hstack hlt => ?_, fun x rest hstack => ?_⟩
    · simp only [Pool.perform, Pool.balloc, Pool.grab_of_none (hfit hnot) (Pool.take_of_empty hstack hge)]
    · exact ⟨_, Pool.balloc_of_take (hfit hnot) (Pool.take_of_mark hstack hlt), Pool.setCount_mark ..,
        (Pool.setCount_stack ..).trans hstack, hone ..⟩
    · exact ⟨_, Pool.balloc_of_take (hfit hnot) (Pool.take_of_top hstack), Pool.setCount_mark ..,
        Pool.setCount_stack .., hone ..⟩
  case badblk => exact fun hbad => if_pos hbad
  case free =>
    intro hlt hpos hmax
    have hheld : p.Holds b.toNat := ⟨hpos, hmax⟩
    have hok : ¬ (b.toNat ≥ p.n ∨ p.count b.toNat = 0) := by omega
    refine ⟨_, if_neg hok, Pool.drop_mark .., Pool.drop_tables .., fun hone => ?_, fun hmore => ⟨?_, ?_⟩⟩
    · rw [hheld.drop_stack, if_pos hone]
    · rw [hheld.drop_stack, if_neg (Nat.ne_of_gt hmore)]
    · rw [hheld.count_drop, if_pos rfl]
  case notable => exact fun hnone => Pool.perform_of_no_table (hname ▸ hnone) b
  case tables =>
    intro l htable
    have hreal : table ≠ tableNone := Pool.ne_tableNone_of_table htable
    rw [← hname] at htable
    refine ⟨fun e he => Pool.btlook_of_entry htable he, fun hout => Pool.btlook_of_beyond htable hout, ?append, ?trim,
      fun hgt => Pool.bttrim_of_gt htable hgt, ?drop, ?fork⟩
    case append =>
      intro hlen hnot hmeta x hhas
      obtain ⟨q, htake⟩ := Pool.take_of_has hhas
      refine ⟨_, Pool.btapp_of_take htable hlen (hfit hnot) hmeta htake, ?_⟩
      rw [hname]
      exact Pool.table_setTable_self hreal _
    case trim =>
      intro hle
      refine ⟨_, _, Pool.bttrim_of_le htable hle, ?_, ?_, fun x hx => ?_, Pool.dropAll_of_held⟩
      · exact Pool.dropAll_mark ..
      · rw [hname]
        exact Pool.table_setTable_self hreal _
      · rw [hname]
        exact Pool.table_setTable_of_ne (Pool.dropAll_tables ..) hx _
    case drop =>
      refine ⟨_, _, Pool.btdrop_of_table htable, ?_, ?_, fun x hx => ?_, Pool.dropAll_of_held⟩
      · exact Pool.dropAll_mark ..
      · rw [hname]
        exact Pool.table_eraseTable_self ..
      · rw [hname]
        exact Pool.table_eraseTable_of_ne (Pool.dropAll_tables ..) hx
    case fork =>
      intro x hle hfree hx hmeta hmax
      exact ⟨_, Pool.btfork_of_free htable hle hfree hmeta hmax, Pool.table_setTable_self hx _⟩
end

section
/-!
SUPPORT. BLK instructions (R214, R216 to R218): what each begins, and a request that is performed at its controller,
with what the controller's write to the pool's metadata leaves.
-/

namespace Sys2Proof.Machine

/-- One byte of a block in memory is a field of its own. -/
theorem field_one (bs : List Byte) (off : Nat) : field bs off 1 = ((bs.drop off).headD 0).toNat := by
  unfold field
  cases bs.drop off <;> simp [leNat]

/-! ### The instructions (R216, R217) -/

theorem exec_blkInstr_began {i : Instr} {t : Reg} {regs : List Reg} {req : State → BlkReq} {s : State}
    (hexec : exec i s = blkInstr i t regs req s) (hw : i.wellFormed = true) (h : s.mayIssue regs t 0) :
    ∃ y, exec i s = .next y ∧ s.began y t .other (.blk (handleCtrl (req s).handle) (req s)) :=
  ⟨_, hexec.trans (issue_next hw h), s.began_begin ..⟩

/-- BPMAKE takes the controller from the block that it reads. -/
theorem exec_bpmake_began {s u v : State} {t a : Reg} {w : Bool} {sp : List Span} {bs : List Byte}
    (h : s.mayIssue [a] t 1) (hheld : s.readHeld (s.reg a) = false)
    (hcheck : s.checked .read (s.reg a) 8 64 = (u, .ok (w, sp))) (hread : State.readSpans w sp u = (v, bs, none)) :
    ∃ y, exec (.bpmake t a) s = .next y ∧ v.began y t .other (.blk (field bs 13 1) (.bpmake bs)) := by
  refine ⟨_, (exec_bpmake t a s).trans (issue_next rfl h), ?_⟩
  simp only [hheld, Bool.false_eq_true, if_false, hcheck, hread]
  exact v.began_begin ..

/-! ### A pool's metadata written (R352) -/

/-- A controller's write keeps what a flag's test keeps, and what its bytes and its free choices are not part of. -/
theorem State.writePool_keep {α : Type} (g : State → α) (hland : ∀ s pa bs, g (State.land s pa bs) = g s)
    (hspent : ∀ s, g (State.spent s) = g s) (s : State) (p : Pool) : g (s.writePool p) = g s := by
  refine (hspent _).trans (List.foldlRecOn (motive := fun t => g t = g s) _ _ rfl fun t ht w _ => ?_)
  split
  · exact (hland ..).trans ht
  · exact ht

section

variable (s : State) (p : Pool)

@[simp] theorem State.writePool_pools : (s.writePool p).pools = s.pools :=
  State.writePool_keep State.pools (fun _ _ _ => State.testFlags_keep State.pools State.testFlag_pools _ _)
    (fun _ => rfl) s p

@[simp] theorem State.writePool_opIds : (s.writePool p).opIds = s.opIds :=
  State.writePool_keep State.opIds (fun _ _ _ => State.testFlags_keep State.opIds State.testFlag_opIds _ _)
    (fun _ => rfl) s p

@[simp] theorem State.writePool_cycle : (s.writePool p).cycle = s.cycle :=
  State.writePool_keep State.cycle (fun _ _ _ => State.testFlags_keep State.cycle State.testFlag_cycle _ _)
    (fun _ => rfl) s p

@[simp] theorem State.writePool_num : (s.writePool p).core.num = s.core.num :=
  State.writePool_keep (fun s => s.core.num)
    (fun _ _ _ => State.testFlags_keep (fun s => s.core.num) State.testFlag_num _ _) (fun _ => rfl) s p

end

/-! ### A request at its controller (R218, R221) -/

section

variable {s : State} {bs : List Byte}

theorem State.performBlk_of_badPool {e : Nat × Nat} (h : s.makePool bs = .error e) :
    s.performBlk (.bpmake bs) = (s, statusWord e.1 e.2) := by
  simp only [State.performBlk, h]

theorem State.performBlk_of_made {p : Pool} (h : s.makePool bs = .ok p) : s.performBlk (.bpmake bs) =
    (({ s with pools := s.pools ++ [p] } : State).writePool p, BitVec.ofNat 64 (p.handle tableNone)) := by
  simp only [State.performBlk, h]

/-- The pool put in its place, and its metadata written where it has changed. -/
def State.storePool (s : State) (p q : Pool) : State := if q = p then s.setPool q else (s.setPool q).writePool q

theorem State.storePool_pools (s : State) (p q : Pool) :
    (s.storePool p q).pools = s.pools.map (fun x => if x.num = q.num then q else x) := by
  unfold State.storePool
  split
  · rfl
  · exact State.writePool_pools ..

variable {r : BlkReq} (hr : ∀ bs, r ≠ .bpmake bs)
include hr

/-- A request that is none of BPMAKE goes to the pool that its handle names. -/
theorem State.performBlk_of_handle : s.performBlk r = match s.poolOf s.part.num r.handle with
    | none => (s, statusWord blkNoPool 0)
    | some p =>
      match p.perform r with
      | .error e => (s, statusWord e.1 e.2)
      | .ok (q, v) => (s.storePool p q, BitVec.ofNat 64 v) := by
  unfold State.performBlk
  cases r
  case bpmake bs => exact absurd rfl (hr bs)
  all_goals rfl

theorem State.performBlk_of_noPool (h : s.poolOf s.part.num r.handle = none) :
    s.performBlk r = (s, statusWord blkNoPool 0) := by
  rw [State.performBlk_of_handle hr, h]

variable {p : Pool} (hpool : s.poolOf s.part.num r.handle = some p)
include hpool

theorem State.performBlk_of_failure {e : Nat × Nat} (h : p.perform r = .error e) :
    s.performBlk r = (s, statusWord e.1 e.2) := by
  rw [State.performBlk_of_handle hr, hpool]
  dsimp only
  rw [h]

theorem State.performBlk_of_success {q : Pool} {v : Nat} (h : p.perform r = .ok (q, v)) :
    s.performBlk r = (s.storePool p q, BitVec.ofNat 64 v) := by
  rw [State.performBlk_of_handle hr, hpool]
  dsimp only
  rw [h]

end

/-- What stays of the core that a request came from: the operations that stand, the cycle, and its number. -/
def State.servesFrom (s y : State) : Prop := y.opIds = s.opIds ∧ y.cycle = s.cycle ∧ y.core.num = s.core.num

theorem State.storePool_servesFrom (s : State) (p q : Pool) : s.servesFrom (s.storePool p q) := by
  unfold State.storePool
  split
  · exact ⟨rfl, rfl, rfl⟩
  · exact ⟨State.writePool_opIds .., State.writePool_cycle .., State.writePool_num ..⟩

theorem State.performBlk_servesFrom (s : State) (r : BlkReq) : s.servesFrom (s.performBlk r).1 := by
  unfold State.performBlk
  split
  · split
    · exact ⟨rfl, rfl, rfl⟩
    · exact ⟨State.writePool_opIds .., State.writePool_cycle .., State.writePool_num ..⟩
  · split
    · exact ⟨rfl, rfl, rfl⟩
    · split
      · exact ⟨rfl, rfl, rfl⟩
      · exact s.storePool_servesFrom ..

/-- A look at the first request of its unit at its controller performs it, and it completes in the next cycle. -/
theorem exec_tokenCompletion_blk {s : State} {id c : Nat} {o : Op} {r : BlkReq} (hop : s.core.set.op id = some o)
    (hwait : o.wait = .blk c r) (hfirst : s.core.set.firstOf id (Wait.asks c) = true) :
    ∃ y, exec (.tokenCompletion id) s = .next y ∧
      y.waitsFor id (.ready (s.performBlk r).2 .clear (s.cycle + 1)) ∧ y.pools = (s.performBlk r).1.pools := by
  obtain ⟨hids, hcycle, hnum⟩ := s.performBlk_servesFrom r
  have hend : s.endBlk id c r = (s.performBlk r).1.settle id (s.performBlk r).2 .clear := if_pos hfirst
  have hon : s.completeOn id = s.endBlk id c r :=
    State.completeOn_eq hop (by rw [hwait]; rfl) (by rw [hwait]; rfl)
  rw [hend] at hon
  have hid : id ∈ (s.performBlk r).1.opIds := by
    rw [hids]
    exact CSet.op_ne_none_iff.mp (by simp [hop])
  refine ⟨_, exec_tokenCompletion_current hop (by rw [hon]; exact hnum), ?_, by rw [hon]; rfl⟩
  rw [hon, ← hcycle]
  exact State.settle_waitsFor hid _ _

end Sys2Proof.Machine

open Sys2Proof Sys2Proof.Machine in
/-- Settles O33: each instruction begins an operation that waits for its controller, and a look at the first of them
there is `performBlk`, whose pools no write to the metadata changes. -/
theorem poolInstructionsAskTheirController : Obligations.PoolInstructionsAskTheirController := by
  intro s t a b q ctrl
  refine ⟨fun hboth i r hform hw => ?handles, fun hiss hheld u v w sp bs hcheck hread => ?bpmake,
    fun id o c r hop hwait hfirst => ?look⟩
  case handles =>
    have hone : s.mayIssue [a] t 0 := hboth.mono (by simp) le_rfl
    simp only [List.mem_cons, Prod.mk.injEq, List.not_mem_nil, or_false] at hform
    obtain ⟨rfl, rfl⟩ | ⟨rfl, rfl⟩ | ⟨rfl, rfl⟩ | ⟨rfl, rfl⟩ | ⟨rfl, rfl⟩ | ⟨rfl, rfl⟩ | ⟨rfl, rfl⟩ | ⟨rfl, rfl⟩ |
      ⟨rfl, rfl⟩ := hform
    · exact exec_blkInstr_began (exec_balloc t a s) hw hone
    · exact exec_blkInstr_began (exec_bfree t a b s) hw hboth
    · exact exec_blkInstr_began (exec_btapp t a 0 s) hw hone
    · exact exec_blkInstr_began (exec_btapp t a 1 s) hw hone
    · exact exec_blkInstr_began (exec_bttrim t a b s) hw hboth
    · exact exec_blkInstr_began (exec_btlook t a b s) hw hboth
    · exact exec_blkInstr_began (exec_btfork t a b s) hw hboth
    · exact exec_blkInstr_began (exec_btdrop t a s) hw hone
    · exact exec_blkInstr_began (exec_bpstat t a q s) hw hone
  case bpmake =>
    rw [← field_one]
    exact exec_bpmake_began hiss hheld hcheck hread
  case look =>
    obtain ⟨y, hexec, hwaits, hpools⟩ := exec_tokenCompletion_blk hop hwait hfirst
    refine ⟨y, _, hexec, hwaits, fun bs hbp => ⟨fun e hbad => ?_, fun p hmade => ?_⟩, fun hr hnone => ?_,
      fun p hr hpool => ⟨fun e hfail => ?_, fun p' n hok => ?_⟩⟩
    · subst hbp
      rw [hpools, State.performBlk_of_badPool hbad]
      exact ⟨rfl, rfl⟩
    · subst hbp
      rw [hpools, State.performBlk_of_made hmade]
      exact ⟨State.writePool_pools .., rfl⟩
    · rw [hpools, State.performBlk_of_noPool hr hnone]
      exact ⟨rfl, rfl⟩
    · rw [hpools, State.performBlk_of_failure hr hpool hfail]
      exact ⟨rfl, rfl⟩
    · rw [hpools, State.performBlk_of_success hr hpool hok]
      exact ⟨rfl, s.storePool_pools p p'⟩
end

section
/-!
SUPPORT. The SYNC instructions, the atomics and the reductions at issue (R232, R235 to R238, R240, R243): the checks of
their address, and what each begins.
-/

namespace Sys2Proof.Machine

/-! ### Where a flag or an atomic's address leads (R235, R240, R243) -/

section Reach

variable {s u : State} {kind : AccKind} {va : Word} {n : Nat} (scope : Nat)

theorem State.reach_of_misaligned (h : va.toNat % n ≠ 0) : s.reach kind va n scope = (s, .error causeAlign) := if_pos h

variable (halign : va.toNat % n = 0)
include halign

theorem State.reach_of_window (h : va.toNat ≥ windowBase) : s.reach kind va n scope = (s, .error causeAccess) := by
  rw [State.reach, if_neg (not_not.mpr halign), if_pos h]

theorem State.reach_of_translate (hglobal : va.toNat < windowBase) (hwin : s.part.windowAt va.toNat = none) {pa : Nat}
    (ht : s.translate kind va.toNat = (u, .ok pa)) (hr : ∀ x y, regionOf pa ≠ .scratch x y) :
    s.reach kind va n scope = (u, .ok (.home pa)) := by
  rw [State.reach, if_neg (not_not.mpr halign), if_neg (Nat.not_le.mpr hglobal), hwin]
  dsimp only
  rw [ht]
  dsimp only
  split
  · next x y hxy => exact absurd hxy (hr x y)
  · rfl

end Reach

/-! ### SCOPENARROW noted (R241) -/

@[simp] theorem State.noteNarrow_core (s : State) (scope : Nat) : (s.noteNarrow scope).core = s.core := by
  unfold State.noteNarrow
  split <;> rfl

@[simp] theorem State.noteNarrow_net (s : State) (scope : Nat) : (s.noteNarrow scope).net = s.net := by
  unfold State.noteNarrow
  split <;> rfl

@[simp] theorem State.noteNarrow_host (s : State) (scope : Nat) : (s.noteNarrow scope).host = s.host := by
  unfold State.noteNarrow
  split <;> rfl

@[simp] theorem State.noteNarrow_cycle (s : State) (scope : Nat) : (s.noteNarrow scope).cycle = s.cycle := by
  unfold State.noteNarrow
  split <;> rfl

/-- Work that begins once SCOPENARROW is noted. -/
theorem State.began_noteNarrow_begin (s : State) (scope : Nat) (t : Reg) (cls : OpClass) (w : Wait) :
    s.began ((s.noteNarrow scope).begin t cls w).advance t cls w :=
  State.began_of_begin (by simp) (by simp) (by simp)

/-! ### PHB, BAR and FENCE (R232, R236) -/

section Boundary

variable {s : State} {i : Instr} {t : Reg} (hw : i.wellFormed = true) (h : s.mayIssue [] t 0) (bar : Bool)
include hw h

/-- A third live phase is not begun. -/
theorem boundaryInstr_of_two_open (hopen : s.core.set.openBoundaries ≥ 2) : boundaryInstr i t bar s = .next s := by
  rw [boundaryInstr, issue_next hw h]
  exact congrArg _ (if_pos hopen)

theorem boundaryInstr_began {c : UnitCtx} (hunit : s.core.set.unit = some c)
    (hopen : s.core.set.openBoundaries < 2) : ∃ y, boundaryInstr i t bar s = .next y ∧
      s.began y t .other (.boundary c.phase bar) ∧ y.core.set.unit = some { c with phase := c.phase + 1 } := by
  rw [boundaryInstr, issue_next hw h]
  refine ⟨_, congrArg _ (if_neg (Nat.not_le.mpr hopen)), State.began_of_begin rfl ?ops rfl, ?unit⟩
  case ops => simp [State.unit, hunit]
  case unit => simp [hunit]

end Boundary

theorem exec_fence_began {s : State} {t : Reg} {q : BitVec 3} (hq : q.toNat ≤ 5) (h : s.mayIssue [] t 0) :
    ∃ y, exec (.fence t q) s = .next y ∧ s.began y t .other .fence :=
  ⟨_, (exec_fence t q s).trans (issue_next (i := .fence t q) (decide_eq_true hq) h), s.began_noteNarrow_begin ..⟩

/-- A look at a FENCE whose writes are applied completes it in the next cycle. -/
theorem exec_tokenCompletion_fence {s : State} {id : Nat} {o : Op} (hop : s.core.set.op id = some o)
    (hwait : o.wait = .fence) (hdone : s.fenceDone s.core.set id = true) :
    ∃ y, exec (.tokenCompletion id) s = .next y ∧ y.waitsFor id (.ready 0 .clear (s.cycle + 1)) := by
  have hend : s.endFence id = s.settle id 0 .clear := if_pos hdone
  have hon : s.completeOn id = s.settle id 0 .clear :=
    (State.completeOn_eq hop (by rw [hwait]; rfl) (by rw [hwait]; rfl)).trans hend
  have hid : id ∈ s.core.set.ops.map Op.id := CSet.op_ne_none_iff.mp (by simp [hop])
  exact ⟨_, exec_tokenCompletion_current hop (by rw [hon]; rfl), hon ▸ State.settle_waitsFor hid 0 .clear⟩

/-! ### SIGSET and SIGWAIT (R235, R237, R238) -/

/-- The highest field of a condition word. -/
theorem wspan_48_16 (w : Word) : wspan w 48 16 = w.toNat / 2 ^ 48 := Nat.mod_eq_of_lt (by omega)

theorem sigwait_wellFormed (t a : Reg) {b : Reg} {q : BitVec 3} (heven : b.isEven = true) (hq : q.toNat ≤ 5) :
    (Instr.sigwait t a b q).wellFormed = true := by
  simp only [Instr.wellFormed, scopeListed, heven, decide_eq_true hq, Bool.and_self]

section Flag

variable {s u : State} {t a b : Reg} {q : BitVec 3} (hq : q.toNat ≤ 5) (hheld : s.globalHeld (s.reg a) = false)
include hq hheld

theorem exec_sigset_of_fault (h : s.mayIssue [a, b] t 0) {cause : BitVec 8}
    (hr : s.reach .write (s.reg a) 8 q.toNat = (u, .error cause)) :
    exec (.sigset t a b q) s = .next (u.trap cause (s.reg a)) := by
  refine (exec_sigset t a b q s).trans ((issue_next (i := .sigset t a b q) (decide_eq_true hq) h).trans ?_)
  simp only [hheld, hr]
  rfl

theorem exec_sigset_began (h : s.mayIssue [a, b] t 0) {pa : Nat}
    (hr : s.reach .write (s.reg a) 8 q.toNat = (u, .ok (.home pa))) : ∃ y, exec (.sigset t a b q) s = .next y ∧
      u.began y t .other (.sigset pa (va48 (s.reg a)) (s.reg b) (s.scope q.toNat) none) := by
  refine ⟨_, (exec_sigset t a b q s).trans (issue_next (decide_eq_true hq) h), ?_⟩
  simp only [hheld, hr]
  exact u.began_noteNarrow_begin ..

variable (heven : b.isEven = true) (h : s.mayIssue [a, b, b + 1] t 0)
include heven h

theorem exec_sigwait_of_fault {cause : BitVec 8} (hr : s.reach .read (s.reg a) 8 q.toNat = (u, .error cause)) :
    exec (.sigwait t a b q) s = .next (u.trap cause (s.reg a)) := by
  refine (exec_sigwait t a b q s).trans ((issue_next (sigwait_wellFormed t a heven hq) h).trans ?_)
  simp only [hheld, hr]
  rfl

variable {pa : Nat} (hr : s.reach .read (s.reg a) 8 q.toNat = (u, .ok (.home pa)))
include hr

/-- A condition word with a reserved bit set fails the SIGWAIT. -/
theorem exec_sigwait_of_reserved (hres : wspan (s.reg (pairOf b)) 2 14 ≠ 0 ∨ wspan (s.reg (pairOf b)) 48 16 ≠ 0) :
    ∃ y, exec (.sigwait t a b q) s = .next y ∧
      u.began y t .other (.ready (statusWord 0x61 0) .clear (u.cycle + 1)) := by
  refine ⟨_, (exec_sigwait t a b q s).trans (issue_next (sigwait_wellFormed t a heven hq) h), ?_⟩
  simp only [hheld, Bool.false_eq_true, if_false, hr]
  rw [if_pos hres, ← u.noteNarrow_cycle q.toNat]
  exact u.began_noteNarrow_begin ..

theorem exec_sigwait_began (hres : ¬ (wspan (s.reg (pairOf b)) 2 14 ≠ 0 ∨ wspan (s.reg (pairOf b)) 48 16 ≠ 0)) :
    ∃ y, exec (.sigwait t a b q) s = .next y ∧ u.began y t .other .sigwait ∧
      y.net.waits = (u.awaitFlag pa none (s.reg b) (s.reg (pairOf b))).net.waits := by
  refine ⟨_, (exec_sigwait t a b q s).trans (issue_next (sigwait_wellFormed t a heven hq) h), ?_⟩
  simp only [hheld, Bool.false_eq_true, if_false, hr]
  rw [if_neg hres]
  refine ⟨State.began_of_begin ?_ ?_ ?_, ?_⟩ <;> simp [State.awaitFlag, State.unit]

end Flag

end Sys2Proof.Machine

open Sys2Proof Sys2Proof.Machine in
/-- Settles O35: the address check that SIGSET and SIGWAIT share traps or answers the flag's home, and each instruction
begins from the state that its check leaves. -/
theorem synchronisationInstructionsComplete : Obligations.SynchronisationInstructionsComplete := by
  intro s u t a b q pa c
  refine ⟨fun h hunit => ⟨fun i bar hi => ?boundary, fun hq => exec_fence_began hq h⟩,
    fun id o hop hwait hdone => exec_tokenCompletion_fence hop hwait hdone, fun h hq hheld => ?flags⟩
  case boundary =>
    obtain ⟨hw, hexec⟩ : i.wellFormed = true ∧ exec i s = boundaryInstr i t bar s := by
      obtain ⟨rfl, rfl⟩ | ⟨rfl, rfl⟩ := hi
      · exact ⟨rfl, exec_phb t s⟩
      · exact ⟨rfl, exec_bar t s⟩
    rw [hexec]
    exact ⟨boundaryInstr_of_two_open hw h bar, boundaryInstr_began hw h bar hunit⟩
  case flags =>
    have hset : s.mayIssue [a, b] t 0 := h.mono (by simp) le_rfl
    have traps {cause : BitVec 8} (hr : ∀ kind, s.reach kind (s.reg a) 8 q.toNat = (s, .error cause)) :
        exec (.sigset t a b q) s = .next (s.trap cause (s.reg a)) ∧
          (b.isEven = true → exec (.sigwait t a b q) s = .next (s.trap cause (s.reg a))) :=
      ⟨exec_sigset_of_fault hq hheld hset (hr .write), fun heven => exec_sigwait_of_fault hq hheld heven h (hr .read)⟩
    refine ⟨fun hmis => traps fun _ => State.reach_of_misaligned _ hmis,
      fun halign hwindow => traps fun _ => State.reach_of_window _ halign hwindow,
      fun halign hglobal hwin hregion => ⟨fun ht => ?sigset, fun heven ht =>
        ⟨fun hres => ?reserved, fun h2 h48 => ?sigwait⟩⟩⟩
    case sigset => exact exec_sigset_began hq hheld hset (State.reach_of_translate _ halign hglobal hwin ht hregion)
    case reserved =>
      refine exec_sigwait_of_reserved hq hheld heven h (State.reach_of_translate _ halign hglobal hwin ht hregion) ?_
      rw [wspan_48_16]
      exact hres
    case sigwait =>
      rw [← wspan_0_2]
      refine exec_sigwait_began hq hheld heven h (State.reach_of_translate _ halign hglobal hwin ht hregion) ?_
      rw [wspan_48_16]
      exact not_or.mpr ⟨not_not.mpr h2, not_not.mpr h48⟩
end

section
/-!
SUPPORT. The atomics and the reductions at issue (R240, R242, R243): what they have in common, and what leaves for the
home.
-/

namespace Sys2Proof.Machine

/-- An operand as the access carries it: 64 bits, or the low 32 (R242). -/
def bankOperand (wide : Bool) (v : Word) : Word := if wide then v else BitVec.ofNat 64 (v.toNat % 2 ^ 32)

theorem bankOperand_narrow (v : Word) : bankOperand false v = v &&& 0xFFFFFFFF := by
  apply BitVec.eq_of_toNat_eq
  have hmask : v.toNat &&& 0xFFFFFFFF = v.toNat % 2 ^ 32 := Nat.and_two_pow_sub_one_eq_mod v.toNat 32
  have hlt : v.toNat % 2 ^ 32 < 2 ^ 64 := by omega
  simp only [bankOperand, Bool.false_eq_true, if_false, BitVec.toNat_and, BitVec.toNat_ofNat]
  rw [Nat.mod_eq_of_lt hlt]
  exact hmask.symm

theorem bankOperand_width (narrow : BitVec 1) (v : Word) :
    bankOperand (decide (narrow = 0)) v = if narrow = 0 then v else v &&& 0xFFFFFFFF := by
  obtain rfl | rfl : narrow = 0 ∨ narrow = 1 := by bv_omega
  · rfl
  · exact bankOperand_narrow v

theorem bankOperand_zero (wide : Bool) : bankOperand wide 0 = 0 := by
  cases wide <;> rfl

/-- Bit 3 of an atomic's q narrows it to 32 bits. -/
theorem qWide_append (narrow : BitVec 1) (c : BitVec 3) : qWide (narrow ++ c) = decide (narrow = 0) := by
  decide +revert

section SendBank

variable (s : State) (pa scope : Nat) (acc : BankAcc) (op : Nat)

theorem State.sendBank_home_seq : (s.sendBank (.home pa) scope acc op).core.set.seq = s.core.set.seq := by
  rw [State.sendBank, State.inject_core]
  rfl

theorem State.sendBank_home_ops : (s.sendBank (.home pa) scope acc op).core.set.ops = s.core.set.ops := by
  rw [State.sendBank, State.inject_core]
  rfl

/-- The packet that an access of the package sends. -/
theorem State.sendBank_home_packets : ∃ k : Packet,
    (s.sendBank (.home pa) scope acc op).net.packets = s.net.packets ++ [k] ∧
      k.body = .bank { acc with pa := pa } ∧ k.dst = homeOf s.host.pins pa ∧ k.op = some op := by
  rw [State.sendBank, State.inject_packets]
  exact ⟨_, rfl, rfl, rfl, rfl⟩

end SendBank

section BankInstr

variable {s u : State} {i : Instr} {t a : Reg} {regs : List Reg} {kind : BankKind} {wide quiet : Bool} {scope : Nat}
  {x y : State → Word} (hw : i.wellFormed = true) (h : s.mayIssue (a :: regs) t 0)
  (hheld : s.globalHeld (s.reg a) = false)
include hw h hheld

theorem bankInstr_of_fault {cause : BitVec 8} (hr : s.reach (if kind = .load then .read else .write) (s.reg a)
    (if wide then 8 else 4) scope = (u, .error cause)) :
    bankInstr i t a regs kind wide quiet scope x y s = .next (u.trap cause (s.reg a)) := by
  rw [bankInstr, issue_next hw h]
  simp only [hheld, hr]
  rfl

/-- An access whose home is in the package leaves for it with the operands of its width. -/
theorem bankInstr_began {pa : Nat} (hr : s.reach (if kind = .load then .read else .write) (s.reg a)
    (if wide then 8 else 4) scope = (u, .ok (.home pa))) :
    ∃ (z : State) (k : Packet), bankInstr i t a regs kind wide quiet scope x y s = .next z ∧ u.began z t .other .bank ∧
      z.net.packets = u.net.packets ++ [k] ∧
      k.body = .bank ⟨kind, wide, pa, va48 (s.reg a), bankOperand wide (x s), bankOperand wide (y s), quiet⟩ ∧
      k.dst = homeOf u.host.pins pa ∧ k.op = some u.net.nextId ∧ z.mem = u.mem := by
  have hexec : bankInstr i t a regs kind wide quiet scope x y s =
      .next (((u.noteNarrow scope).begin t .other .bank).sendBank (.home pa) (s.scope scope)
        ⟨kind, wide, 2 ^ 52, va48 (s.reg a), bankOperand wide (x s), bankOperand wide (y s), quiet⟩
        (u.noteNarrow scope).net.nextId).advance := by
    rw [bankInstr, issue_next hw h]
    simp only [hheld, hr]
    rfl
  obtain ⟨k, hpackets, hbody, hdst, hop⟩ := State.sendBank_home_packets ((u.noteNarrow scope).begin t .other .bank) pa
    (s.scope scope) ⟨kind, wide, 2 ^ 52, va48 (s.reg a), bankOperand wide (x s), bankOperand wide (y s), quiet⟩
    (u.noteNarrow scope).net.nextId
  refine ⟨_, k, hexec, State.began_of_begin ?_ ?_ ?_, ?_, hbody, ?_, ?_, ?_⟩
  · rw [State.sendBank_home_seq]
    simp
  · rw [State.sendBank_home_ops]
    simp
  · simp
  · simpa using hpackets
  · simpa using hdst
  · simpa using hop
  · simp

end BankInstr

/-- An instruction that is an access to a bank: the registers it reads besides its address, and its operands. -/
def BankForm (s : State) (i : Instr) (t a b : Reg) (acc : BankAcc) : Prop :=
  ∃ (regs : List Reg) (scope : Nat) (x y : State → Word), (∀ r ∈ regs, r ∈ [b, b + 1]) ∧
    acc.x = bankOperand acc.wide (x s) ∧ acc.y = bankOperand acc.wide (y s) ∧
    exec i s = bankInstr i t a regs acc.kind acc.wide acc.quiet scope x y s

/-- The atomics and reductions of one operand register, at the width that q[3] asks for. -/
theorem BankForm.of_atomic {s : State} {i : Instr} {t a b : Reg} {narrow : BitVec 1} {c : BitVec 3} {kind : BankKind}
    {quiet : Bool} (hexec : exec i s = atomicInstr i t a b (narrow ++ c) kind quiet s) (pa : Nat) (va : BitVec 48) :
    BankForm s i t a b ⟨kind, decide (narrow = 0), pa, va,
      if narrow = 0 then s.reg b else s.reg b &&& 0xFFFFFFFF, 0, quiet⟩ := by
  refine ⟨[b], qScope (narrow ++ c), fun s => s.reg b, fun _ => 0, by simp, (bankOperand_width ..).symm,
    (bankOperand_zero _).symm, hexec.trans ?_⟩
  rw [atomicInstr, qWide_append]

section

variable (s : State) (t a b : Reg) (narrow : BitVec 1) (c : BitVec 3) (pa : Nat) (va : BitVec 48)

theorem bankForm_acas : BankForm s (.acas t a b (narrow ++ c)) t a b ⟨.cas, decide (narrow = 0), pa, va,
    if narrow = 0 then s.reg b else s.reg b &&& 0xFFFFFFFF,
    if narrow = 0 then s.reg (b + 1) else s.reg (b + 1) &&& 0xFFFFFFFF, false⟩ := by
  refine ⟨[b, b + 1], qScope (narrow ++ c), fun s => s.reg b, fun s => s.reg (b + 1), by simp,
    (bankOperand_width ..).symm, (bankOperand_width ..).symm, (exec_acas ..).trans ?_⟩
  rw [execAcas, qWide_append]
  rfl

/-- ALD has no operand register. -/
theorem bankForm_ald : BankForm s (.ald t a (narrow ++ c)) t a b ⟨.load, decide (narrow = 0), pa, va, 0, 0, false⟩ := by
  refine ⟨[], qScope (narrow ++ c), fun _ => 0, fun _ => 0, by simp, (bankOperand_zero _).symm,
    (bankOperand_zero _).symm, (exec_ald ..).trans ?_⟩
  rw [execAld, qWide_append]

/-- The FP32 additions are 32 bits wide. -/
theorem BankForm.of_addf {s : State} {i : Instr} {quiet : Bool} (hexec : exec i s =
    bankInstr i t a [b] .addf false quiet c.toNat (fun s => s.reg b) (fun _ => 0) s) :
    BankForm s i t a b ⟨.addf, false, pa, va, s.reg b &&& 0xFFFFFFFF, 0, quiet⟩ :=
  ⟨[b], c.toNat, fun s => s.reg b, fun _ => 0, by simp, (bankOperand_narrow _).symm, (bankOperand_zero _).symm, hexec⟩

end

end Sys2Proof.Machine

open Sys2Proof Sys2Proof.Machine in
/-- Settles O37: each of the sixteen is one form of access, whose address check traps or answers the home that its
packet goes to. -/
theorem atomicsGoToTheirBank : Obligations.AtomicsGoToTheirBank := by
  intro s u t a b c narrow pa h hheld q va x y low v wide i acc hmem hw n
  obtain ⟨hpa, hva, hform⟩ : acc.pa = pa ∧ acc.va = va48 va ∧ BankForm s i t a b acc := by
    simp only [List.mem_cons, Prod.mk.injEq, List.not_mem_nil, or_false] at hmem
    obtain ⟨rfl, rfl⟩ | ⟨rfl, rfl⟩ | ⟨rfl, rfl⟩ | ⟨rfl, rfl⟩ | ⟨rfl, rfl⟩ | ⟨rfl, rfl⟩ | ⟨rfl, rfl⟩ | ⟨rfl, rfl⟩ |
      ⟨rfl, rfl⟩ | ⟨rfl, rfl⟩ | ⟨rfl, rfl⟩ | ⟨rfl, rfl⟩ | ⟨rfl, rfl⟩ | ⟨rfl, rfl⟩ | ⟨rfl, rfl⟩ | ⟨rfl, rfl⟩ := hmem
    · exact ⟨rfl, rfl, .of_atomic (exec_aadd t a b q s) ..⟩
    · exact ⟨rfl, rfl, .of_atomic (exec_aand t a b q s) ..⟩
    · exact ⟨rfl, rfl, .of_atomic (exec_aor t a b q s) ..⟩
    · exact ⟨rfl, rfl, .of_atomic (exec_axor t a b q s) ..⟩
    · exact ⟨rfl, rfl, .of_atomic (exec_amin t a b q s) ..⟩
    · exact ⟨rfl, rfl, .of_atomic (exec_amax t a b q s) ..⟩
    · exact ⟨rfl, rfl, .of_atomic (exec_aminu t a b q s) ..⟩
    · exact ⟨rfl, rfl, .of_atomic (exec_amaxu t a b q s) ..⟩
    · exact ⟨rfl, rfl, .of_atomic (exec_axchg t a b q s) ..⟩
    · exact ⟨rfl, rfl, bankForm_acas ..⟩
    · exact ⟨rfl, rfl, .of_addf t a b c _ _ (exec_aaddf t a b c s)⟩
    · exact ⟨rfl, rfl, bankForm_ald ..⟩
    · exact ⟨rfl, rfl, .of_atomic (exec_radd t a b q s) ..⟩
    · exact ⟨rfl, rfl, .of_atomic (exec_rmin t a b q s) ..⟩
    · exact ⟨rfl, rfl, .of_atomic (exec_rmax t a b q s) ..⟩
    · exact ⟨rfl, rfl, .of_addf t a b c _ _ (exec_raddf t a b c s)⟩
  obtain ⟨regs, scope, f, g, hregs, hx, hy, hexec⟩ := hform
  have hiss : s.mayIssue (a :: regs) t 0 :=
    h.mono (fun r hr => (List.mem_cons.mp hr).elim (fun hra => hra ▸ List.mem_cons_self)
      (fun hrr => List.mem_cons_of_mem _ (hregs r hrr))) le_rfl
  rw [hexec]
  refine ⟨fun hmis => bankInstr_of_fault hw hiss hheld (State.reach_of_misaligned _ hmis),
    fun halign hwindow => bankInstr_of_fault hw hiss hheld (State.reach_of_window _ halign hwindow),
    fun halign hglobal hwin ht hregion => ?_⟩
  have hbegan := bankInstr_began (quiet := acc.quiet) (x := f) (y := g) hw hiss hheld
    (State.reach_of_translate scope halign hglobal hwin ht hregion)
  have hacc : acc = ⟨acc.kind, acc.wide, pa, va48 va, bankOperand acc.wide (f s), bankOperand acc.wide (g s),
      acc.quiet⟩ := by
    rw [← hx, ← hy, ← hva, ← hpa]
  rwa [← hacc] at hbegan
end

section
/-!
SUPPORT. Writes and accesses at their homes (R229, R230, R242 to R244, R250, R251): the bytes that they leave, the
packet handed over, and the operations of the current core that go on.
-/

namespace Sys2Proof.Machine

/-! ### Bytes written and read back (R2) -/

theorem Memory.get_putBytes_getD {m : Memory} (a : Nat) (bs : List Byte) (h : m.wf) {j : Nat} (hj : j < bs.length) :
    (m.putBytes a bs).get (a + j) = bs.getD j 0 := by
  rw [Memory.get_putBytes_inside a j bs h hj, List.getD_eq_getElem _ _ hj]

theorem Memory.getBytes_putBytes {m : Memory} (a : Nat) (bs : List Byte) (h : m.wf) :
    (m.putBytes a bs).getBytes a bs.length = bs := by
  refine List.ext_getElem (Memory.getBytes_length ..) fun j _ hj => ?_
  simp [Memory.getBytes, Memory.get_putBytes_inside a j bs h hj]

theorem Memory.nat_putBytes_leBytes {m : Memory} (a n v : Nat) (h : m.wf) :
    (m.putBytes a (leBytes n v)).nat a n = v % 256 ^ n := by
  have hread := Memory.getBytes_putBytes a (leBytes n v) h
  rw [leBytes_length] at hread
  rw [Memory.nat, hread, leNat_leBytes]

/-! ### Operations that go on -/

/-- What an operation waits for is read off the operations of the set alone. -/
theorem State.waitsFor_of_ops_eq {s t : State} {id : Nat} {w : Wait} (hops : t.core.set.ops = s.core.set.ops)
    (h : s.waitsFor id w) : t.waitsFor id w := by
  rwa [State.waitsFor, hops]

@[simp] theorem CSet.forget_ops (c : CSet) (lid : BitVec 32) (unit pa n : Nat) :
    (c.forget lid unit pa n).ops = c.ops := by
  unfold CSet.forget
  split <;> rfl

@[simp] theorem State.applyPhase_mem (s : State) (k : Packet) (pa : Nat) (bs : List Byte) :
    (s.applyPhase k pa bs).mem = s.mem.putBytes pa bs :=
  State.apply_mem (s.keepEarly ..) pa bs

theorem State.applyPhase_ops (s : State) (k : Packet) (pa : Nat) (bs : List Byte) :
    (s.applyPhase k pa bs).core.set.ops =
      ((s.keepEarly k.lid k.unit k.phase pa bs).land pa bs).core.set.ops :=
  CSet.forget_ops ..

theorem State.applyPhase_opIds (s : State) (k : Packet) (pa : Nat) (bs : List Byte) :
    (s.applyPhase k pa bs).opIds = s.opIds := by
  rw [State.opIds, State.applyPhase_ops]
  exact State.testFlags_keep State.opIds State.testFlag_opIds _ _

theorem State.applyPhase_cycle (s : State) (k : Packet) (pa : Nat) (bs : List Byte) :
    (s.applyPhase k pa bs).cycle = s.cycle :=
  State.testFlags_keep State.cycle State.testFlag_cycle _ _

@[simp] theorem State.report_cycle (s : State) (p core pa n : Nat) (cause : BitVec 6) :
    (s.report p core pa n cause).cycle = s.cycle :=
  State.log_cycle ..

/-- The instruction that an access was sent for is on its way with the value. -/
theorem State.settleOp_waitsFor {s : State} {k : Packet} {id : Nat} (hop : k.op = some id) (hid : id ∈ s.opIds)
    (v : Word) (e : ErrKind) : (s.settleOp k v e).waitsFor id (.ready v e (s.cycle + 1)) := by
  rw [State.settleOp, hop]
  exact State.settle_waitsFor hid v e

/-! ### A packet handed over (R264) -/

theorem State.packet_id {s : State} {n : Nat} {k : Packet} (h : s.packet n = some k) : k.id = n := by
  simpa using List.find?_some h

theorem State.handOver_arrivedId (s : State) (k : Packet) : (s.handOver k).arrivedId k.id = true := by
  unfold State.arrivedId
  split
  · next q hq =>
    have hid := State.packet_id hq
    obtain ⟨p, -, rfl⟩ := List.mem_map.mp (List.mem_of_find?_eq_some hq)
    by_cases hp : p.id = k.id
    · simp [hp]
    · simp [hp] at hid
  · rfl

/-! ### An arriving write (R230, R244, R251) -/

section WriteArrival

variable {s : State} {n : Nat} {k : Packet} {src : Source} {pa : Nat} {va : BitVec 48} (hk : s.packet n = some k)
  (hdst : k.dst < 352) (hbody : k.body = .write src pa va) (happly : s.mayApply k = true)
include hk hdst hbody happly

theorem exec_writeArrival_of_unit (hsrc : src ≠ .outside) :
    exec (.writeArrival n) s = .next (((s.applyPhase k pa k.bytes).handOver k).settleHost) := by
  rw [exec_writeArrival, execWriteArrival, hk]
  dsimp only
  rw [hbody]
  dsimp only
  rw [when_next happly, if_neg (show ¬ k.dst ≥ remoteEnd from Nat.not_le.mpr hdst), if_neg hsrc]

theorem exec_writeArrival_of_host (hsrc : src = .outside) :
    exec (.writeArrival n) s = .next (((s.hostApply k.part pa k.bytes).handOver k).settleHost) := by
  rw [exec_writeArrival, execWriteArrival, hk]
  dsimp only
  rw [hbody]
  dsimp only
  rw [when_next happly, if_neg (show ¬ k.dst ≥ remoteEnd from Nat.not_le.mpr hdst), if_pos hsrc]

end WriteArrival

/-- The bytes of a host's write that its home keeps: those of a child queue's tail stay as they are (R306). -/
def State.keptBytes (s : State) (pa : Nat) (bs : List Byte) : List Byte :=
  (List.range bs.length).map (fun i => if s.childTail (pa + i) then s.mem.get (pa + i) else bs.getD i 0)

@[simp] theorem State.keptBytes_length (s : State) (pa : Nat) (bs : List Byte) :
    (s.keptBytes pa bs).length = bs.length := by
  simp [State.keptBytes]

theorem State.keptBytes_getD (s : State) (pa : Nat) {bs : List Byte} {j : Nat} (hj : j < bs.length) :
    (s.keptBytes pa bs).getD j 0 = if s.childTail (pa + j) then s.mem.get (pa + j) else bs.getD j 0 := by
  simp [State.keptBytes, hj]

theorem State.hostApply_mem (s : State) (p pa : Nat) (bs : List Byte) :
    (s.hostApply p pa bs).mem = s.mem.putBytes pa (s.keptBytes pa bs) := by
  have happly := s.apply_mem pa (s.keptBytes pa bs)
  unfold State.hostApply
  dsimp only
  split
  · exact happly
  · rw [State.logOpen_mem]
    exact happly

/-! ### An access at its bank (R242, R243, R250) -/

/-- The bytes that an access reaches. -/
def BankAcc.width (acc : BankAcc) : Nat := if acc.wide then 8 else 4

theorem sintOf_width (acc : BankAcc) (v : Nat) :
    sintOf (8 * acc.width) v = (BitVec.ofNat (8 * acc.width) v).toInt := by
  unfold BankAcc.width
  cases acc.wide
  · exact sintOf_eq_toInt 31 v
  · exact sintOf_eq_toInt 63 v

/-- The new value that an access stores at its location (R242). -/
def BankAcc.new (acc : BankAcc) (m : Nat) : Nat := bankNew acc.kind (8 * acc.width) m acc.x.toNat acc.y.toNat

/-- What an access leaves at its home: a load form changes nothing. -/
def State.performBank (s : State) (k : Packet) (acc : BankAcc) : State :=
  if acc.kind = .load then s
  else s.applyPhase k acc.pa (leBytes acc.width (acc.new (s.mem.nat acc.pa acc.width)))

section Bank

variable (s : State) (k : Packet) (acc : BankAcc)

theorem State.performBank_opIds : (s.performBank k acc).opIds = s.opIds := by
  unfold State.performBank
  split
  · rfl
  · exact State.applyPhase_opIds ..

theorem State.performBank_cycle : (s.performBank k acc).cycle = s.cycle := by
  unfold State.performBank
  split
  · rfl
  · exact State.applyPhase_cycle ..

variable {s k acc}

theorem State.performBank_mem_of_load (h : acc.kind = .load) : (s.performBank k acc).mem = s.mem := by
  rw [State.performBank, if_pos h]

theorem State.performBank_mem (h : acc.kind ≠ .load) : (s.performBank k acc).mem =
    s.mem.putBytes acc.pa (leBytes acc.width (acc.new (s.mem.nat acc.pa acc.width))) := by
  rw [State.performBank, if_neg h, State.applyPhase_mem]

theorem State.performBank_get_outside (hwf : s.mem.wf) {z : Nat} (hz : z < acc.pa ∨ acc.pa + acc.width ≤ z) :
    (s.performBank k acc).mem.get z = s.mem.get z := by
  by_cases h : acc.kind = .load
  · rw [State.performBank_mem_of_load h]
  · rw [State.performBank_mem h]
    exact Memory.get_putBytes_outside _ _ _ hwf (by rwa [leBytes_length])

theorem State.performBank_nat (hwf : s.mem.wf) (h : acc.kind ≠ .load) :
    (s.performBank k acc).mem.nat acc.pa acc.width = acc.new (s.mem.nat acc.pa acc.width) % 2 ^ (8 * acc.width) := by
  rw [State.performBank_mem h, Memory.nat_putBytes_leBytes _ _ _ hwf, pow_mul]
  rfl

variable (hdst : k.dst < 352)
include hdst

theorem State.bankAccess_of_clean (hclean : s.readError acc.pa acc.width = none) : s.bankAccess k acc =
    ((s.performBank k acc).handOver k).settleOp k
      (if acc.quiet then 0 else BitVec.ofNat 64 (s.mem.nat acc.pa acc.width)) .clear := by
  have hnot : ¬ (acc.kind ≠ .set ∧ (s.readError acc.pa acc.width).isSome) := by simp [hclean]
  rw [State.bankAccess, if_neg (show ¬ k.dst ≥ remoteEnd from Nat.not_le.mpr hdst)]
  exact if_neg hnot

theorem State.bankAccess_of_error (hset : acc.kind ≠ .set) (herr : s.readError acc.pa acc.width ≠ none) :
    s.bankAccess k acc = ((s.report k.part k.src acc.pa acc.width 0x0B).handOver k).settleOp k
      (BitVec.ofNat 64 (11 + acc.va.toNat * 256)) .token := by
  rw [State.bankAccess, if_neg (show ¬ k.dst ≥ remoteEnd from Nat.not_le.mpr hdst)]
  exact if_pos ⟨hset, Option.isSome_iff_ne_none.mpr herr⟩

end Bank

theorem exec_homeBankAccess_of_mayBank {s : State} {n : Nat} {k : Packet} {acc : BankAcc} (hk : s.packet n = some k)
    (hbody : k.body = .bank acc) (hmay : s.mayBank k acc = true) :
    exec (.homeBankAccess n) s = .next (s.bankAccess k acc) := by
  rw [exec_homeBankAccess, execHomeBankAccess, hk]
  dsimp only
  rw [hbody]
  exact when_next hmay

end Sys2Proof.Machine

open Sys2Proof Sys2Proof.Machine in
/-- Settles O38: a write and an access leave what `putBytes` leaves of their bytes, and the operation that an access was
sent for settles behind them. -/
theorem bankAccessesPerform : Obligations.BankAccessesPerform := by
  intro s n k hk hdst hwf
  refine ⟨fun src pa va hbody happly => ?write, fun acc hbody hmay => ?bank⟩
  case write =>
    have harrived (u : State) : ((u.handOver k).settleHost).arrivedId n = true :=
      State.packet_id hk ▸ u.handOver_arrivedId k
    by_cases hsrc : src = .outside
    · refine ⟨_, exec_writeArrival_of_host hk hdst hbody happly hsrc, fun j hj => ?_, fun x hx => ?_, harrived _⟩
      · rw [State.settleHost_mem, State.handOver_mem, State.hostApply_mem,
          Memory.get_putBytes_getD _ _ hwf (by rwa [State.keptBytes_length]), State.keptBytes_getD _ _ hj]
        simp only [hsrc, true_and]
      · rw [State.settleHost_mem, State.handOver_mem, State.hostApply_mem]
        exact Memory.get_putBytes_outside _ _ _ hwf (by rwa [State.keptBytes_length])
    · refine ⟨_, exec_writeArrival_of_unit hk hdst hbody happly hsrc, fun j hj => ?_, fun x hx => ?_, harrived _⟩
      · rw [State.settleHost_mem, State.handOver_mem, State.applyPhase_mem, Memory.get_putBytes_getD _ _ hwf hj]
        simp only [hsrc, false_and, if_false]
      · rw [State.settleHost_mem, State.handOver_mem, State.applyPhase_mem]
        exact Memory.get_putBytes_outside _ _ _ hwf hx
  case bank =>
    intro w m x y sx
    have hexec := exec_homeBankAccess_of_mayBank hk hbody hmay
    refine ⟨fun hclean => ?clean, fun hset herr => ?poison⟩
    case clean =>
      rw [State.bankAccess_of_clean hdst hclean] at hexec
      refine ⟨_, hexec, fun z hz => ?outside, fun id hop hid => ?waits, fun hload => ?load, fun v hv => ?value⟩
      case outside =>
        rw [State.settleOp_mem, State.handOver_mem]
        exact State.performBank_get_outside hwf hz
      case waits =>
        have hin : id ∈ ((s.performBank k acc).handOver k).opIds :=
          (s.performBank_opIds k acc).symm ▸ CSet.op_ne_none_iff.mp hid
        have hwaits := State.settleOp_waitsFor hop hin (if acc.quiet then 0 else BitVec.ofNat 64 m) .clear
        rwa [show ((s.performBank k acc).handOver k).cycle = s.cycle from s.performBank_cycle k acc] at hwaits
      case load =>
        rw [State.settleOp_mem, State.handOver_mem, State.performBank_mem_of_load hload]
      case value =>
        have hnot : acc.kind ≠ .load := fun hload => by simp [hload] at hv
        have hsigned (p q a b : Nat) : (if decide (sintOf (8 * acc.width) p < sintOf (8 * acc.width) q) then a else b) =
            if sx p < sx q then a else b := by
          simp only [sintOf_width, decide_eq_true_eq]
          rfl
        rw [State.settleOp_mem, State.handOver_mem]
        refine (State.performBank_nat hwf hnot).trans ?_
        rw [BankAcc.new]
        simp only [List.mem_cons, Prod.mk.injEq, List.not_mem_nil, or_false] at hv
        obtain ⟨hkind, rfl⟩ | ⟨hkind, rfl⟩ | ⟨hkind, rfl⟩ | ⟨hkind, rfl⟩ | ⟨hkind, rfl⟩ | ⟨hkind, rfl⟩ | ⟨hkind, rfl⟩ |
          ⟨hkind, rfl⟩ | ⟨hkind, rfl⟩ | ⟨hkind, rfl⟩ | ⟨hkind, rfl⟩ | ⟨hkind, rfl⟩ := hv
        all_goals rw [hkind]
        · exact Nat.mod_mod ..
        · rfl
        · rfl
        · rfl
        · exact congrArg (· % 2 ^ (8 * acc.width)) (hsigned ..)
        · exact congrArg (· % 2 ^ (8 * acc.width)) (hsigned ..)
        · rfl
        · rfl
        · rfl
        · rfl
        · rfl
        · rfl
    case poison =>
      rw [State.bankAccess_of_error hdst hset herr] at hexec
      refine ⟨_, hexec, ?_, fun id hop hid => ?_⟩
      · rw [State.settleOp_mem, State.handOver_mem, State.report_mem]
      · have hin : id ∈ ((s.report k.part k.src acc.pa acc.width 0x0B).handOver k).opIds := by
          rw [State.opIds, show ((s.report k.part k.src acc.pa acc.width 0x0B).handOver k).core = s.core from
            s.report_core ..]
          exact CSet.op_ne_none_iff.mp hid
        have hwaits := State.settleOp_waitsFor hop hin (BitVec.ofNat 64 (11 + acc.va.toNat * 256)) .token
        rwa [show ((s.report k.part k.src acc.pa acc.width 0x0B).handOver k).cycle = s.cycle from
          s.report_cycle ..] at hwaits
end

section
/-!
SUPPORT. SIGWAITs at their flag's home, and phase boundaries (R230, R231, R238).
-/

namespace Sys2Proof.Machine

/-! ### A flag tested (R238) -/

/-- R238's conditions: equal, unequal, at least, a common bit. -/
theorem flagMeets_iff (cond : BitVec 2) (v x : Word) : flagMeets cond.toNat v x = true ↔
    (cond = 0 ∧ v = x) ∨ (cond = 1 ∧ v ≠ x) ∨ (cond = 2 ∧ v.toNat ≥ x.toNat) ∨ (cond = 3 ∧ v &&& x ≠ 0) := by
  obtain rfl | rfl | rfl | rfl : cond = 0 ∨ cond = 1 ∨ cond = 2 ∨ cond = 3 := by bv_omega
  all_goals simp [flagMeets, BitVec.ule_eq_decide]

@[simp] theorem State.dropWait_waitAt (s : State) (op : Nat) : (s.dropWait op).waitAt op = none := by
  simp [State.waitAt, State.dropWait]

theorem State.waitAt_op {s : State} {n : Nat} {w : SigWait} (h : s.waitAt n = some w) : w.op = n := by
  simpa using List.find?_some h

theorem State.waitAt_of_waits_eq {s t : State} (h : t.net.waits = s.net.waits) (op : Nat) :
    t.waitAt op = s.waitAt op := by
  rw [State.waitAt, h, State.waitAt]

section TestFlag

variable {s : State} {w : SigWait} (hpa : w.pa ≠ 2 ^ 52)
include hpa

/-- A condition that holds completes the wait with the flag's value, and the unit acquires. -/
theorem State.testFlag_of_meets (h : flagMeets w.cond.toNat (s.mem.word w.pa) w.x = true) : s.testFlag w =
    (((s.dropWait w.op).settle w.op (s.mem.word w.pa) .clear).mapSets (fun c => c.acquire w.lid w.unit)) := by
  simp only [State.testFlag, State.flagValue, hpa, h, if_false, if_true]
  rfl

theorem State.testFlag_of_not (h : ¬ flagMeets w.cond.toNat (s.mem.word w.pa) w.x = true) : s.testFlag w =
    s.mapNet (fun n => { n with waits := n.waits.map (fun y => if y.op = w.op then
      { y with fresh := false, since := some (w.since.getD s.cycle) } else y) }) := by
  simp only [State.testFlag, State.flagValue, hpa, h, decide_false, if_false]
  rfl

theorem State.testFlag_waitAt (h : flagMeets w.cond.toNat (s.mem.word w.pa) w.x = true) :
    (s.testFlag w).waitAt w.op = none := by
  rw [State.testFlag_of_meets hpa h]
  exact s.dropWait_waitAt w.op

theorem State.testFlag_waitsFor (h : flagMeets w.cond.toNat (s.mem.word w.pa) w.x = true) (hid : w.op ∈ s.opIds) :
    (s.testFlag w).waitsFor w.op (.ready (s.mem.word w.pa) .clear (s.cycle + 1)) := by
  rw [State.testFlag_of_meets hpa h]
  exact State.waitsFor_of_ops_eq (CSet.acquire_ops ..)
    (State.settle_waitsFor (s := s.dropWait w.op) hid (s.mem.word w.pa) .clear)

end TestFlag

theorem exec_sigwaitTest_of_fresh {s : State} {n : Nat} {w : SigWait} (hw : s.waitAt n = some w)
    (hfresh : w.fresh = true) (hmay : s.performs w.op = true) : exec (.sigwaitTest n) s = .next (s.testFlag w) := by
  rw [exec_sigwaitTest, execSigwaitTest, hw]
  exact when_next (by rw [hfresh, hmay]; rfl)

theorem exec_sigwaitTimeout_of_expired {s : State} {n : Nat} {w : SigWait} (hw : s.waitAt n = some w)
    (hexp : w.expired s.cycle = true) :
    exec (.sigwaitTimeout n) s = .next ((s.dropWait n).settle n (statusWord 0x60 0) .clear) := by
  rw [exec_sigwaitTimeout, execSigwaitTimeout, hw]
  exact when_next hexp

/-! ### A write that reaches a flag (R238, R244) -/

/-- Bytes at their home before the flags that they change are tested. -/
def State.written (s : State) (pa : Nat) (bs : List Byte) : State :=
  { s with
    mem := s.mem.putBytes pa bs
    host := { s.host with
      errLines := s.host.errLines.filter (fun l => !(wholeLines pa bs.length).contains l)
      poisoned := s.host.poisoned.filter (fun l => !(wholeLines pa bs.length).contains l) }
    parts := s.parts.map (fun p => p.dirtied
      (((Machine.pagesOf pa bs.length).filter (fun g => s.granted p g.2)).map (·.1))) }

theorem State.land_eq (s : State) (pa : Nat) (bs : List Byte) : s.land pa bs =
    (s.net.waits.filter (fun w => w.since.isSome && (locsOf pa bs.length).contains w.pa)).foldl State.testFlag
      (s.written pa bs) := rfl

theorem mem_locsOf {pa n x : Nat} (halign : x % 8 = 0) (hlo : pa ≤ x) (hhi : x < pa + n) : x ∈ locsOf pa n :=
  List.mem_map.mpr ⟨x / 8 - pa / 8, List.mem_range.mpr (by omega), by omega⟩

/-- The one flag that waits, where a write reaches it, is tested once against what the write leaves. -/
theorem State.land_of_one_wait {s : State} {w : SigWait} {pa : Nat} {bs : List Byte} (hwaits : s.net.waits = [w])
    (hsince : w.since.isSome) (hloc : w.pa ∈ locsOf pa bs.length) : s.land pa bs = (s.written pa bs).testFlag w := by
  have hone : s.net.waits.filter (fun w => w.since.isSome && (locsOf pa bs.length).contains w.pa) = [w] := by
    simp [hwaits, hsince, hloc]
  rw [State.land_eq, hone]
  rfl

/-- A unit's write that reaches the one flag that waits: what waits and what goes on after it is as after the flag's
test in a state `p`, in which the bytes stand and nothing has settled. -/
theorem exec_writeArrival_tests {s : State} {n : Nat} {k : Packet} {src : Source} {pa : Nat} {va : BitVec 48}
    {w : SigWait} (hk : s.packet n = some k) (hdst : k.dst < 352) (hbody : k.body = .write src pa va)
    (happly : s.mayApply k = true) (hsrc : src ≠ .outside) (hwaits : s.net.waits = [w]) (hsince : w.since.isSome)
    (hloc : w.pa ∈ locsOf pa k.bytes.length) : ∃ t p : State, exec (.writeArrival n) s = .next t ∧ p.mem = t.mem ∧
      p.cycle = s.cycle ∧ p.opIds = s.opIds ∧ p.net.waits = [w] ∧ t.net.waits = (p.testFlag w).net.waits ∧
      t.core.set.ops = (p.testFlag w).core.set.ops := by
  have hland := State.land_of_one_wait (s := s.keepEarly k.lid k.unit k.phase pa k.bytes) hwaits hsince hloc
  refine ⟨_, (s.keepEarly k.lid k.unit k.phase pa k.bytes).written pa k.bytes,
    exec_writeArrival_of_unit hk hdst hbody happly hsrc, (s.applyPhase_mem k pa k.bytes).symm, rfl, rfl, hwaits, ?_, ?_⟩
  · exact congrArg (fun u => u.net.waits) hland
  · exact (s.applyPhase_ops k pa k.bytes).trans (congrArg (fun u => u.core.set.ops) hland)

/-! ### Phase boundaries (R230, R231) -/

theorem exec_phaseBoundary_of_released {s : State} {lid : BitVec 32} {l : Launch}
    (hl : s.disp.launches.find? (fun l => l.lid == lid && l.bound) = some l) (hleft : l.left > 0)
    (hrel : s.released l = true) : exec (.phaseBoundary lid) s = .next (s.passBoundary l) := by
  rw [exec_phaseBoundary, execPhaseBoundary, hl]
  exact when_next (by rw [hrel, decide_eq_true hleft]; rfl)

theorem State.passBoundary_set {s : State} {l : Launch} (h : s.core.set.runs l.lid = true) :
    (s.passBoundary l).core.set = s.core.set.passBoundary l.phase s.cycle :=
  if_pos h

/-- How the PHB or BAR of a phase completes: with the next phase's number, or with the first of its lost writes. -/
def boundaryReady (k now : Nat) : Option (BitVec 48) → Wait
  | none => .ready (BitVec.ofNat 64 (k + 1)) .clear (now + 1)
  | some va => .ready (BitVec.ofNat 64 (8 + va.toNat * 256)) .token (now + 1)

theorem CSet.mem_passBoundary_ops {c : CSet} {u : UnitCtx} {o : Op} {k : Nat} {bar : Bool} (now : Nat)
    (hu : c.unit = some u) (ho : o ∈ c.ops) (hwait : o.wait = .boundary k bar) :
    { o with wait := boundaryReady k now (lookup k u.lost) } ∈ (c.passBoundary k now).ops := by
  refine List.mem_map.mpr ⟨o, ho, ?_⟩
  rw [hwait, hu]
  cases h : lookup k u.lost <;> simp [boundaryReady, h]

end Sys2Proof.Machine

open Sys2Proof Sys2Proof.Machine in
/-- Settles O36: an arrival and a write are followed by one test of the flag, against what stands there and what the
write leaves; a limit that has passed settles the SIGWAIT; and a boundary is a change of each set that runs the launch. -/
theorem signalsAndBoundaries : Obligations.SignalsAndBoundaries := by
  intro s n meets
  refine ⟨fun w hw hfresh hmay hpa => ?test, fun w l c hw hfresh hlimit hsince hpast => ?timeout,
    fun w k src pa va hwaits hsince halign hpa hk hdst hbody hsrc happly hlo hhi => ?write,
    fun lid l u hl hleft hrel hu hruns => ?boundary⟩
  case test =>
    intro v holds
    refine ⟨_, exec_sigwaitTest_of_fresh hw hfresh hmay, s.testFlag_mem w, fun h => ?_, fun h => ?_⟩
    · have hmeets := (flagMeets_iff ..).mpr h
      exact ⟨fun hop => State.testFlag_waitsFor hpa hmeets (CSet.op_ne_none_iff.mp hop),
        State.testFlag_waitAt hpa hmeets⟩
    · rw [State.testFlag_of_not hpa (mt (flagMeets_iff ..).mp h)]
      refine ⟨rfl, fun y hy hyop => ?_⟩
      obtain ⟨z, -, rfl⟩ := List.mem_map.mp hy
      by_cases hz : z.op = w.op <;> simp_all
  case timeout =>
    have hexp : w.expired s.cycle = true := by simp [SigWait.expired, hfresh, hlimit, hsince, hpast]
    exact ⟨_, exec_sigwaitTimeout_of_expired hw hexp, s.dropWait_waitAt n,
      fun hop => State.settle_waitsFor (s := s.dropWait n) (CSet.op_ne_none_iff.mp hop) _ _⟩
  case write =>
    obtain ⟨t, p, hexec, hmem, hcycle, hids, hpwaits, htwaits, hops⟩ :=
      exec_writeArrival_tests hk hdst hbody happly hsrc hwaits hsince (mem_locsOf halign hlo hhi)
    have hat := State.waitAt_of_waits_eq htwaits w.op
    refine ⟨t, hexec, ?_⟩
    rw [hat, ← hmem, ← hcycle]
    refine ⟨fun h => ?_, fun h => ?_⟩
    · have hmeets := (flagMeets_iff ..).mpr h
      exact ⟨State.testFlag_waitAt hpa hmeets, fun hop => State.waitsFor_of_ops_eq hops
        (State.testFlag_waitsFor hpa hmeets (hids ▸ CSet.op_ne_none_iff.mp hop))⟩
    · obtain ⟨c, hc⟩ := Option.isSome_iff_exists.mp hsince
      rw [State.testFlag_of_not hpa (mt (flagMeets_iff ..).mp h)]
      exact ⟨{ w with fresh := false, since := some (w.since.getD p.cycle) }, by simp [State.waitAt, hpwaits],
        by simp [hc], rfl⟩
  case boundary =>
    obtain rfl : l.lid = lid := by
      have hfound := List.find?_some hl
      simp only [Bool.and_eq_true, beq_iff_eq] at hfound
      exact hfound.1
    refine ⟨_, exec_phaseBoundary_of_released hl hleft hrel, ?_, rfl, rfl, fun o ho bar hwait => ?_⟩
    · rw [State.passBoundary_set hruns]
      rfl
    · have hmem := CSet.mem_passBoundary_ops s.cycle hu ho hwait
      rw [← State.passBoundary_set hruns] at hmem
      exact ⟨fun h => by rwa [h] at hmem, fun va h => by rwa [h] at hmem⟩
end

section
/-!
SUPPORT. The atomics and the reductions from issue to the bank (R240, R242, R243), as the model evaluates them on
operands that tell R242's operations apart: a negative number beside a small one, and a high half that only 64 bits see.
One theorem per run: waiting side by side for the proofs above them, they bring the compile to a settled number of
threads, so that its memory does not vary from one compile to the next about the check's limit.
-/

namespace Sys2Proof.Machine

/-- A unit on core 0 whose s1 names a mapped location that holds `m`, and whose s2 and s3 are operands. -/
def atomicReady (m x y : Word) : State :=
  let s := (((State.reset.setReg 1 0x200108).setReg 2 x).setReg 3 y).placeCode 0
  { s with mem := s.mem.putBytes 0x200108 (leBytes 8 m.toNat) }

/-- The packet that the next state of an outcome sends last, as it waits at its home. -/
def atHome : Out → Option (State × Packet)
  | .next s => s.net.packets.getLast?.map (fun k =>
      let k := { k with way := .holding }
      (s.mapNet (fun n => { n with packets := [k] }), k))
  | _ => none

/-- What an atomic leaves at its location, and how it then completes (`exec_homeBankAccess`). -/
def atomicRun (i : Instr) (m x y : Word) : Option (Word × List Wait) :=
  (atHome (exec i (atomicReady m x y))).bind fun (s, k) =>
    match execHomeBankAccess k.id s with
    | .next t => some (t.mem.word 0x200108, t.core.set.ops.map Op.wait)
    | _ => none

theorem aadd_run : atomicRun (.aadd 9 1 2 0) (-3) 5 7 = some (2, [.ready 0xFFFFFFFFFFFFFFFD .clear 1]) := by
  decide +kernel

theorem aand_run : atomicRun (.aand 9 1 2 0) (-3) 5 7 = some (5, [.ready 0xFFFFFFFFFFFFFFFD .clear 1]) := by
  decide +kernel

theorem aor_run : atomicRun (.aor 9 1 2 0) (-3) 5 7 =
    some (0xFFFFFFFFFFFFFFFD, [.ready 0xFFFFFFFFFFFFFFFD .clear 1]) := by
  decide +kernel

theorem axor_run : atomicRun (.axor 9 1 2 0) (-3) 5 7 =
    some (0xFFFFFFFFFFFFFFF8, [.ready 0xFFFFFFFFFFFFFFFD .clear 1]) := by
  decide +kernel

theorem amin_run : atomicRun (.amin 9 1 2 0) (-3) 5 7 =
    some (0xFFFFFFFFFFFFFFFD, [.ready 0xFFFFFFFFFFFFFFFD .clear 1]) := by
  decide +kernel

theorem amax_run : atomicRun (.amax 9 1 2 0) (-3) 5 7 = some (5, [.ready 0xFFFFFFFFFFFFFFFD .clear 1]) := by
  decide +kernel

theorem aminu_run : atomicRun (.aminu 9 1 2 0) (-3) 5 7 = some (5, [.ready 0xFFFFFFFFFFFFFFFD .clear 1]) := by
  decide +kernel

theorem amaxu_run : atomicRun (.amaxu 9 1 2 0) (-3) 5 7 =
    some (0xFFFFFFFFFFFFFFFD, [.ready 0xFFFFFFFFFFFFFFFD .clear 1]) := by
  decide +kernel

theorem axchg_run : atomicRun (.axchg 9 1 2 0) (-3) 5 7 = some (5, [.ready 0xFFFFFFFFFFFFFFFD .clear 1]) := by
  decide +kernel

theorem acas_run : atomicRun (.acas 9 1 2 0) (-3) (-3) 7 = some (7, [.ready 0xFFFFFFFFFFFFFFFD .clear 1]) := by
  decide +kernel

theorem ald_run : atomicRun (.ald 9 1 0) (-3) 5 7 =
    some (0xFFFFFFFFFFFFFFFD, [.ready 0xFFFFFFFFFFFFFFFD .clear 1]) := by
  decide +kernel

theorem radd_run : atomicRun (.radd 9 1 2 0) (-3) 5 7 = some (2, [.ready 0 .clear 1]) := by
  decide +kernel

theorem rmin_run : atomicRun (.rmin 9 1 2 0) (-3) 5 7 = some (0xFFFFFFFFFFFFFFFD, [.ready 0 .clear 1]) := by
  decide +kernel

theorem rmax_run : atomicRun (.rmax 9 1 2 0) (-3) 5 7 = some (5, [.ready 0 .clear 1]) := by
  decide +kernel

theorem aaddf_run : atomicRun (.aaddf 9 1 2 0) 0x3F800000 0x40000000 0 =
    some (0x40400000, [.ready 0x3F800000 .clear 1]) := by
  decide +kernel

theorem raddf_run : atomicRun (.raddf 9 1 2 0) 0x3F800000 0x40000000 0 = some (0x40400000, [.ready 0 .clear 1]) := by
  decide +kernel

/-! With q[3] set only the low half takes part (R242). -/

theorem aadd_narrow_run : atomicRun (.aadd 9 1 2 8) (-3) 5 7 =
    some (0xFFFFFFFF00000002, [.ready 0xFFFFFFFD .clear 1]) := by
  decide +kernel

theorem aand_narrow_run : atomicRun (.aand 9 1 2 8) (-3) 5 7 =
    some (0xFFFFFFFF00000005, [.ready 0xFFFFFFFD .clear 1]) := by
  decide +kernel

theorem amax_narrow_run : atomicRun (.amax 9 1 2 8) (-3) 5 7 =
    some (0xFFFFFFFF00000005, [.ready 0xFFFFFFFD .clear 1]) := by
  decide +kernel

theorem aminu_narrow_run : atomicRun (.aminu 9 1 2 8) (-3) 5 7 =
    some (0xFFFFFFFF00000005, [.ready 0xFFFFFFFD .clear 1]) := by
  decide +kernel

theorem axchg_narrow_run : atomicRun (.axchg 9 1 2 8) (-3) 5 7 =
    some (0xFFFFFFFF00000005, [.ready 0xFFFFFFFD .clear 1]) := by
  decide +kernel

theorem acas_narrow_run : atomicRun (.acas 9 1 2 8) (-3) (-3) 7 =
    some (0xFFFFFFFF00000007, [.ready 0xFFFFFFFD .clear 1]) := by
  decide +kernel

theorem ald_narrow_run : atomicRun (.ald 9 1 8) (-3) 5 7 = some (0xFFFFFFFFFFFFFFFD, [.ready 0xFFFFFFFD .clear 1]) := by
  decide +kernel

end Sys2Proof.Machine
end
